-- ==== Sys2Proof/Word.lean ====
section
/-! DEFINITION. The word types of the device: 64-bit sequencer words, 32-bit fabric and instruction words, bytes (R5, R9). -/

namespace Sys2Proof

/-- A 64-bit sequencer register or CSR value. -/
abbrev W64 := BitVec 64
/-- A 32-bit fabric word, context word or instruction word. -/
abbrev W32 := BitVec 32
/-- The smallest addressable unit of memory (R5). -/
abbrev Byte := BitVec 8

end Sys2Proof
end

