-- ==== Sys2Proof/Syntax.lean ====
section
/-! DEFINITION. The instructions: one constructor per row of the opcode table. Element context words (R180 to R185) and
sequencer words (R195 to R200) carry the fields of their encoding; an event row carries what names its occurrence. -/

namespace Sys2Proof

/-- The mandatory instructions of the IEEE 1149.1 test access port (R10, R430). -/
inductive TapInstr where
  | bypass
  | sample
  | preload
  | extest
  deriving DecidableEq, Repr

/-- Every row of the opcode table. -/
inductive Instr where
  /-- R38 `ITEM_TIME_BOUNDARY`: At the end of each item time every item moves to the next group slot with its boundary; rotating bases, pass registers and AFCs advance. -/
  | itemTimeBoundary (g : Nat)
  /-- R43 `ITEM_ADMISSION`: The SCR admits the next item to group slot 0 once every slot of the pass will have switched in time. -/
  | itemAdmission (g : Nat)
  /-- R41 `SLOT_SWITCH`: A slot switches from its virtual stripe to the next one once the last item time has left and the shadow image and state are ready. -/
  | slotSwitch (r : Nat)
  /-- R46 `SCR_JOB_STEP`: The SCR moves one 64-byte block of an image load, state save or state restore in an unfrozen cycle. -/
  | scrJobStep (r : Nat)
  /-- R28 `PHASE_RETIREMENT`: A phase retires once its last sweep has ended and its ports and bound engines have drained, passing the reconfiguration token. -/
  | phaseRetirement (g : Nat)
  /-- R147 `MERGE_DEADLOCK`: After 1,024 cycles frozen only by a refused arm write the phase takes the fatal merge-deadlock phase fault. -/
  | mergeDeadlock (g : Nat)
  /-- R152 `AG_LINE_REQUEST`: A trailhead AG issues a coalesced 64-byte line request for its pattern. -/
  | agLineRequest (r ag : Nat)
  /-- R152 `AG_LINE_COMPLETION`: A line request completes and its elements are packed into the port's word stream. -/
  | agLineCompletion (r ag k : Nat)
  /-- R373 `PRQ_HELD_PLACEMENT`: A held page request is placed in the PRQ when an entry of its VF frees up. -/
  | prqHeldPlacement (die : Nat)
  /-- R227 `BANK_LOAD_WRITEBACK`: A VE bank load or atomic writes d and y at the end of the fourth unfrozen cycle after issue. -/
  | bankLoadWriteback (g : Nat)
  /-- R237 `ACC_DRAIN`: A draining run or adrain emits the block's tile one row per cycle from the bottom stripe and clears the bank. -/
  | accDrain (g blk : Nat)
  /-- R176 `TILE_DECISION`: The Cairn comparator decides a staged tile as skipped or computed and writes its record, age and map bit. -/
  | tileDecision (g : Nat)
  /-- R163 `COPY_ACCEPT`: The copy unit accepts one new copy per cycle and computes its promise. -/
  | copyAccept (r : Nat)
  /-- R163 `BILLET_FIRE`: The lowest-numbered armed billet with a token dequeues it and issues its template as a copy. -/
  | billetFire (r : Nat)
  /-- R119 `COPY_COMPLETE`: A copy completes normally or in error into its dependency slot, releasing its writes. -/
  | copyComplete (r k : Nat)
  /-- R169 `REMOTE_WRITE_IMMEDIATE_ARRIVAL`: An arriving remote write with immediate places its data and then enqueues the immediate as a token. -/
  | remoteWriteImmediateArrival (vf qp : Nat) (addr : BitVec 64) (data : List (BitVec 8)) (imm : BitVec 32)
  /-- R168 `REMOTE_RETRY_EXHAUSTED`: Exhausted transport retries complete the copy in error and put the queue pair in its error state. -/
  | remoteRetryExhausted (r k : Nat)
  /-- R270 `ASYNC_MASK_SATISFIED`: An asynchronous instruction's work starts once its wait mask is satisfied. -/
  | asyncMaskSatisfied (r k : Nat)
  /-- R277 `PLOAD_ACCEPT`: A pload whose group is free reads and validates its phase and, if accepted, writes CARVEW and leaves its slots IDLE. -/
  | ploadAccept (r k : Nat)
  /-- R248 `LOAD_WRITEBACK`: An outstanding RSQ load returns and writes its destination register. -/
  | loadWriteback (th k part : Nat)
  /-- R254 `STORE_PERFORM`: A retired store leaves the RSQ store buffer and performs in memory. -/
  | storePerform (th k : Nat)
  /-- R322 `SUPERVISOR_TIMER`: When TIME reaches STIMECMP, SIP.tmr becomes 1. -/
  | supervisorTimer (r : Nat)
  /-- R328 `HYPERVISOR_TIMER`: When TIME reaches HTIMECMP, HSTATUS.tmrp is set for the management core. -/
  | hypervisorTimer (die : Nat)
  /-- R357 `SWEEPMAX_OVERRUN`: When the sweep counter reaches the limit the issuing RSQ parks with cause 0x19 and a pre-emption point is set. -/
  | sweepmaxOverrun (g : Nat)
  /-- R384 `PREEMPTION_CAPTURE`: A strip is brought to its pre-emption points and every ring's context image is written to its own channels. -/
  | preemptionCapture (r : Nat)
  /-- R354 `TENANT_SWITCH`: The deficit scheduler pre-empts the current tenant of a time-shared strip and restores the next one. -/
  | tenantSwitch (r : Nat)
  /-- R355 `TSENT_ENABLE`: Setting a TSENT entry valid makes a VF a further tenant and resets its per-VF CSRs. -/
  | tsentEnable (idx : Nat) (v : BitVec 64)
  /-- R329 `RNOTE_WRITE`: A write of RNOTE sets the ring's HNOTE and SIP.hnote. -/
  | rnoteWrite (v : BitVec 64)
  /-- R328 `HEVT_READ`: A read of HEVT returns and removes the oldest event. -/
  | hevtRead (rd : BitVec 5)
  /-- R374 `PRQPOP_READ`: A read of PRQPOP returns the oldest NEW entry and moves it to TAKEN. -/
  | prqpopRead (rd : BitVec 5)
  /-- R417 `WMEM_WRITE`: Clearing a VF's WMEM bit clears its opened record at once. -/
  | wmemWrite (half : Nat) (v : BitVec 64)
  /-- R426 `POWER_TRANSITION_COMPLETE`: A ring power transition ends, clears busy and posts HEVT kind 8. -/
  | powerTransitionComplete (r : Nat)
  /-- R427 `TOKEN_WAKE`: A token sent to a clock-gated ring waits in its edge FIFO and wakes the ring. -/
  | tokenWake (r q : Nat) (tok : BitVec 32)
  /-- R422 `POWER_ON_START`: At power-on the device runs a start sequence of the kind the failed-start count selects. -/
  | powerOnStart (failStep : Nat)
  /-- R423 `BOOTCTL_COLD`: BOOTCTL cold clears the failed-start count and starts cold. -/
  | bootctlCold (failStep : Nat)
  /-- R422 `BOOTCTL_WARM`: BOOTCTL warm requests a warm start. -/
  | bootctlWarm (failStep : Nat)
  /-- R423 `I3C_START_REQUEST`: The I3C controller requests a cold or warm start. -/
  | i3cStartRequest (cold : Bool) (failStep : Nat)
  /-- R430 `I3C_READ`: The I3C target returns BOOTSTAT, PWRSTAT or lifetime-store data. -/
  | i3cRead (idx : Nat)
  /-- R424 `DROOP_TRIP`: A droop sensor trip lowers m to 8 on every die of the clock set within 2 cycles. -/
  | droopTrip (die : Nat)
  /-- R424 `FCLK_RAISE`: Every 1,024 ticks the power controller raises m by 1 towards its target. -/
  | fclkRaise (die : Nat)
  /-- R419 `LINK_STATE_CHANGE`: A change of a link's up bit posts HEVT kind 7. -/
  | linkStateChange (die link : Nat) (up : Bool)
  /-- R346 `LQTAIL_WRITE`: A csrw to LQTAIL publishes records, or is ignored and counted if out of range. -/
  | lqtailWrite (v : BitVec 64)
  /-- R420 `DOORBELL_WRITE`: A host write to a VF's doorbell page offset 0 writes its LQTAIL. -/
  | doorbellWrite (addr : Nat) (v : BitVec 64)
  /-- R347 `LAUNCH_CONSUME`: The dispatcher consumes the record at LQHEAD once its rings are idle and validates it. -/
  | launchConsume (vf : Nat)
  /-- R343 `LDONE_WRITE`: A csrw to LDONE waits for the ring's work to end and then ends the graph on the ring. -/
  | ldoneWrite (v : BitVec 64)
  /-- R350 `LAUNCH_PACKET`: A received launch packet is checked and enqueued or rejected and reported. -/
  | launchPacket (die : Nat) (etype : BitVec 16) (bytes : List (BitVec 8))
  /-- R395 `RDBGD_READ`: A read of RDBGD returns the addressed value of a halted ring or sets err. -/
  | rdbgdRead (rd : BitVec 5)
  /-- R395 `RDBGD_WRITE`: A write of RDBGD stores the addressed value of a halted ring or sets err. -/
  | rdbgdWrite (v : BitVec 64)
  /-- R7 `REGISTER_WRITE`: A write to a register with no row of its own acts by its access type. -/
  | registerWrite (n : Nat) (v : BitVec 64)
  /-- R216 `mov.s32`: Copies a word to d and y. -/
  | mov (a : BitVec 5) (b : BitVec 5) (d : BitVec 5) (g : BitVec 2)
  /-- R214 `add`: Lane-wise integer add, wrapping or saturating. -/
  | veAdd (t : BitVec 4) (a : BitVec 5) (b : BitVec 5) (d : BitVec 5) (g : BitVec 2) (s : BitVec 1)
  /-- R214 `sub`: Lane-wise integer subtract. -/
  | veSub (t : BitVec 4) (a : BitVec 5) (b : BitVec 5) (d : BitVec 5) (g : BitVec 2) (s : BitVec 1)
  /-- R214 `mul`: Lane-wise integer multiply, low bits. -/
  | veMul (t : BitVec 4) (a : BitVec 5) (b : BitVec 5) (d : BitVec 5) (g : BitVec 2) (s : BitVec 1)
  /-- R214 `mulh`: Lane-wise high half of the product. -/
  | veMulh (t : BitVec 4) (a : BitVec 5) (b : BitVec 5) (d : BitVec 5) (g : BitVec 2)
  /-- R214 `mad`: Lane-wise a·b + d. -/
  | mad (t : BitVec 4) (a : BitVec 5) (b : BitVec 5) (d : BitVec 5) (g : BitVec 2) (s : BitVec 1)
  /-- R214 `min`: Lane-wise minimum. -/
  | veMin (t : BitVec 4) (a : BitVec 5) (b : BitVec 5) (d : BitVec 5) (g : BitVec 2)
  /-- R214 `max`: Lane-wise maximum. -/
  | veMax (t : BitVec 4) (a : BitVec 5) (b : BitVec 5) (d : BitVec 5) (g : BitVec 2)
  /-- R214 `abs`: Lane-wise absolute value. -/
  | abs (t : BitVec 4) (a : BitVec 5) (b : BitVec 5) (d : BitVec 5) (g : BitVec 2) (s : BitVec 1)
  /-- R214 `neg`: Lane-wise negation. -/
  | neg (t : BitVec 4) (a : BitVec 5) (b : BitVec 5) (d : BitVec 5) (g : BitVec 2) (s : BitVec 1)
  /-- R216 `and.n32`: Bitwise AND of the words. -/
  | veAnd (a : BitVec 5) (b : BitVec 5) (d : BitVec 5) (g : BitVec 2)
  /-- R216 `or.n32`: Bitwise OR of the words. -/
  | veOr (a : BitVec 5) (b : BitVec 5) (d : BitVec 5) (g : BitVec 2)
  /-- R216 `xor.n32`: Bitwise XOR of the words. -/
  | veXor (a : BitVec 5) (b : BitVec 5) (d : BitVec 5) (g : BitVec 2)
  /-- R216 `andn.n32`: A AND NOT B. -/
  | veAndn (a : BitVec 5) (b : BitVec 5) (d : BitVec 5) (g : BitVec 2)
  /-- R216 `not.n32`: Bitwise NOT of A. -/
  | not (a : BitVec 5) (b : BitVec 5) (d : BitVec 5) (g : BitVec 2)
  /-- R215 `shl`: Lane-wise shift left. -/
  | shl (t : BitVec 4) (a : BitVec 5) (b : BitVec 5) (d : BitVec 5) (g : BitVec 2) (s : BitVec 1)
  /-- R215 `shr`: Lane-wise shift right, arithmetic or logical by type. -/
  | shr (t : BitVec 4) (a : BitVec 5) (b : BitVec 5) (d : BitVec 5) (g : BitVec 2)
  /-- R215 `rol`: Lane-wise rotate left. -/
  | rol (t : BitVec 4) (a : BitVec 5) (b : BitVec 5) (d : BitVec 5) (g : BitVec 2)
  /-- R215 `clz`: Lane-wise leading-zero count. -/
  | veClz (t : BitVec 4) (a : BitVec 5) (b : BitVec 5) (d : BitVec 5) (g : BitVec 2)
  /-- R215 `popc`: Lane-wise population count. -/
  | vePopc (t : BitVec 4) (a : BitVec 5) (b : BitVec 5) (d : BitVec 5) (g : BitVec 2)
  /-- R214 `avg`: Lane-wise rounded average. -/
  | avg (t : BitVec 4) (a : BitVec 5) (b : BitVec 5) (d : BitVec 5) (g : BitVec 2)
  /-- R216 `addi`: Adds a sign-extended 11-bit immediate to the word. -/
  | veAddi (t : BitVec 1) (a : BitVec 5) (i : BitVec 11) (d : BitVec 5)
  /-- R216 `movi.s32`: Writes a sign-extended 11-bit immediate. -/
  | movi (a : BitVec 5) (i : BitVec 11) (d : BitVec 5)
  /-- R217 `cmp.eq`: Sets a predicate if equal in every lane. -/
  | cmpEq (t : BitVec 4) (a : BitVec 5) (b : BitVec 5) (q : BitVec 2) (g : BitVec 2)
  /-- R217 `cmp.ne`: Sets a predicate if not equal in every lane. -/
  | cmpNe (t : BitVec 4) (a : BitVec 5) (b : BitVec 5) (q : BitVec 2) (g : BitVec 2)
  /-- R217 `cmp.lt`: Sets a predicate if less than in every lane. -/
  | cmpLt (t : BitVec 4) (a : BitVec 5) (b : BitVec 5) (q : BitVec 2) (g : BitVec 2)
  /-- R217 `cmp.le`: Sets a predicate if less or equal in every lane. -/
  | cmpLe (t : BitVec 4) (a : BitVec 5) (b : BitVec 5) (q : BitVec 2) (g : BitVec 2)
  /-- R217 `cmp.gt`: Sets a predicate if greater in every lane. -/
  | cmpGt (t : BitVec 4) (a : BitVec 5) (b : BitVec 5) (q : BitVec 2) (g : BitVec 2)
  /-- R217 `cmp.ge`: Sets a predicate if greater or equal in every lane. -/
  | cmpGe (t : BitVec 4) (a : BitVec 5) (b : BitVec 5) (q : BitVec 2) (g : BitVec 2)
  /-- R217 `cmp.un`: Sets a predicate if a lane holds a NaN. -/
  | cmpUn (t : BitVec 4) (a : BitVec 5) (b : BitVec 5) (q : BitVec 2) (g : BitVec 2)
  /-- R218 `plog`: Writes a logical function of two predicates. -/
  | plog (f : BitVec 3) (a : BitVec 2) (b : BitVec 2) (q : BitVec 2) (g : BitVec 2)
  /-- R219 `sel`: Selects a or b by a predicate. -/
  | sel (p : BitVec 2) (a : BitVec 5) (b : BitVec 5) (d : BitVec 5) (g : BitVec 2)
  /-- R214 `clamp`: Lane-wise min(max(a, b), d). -/
  | clamp (t : BitVec 4) (a : BitVec 5) (b : BitVec 5) (d : BitVec 5) (g : BitVec 2)
  /-- R241 `gate.s32`: Sets a predicate if the bound input port offers a record. -/
  | gate (q : BitVec 2) (g : BitVec 2)
  /-- R242 `steer.s32`: Sends the item's word to O0 or O1 by a predicate as part of its record. -/
  | steer (a : BitVec 5) (q : BitVec 2)
  /-- R220 `fadd`: Floating add, rounded once. -/
  | fadd (t : BitVec 4) (a : BitVec 5) (b : BitVec 5) (d : BitVec 5) (g : BitVec 2) (s : BitVec 1) (r : BitVec 2)
  /-- R220 `fsub`: Floating subtract. -/
  | fsub (t : BitVec 4) (a : BitVec 5) (b : BitVec 5) (d : BitVec 5) (g : BitVec 2) (s : BitVec 1) (r : BitVec 2)
  /-- R220 `fmul`: Floating multiply. -/
  | fmul (t : BitVec 4) (a : BitVec 5) (b : BitVec 5) (d : BitVec 5) (g : BitVec 2) (s : BitVec 1) (r : BitVec 2)
  /-- R220 `fma`: Fused a·b + d. -/
  | fma (t : BitVec 4) (a : BitVec 5) (b : BitVec 5) (d : BitVec 5) (g : BitVec 2) (s : BitVec 1) (r : BitVec 2)
  /-- R220 `fms`: Fused a·b − d. -/
  | fms (t : BitVec 4) (a : BitVec 5) (b : BitVec 5) (d : BitVec 5) (g : BitVec 2) (s : BitVec 1) (r : BitVec 2)
  /-- R221 `fmin`: IEEE minimumNumber. -/
  | fmin (t : BitVec 4) (a : BitVec 5) (b : BitVec 5) (d : BitVec 5) (g : BitVec 2)
  /-- R221 `fmax`: IEEE maximumNumber. -/
  | fmax (t : BitVec 4) (a : BitVec 5) (b : BitVec 5) (d : BitVec 5) (g : BitVec 2)
  /-- R221 `fabs`: Clears the sign of each lane. -/
  | fabs (t : BitVec 4) (a : BitVec 5) (b : BitVec 5) (d : BitVec 5) (g : BitVec 2)
  /-- R221 `fneg`: Inverts the sign of each lane. -/
  | fneg (t : BitVec 4) (a : BitVec 5) (b : BitVec 5) (d : BitVec 5) (g : BitVec 2)
  /-- R221 `frnd`: Rounds each lane to an integral value. -/
  | frnd (t : BitVec 4) (a : BitVec 5) (b : BitVec 5) (d : BitVec 5) (g : BitVec 2) (r : BitVec 2)
  /-- R221 `fclamp`: Floating fmin(fmax(a, b), d). -/
  | fclamp (t : BitVec 4) (a : BitVec 5) (b : BitVec 5) (d : BitVec 5) (g : BitVec 2)
  /-- R222 `cvt`: Converts lanes between formats. -/
  | cvt (t : BitVec 4) (a : BitVec 5) (c : BitVec 4) (d : BitVec 5) (g : BitVec 2) (s : BitVec 1) (r : BitVec 2) (x : BitVec 1)
  /-- R223 `pack`: Narrows two words into one. -/
  | pack (t : BitVec 4) (a : BitVec 5) (b : BitVec 5) (d : BitVec 5) (g : BitVec 2) (s : BitVec 1) (r : BitVec 2) (x : BitVec 1)
  /-- R223 `unpklo`: Widens the low half of a word. -/
  | unpklo (t : BitVec 4) (a : BitVec 5) (b : BitVec 5) (d : BitVec 5) (g : BitVec 2)
  /-- R223 `unpkhi`: Widens the high half of a word. -/
  | unpkhi (t : BitVec 4) (a : BitVec 5) (b : BitVec 5) (d : BitVec 5) (g : BitVec 2)
  /-- R224 `exp2.f32`: Correctly rounded 2^x. -/
  | exp2 (a : BitVec 5) (b : BitVec 5) (d : BitVec 5) (g : BitVec 2) (r : BitVec 2)
  /-- R224 `log2.f32`: Correctly rounded log2 x. -/
  | log2 (a : BitVec 5) (b : BitVec 5) (d : BitVec 5) (g : BitVec 2) (r : BitVec 2)
  /-- R224 `rcp.f32`: Correctly rounded 1/x. -/
  | rcp (a : BitVec 5) (b : BitVec 5) (d : BitVec 5) (g : BitVec 2) (r : BitVec 2)
  /-- R224 `rsq.f32`: Correctly rounded 1/√x. -/
  | rsq (a : BitVec 5) (b : BitVec 5) (d : BitVec 5) (g : BitVec 2) (r : BitVec 2)
  /-- R224 `tanh.f32`: Correctly rounded tanh x. -/
  | tanh (a : BitVec 5) (b : BitVec 5) (d : BitVec 5) (g : BitVec 2) (r : BitVec 2)
  /-- R225 `dot`: Accumulates a lane dot product into d. -/
  | dot (t : BitVec 4) (a : BitVec 5) (b : BitVec 5) (d : BitVec 5) (g : BitVec 2) (s : BitVec 1) (r : BitVec 2)
  /-- R225 `dotx.s8x4`: Accumulates an s8 by n8 dot product into d. -/
  | dotx (a : BitVec 5) (b : BitVec 5) (d : BitVec 5) (g : BitVec 2) (s : BitVec 1)
  /-- R228 `ldb.s32`: Loads an LBANK word at AFC plus a. -/
  | ldb (a : BitVec 5) (b : BitVec 5) (d : BitVec 5) (g : BitVec 2)
  /-- R228 `stb.s32`: Stores b to the LBANK word at AFC plus a. -/
  | stb (a : BitVec 5) (b : BitVec 5) (d : BitVec 5) (g : BitVec 2)
  /-- R228 `ldbi.s32`: Loads the LBANK word at AFC plus an immediate. -/
  | ldbi (a : BitVec 5) (i : BitVec 11) (d : BitVec 5)
  /-- R228 `stbi.s32`: Stores a to the LBANK word at AFC plus an immediate. -/
  | stbi (a : BitVec 5) (i : BitVec 11) (d : BitVec 5)
  /-- R228 `atadd`: Atomic add to an LBANK word. -/
  | atadd (a : BitVec 5) (b : BitVec 5) (d : BitVec 5) (g : BitVec 2)
  /-- R228 `atmin`: Atomic minimum on an LBANK word. -/
  | atmin (t : BitVec 1) (a : BitVec 5) (b : BitVec 5) (d : BitVec 5) (g : BitVec 2)
  /-- R228 `atmax`: Atomic maximum on an LBANK word. -/
  | atmax (t : BitVec 1) (a : BitVec 5) (b : BitVec 5) (d : BitVec 5) (g : BitVec 2)
  /-- R228 `atxchg`: Atomic exchange on an LBANK word. -/
  | atxchg (a : BitVec 5) (b : BitVec 5) (d : BitVec 5) (g : BitVec 2)
  /-- R228 `atcas.s32`: Atomic compare-and-swap on an LBANK word. -/
  | atcas (a : BitVec 5) (b : BitVec 5) (d : BitVec 5) (g : BitVec 2)
  /-- R226 `ldt.s32`: Loads an LBANK word down a column of pitch step1. -/
  | ldt (a : BitVec 5) (b : BitVec 5) (d : BitVec 5) (g : BitVec 2)
  /-- R226 `stt.s32`: Stores b down a column of pitch step1. -/
  | stt (a : BitVec 5) (b : BitVec 5) (d : BitVec 5) (g : BitVec 2)
  /-- R229 `emit.s32`: Writes a word to the bound output port. -/
  | emit (a : BitVec 5) (b : BitVec 5) (d : BitVec 5) (g : BitVec 2)
  /-- R229 `dropw.s32`: Discards up to 32 words from the bound input port. -/
  | dropw (a : BitVec 5) (b : BitVec 5) (d : BitVec 5) (g : BitVec 2)
  /-- R229 `pcnt.s32`: Reads the input port's word count. -/
  | pcnt (a : BitVec 5) (b : BitVec 5) (d : BitVec 5) (g : BitVec 2)
  /-- R229 `eos.s32`: Waits for a word or end of stream and sets a predicate if the stream has ended. -/
  | eos (a : BitVec 5) (b : BitVec 5) (q : BitVec 2) (g : BitVec 2)
  /-- R236 `mma`: Runs a matrix multiply-accumulate of L beats over the block, draining optionally. -/
  | mma (f : BitVec 4) (k : BitVec 2) (a : BitVec 1) (b : BitVec 1) (o : BitVec 1) (l : BitVec 2) (e : BitVec 1) (d : BitVec 3) (s : BitVec 1)
  /-- R236 `mmx`: Runs a block-scaled MX matrix multiply-accumulate. -/
  | mmx (f : BitVec 4) (k : BitVec 2) (a : BitVec 1) (b : BitVec 1) (o : BitVec 1) (l : BitVec 2) (e : BitVec 1) (d : BitVec 3) (s : BitVec 1)
  /-- R239 `azero`: Zeroes an accumulator bank with its tag and exponent. -/
  | azero (k : BitVec 2)
  /-- R239 `adrain`: Drains an accumulator bank south. -/
  | adrain (k : BitVec 2) (d : BitVec 3) (s : BitVec 1)
  /-- R239 `aload`: Loads an accumulator bank from the A feed. -/
  | aload (k : BitVec 2)
  /-- R239 `ascale`: Sets a bank's drain exponent. -/
  | ascale (k : BitVec 2) (i : BitVec 9)
  /-- R249 `add`: 64-bit add. -/
  | add (d : BitVec 5) (a : BitVec 5) (b : BitVec 5)
  /-- R249 `sub`: 64-bit subtract. -/
  | sub (d : BitVec 5) (a : BitVec 5) (b : BitVec 5)
  /-- R249 `and`: Bitwise AND. -/
  | and (d : BitVec 5) (a : BitVec 5) (b : BitVec 5)
  /-- R249 `or`: Bitwise OR. -/
  | or (d : BitVec 5) (a : BitVec 5) (b : BitVec 5)
  /-- R249 `xor`: Bitwise XOR. -/
  | xor (d : BitVec 5) (a : BitVec 5) (b : BitVec 5)
  /-- R249 `andn`: A AND NOT B. -/
  | andn (d : BitVec 5) (a : BitVec 5) (b : BitVec 5)
  /-- R249 `sll`: Shift left by register. -/
  | sll (d : BitVec 5) (a : BitVec 5) (b : BitVec 5)
  /-- R249 `srl`: Logical shift right by register. -/
  | srl (d : BitVec 5) (a : BitVec 5) (b : BitVec 5)
  /-- R249 `sra`: Arithmetic shift right by register. -/
  | sra (d : BitVec 5) (a : BitVec 5) (b : BitVec 5)
  /-- R249 `slt`: Signed set-if-less. -/
  | slt (d : BitVec 5) (a : BitVec 5) (b : BitVec 5)
  /-- R249 `sltn`: Unsigned set-if-less. -/
  | sltn (d : BitVec 5) (a : BitVec 5) (b : BitVec 5)
  /-- R249 `min`: Signed minimum. -/
  | min (d : BitVec 5) (a : BitVec 5) (b : BitVec 5)
  /-- R249 `max`: Signed maximum. -/
  | max (d : BitVec 5) (a : BitVec 5) (b : BitVec 5)
  /-- R249 `minn`: Unsigned minimum. -/
  | minn (d : BitVec 5) (a : BitVec 5) (b : BitVec 5)
  /-- R249 `maxn`: Unsigned maximum. -/
  | maxn (d : BitVec 5) (a : BitVec 5) (b : BitVec 5)
  /-- R249 `mul`: 64-bit multiply. -/
  | mul (d : BitVec 5) (a : BitVec 5) (b : BitVec 5)
  /-- R249 `mulh`: Signed high product. -/
  | mulh (d : BitVec 5) (a : BitVec 5) (b : BitVec 5)
  /-- R249 `mulhn`: Unsigned high product. -/
  | mulhn (d : BitVec 5) (a : BitVec 5) (b : BitVec 5)
  /-- R249 `div`: Signed divide. -/
  | div (d : BitVec 5) (a : BitVec 5) (b : BitVec 5)
  /-- R249 `divn`: Unsigned divide. -/
  | divn (d : BitVec 5) (a : BitVec 5) (b : BitVec 5)
  /-- R249 `rem`: Signed remainder. -/
  | rem (d : BitVec 5) (a : BitVec 5) (b : BitVec 5)
  /-- R249 `remn`: Unsigned remainder. -/
  | remn (d : BitVec 5) (a : BitVec 5) (b : BitVec 5)
  /-- R249 `clz`: Leading zeros of the 64-bit value. -/
  | clz (d : BitVec 5) (a : BitVec 5)
  /-- R249 `ctz`: Trailing zeros of the 64-bit value. -/
  | ctz (d : BitVec 5) (a : BitVec 5)
  /-- R249 `popc`: One bits of the 64-bit value. -/
  | popc (d : BitVec 5) (a : BitVec 5)
  /-- R249 `sext.w`: Sign-extends the low 32 bits. -/
  | sextW (d : BitVec 5) (a : BitVec 5)
  /-- R249 `zext.w`: Zero-extends the low 32 bits. -/
  | zextW (d : BitVec 5) (a : BitVec 5)
  /-- R249 `addw`: 32-bit add, sign-extended. -/
  | addw (d : BitVec 5) (a : BitVec 5) (b : BitVec 5)
  /-- R250 `addi`: Add a sign-extended immediate. -/
  | addi (d : BitVec 5) (a : BitVec 5) (i : BitVec 16)
  /-- R250 `andi`: AND with a zero-extended immediate. -/
  | andi (d : BitVec 5) (a : BitVec 5) (i : BitVec 16)
  /-- R250 `ori`: OR with a zero-extended immediate. -/
  | ori (d : BitVec 5) (a : BitVec 5) (i : BitVec 16)
  /-- R250 `xori`: XOR with a zero-extended immediate. -/
  | xori (d : BitVec 5) (a : BitVec 5) (i : BitVec 16)
  /-- R250 `slti`: Signed set-if-less than an immediate. -/
  | slti (d : BitVec 5) (a : BitVec 5) (i : BitVec 16)
  /-- R250 `sltni`: Unsigned set-if-less than an immediate. -/
  | sltni (d : BitVec 5) (a : BitVec 5) (i : BitVec 16)
  /-- R250 `sll`: Shift left by an immediate amount. -/
  | shiSll (d : BitVec 5) (a : BitVec 5) (h : BitVec 6)
  /-- R250 `srl`: Logical shift right by an immediate amount. -/
  | shiSrl (d : BitVec 5) (a : BitVec 5) (h : BitVec 6)
  /-- R250 `sra`: Arithmetic shift right by an immediate amount. -/
  | shiSra (d : BitVec 5) (a : BitVec 5) (h : BitVec 6)
  /-- R250 `lui`: Loads imm·2^16. -/
  | lui (d : BitVec 5) (i : BitVec 16)
  /-- R250 `auipc`: Adds imm·2^16 to pc. -/
  | auipc (d : BitVec 5) (i : BitVec 16)
  /-- R251 `ld`: Sign-extending load with optional order and scope. -/
  | ld (d : BitVec 5) (b : BitVec 5) (z : BitVec 2) (o : BitVec 2) (c : BitVec 2) (i : BitVec 10)
  /-- R251 `ldn`: Zero-extending load. -/
  | ldn (d : BitVec 5) (b : BitVec 5) (z : BitVec 2) (o : BitVec 2) (c : BitVec 2) (i : BitVec 10)
  /-- R251 `st`: Store with optional order and scope. -/
  | st (d : BitVec 5) (b : BitVec 5) (z : BitVec 2) (o : BitVec 2) (c : BitVec 2) (i : BitVec 10)
  /-- R256 `amo.add`: Atomic add. -/
  | amoAdd (d : BitVec 5) (a : BitVec 5) (b : BitVec 5) (c : BitVec 2) (o : BitVec 2) (z : BitVec 1)
  /-- R256 `amo.and`: Atomic AND. -/
  | amoAnd (d : BitVec 5) (a : BitVec 5) (b : BitVec 5) (c : BitVec 2) (o : BitVec 2) (z : BitVec 1)
  /-- R256 `amo.or`: Atomic OR. -/
  | amoOr (d : BitVec 5) (a : BitVec 5) (b : BitVec 5) (c : BitVec 2) (o : BitVec 2) (z : BitVec 1)
  /-- R256 `amo.xor`: Atomic XOR. -/
  | amoXor (d : BitVec 5) (a : BitVec 5) (b : BitVec 5) (c : BitVec 2) (o : BitVec 2) (z : BitVec 1)
  /-- R256 `amo.min`: Atomic signed minimum. -/
  | amoMin (d : BitVec 5) (a : BitVec 5) (b : BitVec 5) (c : BitVec 2) (o : BitVec 2) (z : BitVec 1)
  /-- R256 `amo.max`: Atomic signed maximum. -/
  | amoMax (d : BitVec 5) (a : BitVec 5) (b : BitVec 5) (c : BitVec 2) (o : BitVec 2) (z : BitVec 1)
  /-- R256 `amo.minn`: Atomic unsigned minimum. -/
  | amoMinn (d : BitVec 5) (a : BitVec 5) (b : BitVec 5) (c : BitVec 2) (o : BitVec 2) (z : BitVec 1)
  /-- R256 `amo.maxn`: Atomic unsigned maximum. -/
  | amoMaxn (d : BitVec 5) (a : BitVec 5) (b : BitVec 5) (c : BitVec 2) (o : BitVec 2) (z : BitVec 1)
  /-- R256 `amo.swap`: Atomic swap. -/
  | amoSwap (d : BitVec 5) (a : BitVec 5) (b : BitVec 5) (c : BitVec 2) (o : BitVec 2) (z : BitVec 1)
  /-- R256 `amo.cas`: Atomic compare-and-swap against the old x[d]. -/
  | amoCas (d : BitVec 5) (a : BitVec 5) (b : BitVec 5) (c : BitVec 2) (o : BitVec 2) (z : BitVec 1)
  /-- R257 `beq`: Branch if equal. -/
  | beq (a : BitVec 5) (b : BitVec 5) (i : BitVec 16)
  /-- R257 `bne`: Branch if not equal. -/
  | bne (a : BitVec 5) (b : BitVec 5) (i : BitVec 16)
  /-- R257 `blt`: Branch if signed less. -/
  | blt (a : BitVec 5) (b : BitVec 5) (i : BitVec 16)
  /-- R257 `bge`: Branch if signed greater or equal. -/
  | bge (a : BitVec 5) (b : BitVec 5) (i : BitVec 16)
  /-- R257 `bltn`: Branch if unsigned less. -/
  | bltn (a : BitVec 5) (b : BitVec 5) (i : BitVec 16)
  /-- R257 `bgen`: Branch if unsigned greater or equal. -/
  | bgen (a : BitVec 5) (b : BitVec 5) (i : BitVec 16)
  /-- R258 `j`: Jump pc-relative. -/
  | j (i : BitVec 26)
  /-- R258 `jal`: Jump and link into x1. -/
  | jal (i : BitVec 26)
  /-- R258 `jalr`: Jump to register plus offset and link. -/
  | jalr (d : BitVec 5) (a : BitVec 5) (i : BitVec 16)
  /-- R259 `jtab`: Dispatches through a table of relative entries or falls through. -/
  | jtab (d : BitVec 5) (a : BitVec 5) (i : BitVec 16)
  /-- R260 `fence`: Orders the thread's accesses at a scope. -/
  | fence (c : BitVec 2)
  /-- R260 `fence.rg`: Orders the thread's accesses within an address range. -/
  | fenceRg (a : BitVec 5) (b : BitVec 5) (c : BitVec 2)
  /-- R261 `csrr`: Reads a CSR. -/
  | csrr (d : BitVec 5) (n : BitVec 14)
  /-- R261 `csrw`: Writes a CSR. -/
  | csrw (a : BitVec 5) (n : BitVec 14)
  /-- R264 `trap`: Raises the user trap with a code. -/
  | trap (i : BitVec 16)
  /-- R277 `pload`: Issues a phase and writes its handle. -/
  | pload (d : BitVec 5) (a : BitVec 5) (s : BitVec 4) (w : BitVec 8)
  /-- R279 `pwait`: Waits for a phase to retire. -/
  | pwait (a : BitVec 5)
  /-- R283 `cpy`: Issues a copy from a descriptor. -/
  | cpy (d : BitVec 5) (a : BitVec 5) (s : BitVec 4) (w : BitVec 8)
  /-- R284 `cpy.b`: Fires a billet slot once with value k. -/
  | cpyB (d : BitVec 5) (a : BitVec 5) (s : BitVec 4) (w : BitVec 8)
  /-- R285 `billet.arm`: Arms a billet slot from an arming record. -/
  | billetArm (d : BitVec 5) (a : BitVec 5)
  /-- R285 `billet.disarm`: Disarms a billet slot and unbinds its queue. -/
  | billetDisarm (d : BitVec 5)
  /-- R287 `tqpush`: Enqueues a token on a token queue. -/
  | tqpush (a : BitVec 5) (n : BitVec 4)
  /-- R287 `tqcnt`: Reads a token queue's count. -/
  | tqcnt (d : BitVec 5) (n : BitVec 4)
  /-- R288 `waitd`: Waits on dependency slots. -/
  | waitd (w : BitVec 8)
  /-- R289 `waitt`: Waits until a promise and checks its slot. -/
  | waitt (a : BitVec 5) (s : BitVec 3)
  /-- R291 `crn.def`: Defines a reuse region. -/
  | crnDef (d : BitVec 5) (a : BitVec 5)
  /-- R292 `crn.step`: Sets a region's step number, optionally clearing ages. -/
  | crnStep (a : BitVec 5) (s : BitVec 4) (w : BitVec 8)
  /-- R292 `crn.force`: Sets a region's force bit once unbound. -/
  | crnForce (a : BitVec 5)
  /-- R293 `crn.map`: Reads a word of a step map. -/
  | crnMap (d : BitVec 5) (a : BitVec 5)
  /-- R291 `crn.undef`: Removes a region's definition. -/
  | crnUndef (a : BitVec 5)
  /-- R291 `crn.stat`: Reads a region's state. -/
  | crnStat (d : BitVec 5) (a : BitVec 5)
  /-- R281 `cset`: Stores a constant update for the current phase. -/
  | cset (d : BitVec 5) (a : BitVec 5)
  /-- R282 `mark`: Binds unbound updates to a marker placed at a port. -/
  | mark (a : BitVec 5)
  /-- R294 `wopen`: Waits for a window sequence number and opens the window. -/
  | wopen (d : BitVec 5) (a : BitVec 5)
  /-- R295 `wseal`: Seals a window's writes and increments its sequence number. -/
  | wseal (a : BitVec 5)
  /-- R296 `launch`: Writes a launch record to the VF's queue. -/
  | launch (a : BitVec 5)
  /-- R280 `pstat`: Reads a phase's summary status. -/
  | pstat (d : BitVec 5) (a : BitVec 5)
  /-- R332 `halt`: Halts a ring's group for debug. -/
  | halt (d : BitVec 5) (a : BitVec 5)
  /-- R333 `tlbi.va`: Invalidates translations of a page. -/
  | tlbiVa (a : BitVec 5) (b : BitVec 5)
  /-- R333 `tlbi.asid`: Invalidates translations of an ASID. -/
  | tlbiAsid (a : BitVec 5)
  /-- R333 `tlbi.vf`: Invalidates translations of a VF. -/
  | tlbiVf (a : BitVec 5)
  /-- R336 `isave`: Writes a context image of the ring at rest. -/
  | isave (d : BitVec 5) (a : BitVec 5) (b : BitVec 5)
  /-- R337 `irest`: Restores an isave image onto the ring. -/
  | irest (d : BitVec 5) (a : BitVec 5)
  /-- R339 `gcfg`: Configures a strip's guard reporting. -/
  | gcfg (d : BitVec 5) (a : BitVec 5)
  /-- R338 `ccfg`: Assigns or releases a strip. -/
  | ccfg (d : BitVec 5) (a : BitVec 5)
  /-- R340 `scrub`: Zeroes a ring's pool or Basecamp banks. -/
  | scrub (d : BitVec 5) (a : BitVec 5)
  /-- R332 `dret`: Ends a debug halt of a ring group. -/
  | dret (d : BitVec 5) (a : BitVec 5)
  /-- R201 `ILLEGAL_INSTRUCTION`: A sequencer word with a reserved op, fn or sub, or another illegal encoding, raises the illegal-instruction trap precisely and has no effect. -/
  | illegalInstruction (w : BitVec 32)
  /-- R424 `CLOCK_STRETCH`: The power controller lowers m towards a lower target so that board power stays within PWRCAP. -/
  | clockStretch (die m : Nat)
  /-- R107 `HOST_ACCESS`: A host processor reads or writes a system-coherent device page over Certia Link. -/
  | hostAccess (pa : Nat) (wr : Option (List (BitVec 8)))
  /-- R168 `REMOTE_ACCESS_ARRIVAL`: A peer's RDMA write or read request arrives on a queue pair and accesses this device's memory. -/
  | remoteAccessArrival (vf qp : Nat) (addr : BitVec 64) (wr : Option (List (BitVec 8))) (len : Nat)
  /-- R419 `LANE_REPAIR`: A die-chain boundary repairs a lane and counts it in CHSTAT. -/
  | laneRepair (die : Nat)
  /-- R430 `TEST_ACCESS_PORT_INSTRUCTION`: An IEEE 1149.1 mandatory instruction is shifted in and executed at the test access port. -/
  | testAccessPortInstruction (ir : TapInstr)
  /-- R269 `WAIT_SATISFIED`: A waiting instruction is satisfied once every awaited operation has completed and synchronises with them. -/
  | waitSatisfied
  /-- R323 `INTERRUPT`: A pending enabled SIP bit is taken at an instruction boundary and delivered to S. -/
  | interrupt
  /-- R329 `RCTL_PREQ`: A write of RCTL.preq requests pre-emption of the strip at the next sweep boundary. -/
  | rctlPreq
  /-- R329 `RCTL_RESUME`: A write of RCTL.resume lets a parked RSQ continue at RPC. -/
  | rctlResume
  /-- R329 `RCTL_RESUME_INJECT`: resume with inject delivers RCTL's RCAUSE and RTVAL to S as a trap. -/
  | rctlResumeInject
  /-- R376 `PRQ_RETRY`: HPRQRESP retry makes every waiter of the entry translate again and frees it. -/
  | prqRetry
  /-- R376 `PRQ_FAIL`: HPRQRESP fail ends every waiter in error with XLAT and frees the entry. -/
  | prqFail
  /-- R374 `PRQ_FORWARD`: HPRQRESP forward moves a stage-1 entry to FORWARDED for the supervisor. -/
  | prqForward
  /-- R374 `SPRQ_RETRY`: SPRQRESP retry answers a forwarded entry of the ring's VF with retry. -/
  | sprqRetry
  /-- R374 `SPRQ_FAIL`: SPRQRESP fail answers a forwarded entry of the ring's VF with fail. -/
  | sprqFail
  /-- R405 `KCTL_LOAD`: KCTL op 1 loads the selected key slot from KDATA. -/
  | kctlLoad
  /-- R405 `KCTL_DRAW`: KCTL op 2 draws a random key into the selected slot. -/
  | kctlDraw
  /-- R405 `KCTL_DESTROY`: KCTL op 3 destroys the selected key. -/
  | kctlDestroy
  /-- R405 `KCTL_LOAD_MIGRATION`: KCTL op 4 loads the migration key from KDATA. -/
  | kctlLoadMigration
  /-- R412 `KCTL_STOP_VF`: KCTL op 5 stops the selected VF and ends all its work in error. -/
  | kctlStopVf
  /-- R413 `KINITCTL_GO`: KINITCTL go resets a channel's root counters so every line becomes fresh. -/
  | kinitctlGo
  /-- R415 `WVALID_SET`: Setting WVALID increments the window's generation, zeroes WSEQ and clears opened records. -/
  | wvalidSet
  /-- R415 `WVALID_CLEAR`: Clearing WVALID closes the window for every VF. -/
  | wvalidClear
  /-- R386 `RIMGCTL_DUMP`: RIMGCTL dump writes fault dumps of a strip whose rings are all halted or parked. -/
  | rimgctlDump
  /-- R387 `RIMGCTL_REST`: RIMGCTL rest checks and restores a strip from its per-ring images and resumes it. -/
  | rimgctlRest
  /-- R426 `RPWR_QUIESCE`: RPWR req 1 quiesces an idle ring. -/
  | rpwrQuiesce
  /-- R426 `RPWR_SAVE`: RPWR req 2 copies ring state into retention SRAM. -/
  | rpwrSave
  /-- R426 `RPWR_GATE_CLOCK`: RPWR req 3 stops FCLK to the ring. -/
  | rpwrGateClock
  /-- R426 `RPWR_GATE_RAIL`: RPWR req 4 lowers the ring's logic rail. -/
  | rpwrGateRail
  /-- R426 `RPWR_WAKE`: RPWR req 5 wakes the ring one power state towards on. -/
  | rpwrWake
  /-- R429 `LIFETIME_STORE_WRITE`: The management controller writes the lifetime store every 2^36 ticks. -/
  | lifetimeStoreWrite
  /-- R429 `ORDERLY_POWER_DOWN`: An orderly power-down writes the lifetime store. -/
  | orderlyPowerDown
  /-- R421 `QPSTAT_CLEAR`: Clearing QPSTAT.err resets the queue pair and restarts its sequence numbers. -/
  | qpstatClear
  /-- R184 `nop`: The all-zero element word does nothing. -/
  | nop
  /-- R239 `mpass`: Copies y of the west neighbour into the ME's y. -/
  | mpass
  /-- R326 `sret`: Returns from S. -/
  | sret
  /-- R328 `hret`: Returns from the management core's handler. -/
  | hret
  /-- R331 `wfi`: Waits for an enabled interrupt or a request. -/
  | wfi
  /-- R333 `tlbi.all`: Invalidates every translation. -/
  | tlbiAll
  /-- R203 `INSTRUCTION_FETCH_FAULT`: A fetch from a page without execute permission, or one whose translation fails, faults with the fetch address as pc. -/
  | instructionFetchFault
  /-- R328 `MANAGEMENT_CORE_INTERRUPT`: The management core takes an event or timer interrupt at an instruction boundary through HEPC, HCAUSE and HTVEC. -/
  | managementCoreInterrupt
  /-- R413 `CHANNEL_INIT_COMPLETE`: Initialising a channel ends within 10,000 ticks and clears KINITCTL.busy. -/
  | channelInitComplete
  /-- R429 `POWER_FAILURE`: Loss of supply stops the device, and lifetime counts since the last store write are lost. -/
  | powerFailure
  deriving DecidableEq, Repr

end Sys2Proof
end

