-- ==== Sys2Proof/WellFormed.lean ====
section
/-! DEFINITION. When the fields of a word are ones the spec accepts: element words under R86, R90, R183, R185, R186, R212, R230 and
R240; sequencer words under R116, R199 and R201. What a whole stripe image adds is checked at PLOAD, in Machine/Image.lean. -/

namespace Sys2Proof

/-- The field values an instruction word may hold. An event row has no word, and every occurrence of it is well formed. -/
def Instr.wf : Instr → Bool
  | .itemTimeBoundary _ => true
  | .itemAdmission _ => true
  | .slotSwitch _ => true
  | .scrJobStep _ => true
  | .phaseRetirement _ => true
  | .mergeDeadlock _ => true
  | .agLineRequest _ _ => true
  | .agLineCompletion _ _ _ => true
  | .prqHeldPlacement _ => true
  | .bankLoadWriteback _ => true
  | .accDrain _ _ => true
  | .tileDecision _ => true
  | .copyAccept _ => true
  | .billetFire _ => true
  | .copyComplete _ _ => true
  | .remoteWriteImmediateArrival _ _ _ _ _ => true
  | .remoteRetryExhausted _ _ => true
  | .asyncMaskSatisfied _ _ => true
  | .ploadAccept _ _ => true
  | .waitSatisfied => true
  | .loadWriteback _ _ _ => true
  | .storePerform _ _ => true
  | .interrupt => true
  | .supervisorTimer _ => true
  | .hypervisorTimer _ => true
  | .sweepmaxOverrun _ => true
  | .preemptionCapture _ => true
  | .tenantSwitch _ => true
  | .tsentEnable _ _ => true
  | .rctlPreq => true
  | .rctlResume => true
  | .rctlResumeInject => true
  | .rnoteWrite _ => true
  | .hevtRead _ => true
  | .prqpopRead _ => true
  | .prqRetry => true
  | .prqFail => true
  | .prqForward => true
  | .sprqRetry => true
  | .sprqFail => true
  | .kctlLoad => true
  | .kctlDraw => true
  | .kctlDestroy => true
  | .kctlLoadMigration => true
  | .kctlStopVf => true
  | .kinitctlGo => true
  | .wvalidSet => true
  | .wvalidClear => true
  | .wmemWrite _ _ => true
  | .rimgctlDump => true
  | .rimgctlRest => true
  | .rpwrQuiesce => true
  | .rpwrSave => true
  | .rpwrGateClock => true
  | .rpwrGateRail => true
  | .rpwrWake => true
  | .powerTransitionComplete _ => true
  | .tokenWake _ _ _ => true
  | .powerOnStart _ => true
  | .bootctlCold _ => true
  | .bootctlWarm _ => true
  | .i3cStartRequest _ _ => true
  | .i3cRead _ => true
  | .droopTrip _ => true
  | .fclkRaise _ => true
  | .lifetimeStoreWrite => true
  | .orderlyPowerDown => true
  | .linkStateChange _ _ _ => true
  | .qpstatClear => true
  | .lqtailWrite _ => true
  | .doorbellWrite _ _ => true
  | .launchConsume _ => true
  | .ldoneWrite _ => true
  | .launchPacket _ _ _ => true
  | .rdbgdRead _ => true
  | .rdbgdWrite _ => true
  | .registerWrite _ _ => true
  | .nop => true
  | .mov _ _ d _ => d.toNat ≤ 17
  | .veAdd t _ _ d _ _ => d.toNat ≤ 17 && t.toNat ≤ 7
  | .veSub t _ _ d _ _ => d.toNat ≤ 17 && t.toNat ≤ 7
  | .veMul t _ _ d _ _ => d.toNat ≤ 17 && t.toNat ≤ 5
  | .veMulh t _ _ d _ => d.toNat ≤ 17 && t.toNat ≤ 5
  | .mad t _ _ d _ _ => d.toNat ≤ 15 && t.toNat ≤ 5
  | .veMin t _ _ d _ => d.toNat ≤ 17 && t.toNat ≤ 7
  | .veMax t _ _ d _ => d.toNat ≤ 17 && t.toNat ≤ 7
  | .abs t _ _ d _ _ => d.toNat ≤ 17 && [0, 2, 4, 6].contains t.toNat
  | .neg t _ _ d _ _ => d.toNat ≤ 17 && [0, 2, 4, 6].contains t.toNat
  | .veAnd _ _ d _ => d.toNat ≤ 17
  | .veOr _ _ d _ => d.toNat ≤ 17
  | .veXor _ _ d _ => d.toNat ≤ 17
  | .veAndn _ _ d _ => d.toNat ≤ 17
  | .not _ _ d _ => d.toNat ≤ 17
  | .shl t _ _ d _ _ => d.toNat ≤ 17 && t.toNat ≤ 7
  | .shr t _ _ d _ => d.toNat ≤ 17 && t.toNat ≤ 7
  | .rol t _ _ d _ => d.toNat ≤ 17 && t.toNat ≤ 7
  | .veClz t _ _ d _ => d.toNat ≤ 17 && [1, 3, 5, 7].contains t.toNat
  | .vePopc t _ _ d _ => d.toNat ≤ 17 && [1, 3, 5, 7].contains t.toNat
  | .avg t _ _ d _ => d.toNat ≤ 17 && t.toNat ≤ 7
  | .veAddi _ _ _ d => d.toNat ≤ 17
  | .movi _ _ d => d.toNat ≤ 17
  | .cmpEq t _ _ _ _ => t.toNat ≤ 10
  | .cmpNe t _ _ _ _ => t.toNat ≤ 10
  | .cmpLt t _ _ _ _ => t.toNat ≤ 10
  | .cmpLe t _ _ _ _ => t.toNat ≤ 10
  | .cmpGt t _ _ _ _ => t.toNat ≤ 10
  | .cmpGe t _ _ _ _ => t.toNat ≤ 10
  | .cmpUn t _ _ _ _ => 8 ≤ t.toNat && t.toNat ≤ 10
  | .plog _ _ _ _ _ => true
  | .sel _ _ _ d _ => d.toNat ≤ 17
  | .clamp t _ _ d _ => d.toNat ≤ 15 && t.toNat ≤ 5
  | .gate _ _ => true
  | .steer _ _ => true
  | .fadd t _ _ d _ _ _ => d.toNat ≤ 17 && 8 ≤ t.toNat && t.toNat ≤ 10
  | .fsub t _ _ d _ _ _ => d.toNat ≤ 17 && 8 ≤ t.toNat && t.toNat ≤ 10
  | .fmul t _ _ d _ _ _ => d.toNat ≤ 17 && 8 ≤ t.toNat && t.toNat ≤ 10
  | .fma t _ _ d _ _ _ => d.toNat ≤ 15 && 8 ≤ t.toNat && t.toNat ≤ 10
  | .fms t _ _ d _ _ _ => d.toNat ≤ 15 && 8 ≤ t.toNat && t.toNat ≤ 10
  | .fmin t _ _ d _ => d.toNat ≤ 17 && 8 ≤ t.toNat && t.toNat ≤ 10
  | .fmax t _ _ d _ => d.toNat ≤ 17 && 8 ≤ t.toNat && t.toNat ≤ 10
  | .fabs t _ _ d _ => d.toNat ≤ 17 && 8 ≤ t.toNat && t.toNat ≤ 10
  | .fneg t _ _ d _ => d.toNat ≤ 17 && 8 ≤ t.toNat && t.toNat ≤ 10
  | .frnd t _ _ d _ _ => d.toNat ≤ 17 && 8 ≤ t.toNat && t.toNat ≤ 10
  | .fclamp t _ _ d _ => d.toNat ≤ 15 && 8 ≤ t.toNat && t.toNat ≤ 10
  | .cvt t _ c d _ _ r x => d.toNat ≤ 17 && (t.toNat ≥ 8 || c.toNat ≥ 8 || r == 0#2) && (x == 0#1 || (t.toNat ≥ 8 && r == 0#2))
  | .pack t _ _ d _ _ r x => d.toNat ≤ 17 && ([2, 3, 4, 5].contains t.toNat || 9 ≤ t.toNat) && (9 ≤ t.toNat || (r == 0#2 && x == 0#1)) && (x == 0#1 || r == 0#2)
  | .unpklo t _ _ d _ => d.toNat ≤ 17 && ([2, 3, 4, 5].contains t.toNat || 9 ≤ t.toNat)
  | .unpkhi t _ _ d _ => d.toNat ≤ 17 && ([2, 3, 4, 5].contains t.toNat || 9 ≤ t.toNat)
  | .exp2 _ _ d _ _ => d.toNat ≤ 17
  | .log2 _ _ d _ _ => d.toNat ≤ 17
  | .rcp _ _ d _ _ => d.toNat ≤ 17
  | .rsq _ _ d _ _ => d.toNat ≤ 17
  | .tanh _ _ d _ _ => d.toNat ≤ 17
  | .dot t _ _ d _ _ r => d.toNat ≤ 15 && ([2, 3, 4, 5].contains t.toNat || (9 ≤ t.toNat && t.toNat ≤ 12)) && (9 ≤ t.toNat || r == 0#2)
  | .dotx _ _ d _ _ => d.toNat ≤ 15
  | .ldb _ _ d _ => d.toNat ≤ 17
  | .stb _ _ d _ => d.toNat ≤ 17
  | .ldbi _ _ d => d.toNat ≤ 17
  | .stbi _ _ d => d.toNat ≤ 17
  | .atadd _ _ d _ => d.toNat ≤ 17
  | .atmin _ _ _ d _ => d.toNat ≤ 17
  | .atmax _ _ _ d _ => d.toNat ≤ 17
  | .atxchg _ _ d _ => d.toNat ≤ 17
  | .atcas _ _ d _ => d.toNat ≤ 15
  | .ldt _ _ d _ => d.toNat ≤ 17
  | .stt _ _ d _ => d.toNat ≤ 17
  | .emit _ _ d _ => d.toNat ≤ 17
  | .dropw a _ d _ => d.toNat ≤ 17 && a != 30#5
  | .pcnt _ _ d _ => d.toNat ≤ 17
  | .eos _ _ _ _ => true
  | .mma f _ _ _ _ _ e d s => f.toNat ≤ 8 && d.toNat ≤ 4 && (e == 1#1 || (d == 0#3 && s == 0#1))
  | .mmx f _ _ _ _ _ e d s => 2 ≤ f.toNat && f.toNat ≤ 6 && d.toNat ≤ 4 && (e == 1#1 || (d == 0#3 && s == 0#1))
  | .azero _ => true
  | .adrain _ d _ => d.toNat ≤ 4
  | .aload _ => true
  | .ascale _ i => i != 0x100#9
  | .mpass => true
  | .add _ _ _ => true
  | .sub _ _ _ => true
  | .and _ _ _ => true
  | .or _ _ _ => true
  | .xor _ _ _ => true
  | .andn _ _ _ => true
  | .sll _ _ _ => true
  | .srl _ _ _ => true
  | .sra _ _ _ => true
  | .slt _ _ _ => true
  | .sltn _ _ _ => true
  | .min _ _ _ => true
  | .max _ _ _ => true
  | .minn _ _ _ => true
  | .maxn _ _ _ => true
  | .mul _ _ _ => true
  | .mulh _ _ _ => true
  | .mulhn _ _ _ => true
  | .div _ _ _ => true
  | .divn _ _ _ => true
  | .rem _ _ _ => true
  | .remn _ _ _ => true
  | .clz _ _ => true
  | .ctz _ _ => true
  | .popc _ _ => true
  | .sextW _ _ => true
  | .zextW _ _ => true
  | .addw _ _ _ => true
  | .addi _ _ _ => true
  | .andi _ _ _ => true
  | .ori _ _ _ => true
  | .xori _ _ _ => true
  | .slti _ _ _ => true
  | .sltni _ _ _ => true
  | .shiSll _ _ _ => true
  | .shiSrl _ _ _ => true
  | .shiSra _ _ _ => true
  | .lui _ _ => true
  | .auipc _ _ => true
  | .ld _ _ _ o c _ => o.toNat ≤ 1 && (o != 0#2 || c == 0#2)
  | .ldn _ _ _ o c _ => o.toNat ≤ 1 && (o != 0#2 || c == 0#2)
  | .st _ _ _ o c _ => (o == 0#2 || o == 2#2) && (o != 0#2 || c == 0#2)
  | .amoAdd _ _ _ c o _ => (o != 0#2 || c == 0#2)
  | .amoAnd _ _ _ c o _ => (o != 0#2 || c == 0#2)
  | .amoOr _ _ _ c o _ => (o != 0#2 || c == 0#2)
  | .amoXor _ _ _ c o _ => (o != 0#2 || c == 0#2)
  | .amoMin _ _ _ c o _ => (o != 0#2 || c == 0#2)
  | .amoMax _ _ _ c o _ => (o != 0#2 || c == 0#2)
  | .amoMinn _ _ _ c o _ => (o != 0#2 || c == 0#2)
  | .amoMaxn _ _ _ c o _ => (o != 0#2 || c == 0#2)
  | .amoSwap _ _ _ c o _ => (o != 0#2 || c == 0#2)
  | .amoCas _ _ _ c o _ => (o != 0#2 || c == 0#2)
  | .beq _ _ _ => true
  | .bne _ _ _ => true
  | .blt _ _ _ => true
  | .bge _ _ _ => true
  | .bltn _ _ _ => true
  | .bgen _ _ _ => true
  | .j _ => true
  | .jal _ => true
  | .jalr _ _ _ => true
  | .jtab _ _ _ => true
  | .fence _ => true
  | .fenceRg _ _ _ => true
  | .csrr _ _ => true
  | .csrw _ _ => true
  | .trap _ => true
  | .pload _ _ s _ => s.toNat ≤ 8
  | .pwait _ => true
  | .cpy _ _ s _ => s.toNat ≤ 8
  | .cpyB _ _ s _ => s.toNat ≤ 8
  | .billetArm _ _ => true
  | .billetDisarm _ => true
  | .tqpush _ _ => true
  | .tqcnt _ _ => true
  | .waitd _ => true
  | .waitt _ _ => true
  | .crnDef _ _ => true
  | .crnStep _ s _ => s.toNat ≤ 8
  | .crnForce _ => true
  | .crnMap _ _ => true
  | .crnUndef _ => true
  | .crnStat _ _ => true
  | .cset _ _ => true
  | .mark _ => true
  | .wopen _ _ => true
  | .wseal _ => true
  | .launch _ => true
  | .pstat _ _ => true
  | .sret => true
  | .hret => true
  | .wfi => true
  | .halt _ _ => true
  | .tlbiVa _ _ => true
  | .tlbiAsid _ => true
  | .tlbiVf _ => true
  | .tlbiAll => true
  | .isave _ _ _ => true
  | .irest _ _ => true
  | .gcfg _ _ => true
  | .ccfg _ _ => true
  | .scrub _ _ => true
  | .dret _ _ => true
  | .illegalInstruction _ => true
  | .instructionFetchFault => true
  | .managementCoreInterrupt => true
  | .clockStretch _ _ => true
  | .channelInitComplete => true
  | .hostAccess _ _ => true
  | .remoteAccessArrival _ _ _ _ _ => true
  | .powerFailure => true
  | .laneRepair _ => true
  | .testAccessPortInstruction _ => true

/-- Is the instruction an occurrence of an event row, which no word encodes? -/
def Instr.isEvent : Instr → Bool
  | .itemTimeBoundary _ => true
  | .itemAdmission _ => true
  | .slotSwitch _ => true
  | .scrJobStep _ => true
  | .phaseRetirement _ => true
  | .mergeDeadlock _ => true
  | .agLineRequest _ _ => true
  | .agLineCompletion _ _ _ => true
  | .prqHeldPlacement _ => true
  | .bankLoadWriteback _ => true
  | .accDrain _ _ => true
  | .tileDecision _ => true
  | .copyAccept _ => true
  | .billetFire _ => true
  | .copyComplete _ _ => true
  | .remoteWriteImmediateArrival _ _ _ _ _ => true
  | .remoteRetryExhausted _ _ => true
  | .asyncMaskSatisfied _ _ => true
  | .ploadAccept _ _ => true
  | .waitSatisfied => true
  | .loadWriteback _ _ _ => true
  | .storePerform _ _ => true
  | .interrupt => true
  | .supervisorTimer _ => true
  | .hypervisorTimer _ => true
  | .sweepmaxOverrun _ => true
  | .preemptionCapture _ => true
  | .tenantSwitch _ => true
  | .tsentEnable _ _ => true
  | .rctlPreq => true
  | .rctlResume => true
  | .rctlResumeInject => true
  | .rnoteWrite _ => true
  | .hevtRead _ => true
  | .prqpopRead _ => true
  | .prqRetry => true
  | .prqFail => true
  | .prqForward => true
  | .sprqRetry => true
  | .sprqFail => true
  | .kctlLoad => true
  | .kctlDraw => true
  | .kctlDestroy => true
  | .kctlLoadMigration => true
  | .kctlStopVf => true
  | .kinitctlGo => true
  | .wvalidSet => true
  | .wvalidClear => true
  | .wmemWrite _ _ => true
  | .rimgctlDump => true
  | .rimgctlRest => true
  | .rpwrQuiesce => true
  | .rpwrSave => true
  | .rpwrGateClock => true
  | .rpwrGateRail => true
  | .rpwrWake => true
  | .powerTransitionComplete _ => true
  | .tokenWake _ _ _ => true
  | .powerOnStart _ => true
  | .bootctlCold _ => true
  | .bootctlWarm _ => true
  | .i3cStartRequest _ _ => true
  | .i3cRead _ => true
  | .droopTrip _ => true
  | .fclkRaise _ => true
  | .lifetimeStoreWrite => true
  | .orderlyPowerDown => true
  | .linkStateChange _ _ _ => true
  | .qpstatClear => true
  | .lqtailWrite _ => true
  | .doorbellWrite _ _ => true
  | .launchConsume _ => true
  | .ldoneWrite _ => true
  | .launchPacket _ _ _ => true
  | .rdbgdRead _ => true
  | .rdbgdWrite _ => true
  | .registerWrite _ _ => true
  | .nop => false
  | .mov _ _ _ _ => false
  | .veAdd _ _ _ _ _ _ => false
  | .veSub _ _ _ _ _ _ => false
  | .veMul _ _ _ _ _ _ => false
  | .veMulh _ _ _ _ _ => false
  | .mad _ _ _ _ _ _ => false
  | .veMin _ _ _ _ _ => false
  | .veMax _ _ _ _ _ => false
  | .abs _ _ _ _ _ _ => false
  | .neg _ _ _ _ _ _ => false
  | .veAnd _ _ _ _ => false
  | .veOr _ _ _ _ => false
  | .veXor _ _ _ _ => false
  | .veAndn _ _ _ _ => false
  | .not _ _ _ _ => false
  | .shl _ _ _ _ _ _ => false
  | .shr _ _ _ _ _ => false
  | .rol _ _ _ _ _ => false
  | .veClz _ _ _ _ _ => false
  | .vePopc _ _ _ _ _ => false
  | .avg _ _ _ _ _ => false
  | .veAddi _ _ _ _ => false
  | .movi _ _ _ => false
  | .cmpEq _ _ _ _ _ => false
  | .cmpNe _ _ _ _ _ => false
  | .cmpLt _ _ _ _ _ => false
  | .cmpLe _ _ _ _ _ => false
  | .cmpGt _ _ _ _ _ => false
  | .cmpGe _ _ _ _ _ => false
  | .cmpUn _ _ _ _ _ => false
  | .plog _ _ _ _ _ => false
  | .sel _ _ _ _ _ => false
  | .clamp _ _ _ _ _ => false
  | .gate _ _ => false
  | .steer _ _ => false
  | .fadd _ _ _ _ _ _ _ => false
  | .fsub _ _ _ _ _ _ _ => false
  | .fmul _ _ _ _ _ _ _ => false
  | .fma _ _ _ _ _ _ _ => false
  | .fms _ _ _ _ _ _ _ => false
  | .fmin _ _ _ _ _ => false
  | .fmax _ _ _ _ _ => false
  | .fabs _ _ _ _ _ => false
  | .fneg _ _ _ _ _ => false
  | .frnd _ _ _ _ _ _ => false
  | .fclamp _ _ _ _ _ => false
  | .cvt _ _ _ _ _ _ _ _ => false
  | .pack _ _ _ _ _ _ _ _ => false
  | .unpklo _ _ _ _ _ => false
  | .unpkhi _ _ _ _ _ => false
  | .exp2 _ _ _ _ _ => false
  | .log2 _ _ _ _ _ => false
  | .rcp _ _ _ _ _ => false
  | .rsq _ _ _ _ _ => false
  | .tanh _ _ _ _ _ => false
  | .dot _ _ _ _ _ _ _ => false
  | .dotx _ _ _ _ _ => false
  | .ldb _ _ _ _ => false
  | .stb _ _ _ _ => false
  | .ldbi _ _ _ => false
  | .stbi _ _ _ => false
  | .atadd _ _ _ _ => false
  | .atmin _ _ _ _ _ => false
  | .atmax _ _ _ _ _ => false
  | .atxchg _ _ _ _ => false
  | .atcas _ _ _ _ => false
  | .ldt _ _ _ _ => false
  | .stt _ _ _ _ => false
  | .emit _ _ _ _ => false
  | .dropw _ _ _ _ => false
  | .pcnt _ _ _ _ => false
  | .eos _ _ _ _ => false
  | .mma _ _ _ _ _ _ _ _ _ => false
  | .mmx _ _ _ _ _ _ _ _ _ => false
  | .azero _ => false
  | .adrain _ _ _ => false
  | .aload _ => false
  | .ascale _ _ => false
  | .mpass => false
  | .add _ _ _ => false
  | .sub _ _ _ => false
  | .and _ _ _ => false
  | .or _ _ _ => false
  | .xor _ _ _ => false
  | .andn _ _ _ => false
  | .sll _ _ _ => false
  | .srl _ _ _ => false
  | .sra _ _ _ => false
  | .slt _ _ _ => false
  | .sltn _ _ _ => false
  | .min _ _ _ => false
  | .max _ _ _ => false
  | .minn _ _ _ => false
  | .maxn _ _ _ => false
  | .mul _ _ _ => false
  | .mulh _ _ _ => false
  | .mulhn _ _ _ => false
  | .div _ _ _ => false
  | .divn _ _ _ => false
  | .rem _ _ _ => false
  | .remn _ _ _ => false
  | .clz _ _ => false
  | .ctz _ _ => false
  | .popc _ _ => false
  | .sextW _ _ => false
  | .zextW _ _ => false
  | .addw _ _ _ => false
  | .addi _ _ _ => false
  | .andi _ _ _ => false
  | .ori _ _ _ => false
  | .xori _ _ _ => false
  | .slti _ _ _ => false
  | .sltni _ _ _ => false
  | .shiSll _ _ _ => false
  | .shiSrl _ _ _ => false
  | .shiSra _ _ _ => false
  | .lui _ _ => false
  | .auipc _ _ => false
  | .ld _ _ _ _ _ _ => false
  | .ldn _ _ _ _ _ _ => false
  | .st _ _ _ _ _ _ => false
  | .amoAdd _ _ _ _ _ _ => false
  | .amoAnd _ _ _ _ _ _ => false
  | .amoOr _ _ _ _ _ _ => false
  | .amoXor _ _ _ _ _ _ => false
  | .amoMin _ _ _ _ _ _ => false
  | .amoMax _ _ _ _ _ _ => false
  | .amoMinn _ _ _ _ _ _ => false
  | .amoMaxn _ _ _ _ _ _ => false
  | .amoSwap _ _ _ _ _ _ => false
  | .amoCas _ _ _ _ _ _ => false
  | .beq _ _ _ => false
  | .bne _ _ _ => false
  | .blt _ _ _ => false
  | .bge _ _ _ => false
  | .bltn _ _ _ => false
  | .bgen _ _ _ => false
  | .j _ => false
  | .jal _ => false
  | .jalr _ _ _ => false
  | .jtab _ _ _ => false
  | .fence _ => false
  | .fenceRg _ _ _ => false
  | .csrr _ _ => false
  | .csrw _ _ => false
  | .trap _ => false
  | .pload _ _ _ _ => false
  | .pwait _ => false
  | .cpy _ _ _ _ => false
  | .cpyB _ _ _ _ => false
  | .billetArm _ _ => false
  | .billetDisarm _ => false
  | .tqpush _ _ => false
  | .tqcnt _ _ => false
  | .waitd _ => false
  | .waitt _ _ => false
  | .crnDef _ _ => false
  | .crnStep _ _ _ => false
  | .crnForce _ => false
  | .crnMap _ _ => false
  | .crnUndef _ => false
  | .crnStat _ _ => false
  | .cset _ _ => false
  | .mark _ => false
  | .wopen _ _ => false
  | .wseal _ => false
  | .launch _ => false
  | .pstat _ _ => false
  | .sret => false
  | .hret => false
  | .wfi => false
  | .halt _ _ => false
  | .tlbiVa _ _ => false
  | .tlbiAsid _ => false
  | .tlbiVf _ => false
  | .tlbiAll => false
  | .isave _ _ _ => false
  | .irest _ _ => false
  | .gcfg _ _ => false
  | .ccfg _ _ => false
  | .scrub _ _ => false
  | .dret _ _ => false
  | .illegalInstruction _ => true
  | .instructionFetchFault => true
  | .managementCoreInterrupt => true
  | .clockStretch _ _ => true
  | .channelInitComplete => true
  | .hostAccess _ _ => true
  | .remoteAccessArrival _ _ _ _ _ => true
  | .powerFailure => true
  | .laneRepair _ => true
  | .testAccessPortInstruction _ => true

/-- Is the instruction an element context word (R184)? -/
def Instr.isElem : Instr → Bool
  | .itemTimeBoundary _ => false
  | .itemAdmission _ => false
  | .slotSwitch _ => false
  | .scrJobStep _ => false
  | .phaseRetirement _ => false
  | .mergeDeadlock _ => false
  | .agLineRequest _ _ => false
  | .agLineCompletion _ _ _ => false
  | .prqHeldPlacement _ => false
  | .bankLoadWriteback _ => false
  | .accDrain _ _ => false
  | .tileDecision _ => false
  | .copyAccept _ => false
  | .billetFire _ => false
  | .copyComplete _ _ => false
  | .remoteWriteImmediateArrival _ _ _ _ _ => false
  | .remoteRetryExhausted _ _ => false
  | .asyncMaskSatisfied _ _ => false
  | .ploadAccept _ _ => false
  | .waitSatisfied => false
  | .loadWriteback _ _ _ => false
  | .storePerform _ _ => false
  | .interrupt => false
  | .supervisorTimer _ => false
  | .hypervisorTimer _ => false
  | .sweepmaxOverrun _ => false
  | .preemptionCapture _ => false
  | .tenantSwitch _ => false
  | .tsentEnable _ _ => false
  | .rctlPreq => false
  | .rctlResume => false
  | .rctlResumeInject => false
  | .rnoteWrite _ => false
  | .hevtRead _ => false
  | .prqpopRead _ => false
  | .prqRetry => false
  | .prqFail => false
  | .prqForward => false
  | .sprqRetry => false
  | .sprqFail => false
  | .kctlLoad => false
  | .kctlDraw => false
  | .kctlDestroy => false
  | .kctlLoadMigration => false
  | .kctlStopVf => false
  | .kinitctlGo => false
  | .wvalidSet => false
  | .wvalidClear => false
  | .wmemWrite _ _ => false
  | .rimgctlDump => false
  | .rimgctlRest => false
  | .rpwrQuiesce => false
  | .rpwrSave => false
  | .rpwrGateClock => false
  | .rpwrGateRail => false
  | .rpwrWake => false
  | .powerTransitionComplete _ => false
  | .tokenWake _ _ _ => false
  | .powerOnStart _ => false
  | .bootctlCold _ => false
  | .bootctlWarm _ => false
  | .i3cStartRequest _ _ => false
  | .i3cRead _ => false
  | .droopTrip _ => false
  | .fclkRaise _ => false
  | .lifetimeStoreWrite => false
  | .orderlyPowerDown => false
  | .linkStateChange _ _ _ => false
  | .qpstatClear => false
  | .lqtailWrite _ => false
  | .doorbellWrite _ _ => false
  | .launchConsume _ => false
  | .ldoneWrite _ => false
  | .launchPacket _ _ _ => false
  | .rdbgdRead _ => false
  | .rdbgdWrite _ => false
  | .registerWrite _ _ => false
  | .nop => true
  | .mov _ _ _ _ => true
  | .veAdd _ _ _ _ _ _ => true
  | .veSub _ _ _ _ _ _ => true
  | .veMul _ _ _ _ _ _ => true
  | .veMulh _ _ _ _ _ => true
  | .mad _ _ _ _ _ _ => true
  | .veMin _ _ _ _ _ => true
  | .veMax _ _ _ _ _ => true
  | .abs _ _ _ _ _ _ => true
  | .neg _ _ _ _ _ _ => true
  | .veAnd _ _ _ _ => true
  | .veOr _ _ _ _ => true
  | .veXor _ _ _ _ => true
  | .veAndn _ _ _ _ => true
  | .not _ _ _ _ => true
  | .shl _ _ _ _ _ _ => true
  | .shr _ _ _ _ _ => true
  | .rol _ _ _ _ _ => true
  | .veClz _ _ _ _ _ => true
  | .vePopc _ _ _ _ _ => true
  | .avg _ _ _ _ _ => true
  | .veAddi _ _ _ _ => true
  | .movi _ _ _ => true
  | .cmpEq _ _ _ _ _ => true
  | .cmpNe _ _ _ _ _ => true
  | .cmpLt _ _ _ _ _ => true
  | .cmpLe _ _ _ _ _ => true
  | .cmpGt _ _ _ _ _ => true
  | .cmpGe _ _ _ _ _ => true
  | .cmpUn _ _ _ _ _ => true
  | .plog _ _ _ _ _ => true
  | .sel _ _ _ _ _ => true
  | .clamp _ _ _ _ _ => true
  | .gate _ _ => true
  | .steer _ _ => true
  | .fadd _ _ _ _ _ _ _ => true
  | .fsub _ _ _ _ _ _ _ => true
  | .fmul _ _ _ _ _ _ _ => true
  | .fma _ _ _ _ _ _ _ => true
  | .fms _ _ _ _ _ _ _ => true
  | .fmin _ _ _ _ _ => true
  | .fmax _ _ _ _ _ => true
  | .fabs _ _ _ _ _ => true
  | .fneg _ _ _ _ _ => true
  | .frnd _ _ _ _ _ _ => true
  | .fclamp _ _ _ _ _ => true
  | .cvt _ _ _ _ _ _ _ _ => true
  | .pack _ _ _ _ _ _ _ _ => true
  | .unpklo _ _ _ _ _ => true
  | .unpkhi _ _ _ _ _ => true
  | .exp2 _ _ _ _ _ => true
  | .log2 _ _ _ _ _ => true
  | .rcp _ _ _ _ _ => true
  | .rsq _ _ _ _ _ => true
  | .tanh _ _ _ _ _ => true
  | .dot _ _ _ _ _ _ _ => true
  | .dotx _ _ _ _ _ => true
  | .ldb _ _ _ _ => true
  | .stb _ _ _ _ => true
  | .ldbi _ _ _ => true
  | .stbi _ _ _ => true
  | .atadd _ _ _ _ => true
  | .atmin _ _ _ _ _ => true
  | .atmax _ _ _ _ _ => true
  | .atxchg _ _ _ _ => true
  | .atcas _ _ _ _ => true
  | .ldt _ _ _ _ => true
  | .stt _ _ _ _ => true
  | .emit _ _ _ _ => true
  | .dropw _ _ _ _ => true
  | .pcnt _ _ _ _ => true
  | .eos _ _ _ _ => true
  | .mma _ _ _ _ _ _ _ _ _ => true
  | .mmx _ _ _ _ _ _ _ _ _ => true
  | .azero _ => true
  | .adrain _ _ _ => true
  | .aload _ => true
  | .ascale _ _ => true
  | .mpass => true
  | .add _ _ _ => false
  | .sub _ _ _ => false
  | .and _ _ _ => false
  | .or _ _ _ => false
  | .xor _ _ _ => false
  | .andn _ _ _ => false
  | .sll _ _ _ => false
  | .srl _ _ _ => false
  | .sra _ _ _ => false
  | .slt _ _ _ => false
  | .sltn _ _ _ => false
  | .min _ _ _ => false
  | .max _ _ _ => false
  | .minn _ _ _ => false
  | .maxn _ _ _ => false
  | .mul _ _ _ => false
  | .mulh _ _ _ => false
  | .mulhn _ _ _ => false
  | .div _ _ _ => false
  | .divn _ _ _ => false
  | .rem _ _ _ => false
  | .remn _ _ _ => false
  | .clz _ _ => false
  | .ctz _ _ => false
  | .popc _ _ => false
  | .sextW _ _ => false
  | .zextW _ _ => false
  | .addw _ _ _ => false
  | .addi _ _ _ => false
  | .andi _ _ _ => false
  | .ori _ _ _ => false
  | .xori _ _ _ => false
  | .slti _ _ _ => false
  | .sltni _ _ _ => false
  | .shiSll _ _ _ => false
  | .shiSrl _ _ _ => false
  | .shiSra _ _ _ => false
  | .lui _ _ => false
  | .auipc _ _ => false
  | .ld _ _ _ _ _ _ => false
  | .ldn _ _ _ _ _ _ => false
  | .st _ _ _ _ _ _ => false
  | .amoAdd _ _ _ _ _ _ => false
  | .amoAnd _ _ _ _ _ _ => false
  | .amoOr _ _ _ _ _ _ => false
  | .amoXor _ _ _ _ _ _ => false
  | .amoMin _ _ _ _ _ _ => false
  | .amoMax _ _ _ _ _ _ => false
  | .amoMinn _ _ _ _ _ _ => false
  | .amoMaxn _ _ _ _ _ _ => false
  | .amoSwap _ _ _ _ _ _ => false
  | .amoCas _ _ _ _ _ _ => false
  | .beq _ _ _ => false
  | .bne _ _ _ => false
  | .blt _ _ _ => false
  | .bge _ _ _ => false
  | .bltn _ _ _ => false
  | .bgen _ _ _ => false
  | .j _ => false
  | .jal _ => false
  | .jalr _ _ _ => false
  | .jtab _ _ _ => false
  | .fence _ => false
  | .fenceRg _ _ _ => false
  | .csrr _ _ => false
  | .csrw _ _ => false
  | .trap _ => false
  | .pload _ _ _ _ => false
  | .pwait _ => false
  | .cpy _ _ _ _ => false
  | .cpyB _ _ _ _ => false
  | .billetArm _ _ => false
  | .billetDisarm _ => false
  | .tqpush _ _ => false
  | .tqcnt _ _ => false
  | .waitd _ => false
  | .waitt _ _ => false
  | .crnDef _ _ => false
  | .crnStep _ _ _ => false
  | .crnForce _ => false
  | .crnMap _ _ => false
  | .crnUndef _ => false
  | .crnStat _ _ => false
  | .cset _ _ => false
  | .mark _ => false
  | .wopen _ _ => false
  | .wseal _ => false
  | .launch _ => false
  | .pstat _ _ => false
  | .sret => false
  | .hret => false
  | .wfi => false
  | .halt _ _ => false
  | .tlbiVa _ _ => false
  | .tlbiAsid _ => false
  | .tlbiVf _ => false
  | .tlbiAll => false
  | .isave _ _ _ => false
  | .irest _ _ => false
  | .gcfg _ _ => false
  | .ccfg _ _ => false
  | .scrub _ _ => false
  | .dret _ _ => false
  | .illegalInstruction _ => false
  | .instructionFetchFault => false
  | .managementCoreInterrupt => false
  | .clockStretch _ _ => false
  | .channelInitComplete => false
  | .hostAccess _ _ => false
  | .remoteAccessArrival _ _ _ _ _ => false
  | .powerFailure => false
  | .laneRepair _ => false
  | .testAccessPortInstruction _ => false

end Sys2Proof
end

