-- ==== Sys2Proof/Decode.lean ====
section
/-! DEFINITION. Decoding element words (R180 to R186) and sequencer words (R195 to R201), total on any word and rejecting by name,
and the encoder. The two kinds of word share one number space and are told apart by who reads them: an element its contexts, a
sequencer its fetches. -/

namespace Sys2Proof

/-- Why a word is no instruction. -/
inductive DecodeError where
  /-- The op, fn or sub value is not assigned (R184, R196 to R200). -/
  | reservedOpcode
  /-- A field that must hold a fixed value holds another (R185, R196, R201). -/
  | reservedField
  /-- A field holds a value the instruction does not accept (R86, R116, R185, R199). -/
  | illegalField
  deriving DecidableEq, Repr

/-- Bits [hi:lo] of a word as a number (R5, R8). -/
def wordBits (w : W32) (hi lo : Nat) : Nat := w.toNat / 2 ^ lo % 2 ^ (hi + 1 - lo)

/-- The word of an instruction (R180 to R185, R195 to R200); an event row has none. The unused a and b of gate and b of steer are 31, as R240 has them, and
no other value decodes (log 114). -/
def encode : Instr → Option W32
  | .itemTimeBoundary _ => none
  | .itemAdmission _ => none
  | .slotSwitch _ => none
  | .scrJobStep _ => none
  | .phaseRetirement _ => none
  | .mergeDeadlock _ => none
  | .agLineRequest _ _ => none
  | .agLineCompletion _ _ _ => none
  | .prqHeldPlacement _ => none
  | .bankLoadWriteback _ => none
  | .accDrain _ _ => none
  | .tileDecision _ => none
  | .copyAccept _ => none
  | .billetFire _ => none
  | .copyComplete _ _ => none
  | .remoteWriteImmediateArrival _ _ _ _ _ => none
  | .remoteRetryExhausted _ _ => none
  | .asyncMaskSatisfied _ _ => none
  | .ploadAccept _ _ => none
  | .waitSatisfied => none
  | .loadWriteback _ _ _ => none
  | .storePerform _ _ => none
  | .interrupt => none
  | .supervisorTimer _ => none
  | .hypervisorTimer _ => none
  | .sweepmaxOverrun _ => none
  | .preemptionCapture _ => none
  | .tenantSwitch _ => none
  | .tsentEnable _ _ => none
  | .rctlPreq => none
  | .rctlResume => none
  | .rctlResumeInject => none
  | .rnoteWrite _ => none
  | .hevtRead _ => none
  | .prqpopRead _ => none
  | .prqRetry => none
  | .prqFail => none
  | .prqForward => none
  | .sprqRetry => none
  | .sprqFail => none
  | .kctlLoad => none
  | .kctlDraw => none
  | .kctlDestroy => none
  | .kctlLoadMigration => none
  | .kctlStopVf => none
  | .kinitctlGo => none
  | .wvalidSet => none
  | .wvalidClear => none
  | .wmemWrite _ _ => none
  | .rimgctlDump => none
  | .rimgctlRest => none
  | .rpwrQuiesce => none
  | .rpwrSave => none
  | .rpwrGateClock => none
  | .rpwrGateRail => none
  | .rpwrWake => none
  | .powerTransitionComplete _ => none
  | .tokenWake _ _ _ => none
  | .powerOnStart _ => none
  | .bootctlCold _ => none
  | .bootctlWarm _ => none
  | .i3cStartRequest _ _ => none
  | .i3cRead _ => none
  | .droopTrip _ => none
  | .fclkRaise _ => none
  | .lifetimeStoreWrite => none
  | .orderlyPowerDown => none
  | .linkStateChange _ _ _ => none
  | .qpstatClear => none
  | .lqtailWrite _ => none
  | .doorbellWrite _ _ => none
  | .launchConsume _ => none
  | .ldoneWrite _ => none
  | .launchPacket _ _ _ => none
  | .rdbgdRead _ => none
  | .rdbgdWrite _ => none
  | .registerWrite _ _ => none
  | .nop => some (0x0#32)
  | .mov a b d g => some (0x10#11 ++ a ++ b ++ d ++ g ++ 0x0#4)
  | .veAdd t a b d g s => some (0x2#7 ++ t ++ a ++ b ++ d ++ g ++ s ++ 0x0#3)
  | .veSub t a b d g s => some (0x3#7 ++ t ++ a ++ b ++ d ++ g ++ s ++ 0x0#3)
  | .veMul t a b d g s => some (0x4#7 ++ t ++ a ++ b ++ d ++ g ++ s ++ 0x0#3)
  | .veMulh t a b d g => some (0x5#7 ++ t ++ a ++ b ++ d ++ g ++ 0x0#4)
  | .mad t a b d g s => some (0x6#7 ++ t ++ a ++ b ++ d ++ g ++ s ++ 0x0#3)
  | .veMin t a b d g => some (0x7#7 ++ t ++ a ++ b ++ d ++ g ++ 0x0#4)
  | .veMax t a b d g => some (0x8#7 ++ t ++ a ++ b ++ d ++ g ++ 0x0#4)
  | .abs t a b d g s => some (0x9#7 ++ t ++ a ++ b ++ d ++ g ++ s ++ 0x0#3)
  | .neg t a b d g s => some (0xA#7 ++ t ++ a ++ b ++ d ++ g ++ s ++ 0x0#3)
  | .veAnd a b d g => some (0xB1#11 ++ a ++ b ++ d ++ g ++ 0x0#4)
  | .veOr a b d g => some (0xC1#11 ++ a ++ b ++ d ++ g ++ 0x0#4)
  | .veXor a b d g => some (0xD1#11 ++ a ++ b ++ d ++ g ++ 0x0#4)
  | .veAndn a b d g => some (0xE1#11 ++ a ++ b ++ d ++ g ++ 0x0#4)
  | .not a b d g => some (0xF1#11 ++ a ++ b ++ d ++ g ++ 0x0#4)
  | .shl t a b d g s => some (0x10#7 ++ t ++ a ++ b ++ d ++ g ++ s ++ 0x0#3)
  | .shr t a b d g => some (0x11#7 ++ t ++ a ++ b ++ d ++ g ++ 0x0#4)
  | .rol t a b d g => some (0x12#7 ++ t ++ a ++ b ++ d ++ g ++ 0x0#4)
  | .veClz t a b d g => some (0x13#7 ++ t ++ a ++ b ++ d ++ g ++ 0x0#4)
  | .vePopc t a b d g => some (0x14#7 ++ t ++ a ++ b ++ d ++ g ++ 0x0#4)
  | .avg t a b d g => some (0x15#7 ++ t ++ a ++ b ++ d ++ g ++ 0x0#4)
  | .veAddi t a i d => some (0xB0#10 ++ t ++ a ++ (i.extractLsb' 6 5) ++ d ++ (i.extractLsb' 0 6))
  | .movi a i d => some (0x170#11 ++ a ++ (i.extractLsb' 6 5) ++ d ++ (i.extractLsb' 0 6))
  | .cmpEq t a b q g => some (0x18#7 ++ t ++ a ++ b ++ 0x0#3 ++ q ++ g ++ 0x0#4)
  | .cmpNe t a b q g => some (0x19#7 ++ t ++ a ++ b ++ 0x0#3 ++ q ++ g ++ 0x0#4)
  | .cmpLt t a b q g => some (0x1A#7 ++ t ++ a ++ b ++ 0x0#3 ++ q ++ g ++ 0x0#4)
  | .cmpLe t a b q g => some (0x1B#7 ++ t ++ a ++ b ++ 0x0#3 ++ q ++ g ++ 0x0#4)
  | .cmpGt t a b q g => some (0x1C#7 ++ t ++ a ++ b ++ 0x0#3 ++ q ++ g ++ 0x0#4)
  | .cmpGe t a b q g => some (0x1D#7 ++ t ++ a ++ b ++ 0x0#3 ++ q ++ g ++ 0x0#4)
  | .cmpUn t a b q g => some (0x1E#7 ++ t ++ a ++ b ++ 0x0#3 ++ q ++ g ++ 0x0#4)
  | .plog f a b q g => some (0x3E#8 ++ f ++ 0x0#3 ++ a ++ 0x0#3 ++ b ++ 0x0#3 ++ q ++ g ++ 0x0#4)
  | .sel p a b d g => some (0x80#9 ++ p ++ a ++ b ++ d ++ g ++ 0x0#4)
  | .clamp t a b d g => some (0x21#7 ++ t ++ a ++ b ++ d ++ g ++ 0x0#4)
  | .gate q g => some (0x441FF8#24 ++ q ++ g ++ 0x0#4)
  | .steer a q => some (0x230#11 ++ a ++ 0xF8#8 ++ q ++ 0x0#6)
  | .fadd t a b d g s r => some (0x24#7 ++ t ++ a ++ b ++ d ++ g ++ s ++ r ++ 0x0#1)
  | .fsub t a b d g s r => some (0x25#7 ++ t ++ a ++ b ++ d ++ g ++ s ++ r ++ 0x0#1)
  | .fmul t a b d g s r => some (0x26#7 ++ t ++ a ++ b ++ d ++ g ++ s ++ r ++ 0x0#1)
  | .fma t a b d g s r => some (0x27#7 ++ t ++ a ++ b ++ d ++ g ++ s ++ r ++ 0x0#1)
  | .fms t a b d g s r => some (0x28#7 ++ t ++ a ++ b ++ d ++ g ++ s ++ r ++ 0x0#1)
  | .fmin t a b d g => some (0x29#7 ++ t ++ a ++ b ++ d ++ g ++ 0x0#4)
  | .fmax t a b d g => some (0x2A#7 ++ t ++ a ++ b ++ d ++ g ++ 0x0#4)
  | .fabs t a b d g => some (0x2B#7 ++ t ++ a ++ b ++ d ++ g ++ 0x0#4)
  | .fneg t a b d g => some (0x2C#7 ++ t ++ a ++ b ++ d ++ g ++ 0x0#4)
  | .frnd t a b d g r => some (0x2D#7 ++ t ++ a ++ b ++ d ++ g ++ 0x0#1 ++ r ++ 0x0#1)
  | .fclamp t a b d g => some (0x2E#7 ++ t ++ a ++ b ++ d ++ g ++ 0x0#4)
  | .cvt t a c d g s r x => some (0x30#7 ++ t ++ a ++ 0x0#1 ++ c ++ d ++ g ++ s ++ r ++ x)
  | .pack t a b d g s r x => some (0x31#7 ++ t ++ a ++ b ++ d ++ g ++ s ++ r ++ x)
  | .unpklo t a b d g => some (0x32#7 ++ t ++ a ++ b ++ d ++ g ++ 0x0#4)
  | .unpkhi t a b d g => some (0x33#7 ++ t ++ a ++ b ++ d ++ g ++ 0x0#4)
  | .exp2 a b d g r => some (0x348#11 ++ a ++ b ++ d ++ g ++ 0x0#1 ++ r ++ 0x0#1)
  | .log2 a b d g r => some (0x358#11 ++ a ++ b ++ d ++ g ++ 0x0#1 ++ r ++ 0x0#1)
  | .rcp a b d g r => some (0x368#11 ++ a ++ b ++ d ++ g ++ 0x0#1 ++ r ++ 0x0#1)
  | .rsq a b d g r => some (0x378#11 ++ a ++ b ++ d ++ g ++ 0x0#1 ++ r ++ 0x0#1)
  | .tanh a b d g r => some (0x388#11 ++ a ++ b ++ d ++ g ++ 0x0#1 ++ r ++ 0x0#1)
  | .dot t a b d g s r => some (0x39#7 ++ t ++ a ++ b ++ d ++ g ++ s ++ r ++ 0x0#1)
  | .dotx a b d g s => some (0x3A4#11 ++ a ++ b ++ d ++ g ++ s ++ 0x0#3)
  | .ldb a b d g => some (0x400#11 ++ a ++ b ++ d ++ g ++ 0x0#4)
  | .stb a b d g => some (0x410#11 ++ a ++ b ++ d ++ g ++ 0x0#4)
  | .ldbi a i d => some (0x420#11 ++ a ++ (i.extractLsb' 6 5) ++ d ++ (i.extractLsb' 0 6))
  | .stbi a i d => some (0x430#11 ++ a ++ (i.extractLsb' 6 5) ++ d ++ (i.extractLsb' 0 6))
  | .atadd a b d g => some (0x440#11 ++ a ++ b ++ d ++ g ++ 0x0#4)
  | .atmin t a b d g => some (0x228#10 ++ t ++ a ++ b ++ d ++ g ++ 0x0#4)
  | .atmax t a b d g => some (0x230#10 ++ t ++ a ++ b ++ d ++ g ++ 0x0#4)
  | .atxchg a b d g => some (0x470#11 ++ a ++ b ++ d ++ g ++ 0x0#4)
  | .atcas a b d g => some (0x480#11 ++ a ++ b ++ d ++ g ++ 0x0#4)
  | .ldt a b d g => some (0x490#11 ++ a ++ b ++ d ++ g ++ 0x0#4)
  | .stt a b d g => some (0x4A0#11 ++ a ++ b ++ d ++ g ++ 0x0#4)
  | .emit a b d g => some (0x4C0#11 ++ a ++ b ++ d ++ g ++ 0x0#4)
  | .dropw a b d g => some (0x4D0#11 ++ a ++ b ++ d ++ g ++ 0x0#4)
  | .pcnt a b d g => some (0x4E0#11 ++ a ++ b ++ d ++ g ++ 0x0#4)
  | .eos a b q g => some (0x4F0#11 ++ a ++ b ++ 0x0#3 ++ q ++ g ++ 0x0#4)
  | .mma f k a b o l e d s => some (0x60#7 ++ f ++ k ++ a ++ b ++ o ++ l ++ e ++ d ++ s ++ 0x0#9)
  | .mmx f k a b o l e d s => some (0x61#7 ++ f ++ k ++ a ++ b ++ o ++ l ++ e ++ d ++ s ++ 0x0#9)
  | .azero k => some (0x620#11 ++ k ++ 0x0#19)
  | .adrain k d s => some (0x630#11 ++ k ++ 0x0#6 ++ d ++ s ++ 0x0#9)
  | .aload k => some (0x640#11 ++ k ++ 0x40000#19)
  | .ascale k i => some (0x650#11 ++ k ++ 0x0#10 ++ i)
  | .mpass => some (0xCC000000#32)
  | .add d a b => some (0x0#6 ++ d ++ a ++ b ++ 0x0#11)
  | .sub d a b => some (0x0#6 ++ d ++ a ++ b ++ 0x1#11)
  | .and d a b => some (0x0#6 ++ d ++ a ++ b ++ 0x2#11)
  | .or d a b => some (0x0#6 ++ d ++ a ++ b ++ 0x3#11)
  | .xor d a b => some (0x0#6 ++ d ++ a ++ b ++ 0x4#11)
  | .andn d a b => some (0x0#6 ++ d ++ a ++ b ++ 0x5#11)
  | .sll d a b => some (0x0#6 ++ d ++ a ++ b ++ 0x6#11)
  | .srl d a b => some (0x0#6 ++ d ++ a ++ b ++ 0x7#11)
  | .sra d a b => some (0x0#6 ++ d ++ a ++ b ++ 0x8#11)
  | .slt d a b => some (0x0#6 ++ d ++ a ++ b ++ 0x9#11)
  | .sltn d a b => some (0x0#6 ++ d ++ a ++ b ++ 0xA#11)
  | .min d a b => some (0x0#6 ++ d ++ a ++ b ++ 0xB#11)
  | .max d a b => some (0x0#6 ++ d ++ a ++ b ++ 0xC#11)
  | .minn d a b => some (0x0#6 ++ d ++ a ++ b ++ 0xD#11)
  | .maxn d a b => some (0x0#6 ++ d ++ a ++ b ++ 0xE#11)
  | .mul d a b => some (0x0#6 ++ d ++ a ++ b ++ 0xF#11)
  | .mulh d a b => some (0x0#6 ++ d ++ a ++ b ++ 0x10#11)
  | .mulhn d a b => some (0x0#6 ++ d ++ a ++ b ++ 0x11#11)
  | .div d a b => some (0x0#6 ++ d ++ a ++ b ++ 0x12#11)
  | .divn d a b => some (0x0#6 ++ d ++ a ++ b ++ 0x13#11)
  | .rem d a b => some (0x0#6 ++ d ++ a ++ b ++ 0x14#11)
  | .remn d a b => some (0x0#6 ++ d ++ a ++ b ++ 0x15#11)
  | .clz d a => some (0x0#6 ++ d ++ a ++ 0x16#16)
  | .ctz d a => some (0x0#6 ++ d ++ a ++ 0x17#16)
  | .popc d a => some (0x0#6 ++ d ++ a ++ 0x18#16)
  | .sextW d a => some (0x0#6 ++ d ++ a ++ 0x19#16)
  | .zextW d a => some (0x0#6 ++ d ++ a ++ 0x1A#16)
  | .addw d a b => some (0x0#6 ++ d ++ a ++ b ++ 0x1B#11)
  | .addi d a i => some (0x1#6 ++ d ++ a ++ i)
  | .andi d a i => some (0x2#6 ++ d ++ a ++ i)
  | .ori d a i => some (0x3#6 ++ d ++ a ++ i)
  | .xori d a i => some (0x4#6 ++ d ++ a ++ i)
  | .slti d a i => some (0x5#6 ++ d ++ a ++ i)
  | .sltni d a i => some (0x6#6 ++ d ++ a ++ i)
  | .shiSll d a h => some (0x7#6 ++ d ++ a ++ 0x0#10 ++ h)
  | .shiSrl d a h => some (0x7#6 ++ d ++ a ++ 0x100#10 ++ h)
  | .shiSra d a h => some (0x7#6 ++ d ++ a ++ 0x200#10 ++ h)
  | .lui d i => some (0x8#6 ++ d ++ 0x0#5 ++ i)
  | .auipc d i => some (0x9#6 ++ d ++ 0x0#5 ++ i)
  | .ld d b z o c i => some (0x10#6 ++ d ++ b ++ z ++ o ++ c ++ i)
  | .ldn d b z o c i => some (0x11#6 ++ d ++ b ++ z ++ o ++ c ++ i)
  | .st d b z o c i => some (0x12#6 ++ d ++ b ++ z ++ o ++ c ++ i)
  | .amoAdd d a b c o z => some (0x13#6 ++ d ++ a ++ b ++ c ++ o ++ 0x1#1 ++ z ++ 0x0#5)
  | .amoAnd d a b c o z => some (0x13#6 ++ d ++ a ++ b ++ c ++ o ++ 0x1#1 ++ z ++ 0x1#5)
  | .amoOr d a b c o z => some (0x13#6 ++ d ++ a ++ b ++ c ++ o ++ 0x1#1 ++ z ++ 0x2#5)
  | .amoXor d a b c o z => some (0x13#6 ++ d ++ a ++ b ++ c ++ o ++ 0x1#1 ++ z ++ 0x3#5)
  | .amoMin d a b c o z => some (0x13#6 ++ d ++ a ++ b ++ c ++ o ++ 0x1#1 ++ z ++ 0x4#5)
  | .amoMax d a b c o z => some (0x13#6 ++ d ++ a ++ b ++ c ++ o ++ 0x1#1 ++ z ++ 0x5#5)
  | .amoMinn d a b c o z => some (0x13#6 ++ d ++ a ++ b ++ c ++ o ++ 0x1#1 ++ z ++ 0x6#5)
  | .amoMaxn d a b c o z => some (0x13#6 ++ d ++ a ++ b ++ c ++ o ++ 0x1#1 ++ z ++ 0x7#5)
  | .amoSwap d a b c o z => some (0x13#6 ++ d ++ a ++ b ++ c ++ o ++ 0x1#1 ++ z ++ 0x8#5)
  | .amoCas d a b c o z => some (0x13#6 ++ d ++ a ++ b ++ c ++ o ++ 0x1#1 ++ z ++ 0x9#5)
  | .beq a b i => some (0x18#6 ++ a ++ b ++ i)
  | .bne a b i => some (0x19#6 ++ a ++ b ++ i)
  | .blt a b i => some (0x1A#6 ++ a ++ b ++ i)
  | .bge a b i => some (0x1B#6 ++ a ++ b ++ i)
  | .bltn a b i => some (0x1C#6 ++ a ++ b ++ i)
  | .bgen a b i => some (0x1D#6 ++ a ++ b ++ i)
  | .j i => some (0x1E#6 ++ i)
  | .jal i => some (0x1F#6 ++ i)
  | .jalr d a i => some (0x20#6 ++ d ++ a ++ i)
  | .jtab d a i => some (0x21#6 ++ d ++ a ++ i)
  | .fence c => some (0x22000000#30 ++ c)
  | .fenceRg a b c => some (0x440#11 ++ a ++ b ++ 0x1#9 ++ c)
  | .csrr d n => some (0x23#6 ++ d ++ 0x0#7 ++ n)
  | .csrw a n => some (0x480#11 ++ a ++ 0x0#2 ++ n)
  | .trap i => some (0x9400#16 ++ i)
  | .pload d a s w => some (0x28#6 ++ d ++ a ++ s ++ w ++ 0x0#4)
  | .pwait a => some (0x520#11 ++ a ++ 0x8000#16)
  | .cpy d a s w => some (0x2A#6 ++ d ++ a ++ s ++ w ++ 0x0#4)
  | .cpyB d a s w => some (0x2A#6 ++ d ++ a ++ s ++ w ++ 0x1#4)
  | .billetArm d a => some (0x2B#6 ++ d ++ a ++ 0x8000#16)
  | .billetDisarm d => some (0x2B#6 ++ d ++ 0x8001#21)
  | .tqpush a n => some (0x580#11 ++ a ++ 0x800#12 ++ n)
  | .tqcnt d n => some (0x2D#6 ++ d ++ 0x800#17 ++ n)
  | .waitd w => some (0xB8008#20 ++ w ++ 0x0#4)
  | .waitt a s => some (0x5E0#11 ++ a ++ 0x0#1 ++ s ++ 0x0#12)
  | .crnDef d a => some (0x30#6 ++ d ++ a ++ 0x8000#16)
  | .crnStep a s w => some (0x600#11 ++ a ++ s ++ w ++ 0x1#4)
  | .crnForce a => some (0x600#11 ++ a ++ 0x8002#16)
  | .crnMap d a => some (0x30#6 ++ d ++ a ++ 0x8003#16)
  | .crnUndef a => some (0x600#11 ++ a ++ 0x8004#16)
  | .crnStat d a => some (0x30#6 ++ d ++ a ++ 0x8005#16)
  | .cset d a => some (0x31#6 ++ d ++ a ++ 0x8000#16)
  | .mark a => some (0x640#11 ++ a ++ 0x8000#16)
  | .wopen d a => some (0x33#6 ++ d ++ a ++ 0x8000#16)
  | .wseal a => some (0x680#11 ++ a ++ 0x8000#16)
  | .launch a => some (0x6A0#11 ++ a ++ 0x8000#16)
  | .pstat d a => some (0x36#6 ++ d ++ a ++ 0x8000#16)
  | .sret => some (0xE0000000#32)
  | .hret => some (0xE0000001#32)
  | .wfi => some (0xE0000002#32)
  | .halt d a => some (0x38#6 ++ d ++ a ++ 0x3#16)
  | .tlbiVa a b => some (0x700#11 ++ a ++ b ++ 0x4#11)
  | .tlbiAsid a => some (0x700#11 ++ a ++ 0x5#16)
  | .tlbiVf a => some (0x700#11 ++ a ++ 0x6#16)
  | .tlbiAll => some (0xE0000007#32)
  | .isave d a b => some (0x38#6 ++ d ++ a ++ b ++ 0x8#11)
  | .irest d a => some (0x38#6 ++ d ++ a ++ 0x9#16)
  | .gcfg d a => some (0x38#6 ++ d ++ a ++ 0xA#16)
  | .ccfg d a => some (0x38#6 ++ d ++ a ++ 0xB#16)
  | .scrub d a => some (0x38#6 ++ d ++ a ++ 0xC#16)
  | .dret d a => some (0x38#6 ++ d ++ a ++ 0xD#16)
  | .illegalInstruction _ => none
  | .instructionFetchFault => none
  | .managementCoreInterrupt => none
  | .clockStretch _ _ => none
  | .channelInitComplete => none
  | .hostAccess _ _ => none
  | .remoteAccessArrival _ _ _ _ _ => none
  | .powerFailure => none
  | .laneRepair _ => none
  | .testAccessPortInstruction _ => none

/-- The element instruction an opcode names (R184), its fields taken as they stand. -/
def elemOf (op : Nat) (w : W32) : Option Instr :=
  match op with
  | 0x00 => some (.nop)
  | 0x01 => some (.mov (w.extractLsb' 16 5) (w.extractLsb' 11 5) (w.extractLsb' 6 5) (w.extractLsb' 4 2))
  | 0x02 => some (.veAdd (w.extractLsb' 21 4) (w.extractLsb' 16 5) (w.extractLsb' 11 5) (w.extractLsb' 6 5) (w.extractLsb' 4 2) (w.extractLsb' 3 1))
  | 0x03 => some (.veSub (w.extractLsb' 21 4) (w.extractLsb' 16 5) (w.extractLsb' 11 5) (w.extractLsb' 6 5) (w.extractLsb' 4 2) (w.extractLsb' 3 1))
  | 0x04 => some (.veMul (w.extractLsb' 21 4) (w.extractLsb' 16 5) (w.extractLsb' 11 5) (w.extractLsb' 6 5) (w.extractLsb' 4 2) (w.extractLsb' 3 1))
  | 0x05 => some (.veMulh (w.extractLsb' 21 4) (w.extractLsb' 16 5) (w.extractLsb' 11 5) (w.extractLsb' 6 5) (w.extractLsb' 4 2))
  | 0x06 => some (.mad (w.extractLsb' 21 4) (w.extractLsb' 16 5) (w.extractLsb' 11 5) (w.extractLsb' 6 5) (w.extractLsb' 4 2) (w.extractLsb' 3 1))
  | 0x07 => some (.veMin (w.extractLsb' 21 4) (w.extractLsb' 16 5) (w.extractLsb' 11 5) (w.extractLsb' 6 5) (w.extractLsb' 4 2))
  | 0x08 => some (.veMax (w.extractLsb' 21 4) (w.extractLsb' 16 5) (w.extractLsb' 11 5) (w.extractLsb' 6 5) (w.extractLsb' 4 2))
  | 0x09 => some (.abs (w.extractLsb' 21 4) (w.extractLsb' 16 5) (w.extractLsb' 11 5) (w.extractLsb' 6 5) (w.extractLsb' 4 2) (w.extractLsb' 3 1))
  | 0x0A => some (.neg (w.extractLsb' 21 4) (w.extractLsb' 16 5) (w.extractLsb' 11 5) (w.extractLsb' 6 5) (w.extractLsb' 4 2) (w.extractLsb' 3 1))
  | 0x0B => some (.veAnd (w.extractLsb' 16 5) (w.extractLsb' 11 5) (w.extractLsb' 6 5) (w.extractLsb' 4 2))
  | 0x0C => some (.veOr (w.extractLsb' 16 5) (w.extractLsb' 11 5) (w.extractLsb' 6 5) (w.extractLsb' 4 2))
  | 0x0D => some (.veXor (w.extractLsb' 16 5) (w.extractLsb' 11 5) (w.extractLsb' 6 5) (w.extractLsb' 4 2))
  | 0x0E => some (.veAndn (w.extractLsb' 16 5) (w.extractLsb' 11 5) (w.extractLsb' 6 5) (w.extractLsb' 4 2))
  | 0x0F => some (.not (w.extractLsb' 16 5) (w.extractLsb' 11 5) (w.extractLsb' 6 5) (w.extractLsb' 4 2))
  | 0x10 => some (.shl (w.extractLsb' 21 4) (w.extractLsb' 16 5) (w.extractLsb' 11 5) (w.extractLsb' 6 5) (w.extractLsb' 4 2) (w.extractLsb' 3 1))
  | 0x11 => some (.shr (w.extractLsb' 21 4) (w.extractLsb' 16 5) (w.extractLsb' 11 5) (w.extractLsb' 6 5) (w.extractLsb' 4 2))
  | 0x12 => some (.rol (w.extractLsb' 21 4) (w.extractLsb' 16 5) (w.extractLsb' 11 5) (w.extractLsb' 6 5) (w.extractLsb' 4 2))
  | 0x13 => some (.veClz (w.extractLsb' 21 4) (w.extractLsb' 16 5) (w.extractLsb' 11 5) (w.extractLsb' 6 5) (w.extractLsb' 4 2))
  | 0x14 => some (.vePopc (w.extractLsb' 21 4) (w.extractLsb' 16 5) (w.extractLsb' 11 5) (w.extractLsb' 6 5) (w.extractLsb' 4 2))
  | 0x15 => some (.avg (w.extractLsb' 21 4) (w.extractLsb' 16 5) (w.extractLsb' 11 5) (w.extractLsb' 6 5) (w.extractLsb' 4 2))
  | 0x16 => some (.veAddi (w.extractLsb' 21 1) (w.extractLsb' 16 5) ((w.extractLsb' 11 5) ++ (w.extractLsb' 0 6)) (w.extractLsb' 6 5))
  | 0x17 => some (.movi (w.extractLsb' 16 5) ((w.extractLsb' 11 5) ++ (w.extractLsb' 0 6)) (w.extractLsb' 6 5))
  | 0x18 => some (.cmpEq (w.extractLsb' 21 4) (w.extractLsb' 16 5) (w.extractLsb' 11 5) (w.extractLsb' 6 2) (w.extractLsb' 4 2))
  | 0x19 => some (.cmpNe (w.extractLsb' 21 4) (w.extractLsb' 16 5) (w.extractLsb' 11 5) (w.extractLsb' 6 2) (w.extractLsb' 4 2))
  | 0x1A => some (.cmpLt (w.extractLsb' 21 4) (w.extractLsb' 16 5) (w.extractLsb' 11 5) (w.extractLsb' 6 2) (w.extractLsb' 4 2))
  | 0x1B => some (.cmpLe (w.extractLsb' 21 4) (w.extractLsb' 16 5) (w.extractLsb' 11 5) (w.extractLsb' 6 2) (w.extractLsb' 4 2))
  | 0x1C => some (.cmpGt (w.extractLsb' 21 4) (w.extractLsb' 16 5) (w.extractLsb' 11 5) (w.extractLsb' 6 2) (w.extractLsb' 4 2))
  | 0x1D => some (.cmpGe (w.extractLsb' 21 4) (w.extractLsb' 16 5) (w.extractLsb' 11 5) (w.extractLsb' 6 2) (w.extractLsb' 4 2))
  | 0x1E => some (.cmpUn (w.extractLsb' 21 4) (w.extractLsb' 16 5) (w.extractLsb' 11 5) (w.extractLsb' 6 2) (w.extractLsb' 4 2))
  | 0x1F => some (.plog (w.extractLsb' 21 3) (w.extractLsb' 16 2) (w.extractLsb' 11 2) (w.extractLsb' 6 2) (w.extractLsb' 4 2))
  | 0x20 => some (.sel (w.extractLsb' 21 2) (w.extractLsb' 16 5) (w.extractLsb' 11 5) (w.extractLsb' 6 5) (w.extractLsb' 4 2))
  | 0x21 => some (.clamp (w.extractLsb' 21 4) (w.extractLsb' 16 5) (w.extractLsb' 11 5) (w.extractLsb' 6 5) (w.extractLsb' 4 2))
  | 0x22 => some (.gate (w.extractLsb' 6 2) (w.extractLsb' 4 2))
  | 0x23 => some (.steer (w.extractLsb' 16 5) (w.extractLsb' 6 2))
  | 0x24 => some (.fadd (w.extractLsb' 21 4) (w.extractLsb' 16 5) (w.extractLsb' 11 5) (w.extractLsb' 6 5) (w.extractLsb' 4 2) (w.extractLsb' 3 1) (w.extractLsb' 1 2))
  | 0x25 => some (.fsub (w.extractLsb' 21 4) (w.extractLsb' 16 5) (w.extractLsb' 11 5) (w.extractLsb' 6 5) (w.extractLsb' 4 2) (w.extractLsb' 3 1) (w.extractLsb' 1 2))
  | 0x26 => some (.fmul (w.extractLsb' 21 4) (w.extractLsb' 16 5) (w.extractLsb' 11 5) (w.extractLsb' 6 5) (w.extractLsb' 4 2) (w.extractLsb' 3 1) (w.extractLsb' 1 2))
  | 0x27 => some (.fma (w.extractLsb' 21 4) (w.extractLsb' 16 5) (w.extractLsb' 11 5) (w.extractLsb' 6 5) (w.extractLsb' 4 2) (w.extractLsb' 3 1) (w.extractLsb' 1 2))
  | 0x28 => some (.fms (w.extractLsb' 21 4) (w.extractLsb' 16 5) (w.extractLsb' 11 5) (w.extractLsb' 6 5) (w.extractLsb' 4 2) (w.extractLsb' 3 1) (w.extractLsb' 1 2))
  | 0x29 => some (.fmin (w.extractLsb' 21 4) (w.extractLsb' 16 5) (w.extractLsb' 11 5) (w.extractLsb' 6 5) (w.extractLsb' 4 2))
  | 0x2A => some (.fmax (w.extractLsb' 21 4) (w.extractLsb' 16 5) (w.extractLsb' 11 5) (w.extractLsb' 6 5) (w.extractLsb' 4 2))
  | 0x2B => some (.fabs (w.extractLsb' 21 4) (w.extractLsb' 16 5) (w.extractLsb' 11 5) (w.extractLsb' 6 5) (w.extractLsb' 4 2))
  | 0x2C => some (.fneg (w.extractLsb' 21 4) (w.extractLsb' 16 5) (w.extractLsb' 11 5) (w.extractLsb' 6 5) (w.extractLsb' 4 2))
  | 0x2D => some (.frnd (w.extractLsb' 21 4) (w.extractLsb' 16 5) (w.extractLsb' 11 5) (w.extractLsb' 6 5) (w.extractLsb' 4 2) (w.extractLsb' 1 2))
  | 0x2E => some (.fclamp (w.extractLsb' 21 4) (w.extractLsb' 16 5) (w.extractLsb' 11 5) (w.extractLsb' 6 5) (w.extractLsb' 4 2))
  | 0x30 => some (.cvt (w.extractLsb' 21 4) (w.extractLsb' 16 5) (w.extractLsb' 11 4) (w.extractLsb' 6 5) (w.extractLsb' 4 2) (w.extractLsb' 3 1) (w.extractLsb' 1 2) (w.extractLsb' 0 1))
  | 0x31 => some (.pack (w.extractLsb' 21 4) (w.extractLsb' 16 5) (w.extractLsb' 11 5) (w.extractLsb' 6 5) (w.extractLsb' 4 2) (w.extractLsb' 3 1) (w.extractLsb' 1 2) (w.extractLsb' 0 1))
  | 0x32 => some (.unpklo (w.extractLsb' 21 4) (w.extractLsb' 16 5) (w.extractLsb' 11 5) (w.extractLsb' 6 5) (w.extractLsb' 4 2))
  | 0x33 => some (.unpkhi (w.extractLsb' 21 4) (w.extractLsb' 16 5) (w.extractLsb' 11 5) (w.extractLsb' 6 5) (w.extractLsb' 4 2))
  | 0x34 => some (.exp2 (w.extractLsb' 16 5) (w.extractLsb' 11 5) (w.extractLsb' 6 5) (w.extractLsb' 4 2) (w.extractLsb' 1 2))
  | 0x35 => some (.log2 (w.extractLsb' 16 5) (w.extractLsb' 11 5) (w.extractLsb' 6 5) (w.extractLsb' 4 2) (w.extractLsb' 1 2))
  | 0x36 => some (.rcp (w.extractLsb' 16 5) (w.extractLsb' 11 5) (w.extractLsb' 6 5) (w.extractLsb' 4 2) (w.extractLsb' 1 2))
  | 0x37 => some (.rsq (w.extractLsb' 16 5) (w.extractLsb' 11 5) (w.extractLsb' 6 5) (w.extractLsb' 4 2) (w.extractLsb' 1 2))
  | 0x38 => some (.tanh (w.extractLsb' 16 5) (w.extractLsb' 11 5) (w.extractLsb' 6 5) (w.extractLsb' 4 2) (w.extractLsb' 1 2))
  | 0x39 => some (.dot (w.extractLsb' 21 4) (w.extractLsb' 16 5) (w.extractLsb' 11 5) (w.extractLsb' 6 5) (w.extractLsb' 4 2) (w.extractLsb' 3 1) (w.extractLsb' 1 2))
  | 0x3A => some (.dotx (w.extractLsb' 16 5) (w.extractLsb' 11 5) (w.extractLsb' 6 5) (w.extractLsb' 4 2) (w.extractLsb' 3 1))
  | 0x40 => some (.ldb (w.extractLsb' 16 5) (w.extractLsb' 11 5) (w.extractLsb' 6 5) (w.extractLsb' 4 2))
  | 0x41 => some (.stb (w.extractLsb' 16 5) (w.extractLsb' 11 5) (w.extractLsb' 6 5) (w.extractLsb' 4 2))
  | 0x42 => some (.ldbi (w.extractLsb' 16 5) ((w.extractLsb' 11 5) ++ (w.extractLsb' 0 6)) (w.extractLsb' 6 5))
  | 0x43 => some (.stbi (w.extractLsb' 16 5) ((w.extractLsb' 11 5) ++ (w.extractLsb' 0 6)) (w.extractLsb' 6 5))
  | 0x44 => some (.atadd (w.extractLsb' 16 5) (w.extractLsb' 11 5) (w.extractLsb' 6 5) (w.extractLsb' 4 2))
  | 0x45 => some (.atmin (w.extractLsb' 21 1) (w.extractLsb' 16 5) (w.extractLsb' 11 5) (w.extractLsb' 6 5) (w.extractLsb' 4 2))
  | 0x46 => some (.atmax (w.extractLsb' 21 1) (w.extractLsb' 16 5) (w.extractLsb' 11 5) (w.extractLsb' 6 5) (w.extractLsb' 4 2))
  | 0x47 => some (.atxchg (w.extractLsb' 16 5) (w.extractLsb' 11 5) (w.extractLsb' 6 5) (w.extractLsb' 4 2))
  | 0x48 => some (.atcas (w.extractLsb' 16 5) (w.extractLsb' 11 5) (w.extractLsb' 6 5) (w.extractLsb' 4 2))
  | 0x49 => some (.ldt (w.extractLsb' 16 5) (w.extractLsb' 11 5) (w.extractLsb' 6 5) (w.extractLsb' 4 2))
  | 0x4A => some (.stt (w.extractLsb' 16 5) (w.extractLsb' 11 5) (w.extractLsb' 6 5) (w.extractLsb' 4 2))
  | 0x4C => some (.emit (w.extractLsb' 16 5) (w.extractLsb' 11 5) (w.extractLsb' 6 5) (w.extractLsb' 4 2))
  | 0x4D => some (.dropw (w.extractLsb' 16 5) (w.extractLsb' 11 5) (w.extractLsb' 6 5) (w.extractLsb' 4 2))
  | 0x4E => some (.pcnt (w.extractLsb' 16 5) (w.extractLsb' 11 5) (w.extractLsb' 6 5) (w.extractLsb' 4 2))
  | 0x4F => some (.eos (w.extractLsb' 16 5) (w.extractLsb' 11 5) (w.extractLsb' 6 2) (w.extractLsb' 4 2))
  | 0x60 => some (.mma (w.extractLsb' 21 4) (w.extractLsb' 19 2) (w.extractLsb' 18 1) (w.extractLsb' 17 1) (w.extractLsb' 16 1) (w.extractLsb' 14 2) (w.extractLsb' 13 1) (w.extractLsb' 10 3) (w.extractLsb' 9 1))
  | 0x61 => some (.mmx (w.extractLsb' 21 4) (w.extractLsb' 19 2) (w.extractLsb' 18 1) (w.extractLsb' 17 1) (w.extractLsb' 16 1) (w.extractLsb' 14 2) (w.extractLsb' 13 1) (w.extractLsb' 10 3) (w.extractLsb' 9 1))
  | 0x62 => some (.azero (w.extractLsb' 19 2))
  | 0x63 => some (.adrain (w.extractLsb' 19 2) (w.extractLsb' 10 3) (w.extractLsb' 9 1))
  | 0x64 => some (.aload (w.extractLsb' 19 2))
  | 0x65 => some (.ascale (w.extractLsb' 19 2) (w.extractLsb' 0 9))
  | 0x66 => some (.mpass)
  | _ => none

/-- The element instruction of a word, by its opcode. -/
def rawElem (w : W32) : Option Instr := elemOf (wordBits w 31 25) w

/-- The sequencer words of op 0x00, by their selecting field. -/
def seqOf00 (sub : Nat) (w : W32) : Option Instr :=
  match sub with
  | 0 => some (.add (w.extractLsb' 21 5) (w.extractLsb' 16 5) (w.extractLsb' 11 5))
  | 1 => some (.sub (w.extractLsb' 21 5) (w.extractLsb' 16 5) (w.extractLsb' 11 5))
  | 2 => some (.and (w.extractLsb' 21 5) (w.extractLsb' 16 5) (w.extractLsb' 11 5))
  | 3 => some (.or (w.extractLsb' 21 5) (w.extractLsb' 16 5) (w.extractLsb' 11 5))
  | 4 => some (.xor (w.extractLsb' 21 5) (w.extractLsb' 16 5) (w.extractLsb' 11 5))
  | 5 => some (.andn (w.extractLsb' 21 5) (w.extractLsb' 16 5) (w.extractLsb' 11 5))
  | 6 => some (.sll (w.extractLsb' 21 5) (w.extractLsb' 16 5) (w.extractLsb' 11 5))
  | 7 => some (.srl (w.extractLsb' 21 5) (w.extractLsb' 16 5) (w.extractLsb' 11 5))
  | 8 => some (.sra (w.extractLsb' 21 5) (w.extractLsb' 16 5) (w.extractLsb' 11 5))
  | 9 => some (.slt (w.extractLsb' 21 5) (w.extractLsb' 16 5) (w.extractLsb' 11 5))
  | 10 => some (.sltn (w.extractLsb' 21 5) (w.extractLsb' 16 5) (w.extractLsb' 11 5))
  | 11 => some (.min (w.extractLsb' 21 5) (w.extractLsb' 16 5) (w.extractLsb' 11 5))
  | 12 => some (.max (w.extractLsb' 21 5) (w.extractLsb' 16 5) (w.extractLsb' 11 5))
  | 13 => some (.minn (w.extractLsb' 21 5) (w.extractLsb' 16 5) (w.extractLsb' 11 5))
  | 14 => some (.maxn (w.extractLsb' 21 5) (w.extractLsb' 16 5) (w.extractLsb' 11 5))
  | 15 => some (.mul (w.extractLsb' 21 5) (w.extractLsb' 16 5) (w.extractLsb' 11 5))
  | 16 => some (.mulh (w.extractLsb' 21 5) (w.extractLsb' 16 5) (w.extractLsb' 11 5))
  | 17 => some (.mulhn (w.extractLsb' 21 5) (w.extractLsb' 16 5) (w.extractLsb' 11 5))
  | 18 => some (.div (w.extractLsb' 21 5) (w.extractLsb' 16 5) (w.extractLsb' 11 5))
  | 19 => some (.divn (w.extractLsb' 21 5) (w.extractLsb' 16 5) (w.extractLsb' 11 5))
  | 20 => some (.rem (w.extractLsb' 21 5) (w.extractLsb' 16 5) (w.extractLsb' 11 5))
  | 21 => some (.remn (w.extractLsb' 21 5) (w.extractLsb' 16 5) (w.extractLsb' 11 5))
  | 22 => some (.clz (w.extractLsb' 21 5) (w.extractLsb' 16 5))
  | 23 => some (.ctz (w.extractLsb' 21 5) (w.extractLsb' 16 5))
  | 24 => some (.popc (w.extractLsb' 21 5) (w.extractLsb' 16 5))
  | 25 => some (.sextW (w.extractLsb' 21 5) (w.extractLsb' 16 5))
  | 26 => some (.zextW (w.extractLsb' 21 5) (w.extractLsb' 16 5))
  | 27 => some (.addw (w.extractLsb' 21 5) (w.extractLsb' 16 5) (w.extractLsb' 11 5))
  | _ => none

/-- The sequencer words of op 0x07, by their selecting field. -/
def seqOf07 (sub : Nat) (w : W32) : Option Instr :=
  match sub with
  | 0 => some (.shiSll (w.extractLsb' 21 5) (w.extractLsb' 16 5) (w.extractLsb' 0 6))
  | 1 => some (.shiSrl (w.extractLsb' 21 5) (w.extractLsb' 16 5) (w.extractLsb' 0 6))
  | 2 => some (.shiSra (w.extractLsb' 21 5) (w.extractLsb' 16 5) (w.extractLsb' 0 6))
  | _ => none

/-- The sequencer words of op 0x13, by their selecting field. -/
def seqOf13 (sub : Nat) (w : W32) : Option Instr :=
  match sub with
  | 0 => some (.amoAdd (w.extractLsb' 21 5) (w.extractLsb' 16 5) (w.extractLsb' 11 5) (w.extractLsb' 9 2) (w.extractLsb' 7 2) (w.extractLsb' 5 1))
  | 1 => some (.amoAnd (w.extractLsb' 21 5) (w.extractLsb' 16 5) (w.extractLsb' 11 5) (w.extractLsb' 9 2) (w.extractLsb' 7 2) (w.extractLsb' 5 1))
  | 2 => some (.amoOr (w.extractLsb' 21 5) (w.extractLsb' 16 5) (w.extractLsb' 11 5) (w.extractLsb' 9 2) (w.extractLsb' 7 2) (w.extractLsb' 5 1))
  | 3 => some (.amoXor (w.extractLsb' 21 5) (w.extractLsb' 16 5) (w.extractLsb' 11 5) (w.extractLsb' 9 2) (w.extractLsb' 7 2) (w.extractLsb' 5 1))
  | 4 => some (.amoMin (w.extractLsb' 21 5) (w.extractLsb' 16 5) (w.extractLsb' 11 5) (w.extractLsb' 9 2) (w.extractLsb' 7 2) (w.extractLsb' 5 1))
  | 5 => some (.amoMax (w.extractLsb' 21 5) (w.extractLsb' 16 5) (w.extractLsb' 11 5) (w.extractLsb' 9 2) (w.extractLsb' 7 2) (w.extractLsb' 5 1))
  | 6 => some (.amoMinn (w.extractLsb' 21 5) (w.extractLsb' 16 5) (w.extractLsb' 11 5) (w.extractLsb' 9 2) (w.extractLsb' 7 2) (w.extractLsb' 5 1))
  | 7 => some (.amoMaxn (w.extractLsb' 21 5) (w.extractLsb' 16 5) (w.extractLsb' 11 5) (w.extractLsb' 9 2) (w.extractLsb' 7 2) (w.extractLsb' 5 1))
  | 8 => some (.amoSwap (w.extractLsb' 21 5) (w.extractLsb' 16 5) (w.extractLsb' 11 5) (w.extractLsb' 9 2) (w.extractLsb' 7 2) (w.extractLsb' 5 1))
  | 9 => some (.amoCas (w.extractLsb' 21 5) (w.extractLsb' 16 5) (w.extractLsb' 11 5) (w.extractLsb' 9 2) (w.extractLsb' 7 2) (w.extractLsb' 5 1))
  | _ => none

/-- The sequencer words of op 0x22, by their selecting field. -/
def seqOf22 (sub : Nat) (w : W32) : Option Instr :=
  match sub with
  | 0 => some (.fence (w.extractLsb' 0 2))
  | 1 => some (.fenceRg (w.extractLsb' 16 5) (w.extractLsb' 11 5) (w.extractLsb' 0 2))
  | _ => none

/-- The sequencer words of op 0x2A, by their selecting field. -/
def seqOf2A (sub : Nat) (w : W32) : Option Instr :=
  match sub with
  | 0 => some (.cpy (w.extractLsb' 21 5) (w.extractLsb' 16 5) (w.extractLsb' 12 4) (w.extractLsb' 4 8))
  | 1 => some (.cpyB (w.extractLsb' 21 5) (w.extractLsb' 16 5) (w.extractLsb' 12 4) (w.extractLsb' 4 8))
  | _ => none

/-- The sequencer words of op 0x2B, by their selecting field. -/
def seqOf2B (sub : Nat) (w : W32) : Option Instr :=
  match sub with
  | 0 => some (.billetArm (w.extractLsb' 21 5) (w.extractLsb' 16 5))
  | 1 => some (.billetDisarm (w.extractLsb' 21 5))
  | _ => none

/-- The sequencer words of op 0x30, by their selecting field. -/
def seqOf30 (sub : Nat) (w : W32) : Option Instr :=
  match sub with
  | 0 => some (.crnDef (w.extractLsb' 21 5) (w.extractLsb' 16 5))
  | 1 => some (.crnStep (w.extractLsb' 16 5) (w.extractLsb' 12 4) (w.extractLsb' 4 8))
  | 2 => some (.crnForce (w.extractLsb' 16 5))
  | 3 => some (.crnMap (w.extractLsb' 21 5) (w.extractLsb' 16 5))
  | 4 => some (.crnUndef (w.extractLsb' 16 5))
  | 5 => some (.crnStat (w.extractLsb' 21 5) (w.extractLsb' 16 5))
  | _ => none

/-- The sequencer words of op 0x38, by their selecting field. -/
def seqOf38 (sub : Nat) (w : W32) : Option Instr :=
  match sub with
  | 0 => some (.sret)
  | 1 => some (.hret)
  | 2 => some (.wfi)
  | 3 => some (.halt (w.extractLsb' 21 5) (w.extractLsb' 16 5))
  | 4 => some (.tlbiVa (w.extractLsb' 16 5) (w.extractLsb' 11 5))
  | 5 => some (.tlbiAsid (w.extractLsb' 16 5))
  | 6 => some (.tlbiVf (w.extractLsb' 16 5))
  | 7 => some (.tlbiAll)
  | 8 => some (.isave (w.extractLsb' 21 5) (w.extractLsb' 16 5) (w.extractLsb' 11 5))
  | 9 => some (.irest (w.extractLsb' 21 5) (w.extractLsb' 16 5))
  | 10 => some (.gcfg (w.extractLsb' 21 5) (w.extractLsb' 16 5))
  | 11 => some (.ccfg (w.extractLsb' 21 5) (w.extractLsb' 16 5))
  | 12 => some (.scrub (w.extractLsb' 21 5) (w.extractLsb' 16 5))
  | 13 => some (.dret (w.extractLsb' 21 5) (w.extractLsb' 16 5))
  | _ => none

/-- The sequencer instruction that op and its selecting field name (R196 to R200), its fields taken as they stand. -/
def seqOf (op : Nat) (w : W32) : Option Instr :=
  match op with
  | 0x00 => seqOf00 (wordBits w 10 0) w
  | 0x01 => some (.addi (w.extractLsb' 21 5) (w.extractLsb' 16 5) (w.extractLsb' 0 16))
  | 0x02 => some (.andi (w.extractLsb' 21 5) (w.extractLsb' 16 5) (w.extractLsb' 0 16))
  | 0x03 => some (.ori (w.extractLsb' 21 5) (w.extractLsb' 16 5) (w.extractLsb' 0 16))
  | 0x04 => some (.xori (w.extractLsb' 21 5) (w.extractLsb' 16 5) (w.extractLsb' 0 16))
  | 0x05 => some (.slti (w.extractLsb' 21 5) (w.extractLsb' 16 5) (w.extractLsb' 0 16))
  | 0x06 => some (.sltni (w.extractLsb' 21 5) (w.extractLsb' 16 5) (w.extractLsb' 0 16))
  | 0x07 => seqOf07 (wordBits w 15 14) w
  | 0x08 => some (.lui (w.extractLsb' 21 5) (w.extractLsb' 0 16))
  | 0x09 => some (.auipc (w.extractLsb' 21 5) (w.extractLsb' 0 16))
  | 0x10 => some (.ld (w.extractLsb' 21 5) (w.extractLsb' 16 5) (w.extractLsb' 14 2) (w.extractLsb' 12 2) (w.extractLsb' 10 2) (w.extractLsb' 0 10))
  | 0x11 => some (.ldn (w.extractLsb' 21 5) (w.extractLsb' 16 5) (w.extractLsb' 14 2) (w.extractLsb' 12 2) (w.extractLsb' 10 2) (w.extractLsb' 0 10))
  | 0x12 => some (.st (w.extractLsb' 21 5) (w.extractLsb' 16 5) (w.extractLsb' 14 2) (w.extractLsb' 12 2) (w.extractLsb' 10 2) (w.extractLsb' 0 10))
  | 0x13 => seqOf13 (wordBits w 4 0) w
  | 0x18 => some (.beq (w.extractLsb' 21 5) (w.extractLsb' 16 5) (w.extractLsb' 0 16))
  | 0x19 => some (.bne (w.extractLsb' 21 5) (w.extractLsb' 16 5) (w.extractLsb' 0 16))
  | 0x1A => some (.blt (w.extractLsb' 21 5) (w.extractLsb' 16 5) (w.extractLsb' 0 16))
  | 0x1B => some (.bge (w.extractLsb' 21 5) (w.extractLsb' 16 5) (w.extractLsb' 0 16))
  | 0x1C => some (.bltn (w.extractLsb' 21 5) (w.extractLsb' 16 5) (w.extractLsb' 0 16))
  | 0x1D => some (.bgen (w.extractLsb' 21 5) (w.extractLsb' 16 5) (w.extractLsb' 0 16))
  | 0x1E => some (.j (w.extractLsb' 0 26))
  | 0x1F => some (.jal (w.extractLsb' 0 26))
  | 0x20 => some (.jalr (w.extractLsb' 21 5) (w.extractLsb' 16 5) (w.extractLsb' 0 16))
  | 0x21 => some (.jtab (w.extractLsb' 21 5) (w.extractLsb' 16 5) (w.extractLsb' 0 16))
  | 0x22 => seqOf22 (wordBits w 2 2) w
  | 0x23 => some (.csrr (w.extractLsb' 21 5) (w.extractLsb' 0 14))
  | 0x24 => some (.csrw (w.extractLsb' 16 5) (w.extractLsb' 0 14))
  | 0x25 => some (.trap (w.extractLsb' 0 16))
  | 0x28 => some (.pload (w.extractLsb' 21 5) (w.extractLsb' 16 5) (w.extractLsb' 12 4) (w.extractLsb' 4 8))
  | 0x29 => some (.pwait (w.extractLsb' 16 5))
  | 0x2A => seqOf2A (wordBits w 3 0) w
  | 0x2B => seqOf2B (wordBits w 3 0) w
  | 0x2C => some (.tqpush (w.extractLsb' 16 5) (w.extractLsb' 0 4))
  | 0x2D => some (.tqcnt (w.extractLsb' 21 5) (w.extractLsb' 0 4))
  | 0x2E => some (.waitd (w.extractLsb' 4 8))
  | 0x2F => some (.waitt (w.extractLsb' 16 5) (w.extractLsb' 12 3))
  | 0x30 => seqOf30 (wordBits w 3 0) w
  | 0x31 => some (.cset (w.extractLsb' 21 5) (w.extractLsb' 16 5))
  | 0x32 => some (.mark (w.extractLsb' 16 5))
  | 0x33 => some (.wopen (w.extractLsb' 21 5) (w.extractLsb' 16 5))
  | 0x34 => some (.wseal (w.extractLsb' 16 5))
  | 0x35 => some (.launch (w.extractLsb' 16 5))
  | 0x36 => some (.pstat (w.extractLsb' 21 5) (w.extractLsb' 16 5))
  | 0x38 => seqOf38 (wordBits w 10 0) w
  | _ => none

/-- The sequencer instruction of a word, by its op. -/
def rawSeq (w : W32) : Option Instr := seqOf (wordBits w 31 26) w

/-- A raw reading is an instruction when every fixed field holds its value and every other one an accepted value. -/
def checkWord (w : W32) : Option Instr → Except DecodeError Instr
  | none => .error .reservedOpcode
  | some i =>
    if encode i = some w then (if i.wf then .ok i else .error .illegalField) else .error .reservedField

/-- The element instruction a context word holds (R184 to R186). -/
def decodeElem (w : W32) : Except DecodeError Instr := checkWord w (rawElem w)

/-- The sequencer instruction a fetched word holds (R196 to R201). -/
def decodeSeq (w : W32) : Except DecodeError Instr := checkWord w (rawSeq w)

/-- The reading of a word for the opcode table, which does not say who reads it: as a context word, and where that is illegal as a
sequencer word (DESIGN CHOICE, log 4: many words are both, and this order reads most rows as the table has them). -/
def decodeAny (w : W32) : Except DecodeError Instr :=
  match decodeElem w with
  | .ok i => .ok i
  | .error _ => decodeSeq w

/-- The instruction of a word numbered as the opcode table numbers its bits. -/
def decodeTableWord (nbits w : Nat) : Option Instr :=
  if nbits ≤ 32 ∧ w < 2 ^ nbits then
    match decodeAny (BitVec.ofNat 32 w) with
    | .ok i => some i
    | .error _ => none
  else none

end Sys2Proof
end

