-- ==== Sys2Proof/Config.lean ====
section
/-! DEFINITION. What the spec leaves to the part or to chance: the order in which the agents move, and the values it states no
result for. Each is an opaque constant, so nothing proved can rest on a particular value of it (log 1 and the entries named). -/

namespace Sys2Proof

/-- A thread of sequencer instructions (R248, R319): the RSQ of ring `r`, or the management core of die `d`. -/
inductive Thread where
  | ring (r : Nat)
  | core (d : Nat)
  deriving DecidableEq, Repr, Inhabited

/-- One move of one agent of the device, or one thing the outside world does to it. -/
inductive Act where
  /-- The thread takes its next instruction, or an interrupt, or waits. -/
  | thread (t : Thread)
  /-- The ring group whose first ring is `g` makes the next part of its cycle (R37). -/
  | fabric (g : Nat)
  /-- TIME advances by one tick (R24). -/
  | clock
  /-- Copy `k` of ring `r`'s copy unit performs a step of its part `j`: the read for `b` = 0, the write of piece or branch `b - 1` else (R105,
  R119). -/
  | copyPart (r k j b : Nat)
  /-- The `n`-th newest write that only its own ring observes yet becomes observable to every agent (R106). -/
  | spread (n : Nat)
  /-- A TLB that thread `t`'s accesses use caches the present translation of `va` (R369): the `n`-th of them. -/
  | tlbFill (t : Thread) (va : BitVec 64) (n : Nat)
  /-- A walk cache of ring `r`'s strip holds the table descriptor of a stage and level for an address (R369). -/
  | walkFill (r stage level : Nat) (a : BitVec 64)
  /-- The data stored in a line of HBM or SRAM becomes uncorrectable (R428). -/
  | decay (line : Nat)
  /-- A single-bit error is corrected in the bank or channel whose count of the lifetime store is number `i` (R428, R429). -/
  | corrected (i : Nat)
  /-- A transfer over the Certia Link of die `d` is replayed (R419). -/
  | replay (d : Nat)
  /-- An event of the opcode table occurs, with `t` the thread whose registers select its target. -/
  | event (t : Thread) (i : Instr)
  deriving DecidableEq, Repr, Inhabited

namespace Config

/-- The agent that moves next when the agenda holds no input: the spec leaves the order of unordered agents open (log 1). -/
opaque nextAct : Nat → Act

/-- Which of the cached translations that fit does an access use, a number beyond them being a fresh walk (R334, R369; log 14)? -/
opaque tlbPick : Nat → Nat → Nat

/-- The tree key that the engine drew at the start before reset (R405). -/
opaque firstTreeKey : BitVec 256

/-- Does the store buffer merge two stores it may merge (R117)? -/
opaque mergeStore : Nat → Bool

/-- The stamp as of which part `j` of a read observes memory, where the spec lets it observe an older value than the newest (R105, R106, R111; log 111). -/
opaque readTime : Nat → Nat → Nat

/-- Can an engine's write not be observed outside its ring yet when it performs (R106, R119; log 111)? -/
opaque lags : Nat → Bool

/-- Does a host write to a system-coherent page fall between the read and the write of an atomic (R107; log 111)? -/
opaque hostBetween : Nat → Bool

/-- The temperature bin of a die in a tick (R429). -/
opaque tempBin : Nat → Nat → Nat

/-- What an interrupt leaves in STVAL or HTVAL: R323 and R328 give it no value (log 17). -/
opaque intValue : Nat → BitVec 64

/-- The number that PSREC3.check shows for a failed check that R382 does not number (log 18). -/
opaque unlistedCheck : Nat → BitVec 8

/-- The random key of a KCTL draw (R405), and the tree key of a start (R422). -/
opaque drawnKey : Nat → BitVec 256

/-- The initialisation vector that seals a migration image's root (R418). -/
opaque drawnIv : Nat → BitVec 96

/-- A byte that a peer device returns to a remote read (R168). -/
opaque remoteByte : Nat → BitVec 8

/-- The step at which a start that a register write requests fails, 0 for none (R422): which part of the hardware fails is no matter of the
spec (log 23). -/
opaque startFails : Nat → Nat

end Config

end Sys2Proof
end

