-- ==== Sys2Proof/Machine/State.lean ====
section
/-! DEFINITION. The state of the device as plain data, and the state after a cold start (R422). Sparse collections are lists of
key and value pairs with rising keys; a key that is not listed holds the reset value of its kind. -/

namespace Sys2Proof.Machine

/-- A sparse table: keys strictly rising. -/
abbrev Tab (α : Type) := List (Nat × α)

/-- The three levels (R319). -/
inductive Level where
  | u
  | s
  | h
  deriving DecidableEq, Repr

/-- What a ring's RSQ is doing, less the halt and the gating that RSTAT also shows (R329). -/
inductive RunState where
  | idle
  | run
  | parked
  | wfi
  deriving DecidableEq, Repr

/-- Which region a byte of memory belongs to, and the key that the access took when it was translated, if the slot held one (R360, R405, R406). -/
inductive MemAttr where
  /-- Pool or Basecamp SRAM: not encrypted. -/
  | sram
  /-- HBM under the key of a VF. -/
  | vf (v : Nat) (key : Option (BitVec 256))
  /-- HBM under a window key. -/
  | win (n : Nat) (key : Option (BitVec 256))
  /-- HBM of no VF, as a management core reaches it (log 7). -/
  | own
  /-- Host memory over Certia Link, for a VF under its key or for a management core under none. -/
  | host (v : Option Nat) (key : Option (BitVec 256))
  deriving DecidableEq, Repr

/-- Who reads or writes memory (R99, R108): a ring's RSQ, the ring's other agents together — the elements of its slots, its SCR, trailheads, copy unit
and Cairn comparator — the management core of a die, the key engine, or a host processor. -/
inductive Agent where
  | ring (r : Nat)
  | engines (r : Nat)
  | core (d : Nat)
  | key
  | host
  deriving DecidableEq, Repr, Inhabited

/-- What a reader must observe (R106, R110, R111): every write that could be observed by a stamp, by how far off its writer is — in its own ring, in its
strip, in the device, or a host processor — every write to HOST up to a stamp, and by window every write up to its last WOPEN (R122); by agent the writes up to
a stamp that happen before its reads, in any space; and by place the newest write that it has read or made there. -/
structure Front where
  ring : Nat
  strip : Nat
  dev : Nat
  sys : Nat
  host : Nat
  win : Tab Nat
  wrote : Tab Nat
  known : Tab Nat
  deriving DecidableEq, Repr

/-- What happens before something (R110, R255): every write outside HOST that could be observed by a stamp, and by agent its writes up to a stamp. -/
structure Dep where
  near : Nat
  wrote : Tab Nat
  deriving DecidableEq, Repr

/-- A write to a byte, kept for the readers that may still observe what it replaced (R106, R110, R111), newest first: the place, what it held, the
writer, its stamp, the stamp at which it could first be observed (none while it cannot; R106), what it releases, by scope (R116), from when on a FENCE of a scope
had made it visible to that scope (R118), and the window it was made through. -/
structure Past where
  key : Nat
  old : Byte
  who : Agent
  stamp : Nat
  seen : Option Nat
  sync : Tab Dep
  shown : Tab Nat
  win : Option Nat
  deriving DecidableEq, Repr

/-- A FENCE or FENCE.RG in the program order of its thread (R118, R260): its place there, its range, its scope, the stamp at which the accesses before it had
performed, and what happens before it then. A FENCE has every address in its range. -/
structure RangeFence where
  seq : Nat
  base : Nat
  len : Nat
  scope : Nat
  done : Option Nat
  gave : Dep
  deriving DecidableEq, Repr

/-- What an outstanding RSQ read does when it returns (R251, R256). -/
inductive PendKind where
  | load (signed : Bool)
  | amo (kind : BitVec 5) (z c : W64)
  /-- A word of a step map, of which each bit may be old or new (R121, R293). -/
  | map
  deriving DecidableEq, Repr

/-- An outstanding load or atomic (R248). -/
structure PendLoad where
  seq : Nat
  kind : PendKind
  rd : BitVec 5
  nb : Nat
  acq : Bool
  rel : Bool
  scope : BitVec 2
  va : W64
  /-- The storage place of each byte, and whose it is. -/
  locs : List Nat
  attrs : List MemAttr
  /-- What its address depends on (R255). -/
  dep : Dep
  /-- The bytes read so far: a misaligned access reads each byte on its own (R253). -/
  got : Tab Byte
  /-- What those bytes depend on (R255). -/
  took : Dep
  deriving DecidableEq, Repr

/-- A store that has retired into the store buffer (R254). -/
structure BufStore where
  seq : Nat
  rel : Bool
  scope : BitVec 2
  va : W64
  locs : List Nat
  attrs : List MemAttr
  data : List Byte
  deriving DecidableEq, Repr

/-- The wait that a waiting instruction started: the operations it awaits, by slot (R269). -/
structure WaitSnap where
  slots : List (Nat × List Nat)
  /-- A waitt waits for this TIME and not for the slots. -/
  sleep : Option W64
  deriving DecidableEq, Repr

/-- The state of one sequencer thread that rings and management cores share (R248, R319). -/
structure Seq where
  pc : W64
  x : Tab W64
  loads : List PendLoad
  stores : List BufStore
  nextSeq : Nat
  cycle : W64
  instret : W64
  uscratch : W64
  /-- What its later reads must observe (R111). -/
  front : Front
  /-- By register, what its value depends on (R255). -/
  deps : Tab Dep
  /-- What the releases that its loads have read give, by the byte read and by how far off the writer is: the next FENCE over that byte acquires it
  (R118). -/
  heard : Tab (Tab Dep)
  /-- By scope, what happens before the last FENCE: later stores release it (R118). -/
  fenced : Tab Dep
  ranges : List RangeFence
  /-- The store buffer merges only stores from this place in program order on (R117). -/
  cut : Nat
  deriving DecidableEq, Repr

/-- A structure that caches translations (R368, R369): an AG's, an RSQ's, the second level of a strip's rings on a die (by the lowest of them), or a
management core's. -/
inductive TlbHome where
  | ag (r n : Nat)
  | rsq (r : Nat)
  | second (r : Nat)
  | core (d : Nat)
  deriving DecidableEq, Repr

/-- The translation registers an operation copies at issue (R367). -/
structure XCtx where
  ring : Nat
  satp : W64
  s2root : W64
  lvl : Level
  /-- The TLB that its accesses look in first (R369). -/
  tlb : TlbHome
  /-- What the operation's reads must observe: what its thread had to at the issue (R111, R112, R119). -/
  front : Front
  deriving DecidableEq, Repr

/-- A dependency slot (R268): the operations counted into it that have not completed, err and code. -/
structure DepSlot where
  out : List Nat
  err : Bool
  code : BitVec 8
  deriving DecidableEq, Repr

/-- Where an issued asynchronous operation stands before it starts (R270, R278). -/
inductive AsyncSt where
  | mask
  | group
  deriving DecidableEq, Repr

/-- The asynchronous operations (R273). -/
inductive AsyncOp where
  | pload (desc gsel : W64) (serial : Nat)
  | cpy (desc : W64)
  | cpyB (sel : W64)
  | crnStep (sel : W64)
  deriving DecidableEq, Repr

/-- An asynchronous instruction that has issued and not started its work (R270). -/
structure Async where
  id : Nat
  op : AsyncOp
  word : W32
  set : Option Nat
  await : List (Nat × List Nat)
  rd : BitVec 5
  x : XCtx
  st : AsyncSt
  /-- Its place in the program order of its thread. -/
  seq : Nat
  /-- The chosen group of a pload, as first ring and ring count, and its place in the order of such choices (R277). -/
  grp : Option (Nat × Nat)
  ticket : Nat
  /-- The queue pairs that have been reset from their error state since the issue: a copy on one of them completes in error (R421). -/
  reset : List Nat
  /-- A page request of one of its reads is unanswered (R372). -/
  held : Bool
  deriving DecidableEq, Repr

/-- A copy descriptor or template (R156), field by field. -/
structure CopyDesc where
  ctl : W32
  tok : W32
  src : W64
  dst : W64
  n0 : Nat
  n1 : Nat
  n2 : Nat
  sstr1 : Int
  dstr1 : Int
  sstr2 : Int
  dstr2 : Int
  cmask : W32
  rmask : Nat
  resv53 : Nat
  qp : Nat
  aux : W64
  deriving DecidableEq, Repr

/-- Who issued a copy, and so who is told of its failure (R274). -/
inductive CopySrc where
  | rsq (op : BitVec 8)
  /-- A token of a queue, by the billet that it fired. -/
  | firing (billet q : Nat)
  deriving DecidableEq, Repr

/-- A copy from validation to completion (R163, R283). -/
structure CopyJob where
  id : Nat
  src : CopySrc
  desc : CopyDesc
  set : Option Nat
  rd : Option (BitVec 5)
  x : XCtx
  promise : W64
  /-- The parts performed; what a part that has only read writes, piece by piece; and the pieces of it written, by branch (R105, R119). -/
  done : List Nat
  got : Tab (List (List Byte))
  wrote : Tab (List Nat)
  /-- The rings of branches that are not written (R138, R159). -/
  dead : List Nat
  /-- The first failure met after acceptance. -/
  err : Option (BitVec 8)
  /-- A failure has ended the copy, which performs no further part (R159, R166). -/
  fatal : Bool
  /-- A part waits for the answer to its page request (R372). -/
  held : Bool
  /-- The issue that the copy came from, as a capture before its acceptance saves it (R384, R390). -/
  orig : Option Async
  deriving DecidableEq, Repr

/-- A crn.step whose work waits for the answer to a page request, or is under way (R292). -/
structure CrnJob where
  id : Nat
  region : Nat
  next : Nat
  total : Nat
  base : W64
  set : Option Nat
  x : XCtx
  held : Bool
  deriving DecidableEq, Repr

/-- An armed billet slot (R161, R285). -/
structure Billet where
  record : List Byte
  x : XCtx
  deriving DecidableEq, Repr

/-- An AG descriptor (R148). -/
structure AgDesc where
  raw : List Byte
  mode : Nat
  store : Bool
  zc : Bool
  esz : Nat
  nd : Nat
  padv : W32
  base : W64
  cnt : List Nat
  str : List Int
  hh : Nat
  wd : Nat
  ff : Nat
  ss : Nat
  pp : Nat
  ilim : Nat
  ist : Int
  deriving DecidableEq, Repr

/-- One coalesced request of an AG: the elements it transfers, with the places of their bytes (none for padding) (R152). -/
structure AgUnit where
  locs : List (List Nat)
  data : List (List Byte)
  attr : MemAttr
  /-- By place, the bytes read or written so far: a request performs part by part (R105, R113). -/
  got : Tab Byte
  done : Bool
  /-- A zero-compressed slot: its address, and how many of its lines are translated (R154). -/
  slot : Option (W64 × Nat)
  deriving DecidableEq, Repr

/-- An unanswered page request an agent waits for (R372). -/
structure AgFault where
  addr : W64
  stage2 : Bool
  deriving DecidableEq, Repr

/-- The state of one address generator (R148 to R155, R392). -/
structure Ag where
  bound : Option (Nat × Nat × Nat)
  desc : Option AgDesc
  idxDesc : Option AgDesc
  /-- Elements issued, of the present index in indirect mode. -/
  issued : Nat
  /-- The tiles that Cairn skipped and a storer is still to step past: the element each begins at and its elements, oldest first (R176). -/
  skips : List (Nat × Nat)
  /-- Indices taken from the index AG. -/
  idxTaken : Nat
  curIdx : Option Int
  delivered : Nat
  units : List AgUnit
  part : List Byte
  fault : Option AgFault
  /-- The page request of its next line has been answered, and it translates that line again (R376). -/
  again : Bool
  ended : Bool
  oor : Nat
  x : XCtx
  deriving DecidableEq, Repr

/-- The record kept of a phase under its handle (R380, R381); counts saturate when read. -/
structure PhaseRec where
  state : Nat
  items : Nat
  csets : Nat
  code : BitVec 8
  void : Bool
  zip : Bool
  oor : Nat
  disc : Nat
  cred : Nat
  tiles : Nat
  kind : Nat
  check : Nat
  ctx : Nat
  pos : Nat
  vs : Nat
  gslot : Nat
  fval : W64
  fvoid : Option Nat
  sweeps : Nat
  tret : W64
  deriving DecidableEq, Repr

/-- The AFC set-up of a context bank (R64). -/
structure AfcSetup where
  base : BitVec 24
  step0 : BitVec 16
  count0 : BitVec 16
  step1 : BitVec 16
  deriving DecidableEq, Repr

/-- The state of one element (R60, R66). A VE uses the fields of R60 and an ME those of R66. -/
structure Elem where
  ctx : Tab W32
  k : Tab W32
  base : BitVec 4
  /-- Constants: bank · 8 + index. -/
  c : Tab W32
  y : W32
  pass : W32
  q : BitVec 4
  setup : Tab AfcSetup
  afcA : BitVec 24
  afcI : BitVec 16
  lfsr : W32
  /-- Accumulators: 64 · bank + 8 · row + column. -/
  acc : Tab W32
  tag : Tab (BitVec 8)
  exp : Tab (BitVec 16)
  ya : List Byte
  yaScale : List Byte
  yb : List Byte
  ybScale : List Byte
  deriving DecidableEq, Repr

/-- The scroll states of a slot (R50). -/
inductive ScrollSt where
  | idle
  | load
  | run
  | save
  | restore
  | after
  deriving DecidableEq, Repr

/-- The states of a slot's shadow bank (R51); `fill` counts the blocks written. -/
inductive ShadowSt where
  | free
  | fill (n : Nat)
  | ready
  deriving DecidableEq, Repr

/-- An item in flight (R27, R38): its number, pass and record tag, whether it is void, its markers, and its stripe boundary while
it is outside a slot. -/
structure Item where
  n : Nat
  pass : Nat
  tag : Option (BitVec 16)
  void : Bool
  marks : List Nat
  bnd : List W32
  deriving DecidableEq, Repr

/-- One slot of a ring as the scroll controller sees it (R35, R50, R51). -/
structure Slot where
  v : Option Nat
  st : ScrollSt
  /-- Blocks moved of the image load, save or restore in progress. -/
  blocks : Nat
  /-- The first load's restore, or the next stripe's, is complete. -/
  restored : Bool
  shadow : ShadowSt
  next : Option Nat
  /-- The active bank: false for contexts 0 to 15. -/
  bank : Bool
  item : Option Item
  /-- The sweep the held stripe serves, and how many of its items have left the stripe. -/
  sweep : Nat
  left : Nat
  deriving DecidableEq, Repr

/-- What a position of a stripe image holds, with the offsets at which it is stored (R188). -/
structure PosImg where
  words : List W32
  wordsAt : Nat
  consts : Option (List W32)
  constsAt : Nat
  afc : Option AfcSetup
  afcAt : Nat
  inp : Nat
  outp : Nat
  deriving DecidableEq, Repr

/-- A stripe image (R187). -/
structure StripeImg where
  off : Nat
  ii : Nat
  stateful : Bool
  bmode : Nat
  z : Nat
  pmode : Nat
  posmask : W32
  smap : W32
  gmap : W32
  pos : Tab PosImg
  nblk : Nat
  deriving DecidableEq, Repr

/-- A port declaration (R192). -/
structure PortDecl where
  v : Nat
  p : Nat
  tagged : Bool
  t : Nat
  tag : Nat
  w : Nat
  d : Nat
  tiles : Nat
  deriving DecidableEq, Repr

/-- A validated phase image (R191). -/
structure PhaseImg where
  v : Nat
  ii : Nat
  ftz : Bool
  zipt : Bool
  n : Nat
  count : Nat
  seed : W32
  decls : List PortDecl
  stripes : List StripeImg
  deriving DecidableEq, Repr

/-- What a port is bound to (R134). -/
inductive PortKind where
  | pool (off size : Nat)
  | ag (south : Bool) (n : Nat)
  | camp (addr : W64) (size chan : Nat)
  | chain (west : Bool) (chan : Nat)
  | token (q : Nat)
  deriving DecidableEq, Repr

/-- A record being formed at an output port whose FIFO feeds a gated port or a merge (R243). -/
structure OpenRec where
  item : Nat
  tag : Option (BitVec 16)
  words : List W32
  closed : Bool
  /-- The position and context index that wrote last (R382). -/
  pos : Nat
  ctx : Nat
  deriving DecidableEq, Repr

/-- A bound port of a phase (R134 to R145). -/
structure Port where
  decl : PortDecl
  kind : PortKind
  region : Option Nat
  /-- Words that have arrived and are not consumed, in order. -/
  q : List W32
  arrived : Nat
  delivered : Nat
  credTiles : Nat
  /-- The words credited, by the number of the item that comes next after them, newest first (R139, R229). -/
  credits : List (Nat × Nat)
  eos : Bool
  /-- Records offered in order at a gated port, with their sequence numbers where they have one. -/
  recs : List (Option (BitVec 16) × List W32)
  /-- What is left of the record offered in the present item time. -/
  offer : Option (List W32)
  disc : Nat
  win : Tab (List W32)
  head : BitVec 16
  opens : List OpenRec
  /-- Records that a steer stripe's port pair has written. -/
  steered : Nat
  /-- Words written through an output port. -/
  written : Nat
  /-- The word count, and the words held, as the present cycle began (R62, R229). -/
  countAt : Nat
  heldAt : Nat
  /-- Markers: identity and the words still ahead of it. -/
  marks : List (Nat × Nat)
  deriving DecidableEq, Repr

/-- What a queued element write does when it lands (R62, R73). -/
inductive WrKind where
  | y (v : W32)
  | k (phys : Nat) (v : W32)
  | q (i : Nat) (b : Bool)
  | out (port : Nat) (v : W32)
  deriving DecidableEq, Repr

/-- A queued element write: the unfrozen cycles it still waits for, its element and the item that issued it. -/
structure Wr where
  /-- A bank load or atomic result, which lands in its own stage (R227). -/
  late : Bool
  due : Nat
  slot : Nat
  pos : Nat
  ctx : Nat
  item : Nat
  /-- The record tag of that item. -/
  tag : Option (BitVec 16)
  kind : WrKind
  deriving DecidableEq, Repr

/-- A constant update (R79, R281). -/
structure CsetUpd where
  issuer : Nat
  target : W32
  val : W32
  mark : Option Nat
  deriving DecidableEq, Repr

/-- A word that a matrix block is working on (R232 to R239): op 0 mma, 1 mmx, 2 azero, 3 adrain, 4 aload, 5 ascale. -/
structure BlockRun where
  /-- The top virtual stripe, its group slot, the number of stripes, and the item that issued. -/
  top : Nat
  slot : Nat
  size : Nat
  item : Nat
  /-- The record tag of that item (R243). -/
  tag : Option (BitVec 16)
  op : Nat
  fmt : Nat
  acc : Nat
  len : Nat
  done : Bool
  bout : Bool
  dfmt : Nat
  sat : Bool
  imm : BitVec 9
  /-- Unfrozen cycles since the issue. -/
  cyc : Nat
  /-- The run ends a tile of its B-feed port and drains (R236). -/
  drains : Bool
  /-- The A-feed offset of each block stripe. -/
  aoff : List Nat
  /-- What each stripe's A feed delivers in this cycle, with the scales of its present group. -/
  afeed : List (List Byte × List Byte)
  /-- The B-feed beats consumed, each with the column scales of its group. -/
  beats : List (List Byte × List Byte)
  deriving DecidableEq, Repr

/-- A tile staged or decided by the Cairn comparator (R173, R392). -/
structure CairnTile where
  tile : Nat
  words : List W32
  decided : Bool
  skip : Bool
  deriving DecidableEq, Repr

/-- The Cairn work of a phase (R172 to R179). -/
structure Cairn where
  region : Nat
  inPort : Nat
  outPort : Option Nat
  step : Nat
  tiles : List CairnTile
  staged : List W32
  stagedTiles : Nat
  decidedTiles : Nat
  mapBits : List Bool
  /-- The tiles that a restored image names as decided, each with whether it is skipped: they are not decided again (R179). -/
  carried : List (Nat × Bool)
  /-- The words of its stream that the comparator has discarded (R173). -/
  dropped : Nat
  held : Bool
  ended : Bool
  deriving DecidableEq, Repr

/-- The parts of a fabric cycle, in the order in which a group makes them (R37, R46, R54). -/
inductive Stage where
  | entry
  | check
  | elems
  | loads
  | blocks
  | drains (i : Nat)
  | commit
  | scr (i : Nat)
  | boundary
  | switch (i : Nat)
  deriving DecidableEq, Repr

/-- A ring group and the phase resident on it (R19, R28, R34, R278). -/
structure Group where
  first : Nat
  k : Nat
  issuer : Nat
  serial : Nat
  opId : Nat
  set : Option Nat
  desc : List Byte
  x : XCtx
  img : PhaseImg
  carve : W64
  count : Nat
  draining : Bool
  mark : Option (BitVec 8)
  ports : Tab Port
  started : Bool
  t : Nat
  stage : Stage
  cursor : Nat
  /-- Frozen cycles still owed to a bank conflict, the banks that this cycle accesses, and whether its conflict has been served (R54). -/
  hold : Nat
  banks : List Nat
  served : Bool
  /-- By ring, the cycles for which an access of its RSQ to a bank in use has waited (R254). -/
  rsqWait : Tab Nat
  sweep : Nat
  sweepItems : Nat
  /-- No further item of the present sweep will be admitted from the input ports (R36, R40). -/
  closed : Bool
  pass : Nat
  passItems : Nat
  admitted : Nat
  credited : Nat
  /-- Items that have left the last virtual stripe. -/
  exited : Nat
  voidFrom : Option Nat
  /-- The items whose read met the end of a stream in this very cycle: their other reads still take place (R141). -/
  fresh : List Nat
  lastSweep : Bool
  wrap : List Item
  /-- Items on a die crossing, with the cycles left and the ring index they enter (R19). -/
  cross : List (Nat × Nat × Item)
  wq : List Wr
  blocks : List BlockRun
  upds : List CsetUpd
  overlay : Tab W32
  nextMark : Nat
  /-- The Cairn work of its input ports, at most one on each ring (R172). -/
  cairns : List Cairn
  /-- The records of a resumed resident phase's stateful stripes, until their slots have loaded them (R50, R391). -/
  kept : Tab (List Byte)
  frozen : Bool
  /-- The cycles for which the present freeze has lasted (R429). -/
  frozenFor : Nat
  deadCycles : Nat
  sweepCtr : Nat
  overrun : Bool
  preempt : Bool
  /-- The pload that issued the phase, by which it restarts from its descriptor (R50, R385). -/
  pload : Async
  deriving DecidableEq, Repr

/-- A cached translation (R369): where it is held, the VF, the ASID unless global, the range it covers, and what it gives. -/
structure TlbEntry where
  home : TlbHome
  owner : Option Nat
  asid : Option (BitVec 16)
  page : Nat
  size : Nat
  pa : Nat
  mt : Nat
  win : Nat
  perms1 : BitVec 4
  perms2 : BitVec 3
  satpOn : Bool
  deriving DecidableEq, Repr

/-- One ring (R15): its sequencer, fabric slots, trailheads, copy unit, and its always-on registers (R329). -/
structure Ring where
  seq : Seq
  level : Level
  run : RunState
  halted : Bool
  /-- The phase of which a sweep reached its limit while the ring was halted: the ring parks for it after the dret (R357, R394). -/
  due : Option Nat
  integrity : Bool
  ringp : Nat
  /-- The plain CSRs, by number (R262, R272, R299, R322, R329). -/
  csr : Tab W64
  slen : Nat
  sbase : Nat
  vf : Option Nat
  /-- The VF that ccfg assigned it to last, which a release leaves in RVF (R338). -/
  rvf : Nat
  owner : Option Nat
  /-- The pool banks and the Basecamp banks have been scrubbed since the ring was last assigned (R340). -/
  cleanPool : Bool
  cleanCamp : Bool
  shared : Bool
  deps : Tab DepSlot
  nextOp : Nat
  /-- What its retired phases and completed copies have released, which its waits acquire (R112, R119). -/
  joined : Front
  /-- The translations that a tlbi of its thread has removed, with the stamp of the tlbi: what that does not happen before may still use them (R334, R335). -/
  shed : List (TlbEntry × Nat)
  asyncs : List Async
  serial : Nat
  recs : Tab PhaseRec
  wait : Option WaitSnap
  carvew : W64
  billets : Tab Billet
  ferr : List Nat
  aerr : List Nat
  tqs : Tab (List W32)
  edge : List (Nat × W32)
  copyReady : List CopyJob
  copies : List CopyJob
  crn : List CrnJob
  backlog : Tab Nat
  group : Option Nat
  elems : Tab Elem
  slots : Tab Slot
  ags : Tab Ag
  launchTag : W64
  power : Nat
  powerNext : Option Nat
  tenantCsr : Tab (Tab W64)
  tenantPend : Tab W64
  /-- The notes that H has written for switched-out tenants, by VF (R355). -/
  tenantNote : Tab W64
  saved : Tab W64
  deriving DecidableEq, Repr

/-- A reuse region (R170). -/
structure Region where
  raw : List Byte
  efmt : Nat
  f : Nat
  theta : BitVec 16
  te : Nat
  ntiles : Nat
  ipt : Nat
  outw : Nat
  nmaps : Nat
  sigbase : W64
  skbase : W64
  s : Nat
  force : Bool
  bound : Bool
  /-- The decided tiles that a restored image holds, until their phase resumes (R179, R392). -/
  carried : List (Nat × Bool)
  deriving DecidableEq, Repr

/-- A launch that has started (R344). -/
structure Launched where
  index : Nat
  tag : W64
  rings : List Nat
  left : List Nat
  codes : Tab W32
  map : List (W64 × Nat × Nat)
  deriving DecidableEq, Repr

/-- What a VF owns wherever its rings lie: its launch queue, queue pairs, machine check and region table. -/
structure Vf where
  csr : Tab W64
  qpErr : List Nat
  regions : Tab Region
  launches : List Launched
  stopped : Bool
  deriving DecidableEq, Repr

/-- Who waits for a page request (R372, R376). -/
inductive Waiter where
  | ag (r n : Nat)
  | copy (r id : Nat)
  | async (r id : Nat)
  | crn (r id : Nat)
  | cairn (g i : Nat)
  deriving DecidableEq, Repr

/-- The states of a page-request entry (R374). -/
inductive PrqSt where
  | new
  | taken
  | forwarded
  deriving DecidableEq, Repr

/-- A page request (R373, R375). -/
structure PrqReq where
  vf : Nat
  stage2 : Bool
  asid : BitVec 16
  addr : W64
  reason : Nat
  level : Nat
  wr : Bool
  rd : Bool
  ul : Bool
  src : Nat
  south : Bool
  ag : Nat
  ring : Nat
  /-- The agents that wait, each with the address it translated. -/
  waiters : List (Waiter × W64)
  st : PrqSt
  stamp : Nat
  deriving DecidableEq, Repr

/-- An entry of a die's launch-packet table (R349, R350). -/
structure LpEntry where
  ent : W64
  tenant : BitVec 16
  keys : Tab W64
  stat : W64
  /-- Tokens in millionths, so that the refill is exact. -/
  bucket : Nat
  deriving DecidableEq, Repr

/-- A die: its clock setting, its management core and what that core's registers reach. -/
structure Die where
  core : Seq
  csr : Tab W64
  waiting : Bool
  stopped : Bool
  m : Nat
  target : Nat
  phase : Nat
  /-- TIME of the last change of m (R424). -/
  stretched : W64
  hevt : List W64
  prq : Tab PrqReq
  held : List PrqReq
  lp : Tab LpEntry
  links : Tab W64
  deriving DecidableEq, Repr

/-- A window (R414, R415). -/
structure Window where
  gen : BitVec 32
  wv : Bool
  writer : BitVec 7
  base : W64
  size : BitVec 32
  seq : BitVec 32
  members : BitVec 128
  opened : BitVec 128
  valid : Bool
  deriving DecidableEq, Repr

/-- What a tag was made from beside the bytes it covers (R408, R409, R410; log 8): the key, the domain and the counters. -/
structure LineTag where
  key : BitVec 256
  domain : Nat
  major : W64
  minor : BitVec 7
  deriving DecidableEq, Repr

/-- A counter block of the integrity tree, with its tag (R407, R410). -/
structure CtrBlock where
  major : W64
  minors : Tab (BitVec 7)
  tag : Option LineTag
  deriving DecidableEq, Repr

/-- A ring buffer or link between two phases' ports (R134). -/
structure Chan where
  words : List W32
  cap : Nat
  base : Nat
  wrote : Nat
  /-- The end-of-stream marks that follow words, each by the words ahead of it (R140). -/
  ends : List Nat
  deriving DecidableEq, Repr

/-- A table descriptor in a walk cache (R369): the VF, the ASID for stage 1, the stage and level of its table, the part of the address that selects it, and
the descriptor. -/
structure WalkEntry where
  home : TlbHome
  owner : Nat
  asid : Option (BitVec 16)
  stage : Nat
  level : Nat
  pre : Nat
  e : Nat
  deriving DecidableEq, Repr

/-- What one strip's lowest ring holds beside its CSRs: guards (R402), the capture in progress (R384), and the tenant scheduler (R353,
R354). -/
structure Strip where
  mute : Bool
  gap : Nat
  muted : Bool
  /-- TIME of the last event of the west guard and of the east guard (R339). -/
  lastWest : Option Nat
  lastEast : Option Nat
  /-- RIMGCTL.st and size (R386). -/
  st : Nat
  size : Nat
  /-- A capture or a restore is in progress, and the tenant that it makes way for, if the scheduler asked for it. -/
  capture : Bool
  next : Option Nat
  /-- A request that waits for a dret, with the tenant it makes way for (R394). -/
  asked : Option (Option Nat)
  /-- The deficits, in ring-cycles, and the tenant that holds the strip. -/
  deficits : List Int
  cur : Nat
  /-- The tenants whose images lie in their save areas. -/
  imaged : List Nat
  deriving DecidableEq, Repr

/-- What a captured ring's units hold of buffered words, which the image's layout does not place (R391, R392; log 21). -/
structure Stash where
  ring : Nat
  time : W64
  group : Option Group
  ags : Tab Ag
  chans : Tab Chan
  deriving DecidableEq, Repr

/-- The place of an element that executes a context word. -/
structure ElemPtr where
  g : Nat
  slot : Nat
  pos : Nat
  deriving DecidableEq, Repr

/-- What the non-volatile store keeps (R423, R429). -/
structure NonVolatile where
  failed : Nat
  life : Tab W64
  deriving DecidableEq, Repr

/-- The whole device. -/
structure State where
  time : W64
  powered : Bool
  rings : Tab Ring
  dies : Tab Die
  vfs : Tab Vf
  groups : Tab Group
  strips : Tab Strip
  chans : Tab Chan
  mem : List Host.Cell
  /-- The writes that some reader may not have to observe yet, newest first. -/
  past : List Past
  pages : Tab CtrBlock
  nodes : Tab CtrBlock
  roots : Tab W64
  tags : Tab LineTag
  vfKeys : Tab (BitVec 256)
  winKeys : Tab (BitVec 256)
  migKey : Option (BitVec 256)
  treeKey : BitVec 256
  /-- The number of the next transfer over Certia Link (R409). -/
  linkSeq : W64
  /-- The 64-byte lines of HBM, and the words of SRAM, whose stored data has an uncorrectable error, by number (R428). -/
  bad : List Nat
  /-- The device-wide H CSRs, by number (R405, R413, R415). -/
  csr : Tab W64
  windows : Tab Window
  stash : List Stash
  tlb : List TlbEntry
  walks : List WalkEntry
  nv : NonVolatile
  life : Tab W64
  bootKind : Nat
  bootStep : Nat
  step : BitVec 8
  i3c : Option W64
  /-- What the I3C target returned to the last read (R430). -/
  i3cGave : W64
  tap : TapInstr
  agenda : List Act
  cur : Thread
  ep : ElemPtr
  /-- The model's own counter of free choices: no statement rests on its value (log 1). -/
  free : Nat
  deriving DecidableEq, Repr

/-- Why a step stops the machine. -/
inductive Fault where
  /-- The supply is lost and the device stands still until a power-on start (R429). Raised by every move made after POWER_FAILURE
  but a start. Safe: the device does nothing either. -/
  | supplyLost
  deriving DecidableEq, Repr

/-- Why an instruction has no meaning. -/
inductive Refusal where
  /-- The instruction of this mnemonic has no meaning yet. Raised only by an arm of the dispatcher. Safe: nothing is proved of it. -/
  | notModelled (mnemonic : String)
  deriving DecidableEq, Repr

/-- A reader that need observe no write. -/
def Front.zero : Front := { ring := 0, strip := 0, dev := 0, sys := 0, host := 0, win := [], wrote := [], known := [] }

/-- A value that depends on no load. -/
def Dep.zero : Dep := { near := 0, wrote := [] }

/-- A thread at reset: every register 0 (R342; the pc of a management core is log 2). -/
def Seq.reset : Seq :=
  { pc := 0, x := [], loads := [], stores := [], nextSeq := 0, cycle := 0, instret := 0, uscratch := 0, front := Front.zero,
    deps := [], heard := [], fenced := [], ranges := [], cut := 0 }

/-- A ring after a cold start: unassigned and idle (R422), every CSR at its reset value (R262, R322, R329), RINGP as log 3. -/
def Ring.reset : Ring :=
  { seq := Seq.reset, level := .u, run := .idle, halted := false, due := none, integrity := false, ringp := 48, csr := [], slen := 0,
    sbase := 0, vf := none, rvf := 0, owner := none, cleanPool := false, cleanCamp := false, shared := false, deps := [],
    nextOp := 0, joined := Front.zero, shed := [], asyncs := [], serial := 0, recs := [], wait := none, carvew := 0, billets := [], ferr := [], aerr := [], tqs := [], edge := [], copyReady := [], copies := [],
    crn := [], backlog := [], group := none, elems := [], slots := [], ags := [], launchTag := 0, power := 0, powerNext := none,
    tenantCsr := [], tenantPend := [], tenantNote := [], saved := [] }

/-- A VF with nothing configured (R345, R421, R428). -/
def Vf.reset : Vf := { csr := [], qpErr := [], regions := [], launches := [], stopped := false }

/-- A die at the nominal clock setting (R24, R424) with its core at pc 0 (log 2) and every link up bit clear (log 5). -/
def Die.reset : Die :=
  { core := Seq.reset, csr := [], waiting := false, stopped := false, m := 16, target := 16, phase := 0, stretched := 0, hevt := [], prq := [],
    held := [], lp := [], links := [] }

/-- A window that has never been valid (R415). -/
def Window.reset : Window :=
  { gen := 0, wv := false, writer := 0, base := 0, size := 0, seq := 0, members := 0, opened := 0, valid := false }

/-- The device after a cold start (R7, R422): every ring unassigned and idle, every SRAM bank zero, every HBM line fresh. -/
def State.reset : State :=
  { time := 0, powered := true, rings := [], dies := [], vfs := [], groups := [], strips := [], chans := [], mem := [], past := [],
    pages := [], nodes := [], roots := [], tags := [], vfKeys := [], winKeys := [], migKey := none, treeKey := Config.firstTreeKey, linkSeq := 0, bad := [], csr := [],
    windows := [], stash := [], tlb := [], walks := [], nv := { failed := 0, life := [] }, life := [], bootKind := 0, bootStep := 0, step := 0,
    i3c := none, i3cGave := 0, tap := .bypass, agenda := [], cur := .core 0, ep := { g := 0, slot := 0, pos := 0 }, free := 0 }

end Sys2Proof.Machine
end

