-- ==== Sys2Proof/Machine/Tab.lean ====
section
/-! DEFINITION. Sparse tables: reading, writing and removing a key. -/

namespace Sys2Proof.Machine

/-- The value listed under a key. -/
def tfind {α : Type} : Tab α → Nat → Option α
  | [], _ => none
  | (k, v) :: t, n => if k = n then some v else tfind t n

/-- The value under a key, `d` where none is listed. -/
def tget {α : Type} (d : α) (t : Tab α) (n : Nat) : α :=
  match tfind t n with
  | some v => v
  | none => d

/-- Lists a value under a key, in rising key order. -/
def tput {α : Type} : Tab α → Nat → α → Tab α
  | [], n, v => [(n, v)]
  | (k, w) :: t, n, v => if n < k then (n, v) :: (k, w) :: t else if k = n then (n, v) :: t else (k, w) :: tput t n v

/-- Removes every entry of a key. -/
def tdel {α : Type} : Tab α → Nat → Tab α
  | [], _ => []
  | (k, w) :: t, n => if k = n then tdel t n else (k, w) :: tdel t n

/-- Writes a value under a key whose unlisted value is `d`: the default is never listed. -/
def tset {α : Type} [DecidableEq α] (d : α) (t : Tab α) (n : Nat) (v : α) : Tab α := if v = d then tdel t n else tput t n v

/-- Keys strictly rising, and no entry holding the default. -/
def twf {α : Type} [DecidableEq α] (d : α) : Tab α → Bool
  | [] => true
  | [(_, v)] => v ≠ d
  | (k, v) :: (k', v') :: t => v ≠ d && k < k' && twf d ((k', v') :: t)

/-- Applies a function to every listed value. -/
def tmap {α : Type} (f : Nat → α → α) : Tab α → Tab α
  | [] => []
  | (k, v) :: t => (k, f k v) :: tmap f t

end Sys2Proof.Machine
end

