-- ==== Sys2Proof/Machine/Bits.lean ====
section
/-! DEFINITION. The pseudocode helpers BITS, ZEXT and SEXT (R8), little-endian bytes (R5), and the integer types' SAT. -/

namespace Sys2Proof.Machine

/-- BITS(v, hi, lo) of a natural number (R8). -/
def bitsOf (v hi lo : Nat) : Nat := v / 2 ^ lo % 2 ^ (hi + 1 - lo)

/-- Field [hi:lo] of a 64-bit value. -/
def fld (w : W64) (hi lo : Nat) : Nat := bitsOf w.toNat hi lo

/-- Bit n of a 64-bit value. -/
def bit (w : W64) (n : Nat) : Bool := bitsOf w.toNat n n == 1

/-- The 64-bit value with field [hi:lo] replaced. -/
def setFld (w : W64) (hi lo v : Nat) : W64 :=
  BitVec.ofNat 64 (w.toNat - bitsOf w.toNat hi lo * 2 ^ lo + v % 2 ^ (hi + 1 - lo) * 2 ^ lo)

/-- SEXT(v, n) (R8). -/
def sextN (v n : Nat) : Int := if v % 2 ^ n < 2 ^ (n - 1) then (v % 2 ^ n : Nat) else ((v % 2 ^ n : Nat) : Int) - (2 ^ n : Nat)

/-- ZEXT(v, n) of an integer (R8). -/
def zextI (v : Int) (n : Nat) : Nat := (v % ((2 ^ n : Nat) : Int)).toNat

/-- ZEXT(v, 64) as a register value. -/
def w64 (v : Int) : W64 := BitVec.ofInt 64 v

/-- ZEXT(v, 32) as a word. -/
def w32 (v : Int) : W32 := BitVec.ofInt 32 v

/-- The n low bytes of a number, least significant first (R5). -/
def leBytes : Nat → Nat → List Byte
  | 0, _ => []
  | n + 1, v => BitVec.ofNat 8 v :: leBytes n (v / 256)

/-- The number that little-endian bytes hold. -/
def leNat : List Byte → Nat
  | [] => 0
  | b :: t => b.toNat + 256 * leNat t

/-- `n` bytes of a block of bytes from an offset; bytes beyond the block read 0. -/
def slice (l : List Byte) (off n : Nat) : List Byte := (List.range n).map fun i => l.getD (off + i) 0

/-- The little-endian number of `n` bytes at an offset of a block. -/
def field (l : List Byte) (off n : Nat) : Nat := leNat (slice l off n)

/-- The same, signed. -/
def fieldS (l : List Byte) (off n : Nat) : Int := sextN (field l off n) (8 * n)

/-- Are `n` bytes of a block from an offset all zero? -/
def zeroBytes (l : List Byte) (off n : Nat) : Bool := (slice l off n).all (· == 0#8)

/-- A number is a multiple of `n`. -/
def aligned (v n : Nat) : Bool := v % n == 0

/-- min and max clamping of an integer to a range. -/
def clampI (lo hi v : Int) : Int := if v < lo then lo else if hi < v then hi else v

/-- SAT of a signed or unsigned integer type of W bits (R8). -/
def satInt (signed : Bool) (w : Nat) (v : Int) : Int :=
  if signed then clampI (-((2 ^ (w - 1) : Nat) : Int)) (((2 ^ (w - 1) : Nat) : Int) - 1) v else clampI 0 (((2 ^ w : Nat) : Int) - 1) v

/-- A saturating 32-bit count (R381). -/
def sat32 (n : Nat) : Nat := if n < 2 ^ 32 then n else 2 ^ 32 - 1

/-- ceil(a / b). -/
def ceilDiv (a b : Nat) : Nat := (a + b - 1) / b

/-- One bits of a number below 2^n. -/
def popCount : Nat → Nat → Nat
  | 0, _ => 0
  | n + 1, v => v % 2 + popCount n (v / 2)

/-- Leading zero bits of a number below 2^n, as an n-bit value. -/
def leadZeros : Nat → Nat → Nat
  | 0, _ => 0
  | n + 1, v => if v / 2 ^ n % 2 = 1 then 0 else 1 + leadZeros n v

/-- Trailing zero bits of an n-bit value; n for zero. -/
def trailZeros : Nat → Nat → Nat
  | 0, _ => 0
  | n + 1, v => if v % 2 = 1 then 0 else 1 + trailZeros n (v / 2)

/-- Rounds toward zero (R249). -/
def truncDiv (a b : Int) : Int := a.tdiv b

/-- Rounds toward minus infinity. -/
def floorDiv (a b : Int) : Int := a.fdiv b

/-- Replaces the element at an index of a list. -/
def lset {α : Type} (l : List α) (i : Nat) (v : α) : List α := l.set i v

/-- Removes the element at an index of a list. -/
def ldel {α : Type} (l : List α) (i : Nat) : List α := l.eraseIdx i

end Sys2Proof.Machine
end

