-- ==== Sys2Proof/Machine/Crypto.lean ====
section
/-! DEFINITION. AES-256 and its counter mode with authentication, as launch packets and migration roots use them (R348, R418). -/

namespace Sys2Proof.Machine

/-- Doubles an element of the AES field. -/
def aesDouble (b : Byte) : Byte := if b.getLsbD 7 then (b <<< 1) ^^^ 0x1B else b <<< 1

/-- Multiplies in the AES field, over the low `n` bits of the second factor. -/
def aesMul : Nat → Byte → Byte → Byte
  | 0, _, _ => 0
  | n + 1, a, b => (if b.getLsbD 0 then a else 0) ^^^ aesMul n (aesDouble a) (b >>> 1)

/-- Raises to a power of 2^n - 2 by squaring: the inverse in the AES field, with 0 for 0. -/
def aesInv (a : Byte) : Byte :=
  let sq (x : Byte) : Byte := aesMul 8 x x
  let step (acc : Byte × Byte) : Byte × Byte :=
    let p := sq acc.1
    (p, aesMul 8 acc.2 p)
  let r (n : Nat) : Byte × Byte := (List.range n).foldl (fun acc _ => step acc) (a, 1)
  (r 7).2

/-- The AES substitution of a byte. -/
def aesSub (a : Byte) : Byte :=
  let b := aesInv a
  b ^^^ b.rotateLeft 1 ^^^ b.rotateLeft 2 ^^^ b.rotateLeft 3 ^^^ b.rotateLeft 4 ^^^ 0x63

def xorBytes (a b : List Byte) : List Byte := (a.zip b).map fun p => p.1 ^^^ p.2

/-- The words of the key schedule of a 32-byte key from word n on, each four bytes; `ws` holds those before it, newest first. -/
def aesExpand : Nat → Nat → Byte → List (List Byte) → List (List Byte)
  | 0, _, _, ws => ws.reverse
  | fuel + 1, n, rcon, ws =>
    let prev := ws.headD []
    let back := ws.getD 7 []
    let t : List Byte :=
      if n % 8 = 0 then xorBytes ((prev.drop 1 ++ prev.take 1).map aesSub) [rcon, 0, 0, 0]
      else if n % 8 = 4 then prev.map aesSub
      else prev
    aesExpand fuel (n + 1) (if n % 8 = 0 then aesDouble rcon else rcon) (xorBytes back t :: ws)

/-- The fifteen round keys of AES-256. -/
def aesKeys (key : List Byte) : List (List Byte) :=
  let first := (List.range 8).map fun i => slice key (4 * i) 4
  let ws := aesExpand 52 8 1 first.reverse
  (List.range 15).map fun i => ((ws.drop (4 * i)).take 4).flatten

/-- Rotates the rows of a block held column by column. -/
def aesShift (b : List Byte) : List Byte := (List.range 16).map fun i => b.getD ((i + 4 * (i % 4)) % 16) 0

/-- Mixes one column. -/
def aesMixCol (c : List Byte) : List Byte :=
  (List.range 4).map fun i =>
    aesMul 8 (c.getD i 0) 2 ^^^ aesMul 8 (c.getD ((i + 1) % 4) 0) 3 ^^^ c.getD ((i + 2) % 4) 0 ^^^ c.getD ((i + 3) % 4) 0

/-- Encrypts a block of 16 bytes. -/
def aes (key blk : List Byte) : List Byte :=
  let ks := aesKeys key
  let mid := (List.range 13).foldl (fun b i =>
    let r := aesShift (b.map aesSub)
    xorBytes ((List.range 4).map fun c => aesMixCol (slice r (4 * c) 4)).flatten (ks.getD (i + 1) [])) (xorBytes blk (ks.headD []))
  xorBytes (aesShift (mid.map aesSub)) (ks.getD 14 [])

/-- A block as a big-endian number. -/
def beNat (l : List Byte) : Nat := leNat l.reverse

def beBytes (n v : Nat) : List Byte := (leBytes n v).reverse

/-- Multiplies in the field of GHASH. -/
def ghashMul (x y : BitVec 128) : BitVec 128 :=
  ((List.range 128).foldl (fun (acc : BitVec 128 × BitVec 128) i =>
    let z := if x.getLsbD (127 - i) then acc.1 ^^^ acc.2 else acc.1
    let v := if acc.2.getLsbD 0 then (acc.2 >>> 1) ^^^ ((0xE1 : BitVec 128) <<< 120) else acc.2 >>> 1
    (z, v)) (0, y)).1

/-- Zero padding to whole blocks. -/
def padBlock (l : List Byte) : List Byte := l ++ List.replicate ((16 - l.length % 16) % 16) 0

/-- GHASH of additional data and ciphertext with their lengths. -/
def ghash (h : List Byte) (a c : List Byte) : List Byte :=
  let l := padBlock a ++ padBlock c ++ beBytes 8 (8 * a.length) ++ beBytes 8 (8 * c.length)
  let hv := BitVec.ofNat 128 (beNat h)
  let v := (List.range (l.length / 16)).foldl (fun (y : BitVec 128) i =>
    ghashMul (y ^^^ BitVec.ofNat 128 (beNat (slice l (16 * i) 16))) hv) 0
  beBytes 16 v.toNat

/-- The tag of SP 800-38D for a 12-byte IV. -/
def gcmTag (key iv a c : List Byte) : List Byte :=
  xorBytes (ghash (aes key (List.replicate 16 0)) a c) (aes key (iv ++ beBytes 4 1))

/-- The counter-mode stream over a text: encryption and decryption alike. -/
def gcmText (key iv l : List Byte) : List Byte :=
  xorBytes l ((List.range (ceilDiv l.length 16)).map fun i => aes key (iv ++ beBytes 4 (i + 2))).flatten

end Sys2Proof.Machine
end

