-- ==== Sys2Proof/Machine/Ref.lean ====
section
/-! DEFINITION. Reaching the parts of the device: rings, dies, VFs, groups, strips, and the bytes of memory (R13 to R22). -/

namespace Sys2Proof.Machine

/-- Ring r (R14). -/
def State.ring (s : State) (r : Nat) : Ring := tget Ring.reset s.rings r

def State.setRing (s : State) (r : Nat) (x : Ring) : State := { s with rings := tput s.rings r x }

def State.updRing (s : State) (r : Nat) (f : Ring → Ring) : State := s.setRing r (f (s.ring r))

/-- Die d (R13). -/
def State.die (s : State) (d : Nat) : Die := tget Die.reset s.dies d

def State.setDie (s : State) (d : Nat) (x : Die) : State := { s with dies := tput s.dies d x }

def State.updDie (s : State) (d : Nat) (f : Die → Die) : State := s.setDie d (f (s.die d))

/-- VF v. -/
def State.vfOf (s : State) (v : Nat) : Vf := tget Vf.reset s.vfs v

def State.setVf (s : State) (v : Nat) (x : Vf) : State := { s with vfs := tput s.vfs v x }

def State.updVf (s : State) (v : Nat) (f : Vf → Vf) : State := s.setVf v (f (s.vfOf v))

/-- A strip with its guards and scheduler at rest. -/
def Strip.reset : Strip :=
  { mute := false, gap := 0, muted := false, lastWest := none, lastEast := none, st := 0, size := 0, capture := false, next := none, asked := none,
    deficits := [], cur := 0, imaged := [] }

/-- The strip whose lowest ring is b. -/
def State.strip (s : State) (b : Nat) : Strip := tget Strip.reset s.strips b

def State.setStrip (s : State) (b : Nat) (x : Strip) : State := { s with strips := tput s.strips b x }

/-- The group resident under key g, if there is one. -/
def State.group? (s : State) (g : Nat) : Option Group := tfind s.groups g

def State.setGroup (s : State) (g : Nat) (x : Group) : State := { s with groups := tput s.groups g x }

/-- The die of a ring (R14). -/
def dieOf (r : Nat) : Nat := r / 32

/-- The column of a ring in its die (R14). -/
def colOf (r : Nat) : Nat := r % 32

/-- The key of a pool byte: offset `o` of ring `r`'s 48 banks (R15, R97). -/
def poolKey (r o : Nat) : Nat := 2 ^ 56 + r * 2 ^ 23 + o

/-- The key of a Basecamp byte: offset `o` of ring `r`'s four banks (R22, R97). -/
def campKey (r o : Nat) : Nat := 2 ^ 57 + r * 2 ^ 22 + o

/-- The ring that holds a place of the pool and Basecamp banks (R15, R22). -/
def sramRing (k : Nat) : Option Nat :=
  if 2 ^ 57 ≤ k ∧ k < 2 ^ 57 + 2 ^ 29 then some ((k - 2 ^ 57) / 2 ^ 22)
  else if 2 ^ 56 ≤ k ∧ k < 2 ^ 56 + 2 ^ 30 then some ((k - 2 ^ 56) / 2 ^ 23)
  else none

/-- A place of the banks of a rail-gated ring, which take no traffic: every sender's credit to them is 0 (R426). -/
def State.railGated (s : State) (k : Nat) : Bool := (sramRing k).any fun r => decide (4 ≤ (s.ring r).power)

/-- One byte of memory; a byte that nothing has written reads 0 (R407, R422; for HOST log 9). -/
def State.byte (s : State) (k : Nat) : Byte := tget 0 s.mem k

/-- Writes one byte, keeping the canonical form. -/
def State.putByte (s : State) (k : Nat) (b : Byte) : State := { s with mem := tset 0 s.mem k b }

/-- The canonical form of memory: rising addresses, no byte that reads as an unlisted one does. -/
def memWf (m : List Host.Cell) : Bool := twf (0 : Byte) m

/-- `n` bytes from a place on. -/
def State.bytes (s : State) (k : Nat) : Nat → List Byte
  | 0 => []
  | n + 1 => s.byte k :: s.bytes (k + 1) n

/-- Writes bytes from a place on. -/
def State.putBytes (s : State) (k : Nat) : List Byte → State
  | [] => s
  | b :: t => (s.putByte k b).putBytes (k + 1) t

/-- The bytes at a list of places. -/
def State.bytesAt (s : State) (ks : List Nat) : List Byte := ks.map s.byte

/-- Writes bytes at a list of places. -/
def State.putBytesAt (s : State) : List Nat → List Byte → State
  | k :: ks, b :: bs => (s.putByte k b).putBytesAt ks bs
  | _, _ => s

/-- A little-endian number in memory (R5). -/
def State.num (s : State) (k n : Nat) : Nat := leNat (s.bytes k n)

def State.putNum (s : State) (k n v : Nat) : State := s.putBytes k (leBytes n v)

/-- What a front holds for writers of a distance. -/
def Front.upTo (f : Front) (c : Nat) : Nat :=
  match c with
  | 0 => f.ring
  | 1 => f.strip
  | 2 => f.dev
  | _ => f.sys

/-- Every write up to a stamp by the agents of a scope must be observed (R110, R116). -/
def Front.raise (f : Front) (c t : Nat) : Front :=
  { f with ring := max f.ring t, strip := if 1 ≤ c then max f.strip t else f.strip, dev := if 2 ≤ c then max f.dev t else f.dev,
           sys := if 3 ≤ c then max f.sys t else f.sys }

/-- Every write up to a stamp must be observed, whatever its space. -/
def Front.all (f : Front) (t : Nat) : Front := { f.raise 3 t with host := max f.host t }

/-- Stamps by number, each the later of two. -/
def joinTab (a b : Tab Nat) : Tab Nat := b.foldl (fun t e => tput t e.1 (max (tget 0 t e.1) e.2)) a

/-- What two things that happen before another give together. -/
def Dep.join (a b : Dep) : Dep := { near := max a.near b.near, wrote := joinTab a.wrote b.wrote }

/-- Releases by scope, each with what the other gives at that scope. -/
def joinRel (a b : Tab Dep) : Tab Dep := b.foldl (fun t e => tput t e.1 ((tget Dep.zero t e.1).join e.2)) a

/-- What two fronts hold together. -/
def Front.sup (a b : Front) : Front :=
  { ring := max a.ring b.ring, strip := max a.strip b.strip, dev := max a.dev b.dev, sys := max a.sys b.sys, host := max a.host b.host,
    win := joinTab a.win b.win, wrote := joinTab a.wrote b.wrote, known := joinTab a.known b.known }

/-- A front with what happens before at a scope: the scope's writes outside HOST by the stamp, and those that are named by agent (R110). -/
def Front.acquire (f : Front) (c : Nat) (d : Dep) : Front := { f.raise c d.near with wrote := joinTab f.wrote d.wrote }

/-- A front that also covers what an address depends on (R255). -/
def Front.join (f : Front) (d : Dep) : Front := f.acquire 3 d

/-- The ring that an agent belongs to. -/
def Agent.ring? : Agent → Option Nat
  | .ring r => some r
  | .engines r => some r
  | .core _ => none
  | .key => none
  | .host => none

/-- The number of an agent, by which stamps are kept. -/
def Agent.code : Agent → Nat
  | .ring r => r
  | .engines r => 128 + r
  | .core d => 256 + d
  | .key => 260
  | .host => 261

/-- The window that a place is reached through (R122). -/
def winOf : MemAttr → Option Nat
  | .win n _ => some n
  | .sram => none
  | .vf _ _ => none
  | .own => none
  | .host _ _ => none

/-- Bytes are written by an agent, each remembered with what it replaces. A write that lags can be observed by no agent at first, in a window or in memory
that a ring's agents alone reach by those of its own ring (R106, R119, R122). -/
def State.putSeen (s : State) (who : Agent) (lag : Bool) (sync : Tab Dep) : List (Nat × MemAttr) → List Byte → State
  | p :: ps, b :: bs =>
    let e : Past := { key := p.1, old := s.byte p.1, who := who, stamp := s.free, seen := if lag && Config.lags s.free then none else some s.free,
                      sync := sync, shown := [], win := winOf p.2 }
    ({ s.putByte p.1 b with past := e :: s.past }).putSeen who lag sync ps bs
  | _, _ => s

/-- A word of on-chip memory that an agent of a ring writes. -/
def State.putWord (s : State) (r k v : Nat) : State :=
  s.putSeen (.engines r) false [] ((List.range 4).map fun i => (k + i, .sram)) (leBytes 4 v)

/-- An element after a cold start. -/
def Elem.reset : Elem :=
  { ctx := [], k := [], base := 0, c := [], y := 0, pass := 0, q := 0, setup := [], afcA := 0, afcI := 0, lfsr := 0, acc := [],
    tag := [], exp := [], ya := [], yaScale := [], yb := [], ybScale := [] }

/-- A slot in IDLE with a free shadow bank (R50, R51). -/
def Slot.reset : Slot :=
  { v := none, st := .idle, blocks := 0, restored := false, shadow := .free, next := none, bank := false, item := none,
    sweep := 0, left := 0 }

/-- An AFC set-up of zeros (R188). -/
def AfcSetup.zero : AfcSetup := { base := 0, step0 := 0, count0 := 0, step1 := 0 }

/-- The number of slots of each ring of a group, in order (R19, R35). -/
def State.slotCounts (s : State) (g : Group) : List Nat := (List.range g.k).map fun i => (s.ring (g.first + i)).ringp

/-- A group's usable length P (R19). -/
def State.plen (s : State) (g : Group) : Nat := (s.slotCounts g).sum

/-- The ring index and logical slot of a group slot, from the slot counts (R35). -/
def splitSlot : List Nat → Nat → Nat × Nat
  | [], n => (0, n)
  | c :: t, n => if n < c then (0, n) else let (i, l) := splitSlot t (n - c); (i + 1, l)

/-- The ring and logical slot of a group slot. -/
def State.slotPlace (s : State) (g : Group) (gs : Nat) : Nat × Nat :=
  let (i, l) := splitSlot (s.slotCounts g) gs
  (g.first + i, l)

/-- A group slot. -/
def State.slot (s : State) (g : Group) (gs : Nat) : Slot :=
  let (r, l) := s.slotPlace g gs
  tget Slot.reset (s.ring r).slots l

def State.setSlot (s : State) (g : Group) (gs : Nat) (x : Slot) : State :=
  let (r, l) := s.slotPlace g gs
  s.updRing r fun q => { q with slots := tput q.slots l x }

/-- The element at a position of a group slot (R20). -/
def State.elem (s : State) (g : Group) (gs pos : Nat) : Elem :=
  let (r, l) := s.slotPlace g gs
  tget Elem.reset (s.ring r).elems (32 * l + pos)

def State.setElem (s : State) (g : Group) (gs pos : Nat) (x : Elem) : State :=
  let (r, l) := s.slotPlace g gs
  s.updRing r fun q => { q with elems := tput q.elems (32 * l + pos) x }

/-- Positions 12 to 19 hold MEs, the others VEs (R20). -/
def isMe (pos : Nat) : Bool := decide (12 ≤ pos) && decide (pos < 20)

/-- Field of the carve word (R101). -/
def carveScratch (w : W64) : Nat := fld w 6 0
def carveSpill (w : W64) : Nat := fld w 13 7
def carveWrap (w : W64) : Nat := fld w 20 14
def carveSave (w : W64) : Nat := fld w 27 21
def carveFifo (w : W64) : Nat := fld w 34 28

/-- The pool offset at which each carved use begins (R102). -/
def wrapBase (w : W64) : Nat := 65536 * (carveScratch w + carveSpill w)
def saveBase (w : W64) : Nat := wrapBase w + 65536 * carveWrap w
def fifoBase (w : W64) : Nat := saveBase w + 65536 * carveSave w

end Sys2Proof.Machine
end

