-- ==== Sys2Proof/Machine/Ports.lean ====
section
/-! DEFINITION. Ports as the elements use them: what an input port can deliver, taking words, markers, gated offers, and what an output
port accepts and where its words go (R134 to R145, R242 to R245). Port 4v + p is port p (I0, I1, O0, O1) of virtual stripe v. -/

namespace Sys2Proof.Machine

/-- The key of a port of a virtual stripe. -/
def portKey (v p : Nat) : Nat := 4 * v + p

/-- The stripe image of a virtual stripe. -/
def Group.stripe? (g : Group) (v : Nat) : Option StripeImg := g.img.stripes[v]?

/-- The mode bits of a virtual stripe's ports (R187). -/
def Group.pmode (g : Group) (v : Nat) : Nat :=
  match g.stripe? v with
  | some im => im.pmode
  | none => 0

def Group.steers (g : Group) (v : Nat) : Bool := g.pmode v % 2 == 1
def Group.merges (g : Group) (v : Nat) : Bool := g.pmode v / 2 % 2 == 1

/-- Input port p of v is gated (R143), or is the I0 of a merge pair, which reads like one (R244). -/
def Group.gated (g : Group) (v p : Nat) : Bool := g.pmode v / 2 ^ (2 + p) % 2 == 1 || (g.merges v && p == 0)

/-- The key of the ring buffer or link a port uses: Basecamp channels pair by number within the strip, chain links by the sending
ring, the direction and the number (R134, R193). -/
def campChanKey (base n : Nat) : Nat := 2 * (256 * base + n)
def chainChanKey (sender : Nat) (west : Bool) (n : Nat) : Nat := 2 * (256 * (2 * sender + if west then 1 else 0) + n) + 1

/-- The lowest ring of a ring's strip (R262). -/
def State.stripBase (s : State) (r : Nat) : Nat := (s.ring r).sbase

/-- The ring of a group that holds virtual stripe v (R35). -/
def State.ringOfV (s : State) (g : Group) (v : Nat) : Nat :=
  let p := s.plen g
  (s.slotPlace g (if p = 0 then 0 else v % p)).1

/-- The channel key of a port, if it is bound to one. -/
def State.chanKey (s : State) (g : Group) (key : Nat) (p : Port) : Option Nat :=
  let r := s.ringOfV g (key / 4)
  let out := key % 4 ≥ 2
  match p.kind with
  | .camp _ _ n => some (campChanKey (s.stripBase r) n)
  | .chain west n =>
    -- an input names the side its words come from
    if out then some (chainChanKey r west n) else some (chainChanKey (if west then r - 1 else r + 1) (!west) n)
  | .pool _ _ => none
  | .ag _ _ => none
  | .token _ => none

def Chan.reset : Chan := { words := [], cap := 0, base := 0, wrote := 0, ends := [] }

def State.chan (s : State) (k : Nat) : Chan := tget Chan.reset s.chans k

def State.setChan (s : State) (k : Nat) (c : Chan) : State := { s with chans := tput s.chans k c }

/-- The words of a channel up to its first end-of-stream mark: those of the producer phase that the reader belongs with (R140). -/
def Chan.front (c : Chan) : List W32 := c.words.take (c.ends.headD c.words.length)

/-- Words leave the front of a channel. -/
def Chan.pop (c : Chan) (n : Nat) : Chan := { c with words := c.words.drop n, ends := c.ends.map fun m => m - n }

/-- A producer phase ends at a channel: its mark follows its last word (R140). -/
def Chan.mark (c : Chan) : Chan := { c with ends := c.ends ++ [c.words.length] }

/-- A consumer phase ends at a channel: its producer's words and mark go, and those of a later producer stay (R140). -/
def Chan.finish (c : Chan) : Chan :=
  match c.ends with
  | n :: rest => ({ c with ends := rest } : Chan).pop n
  | [] => c

/-- All the words credited to a port. -/
def Port.creditWords (p : Port) : Nat := (p.credits.map (·.2)).sum

/-- A port that tagged copies feed (R138). -/
def Port.copied (p : Port) : Bool :=
  p.decl.tagged && (match p.kind with
    | .pool _ _ => true
    | .ag _ _ => false
    | .camp _ _ _ => false
    | .chain _ _ => false
    | .token _ => false)

/-- The tiles that have arrived whole at a port or been credited to it meet the count that its binding declares (R140). -/
def Port.tilesMet (p : Port) : Bool := decide (p.decl.tiles ≤ p.arrived / (if p.decl.t = 0 then 1 else p.decl.t) + p.credTiles)

/-- The words of a port's queue that lie ahead of its end-of-stream mark: those of tagged copies end with the tiles that the binding declares (R140). -/
def Port.ahead (p : Port) : List W32 :=
  if p.copied then p.q.take (p.decl.tiles * p.decl.t - (p.creditWords + (p.arrived - p.q.length))) else p.q

/-- The words that have arrived at an input port, ahead of its mark, and are not consumed. -/
def State.inWords (s : State) (g : Group) (key : Nat) (p : Port) : List W32 :=
  match s.chanKey g key p with
  | some k => (s.chan k).front
  | none => p.ahead

/-- The words that an input port holds, ahead of its mark or not. -/
def State.allIn (s : State) (g : Group) (key : Nat) (p : Port) : Nat :=
  match s.chanKey g key p with
  | some k => (s.chan k).front.length
  | none => p.q.length

/-- The end-of-stream mark has reached the port (R140). -/
def State.eosMark (s : State) (g : Group) (key : Nat) (p : Port) : Bool :=
  match s.chanKey g key p with
  | some k => !(s.chan k).ends.isEmpty
  | none => p.eos || (p.copied && p.tilesMet)

/-- The words of its stream that have ever arrived at an input port in its phase: of a ring buffer or link, those taken from it and those of its front. -/
def State.everIn (s : State) (g : Group) (key : Nat) (p : Port) : Nat :=
  match s.chanKey g key p with
  | some k => p.arrived + (s.chan k).front.length
  | none => p.arrived

/-- How many words the port can deliver now: a tagged port only those of whole tiles (R137). -/
def State.deliverable (s : State) (g : Group) (key : Nat) (p : Port) : Nat :=
  let n := (s.inWords g key p).length
  if p.decl.tagged then n - s.everIn g key p % p.decl.t else n

/-- Removes words from the front of an input port, delivered or discarded; those taken from a ring buffer or link have arrived in this phase (R137). -/
def State.dropWords (s : State) (gk : Nat) (g : Group) (key : Nat) (p : Port) (n : Nat) : State :=
  match s.chanKey g key p with
  | some k => (s.setChan k ((s.chan k).pop n)).setGroup gk { g with ports := tput g.ports key { p with arrived := p.arrived + n } }
  | none => s.setGroup gk { g with ports := tput g.ports key { p with q := p.q.drop n } }

/-- A port record at rest under a declaration and a binding. -/
def Port.start (d : PortDecl) (k : PortKind) (region : Option Nat) : Port :=
  { decl := d, kind := k, region := region, q := [], arrived := 0, delivered := 0, credTiles := 0, credits := [], eos := false,
    recs := [], offer := none, disc := 0, win := [], head := 0, opens := [], steered := 0, written := 0, countAt := 0, heldAt := 0, marks := [] }

/-- The words credited ahead of an item: those of every skipped tile that comes before it (R139, R229). -/
def Port.creditedBefore (p : Port) (n : Nat) : Nat := ((p.credits.filter fun c => decide (c.1 ≤ n)).map (·.2)).sum

/-- Counts `n` delivered words, and gives the markers the consuming item takes (R245). -/
def Port.deliver (p : Port) (n : Nat) : Port × List Nat :=
  ({ p with delivered := p.delivered + n, marks := (p.marks.filter fun m => n ≤ m.2).map fun m => (m.1, m.2 - n) },
   (p.marks.filter fun m => m.2 < n).map (·.1))

/-- Words pass without being delivered: markers behind them move up. -/
def Port.passOver (p : Port) (n : Nat) : Port := { p with marks := p.marks.map fun m => (m.1, m.2 - n) }

/-- Replaces a port of a group. -/
def State.setPort (s : State) (gk : Nat) (key : Nat) (p : Port) : State :=
  match s.group? gk with
  | some g => s.setGroup gk { g with ports := tput g.ports key p }
  | none => s

/-- Takes `n` words from an ungated input port: missing words read 0 (R141). Gives the words and the markers met. -/
def State.takeWords (s : State) (gk key n : Nat) : List W32 × List Nat × State :=
  match s.group? gk with
  | none => ([], [], s)
  | some g =>
    match tfind g.ports key with
    | none => ([], [], s)
    | some p =>
      let have_ := min n (s.deliverable g key p)
      let ws := (s.inWords g key p).take have_
      let (p', ms) := p.deliver have_
      let s1 := s.setPort gk key p'
      match s1.group? gk with
      | none => ([], [], s)
      | some g1 => (ws ++ List.replicate (n - have_) 0#32, ms, s1.dropWords gk g1 key p' have_)

/-- Takes one word of the record a gated port offers in this item time: beyond it, reads give 0 and consume nothing (R143). -/
def State.takeOffer (s : State) (gk key n : Nat) : List W32 × List Nat × State :=
  match s.group? gk with
  | none => ([], [], s)
  | some g =>
    match tfind g.ports key with
    | none => ([], [], s)
    | some p =>
      let ws := p.offer.getD []
      let h := min n ws.length
      let (p', ms) := p.deliver h
      (ws.take h ++ List.replicate (n - h) 0#32, ms, s.setPort gk key { p' with offer := p.offer.map fun l => l.drop h })

/-- The input port that a pool region feeds: I0 first, so that a merge pair gives its window (R134, R244). -/
def Group.fedBy (g : Group) (off : Nat) : Option (Nat × Port) :=
  (g.ports.filter fun e => e.1 % 4 < 2 && (match e.2.kind with
    | .pool o _ => o == off
    | .ag _ _ => false
    | .camp _ _ _ => false
    | .chain _ _ => false
    | .token _ => false)).head?

/-- How the words of an output port reach the port they feed: as records of a steer, as records of an arm, cut later from a plain
stream, or one by one (R143, R242, R243). -/
inductive FeedKind where
  | steer
  | merge
  | plainGated
  | words
  deriving DecidableEq, Repr

/-- The kind of feed of an output port. -/
def Group.feedKind (g : Group) (key : Nat) (p : Port) : FeedKind :=
  match p.kind with
  | .pool off _ =>
    match g.fedBy off with
    | some (k, _) =>
      if g.merges (k / 4) then .merge
      else if g.steers (key / 4) then .steer
      else if g.gated (k / 4) (k % 4) then .plainGated
      else .words
    | none => if g.steers (key / 4) then .steer else .words
  | .ag _ _ => .words
  | .camp _ _ _ => .words
  | .chain _ _ => .words
  | .token _ => .words

/-- The words an input port's region holds: the plain ones, the records, and those of records still open. -/
def Group.heldWords (g : Group) (off : Nat) (p : Port) : Nat :=
  p.q.length + (p.recs.map fun r => r.2.length).sum +
    (g.ports.map fun e => match e.2.kind with
      | .pool o _ => if o = off ∧ e.1 % 4 ≥ 2 then (e.2.opens.map fun r => r.words.length).sum else 0
      | .ag _ _ => 0
      | .camp _ _ _ => 0
      | .chain _ _ => 0
      | .token _ => 0).sum

/-- Words of AG stream data an AG's line buffers hold for a store (R152: 128 lines). -/
def agStoreCap : Nat := 2048

/-- The channel space of R134: a ring buffer gives its credit back by 64-byte lines, none while the receiving ring is gated. -/
def Chan.space (c : Chan) : Nat := c.cap - (c.words.length + (c.wrote - c.words.length) % 16)

def Ag.reset : Ag :=
  { bound := none, desc := none, idxDesc := none, issued := 0, skips := [], idxTaken := 0, curIdx := none, delivered := 0, units := [],
    part := [], fault := none, again := false, ended := false, oor := 0, x := { ring := 0, satp := 0, s2root := 0, lvl := .u, tlb := .ag 0 0, front := Front.zero } }

/-- The elements of its whole stream that an AG has issued (R151). -/
def Ag.total (a : Ag) (d : AgDesc) (walk : Nat) : Nat := if d.mode = 2 then (a.idxTaken - 1) * walk + a.issued else a.issued

/-- A storer at the first word of a skipped tile steps past the tile with no access, in output stream order (R176); in indirect mode it does so index by
index. -/
def Ag.stepPast (a : Ag) : Ag := if (a.desc.map (·.mode)) = some 2 then a else stepMore a a.skips
where
  /-- The tiles that it stands at, one after the other. -/
  stepMore (a : Ag) : List (Nat × Nat) → Ag
    | (at_, n) :: rest => if at_ ≤ a.issued then stepMore { a with issued := a.issued + n, skips := rest } rest else a
    | [] => a

/-- The AG table index: north 0 to 3, south 4 to 7 (R392). -/
def agIdx (south : Bool) (n : Nat) : Nat := n + if south then 4 else 0

/-- Ring r is gated and receives nothing (R134). -/
def State.gated (s : State) (r : Nat) : Bool := (s.ring r).power ≥ 4

/-- The ring whose Basecamp share holds a CAMP offset of a strip (R97). -/
def campRing (base off : Nat) : Nat := base + off / 2 ^ 22

/-- The words an output port accepts now from an item whose record tag is `tag` (R53, R134, R145, R162). A merge's window takes a record that lies less than D
past the one it offers next, on which R146's bound for D rests. -/
def State.outSpace (s : State) (g : Group) (key : Nat) (p : Port) (tag : Option (BitVec 16)) : Nat :=
  match p.kind with
  | .pool off size =>
    match g.fedBy off with
    | none => size / 4
    | some (k, ip) =>
      if g.merges (k / 4) then
        -- an untagged item's write is accepted and faults (R243)
        match tag with
        | some q => if (q - ip.head).toNat < ip.decl.d then size / 4 else 0
        | none => size / 4
      else size / 4 - g.heldWords off ip
  | .ag south n =>
    let a := tget Ag.reset (s.ring (s.ringOfV g (key / 4))).ags (agIdx south n)
    if a.ended then agStoreCap else agStoreCap - (a.part.length + (a.units.map fun u => (u.data.map (·.length)).sum).sum) / 4
  | .camp addr _ n =>
    let base := s.stripBase (s.ringOfV g (key / 4))
    if s.gated (campRing base (addr.toNat % 2 ^ 29)) then 0 else (s.chan (campChanKey base n)).space
  | .chain west n =>
    let r := s.ringOfV g (key / 4)
    if s.gated (if west then r - 1 else r + 1) then 0
    else let c := s.chan (chainChanKey r west n); c.cap - c.words.length
  | .token q => 64 - (tget [] (s.ring (s.ringOfV g (key / 4))).tqs q).length

/-- A word enters an input port's pool FIFO: its queue, and its place in the fifo carve (R104; log 11). -/
def State.enqueueFifo (s : State) (gk : Nat) (g : Group) (k : Nat) (ip : Port) (w : W32) : State :=
  match ip.kind with
  | .pool off size =>
    let r := s.ringOfV g (k / 4)
    let at_ := poolKey r (fifoBase g.carve + off + 4 * ip.arrived % (if size = 0 then 4 else size))
    (s.putNum at_ 4 w.toNat).setPort gk k { ip with q := ip.q ++ [w], arrived := ip.arrived + 1 }
  | .ag _ _ => s.setPort gk k { ip with q := ip.q ++ [w], arrived := ip.arrived + 1 }
  | .camp _ _ _ => s
  | .chain _ _ => s
  | .token _ => s

/-- Words enter the fifo carve's bytes of a region, from word `at_` of its stream on (R104; log 11). -/
def State.fifoWords (s : State) (g : Group) (k : Nat) (ip : Port) (at_ : Nat) (ws : List W32) : State :=
  match ip.kind with
  | .pool off size =>
    let base := poolKey (s.ringOfV g (k / 4)) (fifoBase g.carve + off)
    ws.zipIdx.foldl (fun st x => st.putNum (base + 4 * (at_ + x.2) % (if size = 0 then 4 else size)) 4 x.1.toNat) s
  | .ag _ _ => s
  | .camp _ _ _ => s
  | .chain _ _ => s
  | .token _ => s

/-- A closed record enters the port it feeds (R143, R145, R243). A merge's record q lies in place q mod D of its window (log 11). -/
def State.enqueueRec (s : State) (gk : Nat) (g : Group) (k : Nat) (ip : Port) (tag : Option (BitVec 16)) (ws : List W32) : State :=
  if g.merges (k / 4) then
    match tag with
    | some q =>
      (s.fifoWords g k ip (if ip.decl.d = 0 then 0 else q.toNat % ip.decl.d * ip.decl.w) ws).setPort gk k
        { ip with win := tput ip.win q.toNat ws, arrived := ip.arrived + ws.length }
    | none => s
  else (s.fifoWords g k ip ip.arrived ws).setPort gk k { ip with recs := ip.recs ++ [(tag, ws)], arrived := ip.arrived + ws.length }

/-- A record among those still open at a port, in item order (R243). -/
def insertRec (r : OpenRec) : List OpenRec → List OpenRec
  | [] => [r]
  | x :: t => if r.item < x.item then r :: x :: t else x :: insertRec r t

/-- One word an output port takes (R135): into the FIFO it feeds, an AG, a ring buffer, a link or a token queue; for a FIFO that takes
records, into the open record of its item, which opens closed where the item has left its slot already (R73, R243). -/
def State.outWord (s : State) (gk key item pos ctx : Nat) (tag : Option (BitVec 16)) (gone : Bool) (w : W32) : State :=
  match s.group? gk with
  | none => s
  | some g =>
    match tfind g.ports key with
    | none => s
    | some p0 =>
      let p := { p0 with written := p0.written + 1 }
      match p.kind with
      | .pool off _ =>
        if g.feedKind key p = .words then
          let s1 := s.setPort gk key p
          match s1.group? gk with
          | none => s1
          | some g1 =>
            match g1.fedBy off with
            | some (k, ip) => s1.enqueueFifo gk g1 k ip w
            | none => s1
        else
          let add (l : List OpenRec) : List OpenRec :=
            match l.findIdx? (fun r => r.item == item) with
            | some i => l.modify i fun r => { r with words := r.words ++ [w], pos := pos, ctx := ctx }
            | none => insertRec { item := item, tag := tag, words := [w], closed := gone, pos := pos, ctx := ctx } l
          s.setPort gk key { p with opens := add p.opens }
      | .ag south n =>
        let r := s.ringOfV g (key / 4)
        let a := tget Ag.reset (s.ring r).ags (agIdx south n)
        if a.ended then s.setPort gk key { p with disc := p.disc + 1 }
        else
          (s.setPort gk key p).updRing r fun x =>
            { x with ags := tput x.ags (agIdx south n) { a with part := a.part ++ leBytes 4 w.toNat } }
      | .camp addr size n =>
        let base := s.stripBase (s.ringOfV g (key / 4))
        let k := campChanKey base n
        let c := s.chan k
        let o := addr.toNat % 2 ^ 29 + 4 * c.wrote % (if size = 0 then 4 else size)
        let s1 := s.putWord (s.ringOfV g (key / 4)) (campKey (campRing base o) (o % 2 ^ 22)) w.toNat
        (s1.setChan k { c with words := c.words ++ [w], wrote := c.wrote + 1 }).setPort gk key p
      | .chain west n =>
        let k := chainChanKey (s.ringOfV g (key / 4)) west n
        let c := s.chan k
        (s.setChan k { c with words := c.words ++ [w], wrote := c.wrote + 1 }).setPort gk key p
      | .token q =>
        (s.updRing (s.ringOfV g (key / 4)) fun x => { x with tqs := tput x.tqs q (tget [] x.tqs q ++ [w]) }).setPort gk key p

/-- What a gated port or a merge offers next, and its sequence number (R143, R145). -/
def State.nextOffer (s : State) (g : Group) (key : Nat) (p : Port) : Option (Option (BitVec 16) × List W32) :=
  if g.merges (key / 4) then
    match tfind p.win p.head.toNat with
    | some ws => some (some p.head, ws)
    | none => none
  else
    match p.recs with
    | r :: _ => some r
    | [] =>
      if p.decl.w ≤ s.deliverable g key p ∧ 0 < p.decl.w then some (none, (s.inWords g key p).take p.decl.w) else none

/-- An item time begins at a gated port or merge: the next record, if any, becomes the offer of an item that is not void; gives the
record's sequence number (R143, R145). -/
def State.startOffer (s : State) (gk key : Nat) (void : Bool) : Option (BitVec 16) × State :=
  match s.group? gk with
  | none => (none, s)
  | some g =>
    match tfind g.ports key with
    | none => (none, s)
    | some p =>
      if void then (none, s.setPort gk key { p with offer := none })
      else
        match s.nextOffer g key p with
        | none => (none, s.setPort gk key { p with offer := none })
        | some (tag, ws) =>
          if g.merges (key / 4) then
            (tag, s.setPort gk key { p with offer := some ws, win := tdel p.win p.head.toNat, head := p.head + 1 })
          else
            match p.recs with
            | _ :: rs => (tag, s.setPort gk key { p with offer := some ws, recs := rs })
            | [] =>
              let p' := { p with offer := some ws }
              let s1 := s.setPort gk key p'
              match s1.group? gk with
              | some g1 => (tag, s1.dropWords gk g1 key p' ws.length)
              | none => (tag, s1)

/-- An item time ends at a gated port or merge: what its reads did not take is dropped and counted (R143). -/
def State.endOffer (s : State) (gk key : Nat) : State :=
  match s.group? gk with
  | none => s
  | some g =>
    match tfind g.ports key with
    | none => s
    | some p =>
      let n := (p.offer.getD []).length
      s.setPort gk key { p.passOver n with offer := none, disc := p.disc + n }

end Sys2Proof.Machine
end

