-- ==== Sys2Proof/Machine/PhaseFault.lean ====
section
/-! DEFINITION. The record of a phase and the taking of a phase fault (R278, R379 to R382). -/

namespace Sys2Proof.Machine

/-- A record in state MASK: every field 0 but the number of the first void item, which reads all ones when there is none (R381). -/
def PhaseRec.reset : PhaseRec :=
  { state := 0, items := 0, csets := 0, code := 0, void := false, zip := false, oor := 0, disc := 0, cred := 0, tiles := 0,
    kind := 0, check := 0, ctx := 0, pos := 0, vs := 0, gslot := 0, fval := 0, fvoid := none, sweeps := 0, tret := 0 }

/-- Changes the record of a ring's phase. -/
def State.updRec (s : State) (r serial : Nat) (f : PhaseRec → PhaseRec) : State :=
  s.updRing r fun x => { x with recs := tput x.recs serial (f (tget PhaseRec.reset x.recs serial)) }

/-- Error codes of R271. -/
def errDep : BitVec 8 := 1
def errImage : BitVec 8 := 2
def errCarve : BitVec 8 := 3
def errBinding : BitVec 8 := 4
def errPlace : BitVec 8 := 5
def errPfault : BitVec 8 := 6
def errZip : BitVec 8 := 7
def errXlat : BitVec 8 := 8
def errDesc : BitVec 8 := 9
def errAddr : BitVec 8 := 10
def errTag : BitVec 8 := 11
def errBranch : BitVec 8 := 12
def errRemote : BitVec 8 := 13
def errBillet : BitVec 8 := 14
def errRegion : BitVec 8 := 15
def errMcheck : BitVec 8 := 16
def errWindow : BitVec 8 := 17

/-- The error code of a fault kind (R382). -/
def faultCode (kind : Nat) : BitVec 8 :=
  match kind with
  | 8 => errXlat
  | 9 => errImage
  | 10 => errCarve
  | 11 => errBinding
  | 12 => errWindow
  | 13 => errMcheck
  | _ => errPfault

/-- Where a phase fault was detected (R382). -/
structure FaultAt where
  gslot : Nat
  vs : Nat
  pos : Nat
  ctx : Nat
  deriving DecidableEq, Repr

def FaultAt.zero : FaultAt := { gslot := 0, vs := 0, pos := 0, ctx := 0 }

/-- A group empties its fabric: items, queued writes, open records and blocks go (R379). -/
def State.discardItems (s : State) (gk : Nat) : State :=
  match s.group? gk with
  | none => s
  | some g =>
    let clear (st : State) (gs : Nat) : State := st.setSlot g gs { st.slot g gs with item := none, st := .idle }
    let s1 := (List.range (s.plen g)).foldl clear s
    s1.setGroup gk { g with wrap := [], cross := [], wq := [], blocks := [], fresh := [], banks := [],
                            ports := tmap (fun _ p => { p with opens := [], offer := none }) g.ports }

/-- Rings of a group that H has halted (R394). -/
def State.groupHalted (s : State) (g : Group) : Bool := (List.range g.k).any fun i => (s.ring (g.first + i)).halted

/-- A group holds in a debug halt, and while its VF is stopped (R394, R412). -/
def State.groupHeld (s : State) (g : Group) : Bool := s.groupHalted g || (s.vfOf ((s.ring g.issuer).vf.getD 128)).stopped

/-- A group stands within a cycle that is not frozen. -/
def Group.midCycle (g : Group) : Bool := decide (g.stage ≠ .entry) && decide (g.stage ≠ .check)

/-- The phase of a group that has taken a fault discards its items and drains (R379). -/
def State.dropItems (s : State) (gk : Nat) : State :=
  match s.group? gk with
  | none => s
  | some g => (s.setGroup gk { g with draining := true }).discardItems gk

/-- A phase fault (R379): the first one is recorded and marks the phase for RETERR, and a later one of the same cycle replaces it only from a lower slot, or
a lower position of the same slot. Within a cycle the items go at the cycle's end. -/
def State.phaseFault (s : State) (gk kind : Nat) (at_ : FaultAt) (fval : W64) : State :=
  match s.group? gk with
  | none => s
  | some g =>
    let q := tget PhaseRec.reset (s.ring g.issuer).recs g.serial
    let lower := decide (at_.gslot < q.gslot) || (at_.gslot == q.gslot && decide (at_.pos < q.pos))
    if g.mark.isSome && (g.draining || !g.midCycle || !lower) then s
    else
      let s1 := s.updRec g.issuer g.serial fun q =>
        { q with state := 4, kind := kind, ctx := at_.ctx, pos := at_.pos, vs := at_.vs, gslot := at_.gslot, fval := fval }
      let s2 := s1.setGroup gk { g with mark := some (faultCode kind) }
      if g.midCycle then s2 else s2.dropItems gk

end Sys2Proof.Machine
end

