-- ==== Sys2Proof/Machine/Integrity.lean ====
section
/-! DEFINITION. Physical addresses and channels, the encryption of lines and of link traffic, the tags and the counter tree, and whether memory delivers
a place (R10, R17, R25, R360, R405 to R411, R428). -/

namespace Sys2Proof.Machine

/-- A physical address lies in HBM (R360). -/
def isHbm (pa : Nat) : Bool := decide (pa < 2 ^ 39)

/-- A physical address lies in the HOST range (R360). -/
def isHostPa (pa : Nat) : Bool := decide (2 ^ 54 ≤ pa) && decide (pa < 2 ^ 55)

/-- The global channel of an HBM address (R360). -/
def chanOf (pa : Nat) : Nat := pa / 2 ^ 31 % 256

/-- The ring whose trailhead owns a global channel (R17). -/
def ringOfChan (g : Nat) : Nat := 32 * (g / 64) + g % 32

/-- The global channel of a ring's north or south trailhead (R17). -/
def ringChan (r : Nat) (south : Bool) : Nat := 32 * (2 * (r / 32) + if south then 1 else 0) + r % 32

/-- Where the integrity tree begins in a channel (R25, R360). -/
def treeBase : Nat := 0x7E000000

/-- Certia Link is up (R419, R420). -/
def State.hostUp (s : State) : Bool := bit (tget 0 (s.die 0).links 0) 0

/-- Why memory does not deliver. -/
inductive MemErr where
  | integrity (pa : Nat)
  | machine (pa : Nat)
  /-- The place lies in banks that take no traffic now: the access waits (R426). -/
  | gated
  deriving DecidableEq, Repr

/-- The key of a VF and of a window, as an access takes it at its translation (R405, R406). -/
def State.vfAttr (s : State) (v : Nat) : MemAttr := .vf v (tfind s.vfKeys v)

def State.winAttr (s : State) (n : Nat) : MemAttr := .win n (tfind s.winKeys n)

def State.hostAttr (s : State) (v : Nat) : MemAttr := .host (some v) (tfind s.vfKeys v)

/-- The 16-byte block Bj of a line, of a counter block or of a link transfer (R408, R409): part j, global channel, line index, and the domain with the
counters. -/
def cipherBlock (t : LineTag) (j pa : Nat) : List Byte :=
  leBytes 8 t.major.toNat ++ [BitVec.ofNat 8 t.minor.toNat, BitVec.ofNat 8 j, BitVec.ofNat 8 (chanOf pa)] ++
    leBytes 4 (pa % 2 ^ 31 / 64) ++ [BitVec.ofNat 8 t.domain]

/-- A key as the bytes that AES takes. -/
def keyBytes (k : BitVec 256) : List Byte := leBytes 32 k.toNat

/-- The 64 bytes of a line in AES-256 counter mode: encryption and decryption alike (R408). -/
def cipherLine (t : LineTag) (pa : Nat) (l : List Byte) : List Byte :=
  xorBytes l ((List.range 4).map fun j => aes (keyBytes t.key) (cipherBlock t j pa)).flatten

/-- The 32-bit tag of a line's ciphertext (R409). -/
def cipherTag (t : LineTag) (pa : Nat) (c : List Byte) : List Byte :=
  xorBytes ((ghash (aes (keyBytes t.key) (List.replicate 16 0)) (cipherBlock t 0 pa) c).take 4) ((aes (keyBytes t.key) (cipherBlock t 4 pa)).take 4)

/-- What a stored line's burst carries, its ciphertext and its tag, for a line that has been written (R407 to R409). -/
def State.burst (s : State) (pa : Nat) : Option (List Byte × List Byte) :=
  (tfind s.tags (pa / 64)).map fun t =>
    let c := cipherLine t pa (s.bytes (pa / 64 * 64) 64)
    (c, cipherTag t pa c)

/-- What a transfer of a line for a VF carries over Certia Link: domain 2, with the transfer's number in place of the major counter (R409). -/
def State.linkText (s : State) (key : BitVec 256) (pa : Nat) (l : List Byte) : List Byte :=
  cipherLine { key := key, domain := 2, major := s.linkSeq, minor := 0 } pa l

def CtrBlock.zero : CtrBlock := { major := 0, minors := [], tag := none }

/-- Slot i of a counter block counts one write more (R411). -/
def CtrBlock.bump (b : CtrBlock) (i : Nat) : CtrBlock :=
  if tget 0 b.minors i = 127 then { b with major := b.major + 1, minors := tput (tmap (fun _ m => if m = 0 then 0 else 1) b.minors) i 1 }
  else { b with minors := tput b.minors i (tget 0 b.minors i + 1) }

/-- The block cannot count another write of slot i (R411). -/
def CtrBlock.full (b : CtrBlock) (i : Nat) : Bool := tget 0 b.minors i == 127 && b.major == 0xFFFFFFFFFFFFFFFF

/-- The 64 bytes of a counter block: the major counter, and seven bits for each slot (R407). -/
def CtrBlock.bytes (b : CtrBlock) : List Byte :=
  leBytes 64 (b.major.toNat + (List.range 64).foldl (fun n i => n + (tget 0 b.minors i).toNat * 2 ^ (64 + 7 * i)) 0)

/-- The key of node b of a level of a channel's counter tree (R410). -/
def nodeKey (level g b : Nat) : Nat := (level * 256 + g) * 8192 + b

/-- The counter blocks above a line of HBM, with the slots that count for it, from its page up (R407, R410): level, node, slot. -/
def treePath (pa : Nat) : List (Nat × Nat × Nat) :=
  let n := pa % 2 ^ 31 / 4096
  [(1, n, pa / 64 % 64), (2, n / 64, n % 64), (3, n / 4096, n / 64 % 64), (4, n / 2 ^ 18, n / 4096 % 64)]

/-- Node b of a level of channel g; level 1 has one node for each data page (R410). -/
def State.ctrBlock (s : State) (level g b : Nat) : CtrBlock :=
  if level = 1 then tget CtrBlock.zero s.pages (g * 2 ^ 19 + b) else tget CtrBlock.zero s.nodes (nodeKey level g b)

def State.setCtrBlock (s : State) (level g b : Nat) (x : CtrBlock) : State :=
  if level = 1 then { s with pages := tput s.pages (g * 2 ^ 19 + b) x } else { s with nodes := tput s.nodes (nodeKey level g b) x }

/-- The level-4 node that lies above a node of levels 2 to 4, by its key (R410). -/
def nodeTop (key : Nat) : Nat :=
  let b := key % 8192
  match key / 8192 / 256 with
  | 2 => b / 4096
  | 3 => b / 64
  | _ => b

/-- Everything under root counter j of channel g becomes fresh (R407, R410, R413). -/
def State.freshHalf (s : State) (g j : Nat) : State :=
  let lo := g * 2 ^ 31 + j * 2 ^ 30
  let hi := lo + 2 ^ 30
  { s with mem := s.mem.filter (fun c => !(decide (lo ≤ c.1) && decide (c.1 < hi))),
           tags := s.tags.filter (fun c => !(decide (lo / 64 ≤ c.1) && decide (c.1 < hi / 64))),
           pages := s.pages.filter (fun c => !(decide (lo / 4096 ≤ c.1) && decide (c.1 < hi / 4096))),
           past := s.past.filter (fun e => !(decide (lo ≤ e.key) && decide (e.key < hi))),
           bad := s.bad.filter (fun l => !(decide (lo / 64 ≤ l) && decide (l < hi / 64))),
           nodes := s.nodes.filter (fun c => !(c.1 / 8192 % 256 == g && nodeTop c.1 == j)), roots := tdel s.roots (2 * g + j) }

/-- Where a node's 64 bytes lie (R410). -/
def nodePa (level g b : Nat) : Nat :=
  g * 2 ^ 31 + (match level with
    | 1 => 0x7E000000
    | 2 => 0x7FF80000
    | 3 => 0x7FFFE000
    | _ => 0x7FFFFF80) + 64 * b

/-- The root counter above a line (R410). -/
def rootKey (pa : Nat) : Nat := 2 * chanOf pa + pa % 2 ^ 31 / 2 ^ 30

/-- The tag that a node has under its parent's counters (R410). -/
def State.nodeSeal (s : State) (major : W64) (minor : BitVec 7) : LineTag := { key := s.treeKey, domain := 3, major := major, minor := minor }

/-- What a node's burst carries: its 64 bytes, and the 32-bit tag under the tree key, domain 3 and its parent's counters (R409, R410). -/
def State.nodeBurst (s : State) (level g b : Nat) : List Byte × Option (List Byte) :=
  let x := s.ctrBlock level g b
  (x.bytes, x.tag.map fun t => cipherTag t (nodePa level g b) x.bytes)

/-- What the walk down the counter tree finds of a line (R407, R410, R411). -/
inductive LineSt where
  /-- Never written since its channel was initialised: it reads as zeros, and no tag is checked. -/
  | fresh
  /-- Written, with these counters. -/
  | live (major : W64) (minor : BitVec 7)
  /-- A counter block's tag does not match. -/
  | broken
  deriving DecidableEq, Repr

/-- Follows a path of blocks, topmost first, whose parent holds the counters given. -/
def State.verify (s : State) (g : Nat) (major : W64) (minor : BitVec 7) : List (Nat × Nat × Nat) → LineSt
  | [] => .live major minor
  | (l, b, i) :: t =>
    let x := s.ctrBlock l g b
    if x.tag ≠ some (s.nodeSeal major minor) then .broken
    else if tget 0 x.minors i = 0 then .fresh
    else s.verify g x.major (tget 0 x.minors i) t

/-- What the tree says of a line, from the root on the die down (R410, R411). -/
def State.lineState (s : State) (pa : Nat) : LineSt :=
  let r := tget 0 s.roots (rootKey pa)
  if r = 0 then .fresh else s.verify (chanOf pa) r 0 (treePath pa).reverse

/-- Does a line verify for an access under a key and a domain (R411, R412)? -/
def State.lineErr (s : State) (key : Option (BitVec 256)) (domain pa : Nat) : Option MemErr :=
  match key with
  | none => some (.integrity (pa / 64 * 64))
  | some k =>
    match s.lineState pa with
    | .fresh => none
    | .broken => some (.integrity (pa / 64 * 64))
    | .live major minor =>
      if tfind s.tags (pa / 64) = some { key := k, domain := domain, major := major, minor := minor } then none
      else some (.integrity (pa / 64 * 64))

/-- The key of an access that a management core makes outside windows: that of the VF whose strip owns the channel, or where no strip does 0 (log 7). -/
def State.ownKey (s : State) (pa : Nat) : Option (BitVec 256) :=
  match (s.ring (ringOfChan (chanOf pa))).vf with
  | some v => tfind s.vfKeys v
  | none => some 0

/-- The unit of memory in which an error lies: a burst of HBM, or a word of SRAM (R428; log 91). -/
def errUnit (k : Nat) : Nat := if isHbm k then k / 64 else k / 4

/-- Does memory deliver the byte at a place (R406, R407, R411, R412, R420, R426, R428; log 8)? -/
def State.placeErr (s : State) (p : Nat × MemAttr) : Option MemErr :=
  if s.railGated p.1 then some .gated
  else if s.bad.contains (errUnit p.1) then some (.machine p.1)
  else
    match p.2 with
    | .sram => none
    | .own => s.lineErr (s.ownKey p.1) 0 p.1
    | .host v key =>
      if !s.hostUp then some (.machine p.1)
      else if v.isSome && key.isNone then some (.integrity (p.1 / 64 * 64))
      else none
    | .vf _ key => s.lineErr key 0 p.1
    | .win _ key => s.lineErr key 1 p.1

/-- The first error of a list of places. -/
def State.placesErr (s : State) (ps : List (Nat × MemAttr)) : Option MemErr := ps.findSome? s.placeErr

/-- Some counter above a line cannot be incremented (R411). -/
def State.treeFull (s : State) (pa : Nat) : Bool := (treePath pa).any fun (l, b, i) => (s.ctrBlock l (chanOf pa) b).full i

/-- The tag of child i of a node, and after an overflow that of every child that is not fresh, follows the node's counters (R411). -/
def State.retag (s : State) (level g b i : Nat) (all : Bool) : State :=
  let x := s.ctrBlock level g b
  let kids := (List.range 64).filter fun j => j == i || (all && tget 0 x.minors j ≠ 0)
  kids.foldl (init := s) fun st j =>
    let m := tget 0 x.minors j
    if level = 1 then
      let line := (g * 2 ^ 31 + 4096 * b) / 64 + j
      match tfind st.tags line with
      | some t => { st with tags := tput st.tags line { t with major := x.major, minor := m } }
      | none => st
    else
      let y := st.ctrBlock (level - 1) g (64 * b + j)
      st.setCtrBlock (level - 1) g (64 * b + j) { y with tag := some (st.nodeSeal x.major m) }

/-- The counters of a written line, up to the channel's root, and the tags under them (R411). -/
def State.bumpTree (s : State) (pa : Nat) : State :=
  let g := chanOf pa
  let s1 := (treePath pa).foldl (init := s) fun st (l, b, i) =>
    let x := st.ctrBlock l g b
    (st.setCtrBlock l g b (x.bump i)).retag l g b i (tget 0 x.minors i == 127)
  let r := tget 0 s1.roots (rootKey pa) + 1
  let top := pa % 2 ^ 31 / 2 ^ 30
  let y := s1.ctrBlock 4 g top
  { s1 with roots := tput s1.roots (rootKey pa) r }.setCtrBlock 4 g top { y with tag := some (s1.nodeSeal r 0) }

/-- A line of HBM is re-encrypted and re-tagged under the key of the access that writes it (R411; log 8). -/
def State.sealLine (s : State) (p : Nat × MemAttr) : State :=
  let key : Option (BitVec 256 × Nat) := match p.2 with
    | .vf _ k => k.map fun x => (x, 0)
    | .win _ k => k.map fun x => (x, 1)
    | .own => (s.ownKey p.1).map fun x => (x, 0)
    | .sram => none
    | .host _ _ => none
  match isHbm p.1, key with
  | true, some (k, dom) =>
    let s1 := { s with tags := tput s.tags (p.1 / 64) { key := k, domain := dom, major := 0, minor := 0 } }
    s1.bumpTree (p.1 / 64 * 64)
  | _, _ => s

/-- One place of each 64-byte line that a list of places touches. -/
def linesOf : List (Nat × MemAttr) → List (Nat × MemAttr)
  | [] => []
  | p :: t => if t.any (fun q => q.1 / 64 == p.1 / 64) then linesOf t else p :: linesOf t

/-- The transfers over Certia Link that an access makes are numbered (R409). -/
def State.transfers (s : State) (ps : List (Nat × MemAttr)) : State :=
  { s with linkSeq := s.linkSeq + BitVec.ofNat 64 ((linesOf ps).filter fun p => isHostPa p.1).length }

end Sys2Proof.Machine
end

