-- ==== Sys2Proof/Machine/Xlate.lean ====
section
/-! DEFINITION. Address spaces and translation: apertures, the two-stage walk, permissions, outputs, cached translations, and the checks
of an access in their order (R96 to R100, R252, R359 to R371, R204). -/

namespace Sys2Proof.Machine

/-- What an access needs of a page (R365). -/
inductive Acc where
  | load
  | store
  | amo
  | fetch
  deriving DecidableEq, Repr

def Acc.r : Acc → Bool
  | .load => true
  | .store => false
  | .amo => true
  | .fetch => false

def Acc.w : Acc → Bool
  | .load => false
  | .store => true
  | .amo => true
  | .fetch => false

def Acc.x : Acc → Bool
  | .load => false
  | .store => false
  | .amo => false
  | .fetch => true

/-- A translation fault (R364): the stage, the level reached, the reason, the address it names (R371), and whether a fetch failed
only on x (R365). -/
structure XFault where
  stage : Nat
  level : Nat
  reason : Nat
  addr : W64
  onlyX : Bool
  deriving DecidableEq, Repr

/-- A successful translation. -/
structure XOk where
  pa : Nat
  mt : Nat
  win : Nat
  /-- r, w, x, u of the stage-1 leaf in bits 0 to 3; all ones when stage 1 is off. -/
  p1 : BitVec 4
  /-- r, w, x of the stage-2 leaf. -/
  p2 : BitVec 3
  /-- Stage 1 is on. -/
  on : Bool
  /-- The smaller of the two leaf sizes, and whether the stage-1 leaf is global. -/
  size : Nat
  glob : Bool
  deriving DecidableEq, Repr

/-- Why a walk gives no translation: a fault, or a descriptor that memory does not deliver (R364). -/
inductive WalkErr where
  | fault (f : XFault)
  | mem (e : MemErr)
  deriving DecidableEq, Repr

/-- A failed check of R252. -/
inductive AccErr where
  | addr (va : W64)
  | align (va : W64)
  | bounds (va : W64)
  | xlat (f : XFault)
  | window (handle : W64)
  /-- A descriptor of the walk is not delivered (R364). -/
  | mem (e : MemErr)
  deriving DecidableEq, Repr

/-- The order of the checks (R252). -/
def AccErr.order : AccErr → Nat
  | .addr _ => 2
  | .align _ => 3
  | .bounds _ => 4
  | .xlat _ => 5
  | .window _ => 6
  | .mem _ => 5

/-- A ring lies in the strip of another. -/
def State.sameStrip (s : State) (r q : Nat) : Bool :=
  decide ((s.ring r).sbase ≤ q) && decide (q < (s.ring r).sbase + (s.ring r).slen)

/-- The whole range of a leaf lies in HBM data of channels that `ok` admits: below the tree region of each channel it touches. -/
def hbmRange (ok : Nat → Bool) (base size : Nat) : Bool :=
  decide (base + size ≤ 2 ^ 39) &&
    (List.range 6).all fun i =>
      let lo := (base / 2 ^ 31 + i) * 2 ^ 31
      if base + size ≤ lo then true
      else ok (chanOf lo) && decide (base + size ≤ lo + treeBase)

def State.window (s : State) (n : Nat) : Window := tget Window.reset s.windows n

/-- The end of a window's pool: it never leaves the data of the channel that holds its base (R415). -/
def Window.stop (w : Window) : Nat :=
  min (w.base.toNat + 65536 * w.size.toNat) (w.base.toNat / 2 ^ 31 * 2 ^ 31 + treeBase)

/-- A range lies in a window's pool, in a channel of a ring that belongs to no strip (R414, R415). -/
def State.inPool (s : State) (n base size : Nat) : Bool :=
  let w := s.window n
  isHbm base && decide (w.base.toNat ≤ base) && decide (base + size ≤ w.stop) && (s.ring (ringOfChan (chanOf base))).vf.isNone

/-- The index of an address in a table of level L (R361). -/
def tableIdx (a level : Nat) : Nat := bitsOf a (67 - 13 * level) (55 - 13 * level)

/-- The bytes a leaf of level L maps (R362). -/
def leafSize (level : Nat) : Nat := 2 ^ (55 - 13 * level)

/-- oa·2^16 of a descriptor (R361). -/
def descOut (e : Nat) : Nat := bitsOf e 54 16 * 65536

/-- A valid descriptor breaks no rule of format (R361, R362), contiguous groups aside. -/
def descOk (stage level e : Nat) : Bool :=
  let resv := bitsOf e 63 62 == 0 && bitsOf e 55 55 == 0 && bitsOf e 15 11 == 0
  if bitsOf e 1 1 == 1 then
    resv && level ≠ 3 && bitsOf e 61 56 == 0 && bitsOf e 10 2 == 0
  else
    resv && level ≠ 1 && (level ≠ 2 || bitsOf e 28 16 == 0) &&
      (if stage == 1 then bitsOf e 61 56 == 0 && bitsOf e 10 8 == 0
       else bitsOf e 6 5 == 0 && decide (bitsOf e 10 8 < 4) && (bitsOf e 10 8 == 3 || bitsOf e 61 56 == 0))

/-- The size of the contiguous group of a leaf with c set (R363). -/
def groupSize (level : Nat) : Nat := if level = 3 then 32 else 16

/-- A contiguous group is well formed (R363). -/
def groupOk (level : Nat) (es : List Nat) : Bool :=
  match es with
  | [] => false
  | e0 :: _ =>
    let n := groupSize level
    aligned (descOut e0) (n * leafSize level) &&
      (es.zipIdx.all fun (e, i) =>
        bitsOf e 0 0 == 1 && bitsOf e 1 1 == 0 && bitsOf e 7 7 == 1 && bitsOf e 63 55 == bitsOf e0 63 55 &&
          bitsOf e 15 0 == bitsOf e0 15 0 && descOut e == descOut e0 + i * leafSize level)

/-- The leaf a walk reaches: the descriptor, its level, and the bytes of the page it belongs to. -/
structure Leaf where
  e : Nat
  level : Nat
  size : Nat
  deriving DecidableEq, Repr

/-- WALK (R364) from level L: `rd` gives the physical place and the attribute of a table entry, or the fault of reaching it, and `held` a table descriptor
that a walk cache holds for a level. A descriptor that memory gives is its newest (log 111). -/
def State.walkFrom (s : State) (stage : Nat) (rd : Nat → Except WalkErr (Nat × MemAttr)) (held : Nat → Option Nat) (a : Nat) (named : W64) :
    Nat → Nat → Nat → Except WalkErr Leaf
  | 0, level, _ => .error (.fault { stage := stage, level := level, reason := 3, addr := named, onlyX := false })
  | fuel + 1, level, t =>
    match held level with
    | some e => s.walkFrom stage rd held a named fuel (level + 1) (descOut e)
    | none =>
      match rd (t + 8 * tableIdx a level) with
      | .error f => .error f
      | .ok (p, m) =>
        let e := s.num p 8
        let fault (reason : Nat) : Except WalkErr Leaf :=
          .error (.fault { stage := stage, level := level, reason := reason, addr := named, onlyX := false })
        match s.placeErr (p, m) with
        | some x => .error (.mem x)
        | none =>
          if bitsOf e 0 0 = 0 then fault 1
          else if !descOk stage level e then fault 3
          else if bitsOf e 1 1 = 1 then s.walkFrom stage rd held a named fuel (level + 1) (descOut e)
          else if bitsOf e 7 7 = 1 then
            let n := groupSize level
            let first := p - 8 * (tableIdx a level % n)
            match s.placesErr ((List.range n).map fun i => (first + 8 * i, m)) with
            | some x => .error (.mem x)
            | none =>
              if groupOk level ((List.range n).map fun i => s.num (first + 8 * i) 8) then
                .ok { e := e, level := level, size := n * leafSize level }
              else fault 3
          else .ok { e := e, level := level, size := leafSize level }

/-- The output of a leaf for an address (R364). -/
def Leaf.out (l : Leaf) (a : Nat) : Nat := descOut l.e + a % leafSize l.level

/-- The start of the page a leaf belongs to, as an output address. -/
def Leaf.outBase (l : Leaf) : Nat := descOut l.e / l.size * l.size

/-- The fault of a permission check: reason 2, or for a fetch that lacks only x the fetch fault (R365). -/
def permFault (stage level : Nat) (named : W64) (onlyX : Bool) : XFault :=
  { stage := stage, level := level, reason := 2, addr := named, onlyX := onlyX }

/-- R365 and R204 at one stage: the permissions r, w, x of its leaf, whether u is missing, and whether x forbids a write. -/
def permCheck (stage level : Nat) (named : W64) (a : Acc) (r w x needU : Bool) (xw : Bool) : Option XFault :=
  if (a.r && !r) || (a.w && !w) || needU then some (permFault stage level named false)
  else if a.x && !x then some (permFault stage level named true)
  else if a.w && xw then some (permFault stage level named false)
  else none

/-- The VF of a ring; a ring that belongs to none runs nothing. -/
def State.vfNum (s : State) (r : Nat) : Nat := (s.ring r).vf.getD 128

/-- The ring at which the second-level TLB of a ring's strip and die is held: the lowest of them (R369). -/
def State.secondOf (s : State) (r : Nat) : Nat := max (s.ring r).sbase (32 * dieOf r)

/-- The part of an address that selects a descriptor of a level and those above it. -/
def walkPre (level a : Nat) : Nat := a % 2 ^ 55 / leafSize level

/-- The table descriptor that a walk cache gives for a level, if it holds one and the walk uses it (R369). -/
def State.walkHeld (s : State) (c : XCtx) (stage a level : Nat) : Option Nat :=
  let fit := s.walks.filter fun w =>
    w.home == .second (s.secondOf c.ring) && w.owner == s.vfNum c.ring && w.stage == stage && w.level == level && w.pre == walkPre level a &&
      (stage == 2 || w.asid == some (BitVec.ofNat 16 (bitsOf c.satp.toNat 63 48)))
  match fit with
  | [] => none
  | w :: l => ((w :: l)[Config.tlbPick s.free (8 * stage + level)]?).map (·.e)

/-- A stage-2 table entry's place: in the channels of the strip, below the tree (R360, R364). -/
def State.table2 (s : State) (c : XCtx) (named : W64) (p : Nat) : Except WalkErr (Nat × MemAttr) :=
  if isHbm p ∧ s.sameStrip c.ring (ringOfChan (chanOf p)) ∧ p % 2 ^ 31 < treeBase then .ok (p, s.vfAttr (s.vfNum c.ring))
  else .error (.fault { stage := 2, level := 0, reason := 4, addr := named, onlyX := false })

/-- A stage-2 walk for an IPA (R359, R364). -/
def State.walk2 (s : State) (c : XCtx) (ipa : Nat) (named : W64) : Except WalkErr Leaf :=
  if bitsOf c.s2root.toNat 39 39 = 0 then .error (.fault { stage := 2, level := 0, reason := 5, addr := named, onlyX := false })
  else s.walkFrom 2 (s.table2 c named) (s.walkHeld c 2 ipa) ipa named 3 1 (bitsOf c.s2root.toNat 38 0 * 65536)

/-- R366 for a VF: a whole range agrees with a memory type, the range lying in the channels of the VF's strip. -/
def State.rangeOk (s : State) (r mt win base size : Nat) : Bool :=
  match mt with
  | 0 => hbmRange (fun g => s.sameStrip r (ringOfChan g)) base size
  | 1 => hbmRange (fun g => s.sameStrip r (ringOfChan g)) base size
  | 2 => isHostPa base && decide (base + size ≤ 2 ^ 55)
  | 3 => s.inPool win base size
  | _ => false

/-- R366 for a VF's leaf: its whole range agrees with its memory type. -/
def State.outputOk (s : State) (r : Nat) (l : Leaf) : Bool := s.rangeOk r (bitsOf l.e 10 8) (bitsOf l.e 61 56) l.outBase l.size

/-- S2: stage 2 of a stage-1 table read (R364). -/
def State.tableRead (s : State) (c : XCtx) (ipa : Nat) : Except WalkErr (Nat × MemAttr) :=
  let named := BitVec.ofNat 64 ipa
  match s.walk2 c ipa named with
  | .error f => .error f
  | .ok l =>
    if bitsOf l.e 2 2 = 0 then .error (.fault (permFault 2 l.level named false))
    else if bitsOf l.e 10 8 ≠ 0 ∨ !s.outputOk c.ring l then
      .error (.fault { stage := 2, level := 0, reason := 4, addr := named, onlyX := false })
    else .ok (l.out ipa, s.vfAttr (s.vfNum c.ring))

/-- r, w, x, u of a stage-1 leaf. -/
def leafPerm1 (e : Nat) : BitVec 4 :=
  BitVec.ofNat 4 (bitsOf e 2 2 + 2 * bitsOf e 3 3 + 4 * bitsOf e 4 4 + 8 * bitsOf e 5 5)

/-- r, w, x of a stage-2 leaf. -/
def leafPerm2 (e : Nat) : BitVec 3 := BitVec.ofNat 3 (bitsOf e 2 2 + 2 * bitsOf e 3 3 + 4 * bitsOf e 4 4)

/-- The stage-2 part of TRANSLATE, with the stage-1 result in hand. -/
def State.translate2 (s : State) (c : XCtx) (a : Acc) (ipa : Nat) (named : W64) (p1 : BitVec 4) (on : Bool) (size1 : Nat)
    (glob : Bool) : Except WalkErr XOk :=
  match s.walk2 c ipa named with
  | .error f => .error f
  | .ok l =>
    let p2 := leafPerm2 l.e
    match permCheck 2 l.level named a p2[0] p2[1] p2[2] false p2[2] with
    | some f => .error (.fault f)
    | none =>
      if !s.outputOk c.ring l then .error (.fault { stage := 2, level := 0, reason := 4, addr := named, onlyX := false })
      else
        .ok { pa := l.out ipa, mt := bitsOf l.e 10 8, win := bitsOf l.e 61 56, p1 := p1, p2 := p2, on := on,
              size := min size1 l.size, glob := glob }

/-- TRANSLATE (R364): a walk for an address of the lower half, by the tables as they stand and the descriptors that walk caches hold. -/
def State.walkVa (s : State) (c : XCtx) (a : Acc) (va : W64) : Except WalkErr XOk :=
  if bitsOf c.satp.toNat 39 39 = 0 then s.translate2 c a va.toNat va 15 false (2 ^ 55) false
  else
    match s.walkFrom 1 (s.tableRead c) (s.walkHeld c 1 va.toNat) va.toNat va 3 1 (bitsOf c.satp.toNat 38 0 * 65536) with
    | .error f => .error f
    | .ok l =>
      let p1 := leafPerm1 l.e
      match permCheck 1 l.level va a p1[0] p1[1] p1[2] (c.lvl == .u && !p1[3]) p1[2] with
      | some f => .error (.fault f)
      | none =>
        let ipa := l.out va.toNat
        s.translate2 c a ipa (BitVec.ofNat 64 ipa) p1 true l.size (bitsOf l.e 6 6 == 1)

/-- A cached translation answers for an access (R369, R398): it is held where the access looks, for the same VF, ASID and page, it reaches only what
R366 admits now, and its permissions allow the access. -/
def State.tlbFits (s : State) (c : XCtx) (a : Acc) (va : W64) (e : TlbEntry) : Bool :=
  (e.home == c.tlb || e.home == .second (s.secondOf c.ring)) && s.rangeOk c.ring e.mt e.win (e.pa / e.size * e.size) e.size &&
    e.owner == some (s.vfNum c.ring) && (e.asid == none || e.asid == some (BitVec.ofNat 16 (bitsOf c.satp.toNat 63 48))) &&
    e.satpOn == (bitsOf c.satp.toNat 39 39 == 1) &&
    decide (e.page ≤ va.toNat) && decide (va.toNat < e.page + e.size) &&
    (permCheck 1 3 va a e.perms1[0] e.perms1[1] e.perms1[2] (c.lvl == .u && !e.perms1[3]) (e.satpOn && e.perms1[2])).isNone &&
    (permCheck 2 3 va a e.perms2[0] e.perms2[1] e.perms2[2] false e.perms2[2]).isNone

def TlbEntry.give (e : TlbEntry) (va : W64) : XOk :=
  { pa := e.pa + (va.toNat - e.page), mt := e.mt, win := e.win, p1 := e.perms1, p2 := e.perms2, on := e.satpOn, size := e.size,
    glob := e.asid.isNone }

/-- The cached translations that fit an access: those that stand in a TLB, and those that a tlbi of another thread has removed which does not happen before
the access (R334, R335; log 14). -/
def State.cachedFor (s : State) (c : XCtx) (a : Acc) (va : W64) : List TlbEntry :=
  let shed := s.rings.flatMap fun x => if x.2.vf = (s.ring c.ring).vf then
    (x.2.shed.filter fun e => decide (tget 0 c.front.wrote x.1 < e.2) && decide (c.front.host < e.2)).map (·.1) else []
  (s.tlb ++ shed).filter (s.tlbFits c a va)

/-- The translation an access gets: a walk's, or a cached one (R334, R369; log 14). -/
def State.translate (s : State) (c : XCtx) (a : Acc) (va : W64) : Except WalkErr XOk :=
  match s.cachedFor c a va with
  | [] => s.walkVa c a va
  | e :: l =>
    match (e :: l)[Config.tlbPick s.free va.toNat]? with
    | some e => .ok (e.give va)
    | none => s.walkVa c a va

/-- The handle of a window (R416). -/
def State.winHandle (s : State) (n : Nat) : W64 := BitVec.ofNat 64 (n + 256 * (s.window n).gen.toNat)

/-- A VF has opened a window (R123, R294, R416). -/
def State.winOpen (s : State) (n v : Nat) : Bool :=
  let w := s.window n
  w.valid && w.members.getLsbD v && w.opened.getLsbD v

/-- One byte of an access by a ring's agent: its place and whose it is, or the first check that fails (R252). -/
def State.ringPlace (s : State) (c : XCtx) (a : Acc) (va : W64) : Except AccErr (Nat × MemAttr) :=
  let v := va.toNat
  if 2 ^ 54 ≤ v ∧ v < 2 ^ 64 - 2 ^ 54 then .error (.addr va)
  else if v < 2 ^ 54 then
    match s.translate c a va with
    | .error (.fault f) => .error (.xlat f)
    | .error (.mem e) => .error (.mem e)
    | .ok t =>
      if t.mt = 3 then
        if a = .amo ∨ !s.winOpen t.win (s.vfNum c.ring) then .error (.window (s.winHandle t.win)) else .ok (t.pa, s.winAttr t.win)
      else if t.mt = 2 then .ok (t.pa, s.hostAttr (s.vfNum c.ring))
      else .ok (t.pa, s.vfAttr (s.vfNum c.ring))
  else if 0xFFFFFFFFFF000000 ≤ v then
    let o := v - 0xFFFFFFFFFF000000
    if o < carveScratch (s.ring c.ring).carvew * 65536 then .ok (poolKey c.ring o, .sram) else .error (.bounds va)
  else if 0xFFFFFFFFC0000000 ≤ v ∧ v < 0xFFFFFFFFE0000000 then
    let o := v - 0xFFFFFFFFC0000000
    if o / 2 ^ 22 < (s.ring c.ring).slen then .ok (campKey ((s.ring c.ring).sbase + o / 2 ^ 22) (o % 2 ^ 22), .sram)
    else .error (.bounds va)
  else .error (.addr va)

/-- R366 for a management core: without the strip condition, and without a VF (R368). -/
def State.coreOutputOk (s : State) (l : Leaf) : Bool :=
  match bitsOf l.e 10 8 with
  | 0 => hbmRange (fun _ => true) l.outBase l.size
  | 1 => hbmRange (fun _ => true) l.outBase l.size
  | 2 => isHostPa l.outBase && decide (l.outBase + l.size ≤ 2 ^ 55)
  | 3 => s.inPool (bitsOf l.e 61 56) l.outBase l.size
  | _ => false

/-- A management core's fresh translation under a HATP (R368), with the checks of R365 and R204 on its one stage. -/
def State.coreWalk (s : State) (hatp : W64) (a : Acc) (va : W64) : Except WalkErr XOk :=
  let v := va.toNat
  let bad (reason : Nat) : Except WalkErr XOk := .error (.fault { stage := 1, level := 0, reason := reason, addr := va, onlyX := false })
  if bitsOf hatp.toNat 39 39 = 0 then
    if isHbm v ∧ v % 2 ^ 31 < treeBase then
      .ok { pa := v, mt := 0, win := 0, p1 := 15, p2 := 3, on := false, size := 65536, glob := true }
    else if isHostPa v then .ok { pa := v, mt := 2, win := 0, p1 := 15, p2 := 3, on := false, size := 65536, glob := true }
    else bad 4
  else
    let rd (p : Nat) : Except WalkErr (Nat × MemAttr) :=
      if isHbm p ∧ p % 2 ^ 31 < treeBase then .ok (p, .own)
      else .error (.fault { stage := 1, level := 0, reason := 4, addr := va, onlyX := false })
    match s.walkFrom 2 rd (fun _ => none) v va 3 1 (bitsOf hatp.toNat 38 0 * 65536) with
    | .error (.fault f) => .error (.fault { f with stage := 1 })
    | .error (.mem e) => .error (.mem e)
    | .ok l =>
      let p2 := leafPerm2 l.e
      match permCheck 1 l.level va a p2[0] p2[1] p2[2] false p2[2] with
      | some f => .error (.fault f)
      | none =>
        if !s.coreOutputOk l then bad 4
        else
          .ok { pa := l.out v, mt := bitsOf l.e 10 8, win := bitsOf l.e 61 56, p1 := 15, p2 := p2, on := true, size := l.size,
                glob := true }

/-- The register HATP of a die's core. -/
def State.hatp (s : State) (d : Nat) : W64 := tget 0 (s.die d).csr 0x2009

/-- A core's cached translation answers for an access (R368). -/
def coreFits (a : Acc) (va : W64) (d : Nat) (e : TlbEntry) : Bool :=
  e.home == .core d && decide (e.page ≤ va.toNat) && decide (va.toNat < e.page + e.size) &&
    (permCheck 1 3 va a e.perms2[0] e.perms2[1] e.perms2[2] false (e.satpOn && e.perms2[2])).isNone

/-- One byte of an access by a management core (R368). It has no VF, and reaches the pages of a window's pool without opening the window (log 62). -/
def State.corePlace (s : State) (d : Nat) (a : Acc) (va : W64) : Except AccErr (Nat × MemAttr) :=
  if 2 ^ 54 ≤ va.toNat then .error (.addr va)
  else
    let r : Except WalkErr XOk := match s.tlb.filter (coreFits a va d) with
      | [] => s.coreWalk (s.hatp d) a va
      | e :: l =>
        match (e :: l)[Config.tlbPick s.free va.toNat]? with
        | some e => .ok (e.give va)
        | none => s.coreWalk (s.hatp d) a va
    match r with
    | .error (.fault f) => .error (.xlat f)
    | .error (.mem e) => .error (.mem e)
    | .ok t => if t.mt = 3 then .ok (t.pa, s.winAttr t.win) else if t.mt = 2 then .ok (t.pa, .host none none) else .ok (t.pa, .own)

/-- The first failed check of a list of bytes: the least in the order of R252, and then the lowest byte. -/
def firstErr {α : Type} : List (Except AccErr α) → Option AccErr
  | [] => none
  | .ok _ :: t => firstErr t
  | .error e :: t =>
    match firstErr t with
    | some e' => if e'.order < e.order then some e' else some e
    | none => some e

/-- The results of a list in which every check passed. -/
def okList {α : Type} : List (Except AccErr α) → List α
  | [] => []
  | .ok v :: t => v :: okList t
  | .error _ :: t => okList t

/-- `n` bytes from an address on: every check of every byte before anything else (R252). -/
def spanPlaces (at_ : W64 → Except AccErr (Nat × MemAttr)) (va : W64) (n : Nat) : Except AccErr (List (Nat × MemAttr)) :=
  let l := (List.range n).map fun i => at_ (va + BitVec.ofNat 64 i)
  match firstErr l with
  | some e => .error e
  | none => .ok (okList l)

/-- The translation registers of a ring, with what its RSQ must observe: what an access of the RSQ goes by (R359). -/
def State.ctxOf (s : State) (r : Nat) (lvl : Level) : XCtx :=
  { ring := r, satp := tget 0 (s.ring r).csr 0x1008, s2root := tget 0 (s.ring r).csr 0x2103, lvl := lvl, tlb := .rsq r,
    front := (s.ring r).seq.front }

/-- The copy of the translation registers that an operation takes at issue (R367): its reads must observe what is ordered before the issue (R110, R112,
R119). -/
def State.issueCtx (s : State) (r : Nat) (lvl : Level) : XCtx := { s.ctxOf r lvl with tlb := .second (s.secondOf r) }

/-- The same once a wait mask is satisfied or a token has fired: what the ring's phases and copies have released is ordered before it too (R112, R119,
R269). -/
def XCtx.acquired (c : XCtx) (joined : Front) : XCtx := { c with front := c.front.sup joined }

/-- The context of a phase for its agents on a ring of its group: what its issuer must observe of its own ring lies on another ring for them (R112). -/
def XCtx.onRing (c : XCtx) (r : Nat) : XCtx :=
  if r = c.ring then c
  else { c with ring := r, front := { c.front with ring := c.front.strip, wrote := joinTab c.front.wrote [(c.ring, c.front.ring), (128 + c.ring, c.front.ring)] } }

/-- Accesses by a VF's queue engine use stage 2 only, at S (R345); they observe every earlier write. -/
def State.ctxStage2 (s : State) (r : Nat) : XCtx :=
  { s.issueCtx r .s with satp := 0, front := (s.ring r).seq.front.all s.free }

/-- The page holding an address is executable at either stage (R204). -/
def State.pageExec (s : State) (c : XCtx) (va : W64) : Bool :=
  if 2 ^ 54 ≤ va.toNat then false
  else
    match s.translate c .load va with
    | .ok t => (t.on && t.p1[2]) || t.p2[2]
    | .error _ => false

/-- The entries a TLB can hold (R369), no limit being stated for a management core. -/
def State.tlbSize (s : State) : TlbHome → Nat
  | .ag _ _ => 256
  | .rsq _ => 64
  | .second r => 512 * (min ((s.ring r).sbase + (s.ring r).slen) (32 * dieOf r + 32) - r)
  | .core _ => 2 ^ 32

/-- A combined translation enters a TLB; where that is full, its oldest translation leaves, or where it holds none its oldest walk entry (R369; log 14). -/
def State.tlbAdd (s : State) (e : TlbEntry) : State :=
  let same := s.tlb.filter fun x => x.home == e.home
  let held := s.walks.filter fun w => w.home == e.home
  if same.length + held.length < s.tlbSize e.home then { s with tlb := e :: s.tlb }
  else
    match same.getLast?, held.getLast? with
    | some old, _ => { s with tlb := e :: s.tlb.erase old }
    | none, some w => { s with tlb := e :: s.tlb, walks := s.walks.erase w }
    | none, none => s

/-- The TLBs that a thread's accesses fill (R369): an RSQ's own, the second level of its strip, and those of its ring's eight AGs. -/
def State.tlbHomes (s : State) : Thread → List TlbHome
  | .ring r => [.rsq r, .second (s.secondOf r)] ++ (List.range 8).map fun n => .ag r n
  | .core d => [.core d]

/-- A TLB caches the present translation of an address, whatever access it is for (R369). -/
def State.cacheXlate (s : State) (t : Thread) (va : W64) (n : Nat) : State :=
  if 2 ^ 54 ≤ va.toNat then s
  else
    let any (f : Acc → Except WalkErr XOk) : Option XOk := [Acc.load, .fetch, .store].findSome? fun a =>
      match f a with
      | .ok r => some r
      | .error _ => none
    let add (h : TlbHome) (r : XOk) (owner : Option Nat) (asid : Option (BitVec 16)) : State :=
      s.tlbAdd { home := h, owner := owner, asid := asid, page := va.toNat / r.size * r.size, size := r.size,
                 pa := r.pa - va.toNat % r.size, mt := r.mt, win := r.win, perms1 := r.p1, perms2 := r.p2, satpOn := r.on }
    match t, (s.tlbHomes t)[n]? with
    | _, none => s
    | .ring r, some h =>
      let c := s.ctxOf r (s.ring r).level
      match any (fun a => s.walkVa { c with lvl := .s } a va) with
      | some x => add h x (some (s.vfNum r)) (if x.glob ∧ x.on then none else some (BitVec.ofNat 16 (bitsOf c.satp.toNat 63 48)))
      | none => s
    | .core d, some h =>
      match any (fun a => s.coreWalk (s.hatp d) a va) with
      | some x => add h x none (some (BitVec.ofNat 16 d))
      | none => s

/-- The valid table descriptor that a walk from a root meets at a level, if it gets so far. -/
def State.tableDesc (s : State) (stage : Nat) (rd : Nat → Except WalkErr (Nat × MemAttr)) (a : Nat) : Nat → Nat → Nat → Option Nat
  | 0, _, _ => none
  | n + 1, level, t =>
    match rd (t + 8 * tableIdx a level) with
    | .error _ => none
    | .ok (p, m) =>
      let e := s.num p 8
      if (s.placeErr (p, m)).isSome ∨ bitsOf e 0 0 = 0 ∨ !descOk stage level e ∨ bitsOf e 1 1 = 0 then none
      else if n = 0 then some e
      else s.tableDesc stage rd a n (level + 1) (descOut e)

/-- A walk cache of a ring's strip holds the table descriptor of a stage and level for an address, as the tables stand (R369). -/
def State.cacheWalk (s : State) (r stage level : Nat) (a : W64) : State :=
  let c := s.ctxOf r .s
  let root := if stage = 1 then c.satp.toNat else c.s2root.toNat
  let rd := if stage = 1 then s.tableRead c else s.table2 c a
  let h : TlbHome := .second (s.secondOf r)
  let used := (s.tlb.filter fun x => x.home == h).length + (s.walks.filter fun w => w.home == h).length
  if (stage ≠ 1 ∧ stage ≠ 2) ∨ level = 0 ∨ 2 < level ∨ bitsOf root 39 39 = 0 ∨ s.tlbSize h ≤ used then s
  else
    match s.tableDesc stage rd a.toNat level 1 (bitsOf root 38 0 * 65536) with
    | none => s
    | some e =>
      let w : WalkEntry := { home := h, owner := s.vfNum r, asid := if stage = 1 then some (BitVec.ofNat 16 (bitsOf c.satp.toNat 63 48)) else none,
                             stage := stage, level := level, pre := walkPre level a.toNat, e := e }
      { s with walks := w :: s.walks }

end Sys2Proof.Machine
end

