-- ==== Sys2Proof/Machine/Order.lean ====
section
/-! DEFINITION. Scopes, and which writes a read observes: memory holds the newest write of every byte, and `State.past` what each of them
replaced, by which a reader that nothing orders after a write may still observe an older one (R105 to R111, R116 to R119, R122; log 111). -/

namespace Sys2Proof.Machine

/-- The narrowest scope to which two agents belong together, by its code (R108): 0 ring, 1 strip, 2 dev, 3 sys. An agent that is in no ring or strip
shares those scopes only with itself. -/
def State.apart (s : State) (a b : Agent) : Nat :=
  match a.ring?, b.ring? with
  | some r, some q => if r = q then 0 else if s.sameStrip r q then 1 else 2
  | _, _ => if a = b then 0 else if a = .host ∨ b = .host then 3 else 2

/-- An agent belongs to the scope that an annotation of agent `me` names (R108). -/
def State.inScope (s : State) (me : Agent) (c : Nat) (a : Agent) : Bool := decide (s.apart me a ≤ c)

/-- The agent that a thread is. -/
def agentOf : Thread → Agent
  | .ring r => .ring r
  | .core d => .core d

/-- A place of the LBANK space (R97). -/
def isPool (k : Nat) : Bool := decide (2 ^ 56 ≤ k) && decide (k < 2 ^ 57)

/-- A reader: who it is, and what it must observe (R110, R111). -/
structure Reader where
  me : Agent
  front : Front
  deriving DecidableEq, Repr

/-- From when on a reader can observe a write (R106). A write to CAMP or GLOBAL becomes visible to every agent at one instant, one to LBANK to its
ring's when it performs. To HOST a write reaches each agent in its own time, and so outside its ring a write to a window does before it is sealed (R122). -/
def State.reaches (s : State) (me : Agent) (e : Past) : Option Nat :=
  if isHostPa e.key ∨ isPool e.key ∨ (e.win.isSome ∧ s.apart me e.who = 0) then some e.stamp else e.seen

/-- A reader must observe a write, or a later one of the same byte, in an access through window `win` or through none (R110, R111, R118, R122). -/
def State.mustSee (s : State) (rd : Reader) (win : Option Nat) (e : Past) : Bool :=
  match s.reaches rd.me e with
  | none => false
  | some t =>
    decide (t ≤ tget 0 rd.front.known e.key) ||
      (match win with
        | some n => decide (t ≤ tget 0 rd.front.win n)
        | none =>
          let far := s.apart rd.me e.who
          decide (e.stamp ≤ tget 0 rd.front.wrote e.who.code) ||
            (if isHostPa e.key then decide (t ≤ rd.front.host) || e.shown.any (fun p => decide (far ≤ p.1) && decide (p.2 ≤ rd.front.upTo far))
             else decide (t ≤ rd.front.upTo far)))

/-- The byte at a place as a reader observes it at a stamp, with the write it is the value of: the newest that has reached it by then. -/
def State.asOf (s : State) (me : Agent) (t k : Nat) : Byte → List Past → Byte × Option Past
  | b, [] => (b, none)
  | b, e :: l =>
    if e.key = k then
      match s.reaches me e with
      | some u => if u ≤ t then (b, some e) else s.asOf me t k e.old l
      | none => s.asOf me t k e.old l
    else s.asOf me t k b l

/-- The least stamp as of which a reader may observe some places in one access. -/
def State.floor (s : State) (rd : Reader) (ps : List (Nat × MemAttr)) : Nat :=
  s.past.foldl (init := 0) fun m e =>
    match ps.find? fun p => p.1 == e.key with
    | some p => if s.mustSee rd (winOf p.2) e then max m ((s.reaches rd.me e).getD 0) else m
    | none => m

/-- What a reader observes at some places in one single-copy atomic access, the j-th part of what it reads now (R105): the bytes, and the writes they are the
values of. -/
def State.observe (s : State) (rd : Reader) (j : Nat) (ps : List (Nat × MemAttr)) : List (Byte × Option Past) :=
  let t := max (Config.readTime s.free j) (s.floor rd ps)
  ps.map fun p => s.asOf rd.me t p.1 (s.byte p.1) s.past

/-- The part of memory that a place belongs to: 8 bytes, or in a window a line (R105, R123). -/
def partKey (p : Nat × MemAttr) : Nat := if (winOf p.2).isSome then p.1 / 64 * 8 else p.1 / 8

/-- The parts of a span of places, in order: nothing is atomic across them (R105). -/
def partsOf : List (Nat × MemAttr) → List (List (Nat × MemAttr))
  | [] => []
  | p :: t =>
    match partsOf t with
    | (q :: l) :: r => if partKey p = partKey q then (p :: q :: l) :: r else [p] :: (q :: l) :: r
    | r => [p] :: r

/-- What an engine reads of a span, part by part. -/
def State.observeParts (s : State) (rd : Reader) (ps : List (Nat × MemAttr)) : List (Byte × Option Past) :=
  ((partsOf ps).zipIdx.map fun x => s.observe rd x.2 x.1).flatten

/-- The stamp of the newest write that a read has observed. -/
def State.stampOf (s : State) (me : Agent) (l : List (Byte × Option Past)) : Nat :=
  l.foldl (fun m x => match x.2 with
    | some e => max m ((s.reaches me e).getD 0)
    | none => m) 0

/-- A front that knows what a read has observed at each place (R111). -/
def State.learn (s : State) (me : Agent) (f : Front) (ps : List (Nat × MemAttr)) (l : List (Byte × Option Past)) : Front :=
  { f with known := (ps.zip l).foldl (init := f.known) fun t x =>
      match x.2.2 with
      | some e => tset 0 t x.1.1 (max (tget 0 t x.1.1) ((s.reaches me e).getD 0))
      | none => t }

/-- What the releases that a read synchronises with give: their scope and the reader's both hold both agents (R116). -/
def State.syncOf (s : State) (me : Agent) (c : Nat) (l : List (Byte × Option Past)) : Dep :=
  l.foldl (init := Dep.zero) fun d x => match x.2 with
    | some e => e.sync.foldl (fun d p => if s.apart me e.who ≤ min c p.1 then d.join p.2 else d) d
    | none => d

/-- What the releases that a read meets give, by the byte read and by how far off their writers are (R118). -/
def State.hears (s : State) (me : Agent) (l : List (W64 × Byte × Option Past)) : Tab (Tab Dep) :=
  l.foldl (init := []) fun t x => match x.2.2 with
    | some e => e.sync.foldl (fun t p =>
        if s.apart me e.who ≤ p.1 then tput t x.1.toNat (joinRel (tget [] t x.1.toNat) [(s.apart me e.who, p.2)]) else t) t
    | none => t

/-- What was heard before and what was heard now. -/
def joinHeard (a b : Tab (Tab Dep)) : Tab (Tab Dep) := b.foldl (fun t e => tput t e.1 (joinRel (tget [] t e.1) e.2)) a

/-- A write that every agent can observe from a stamp on, if it could not before. -/
def Past.reached (e : Past) (t : Nat) : Past := if e.seen = none then { e with seen := some t } else e

/-- The lagging writes that a predicate admits become visible to every agent, with the other bytes of the same access (R105, R106). -/
def State.reachWith (s : State) (ok : Past → Bool) : State :=
  let hit := s.past.filter fun e => e.seen.isNone && ok e
  { s with past := s.past.map fun x => if hit.any fun e => e.stamp = x.stamp ∧ e.who = x.who then x.reached s.free else x }

/-- Every write of a ring's agents so far becomes visible to every agent, those to windows aside. -/
def State.flush (s : State) (r : Nat) : State := s.reachWith fun e => e.who.ring? = some r && e.win.isNone

/-- Every write that happens before something becomes visible to every agent: before what follows it can be (R106, R110). No annotation acts on windows
(R122). -/
def State.force (s : State) (wrote : Tab Nat) : State := s.reachWith fun e => e.win.isNone && decide (e.stamp ≤ tget 0 wrote e.who.code)

/-- A release by a ring's RSQ, whatever agents made the writes that happen before it (R110, R116). -/
def State.releaseAll (s : State) (r : Nat) : State := s.force (s.ring r).seq.front.wrote

/-- What a release gives that comes after all that some rings' agents have done (R110). -/
def State.releasedBy (s : State) (rings : List Nat) : Dep :=
  { near := s.free, wrote := rings.foldl (fun t r =>
      joinTab (joinTab t (s.ring r).seq.front.wrote) [(Agent.code (.ring r), s.free), (Agent.code (.engines r), s.free)]) [] }

/-- No engine of a ring is at work: its RSQ is the one agent of the ring that reads or writes. -/
def Ring.alone (x : Ring) : Bool :=
  x.group.isNone && x.asyncs.isEmpty && x.copyReady.isEmpty && x.copies.isEmpty && x.crn.isEmpty && x.billets.isEmpty

/-- An annotation of a thread at ring scope orders against no other agent: none of its scope is at work (R109; log 112). -/
def State.noPeer (s : State) (t : Thread) (c : Nat) : Bool :=
  c == 0 && (match t with
    | .ring r => (s.ring r).alone
    | .core _ => true)

/-- A thread's release at a scope (R110, R116). -/
def State.releaseBy (s : State) (t : Thread) (c : Nat) : State :=
  match t with
  | .ring r => if s.noPeer t c then s else s.releaseAll r
  | .core _ => s

/-- A lagging write becomes observable, with the other bytes of the same access (R105). -/
def State.spread (s : State) (n : Nat) : State :=
  match (s.past.filter fun e => e.seen == none)[n]? with
  | none => s
  | some e => s.reachWith fun x => x.stamp = e.stamp ∧ x.who = e.who

end Sys2Proof.Machine
end

