-- ==== Sys2Proof/Machine/Memio.lean ====
section
/-! DEFINITION. CSR storage, events to the management cores, parking, machine checks, and reads and writes of memory places with the
integrity of their lines (R327, R328, R405 to R412, R428, R441). -/

namespace Sys2Proof.Machine

/-- The reset value of a ring's plain CSR (R276, R322). -/
def csrReset (n : Nat) : W64 :=
  match n with
  | 0x019 => 0x10100
  | 0x100B => 0xFFFFFFFFFFFFFFFF
  | _ => 0

/-- A plain CSR of a ring. -/
def State.rcsr (s : State) (r n : Nat) : W64 := tget (csrReset n) (s.ring r).csr n

def State.setRcsr (s : State) (r n : Nat) (v : W64) : State := s.updRing r fun x => { x with csr := tput x.csr n v }

/-- The reset value of a management core's plain CSR (R328, R349, R424). -/
def coreCsrReset (n : Nat) : W64 :=
  match n with
  | 0x2008 => 0xFFFFFFFFFFFFFFFF
  | 0x2020 => 0x88B5
  | 0x2065 => 2000
  | _ => 0

/-- A plain CSR of a die's management core. -/
def State.dcsr (s : State) (d n : Nat) : W64 := tget (coreCsrReset n) (s.die d).csr n

def State.setDcsr (s : State) (d n : Nat) (v : W64) : State := s.updDie d fun x => { x with csr := tput x.csr n v }

/-- A CSR that a VF holds (R345, R421, R428). -/
def State.vcsr (s : State) (v n : Nat) : W64 := tget 0 (s.vfOf v).csr n

def State.setVcsr (s : State) (v n : Nat) (x : W64) : State := s.updVf v fun f => { f with csr := tput f.csr n x }

/-- The word of an event (R441). -/
def eventWord (kind code mid low : Nat) : W64 :=
  BitVec.ofNat 64 (2 ^ 63 + kind % 256 * 2 ^ 40 + code % 256 * 2 ^ 32 + mid % 1024 * 2 ^ 16 + low % 128)

/-- Posts an event: 256 entries, 32 of them only for park events; an event of another kind that finds no entry sets evov. A park event is never lost: one that
finds every entry taken waits behind them (R328; log 124). -/
def State.post (s : State) (d kind code mid low : Nat) : State :=
  let q := (s.die d).hevt
  let others := (q.filter fun e => fld e 47 40 ≠ 0).length
  if kind = 0 ∨ (q.length < 256 ∧ others < 224) then s.updDie d fun x => { x with hevt := x.hevt ++ [eventWord kind code mid low] }
  else s.setDcsr d 0x2006 (setFld (s.dcsr d 0x2006) 10 10 1)

/-- Every ring (R14). -/
def allRings : List Nat := List.range 128

/-- A VF is a tenant of the strip whose lowest ring is `base` (R353). -/
def State.isTenant (s : State) (base v : Nat) : Bool :=
  (s.ring base).shared && (List.range 8).any fun i =>
    let e := s.rcsr base (0x2111 + i)
    bit e 7 && fld e 6 0 == v

/-- Raises SIP bits of a VF on every ring of it; for a switched-out tenant they are held (R355). -/
def State.raiseVf (s : State) (v : Nat) (bits : W64) : State :=
  allRings.foldl (init := s) fun st r =>
    let x := st.ring r
    if x.vf = some v then st.setRcsr r 0x100A (st.rcsr r 0x100A ||| bits)
    else if x.vf.isSome ∧ st.isTenant x.sbase v then
      st.setRing r { x with tenantPend := tput x.tenantPend v (tget 0 x.tenantPend v ||| bits) }
    else st

/-- Adds 1 to an index of the lifetime store's counts (R429). -/
def State.countLife (s : State) (i : Nat) : State := { s with life := tput s.life i (tget 0 s.life i + 1) }

/-- What SMCADDR shows of a place: its physical address, or for SRAM bit 63 with the number of its bank (R428). -/
def mcAddr (k : Nat) : Nat :=
  if k < 2 ^ 56 then k
  else if k < 2 ^ 57 then 2 ^ 63 + 48 * ((k - 2 ^ 56) / 2 ^ 23) + (k - 2 ^ 56) % 2 ^ 23 / 2 ^ 17
  else 2 ^ 63 + 6144 + 4 * ((k - 2 ^ 57) / 2 ^ 22) + (k - 2 ^ 57) % 2 ^ 22 / 2 ^ 20

/-- A machine check met by an access of a VF (R428): src 0 RSQ, 1 element, 2 AG, 3 copy unit. -/
def State.mcheck (s : State) (v addr src : Nat) : State :=
  let info := s.vcsr v 0x1051
  let n := sat32 (fld info 63 32 + 1)
  let s1 :=
    if bit info 0 then s.setVcsr v 0x1051 (setFld info 63 32 n)
    else (s.setVcsr v 0x1050 (BitVec.ofNat 64 (mcAddr addr))).setVcsr v 0x1051 (BitVec.ofNat 64 (n * 2 ^ 32 + src * 256 + 1))
  (s1.raiseVf v 16).countLife 6996

/-- A ring's RSQ parks for H (R327). -/
def State.park (s : State) (r : Nat) (pc : W64) (cause : Nat) (value : W64) : State :=
  let s1 := s.updRing r fun x => { x with run := .parked, wait := none }
  let s2 := ((s1.setRcsr r 0x2106 pc).setRcsr r 0x2107 (BitVec.ofNat 64 cause)).setRcsr r 0x2108 value
  s2.post (dieOf r) 0 cause 0 r

/-- A sweep of a phase that a ring issued has overrun: the ring parks with the handle, at once or after its debug halt (R357, R394; log 77). -/
def State.overran (s : State) (r serial : Nat) : State :=
  let x := s.ring r
  if x.run ≠ .run ∧ x.run ≠ .wfi then s
  else if x.halted then s.updRing r fun y => { y with due := some serial }
  else s.park r x.seq.pc 0x19 (BitVec.ofNat 64 serial)

/-- A VF's rings stop (R412): each RSQ, unless it is parked already, parks with cause 0x1A and the line's address; groups and copies of a stopped VF
hold. -/
def State.stopVf (s : State) (v pa : Nat) : State :=
  let s1 := s.updVf v fun f => { f with stopped := true }
  allRings.foldl (init := s1) fun st r =>
    let x := st.ring r
    if x.vf = some v ∧ x.run ≠ .parked then st.park r x.seq.pc 0x1A (BitVec.ofNat 64 pa) else st

/-- An integrity fault of a VF's access, met on die `d` (R412). -/
def State.integrityFault (s : State) (v d pa : Nat) : State :=
  if (s.vfOf v).stopped then s else (s.stopVf v pa).post d 5 0 0 v

/-- What an engine observes at some places, unless memory does not deliver one of them. -/
def State.readAt (s : State) (rd : Reader) (ps : List (Nat × MemAttr)) : Except MemErr (List (Byte × Option Past)) :=
  match s.placesErr ps with
  | some e => .error e
  | none => .ok (s.observeParts rd ps)

/-- An engine's read of some places has been made over the links that lead to them (R409). -/
def State.linked (s : State) (ps : Except ε (List (Nat × MemAttr))) : State :=
  match ps with
  | .ok l => s.transfers l
  | .error _ => s

/-- The ring whose SRAM, or whose HBM channel, holds a place (R17, R441); host memory lies at none (log 37). -/
def errRing (d k : Nat) : Nat := if isHbm k then ringOfChan (chanOf k) else (sramRing k).getD (32 * d)

/-- Writes bytes at places, unless one of their lines does not verify (R411). -/
def State.writeAt (s : State) (who : Agent) (lag : Bool) (sync : Tab Dep) (ps : List (Nat × MemAttr)) (bs : List Byte) :
    Except MemErr State :=
  match s.placesErr ps with
  | some e => .error e
  | none =>
    match ps.find? fun p => isHbm p.1 && s.treeFull p.1 with
    | some p => .error (.integrity (p.1 / 64 * 64))
    | none => .ok (((linesOf ps).foldl State.sealLine (s.putSeen who lag sync ps bs)).transfers ps)

/-- Takes the fault or the machine check of an access by an agent of ring r (R412, R428). -/
def State.memFail (s : State) (r : Nat) (src : Nat) (e : MemErr) : State :=
  match e with
  | .integrity pa => s.integrityFault (s.vfNum r) (dieOf r) pa
  | .machine pa => s.mcheck (s.vfNum r) pa src
  | .gated => s

end Sys2Proof.Machine
end

