-- ==== Sys2Proof/Machine/Float.lean ====
section
/-! DEFINITION. The floating formats, their values, rounding, conversion and flush-to-zero (R80 to R92). Finite values are exact: a
sign, a whole mantissa and a power of two. -/

namespace Sys2Proof.Machine

/-- The floating formats of R80 but for E8M0, which is only ever a scale. -/
inductive Fmt where
  | b32
  | f16
  | bf16
  | e4m3
  | e5m2
  | e2m3
  | e3m2
  | e2m1
  deriving DecidableEq, Repr

/-- Exponent bits (R80). -/
def Fmt.expBits : Fmt → Nat
  | .b32 => 8
  | .f16 => 5
  | .bf16 => 8
  | .e4m3 => 4
  | .e5m2 => 5
  | .e2m3 => 2
  | .e3m2 => 3
  | .e2m1 => 2

/-- Mantissa bits (R80). -/
def Fmt.man : Fmt → Nat
  | .b32 => 23
  | .f16 => 10
  | .bf16 => 7
  | .e4m3 => 3
  | .e5m2 => 2
  | .e2m3 => 3
  | .e3m2 => 2
  | .e2m1 => 1

/-- Bias (R80). -/
def Fmt.bias : Fmt → Int
  | .b32 => 127
  | .f16 => 15
  | .bf16 => 127
  | .e4m3 => 7
  | .e5m2 => 15
  | .e2m3 => 1
  | .e3m2 => 3
  | .e2m1 => 1

/-- Total bits (R80). -/
def Fmt.bits (f : Fmt) : Nat := 1 + f.expBits + f.man

/-- The canonical NaN, where the format has one (R80). -/
def Fmt.nan? : Fmt → Option Nat
  | .b32 => some 0x7FC00000
  | .f16 => some 0x7E00
  | .bf16 => some 0x7FC0
  | .e4m3 => some 0x7F
  | .e5m2 => some 0x7E
  | .e2m3 => none
  | .e3m2 => none
  | .e2m1 => none

/-- The format has infinities (R80). -/
def Fmt.hasInf : Fmt → Bool
  | .b32 => true
  | .f16 => true
  | .bf16 => true
  | .e4m3 => false
  | .e5m2 => true
  | .e2m3 => false
  | .e3m2 => false
  | .e2m1 => false

/-- The code of the largest finite value, less its sign (R80). -/
def Fmt.maxCode : Fmt → Nat
  | .b32 => 0x7F7FFFFF
  | .f16 => 0x7BFF
  | .bf16 => 0x7F7F
  | .e4m3 => 0x7E
  | .e5m2 => 0x7B
  | .e2m3 => 0x1F
  | .e3m2 => 0x1F
  | .e2m1 => 0x7

/-- The formats whose subnormals flush-to-zero replaces (R89). -/
def Fmt.flushes : Fmt → Bool
  | .b32 => true
  | .f16 => true
  | .bf16 => true
  | .e4m3 => false
  | .e5m2 => false
  | .e2m3 => false
  | .e3m2 => false
  | .e2m1 => false

/-- A floating value: a NaN, an infinity, or (-1)^neg · m · 2^e. -/
inductive FVal where
  | nan
  | inf (neg : Bool)
  | fin (neg : Bool) (m : Nat) (e : Int)
  deriving DecidableEq, Repr

/-- The four directions (R86). -/
inductive Rnd where
  | rne
  | rtz
  | rdn
  | rup
  deriving DecidableEq, Repr

/-- The direction a rnd field names (R86). -/
def rndOf (r : BitVec 2) : Rnd :=
  match r.toNat with
  | 0 => .rne
  | 1 => .rtz
  | 2 => .rdn
  | _ => .rup

/-- The sign bit of a code. -/
def signOf (f : Fmt) (c : Nat) : Bool := c / 2 ^ (f.expBits + f.man) % 2 == 1

/-- The value of a code (R81, R82). -/
def decodeF (f : Fmt) (c : Nat) : FVal :=
  let s := signOf f c
  let e := c / 2 ^ f.man % 2 ^ f.expBits
  let m := c % 2 ^ f.man
  let top := 2 ^ f.expBits - 1
  if f.hasInf && e == top then (if m = 0 then .inf s else .nan)
  else if f == .e4m3 && e == top && m == 7 then .nan
  else if e = 0 then .fin s m (1 - f.bias - f.man)
  else .fin s (2 ^ f.man + m) (e - f.bias - f.man)

/-- A code with a sign. -/
def withSign (f : Fmt) (neg : Bool) (mag : Nat) : Nat := if neg then 2 ^ (f.expBits + f.man) + mag else mag

/-- The code of an infinity; formats without one give their NaN or largest value (R88). -/
def infCode (f : Fmt) (sat neg : Bool) : Nat :=
  if f.hasInf then withSign f neg ((2 ^ f.expBits - 1) * 2 ^ f.man)
  else
    match f.nan? with
    | some n => if sat then withSign f neg f.maxCode else n
    | none => withSign f neg f.maxCode

/-- The code of a NaN (R82); FP6 and FP4 take +0 (R88). -/
def nanCode (f : Fmt) : Nat := f.nan?.getD 0

/-- The result when the rounded magnitude exceeds the largest finite value (R87). -/
def overflowCode (f : Fmt) (sat : Bool) (mode : Rnd) (neg : Bool) : Nat :=
  let big := match f.nan? with
    | some n => if f.hasInf then withSign f neg ((2 ^ f.expBits - 1) * 2 ^ f.man) else n
    | none => withSign f neg f.maxCode
  let mx := withSign f neg f.maxCode
  if sat then mx
  else
    match mode with
    | .rne => big
    | .rtz => mx
    | .rdn => if neg then big else mx
    | .rup => if neg then mx else big

/-- The comparison a · 2^x ≤ b · 2^y of dyadic numbers. -/
def dyLe (a : Nat) (x : Int) (b : Nat) (y : Int) : Bool :=
  if x ≤ y then decide (a ≤ b * 2 ^ (y - x).toNat) else decide (a * 2 ^ (x - y).toNat ≤ b)

/-- The code of m · 2^q, which the format represents with m below 2^(man+1), or its overflow result. -/
def packCode (f : Fmt) (sat : Bool) (mode : Rnd) (neg : Bool) (m : Nat) (q : Int) : Nat :=
  let m' := if m = 2 ^ (f.man + 1) then 2 ^ f.man else m
  let q' := if m = 2 ^ (f.man + 1) then q + 1 else q
  match decodeF f f.maxCode with
  | .fin _ mm me =>
    if !dyLe m' q' mm me then overflowCode f sat mode neg
    else if m' < 2 ^ f.man then withSign f neg m'
    else withSign f neg ((q' + f.man + f.bias).toNat * 2 ^ f.man + (m' - 2 ^ f.man))
  | _ => 0

/-- floor(log2(num/den)) of a positive rational. -/
def ratLog (num den : Nat) : Int :=
  let g : Int := (num.log2 : Int) - (den.log2 : Int)
  if g ≥ 0 then (if den * 2 ^ g.toNat ≤ num then g else g - 1)
  else (if den ≤ num * 2 ^ (-g).toNat then g else g - 1)

/-- The exponent of the last place at which a positive rational rounds in a format: subnormal spacing below the smallest normal. -/
def lastPlace (f : Fmt) (num den : Nat) : Int := max (ratLog num den - f.man) (1 - f.bias - f.man)

/-- num/den scaled by 2^-q as a quotient: whole part, remainder and divisor. -/
def scaled (num den : Nat) (q : Int) : Nat × Nat × Nat :=
  let n := if q ≥ 0 then num else num * 2 ^ (-q).toNat
  let d := if q ≥ 0 then den * 2 ^ q.toNat else den
  (n / d, n % d, d)

/-- Does rounding in a direction raise the magnitude, from the whole part and the remainder? -/
def roundsUp (mode : Rnd) (neg : Bool) (whole rem den : Nat) : Bool :=
  match mode with
  | .rne => if 2 * rem = den then whole % 2 == 1 else decide (den < 2 * rem)
  | .rtz => false
  | .rdn => neg && decide (0 < rem)
  | .rup => !neg && decide (0 < rem)

/-- The code of (-1)^neg · num/den rounded once (R86, R87). -/
def roundRat (f : Fmt) (sat : Bool) (mode : Rnd) (neg : Bool) (num den : Nat) : Nat :=
  if num = 0 then withSign f neg 0
  else
    let q := lastPlace f num den
    let (w, r, d) := scaled num den q
    packCode f sat mode neg (if roundsUp mode neg w r d then w + 1 else w) q

/-- A dyadic m · 2^e as a fraction. -/
def dyNum (m : Nat) (e : Int) : Nat := if e ≥ 0 then m * 2 ^ e.toNat else m

def dyDen (e : Int) : Nat := if e ≥ 0 then 1 else 2 ^ (-e).toNat

/-- The rounding of an exact value to a format (R82, R87, R88). -/
def roundF (f : Fmt) (sat : Bool) (mode : Rnd) : FVal → Nat
  | .nan => nanCode f
  | .inf neg => infCode f sat neg
  | .fin neg m e => roundRat f sat mode neg (dyNum m e) (dyDen e)

/-- The rounding of an exact value to an integer in a direction. -/
def roundInt (mode : Rnd) (neg : Bool) (num den : Nat) : Int :=
  let w := num / den
  let r := num % den
  let m := if roundsUp mode neg w r den then w + 1 else w
  if neg then -(m : Int) else (m : Int)

/-- The conversion of a value to an integer type, which always saturates (R88). -/
def convInt (signed : Bool) (w : Nat) (mode : Rnd) : FVal → Int
  | .nan => 0
  | .inf neg => if neg then satInt signed w (-((2 ^ 600 : Nat) : Int)) else satInt signed w ((2 ^ 600 : Nat) : Int)
  | .fin neg m e => satInt signed w (roundInt mode neg (dyNum m e) (dyDen e))

/-- FTZIN and FTZOUT on a code (R89, R213): a subnormal of a format that flushes becomes a zero of its sign. -/
def flush (ftz : Bool) (f : Fmt) (c : Nat) : Nat :=
  if ftz && f.flushes && c / 2 ^ f.man % 2 ^ f.expBits == 0 then withSign f (signOf f c) 0 else c

/-- A code read with FTZIN. -/
def readF (ftz : Bool) (f : Fmt) (c : Nat) : FVal := decodeF f (flush ftz f c)

/-- A value with its sign turned. -/
def fnegV : FVal → FVal
  | .nan => .nan
  | .inf n => .inf !n
  | .fin n m e => .fin (!n) m e

/-- The exact product (R220): 0 · infinity is a NaN. -/
def fmulV : FVal → FVal → FVal
  | .nan, _ => .nan
  | _, .nan => .nan
  | .inf a, .inf b => .inf (a != b)
  | .inf a, .fin b m _ => if m = 0 then .nan else .inf (a != b)
  | .fin a m _, .inf b => if m = 0 then .nan else .inf (a != b)
  | .fin a m e, .fin b n g => .fin (a != b) (m * n) (e + g)

/-- The signed mantissa of a finite value on a common exponent. -/
def onExp (neg : Bool) (m : Nat) (e g : Int) : Int := (if neg then -1 else 1) * ((m * 2 ^ (e - g).toNat : Nat) : Int)

/-- The exact sum (R220); a zero sum is -0 in RDN and where both terms are -0, and +0 otherwise (R87; log 10). -/
def faddV (mode : Rnd) : FVal → FVal → FVal
  | .nan, _ => .nan
  | _, .nan => .nan
  | .inf a, .inf b => if a = b then .inf a else .nan
  | .inf a, .fin _ _ _ => .inf a
  | .fin _ _ _, .inf b => .inf b
  | .fin a m e, .fin b n g =>
    let lo := min e g
    let s := onExp a m e lo + onExp b n g lo
    if s = 0 then
      .fin (mode == .rdn || (m == 0 && n == 0 && a && b)) 0 0
    else .fin (s < 0) s.natAbs lo

/-- The exact sum of products (R92): a NaN on any NaN, 0 · infinity or opposite infinities; a zero sum has the sign of the direction
(R87), so that to nearest it is -0 only if every product is -0. -/
def sumProds (mode : Rnd) (ps : List (FVal × FVal)) : FVal :=
  match ps with
  | [] => .fin false 0 0
  | (a, b) :: t => t.foldl (fun s p => faddV mode s (fmulV p.1 p.2)) (fmulV a b)

/-- Scaling by a power of two, exact. -/
def scaleV (k : Int) : FVal → FVal
  | .nan => .nan
  | .inf n => .inf n
  | .fin n m e => .fin n m (e + k)

/-- Is the value below the other, numbers only? -/
def fltV : FVal → FVal → Bool
  | .nan, _ => false
  | _, .nan => false
  | .inf a, .inf b => a && !b
  | .inf a, .fin _ _ _ => a
  | .fin _ _ _, .inf b => !b
  | .fin a m e, .fin b n g => decide (onExp a m e (min e g) < onExp b n g (min e g))

/-- Equal numbers: +0 equals -0 (R81). -/
def feqV : FVal → FVal → Bool
  | .nan, _ => false
  | _, .nan => false
  | .inf a, .inf b => a == b
  | .inf _, .fin _ _ _ => false
  | .fin _ _ _, .inf _ => false
  | .fin a m e, .fin b n g => decide (onExp a m e (min e g) = onExp b n g (min e g))

/-- Is the value a NaN? -/
def FVal.isNan : FVal → Bool
  | .nan => true
  | .inf _ => false
  | .fin _ _ _ => false

/-- The sign of a value. -/
def FVal.isNeg : FVal → Bool
  | .nan => false
  | .inf n => n
  | .fin n _ _ => n

/-- minimumNumber and maximumNumber of two values (R221): a NaN loses, -0 lies below +0. -/
def fminV (a b : FVal) : FVal :=
  if a.isNan then b else if b.isNan then a
  else if fltV a b then a else if fltV b a then b else if a.isNeg then a else b

def fmaxV (a b : FVal) : FVal :=
  if a.isNan then b else if b.isNan then a
  else if fltV a b then b else if fltV b a then a else if a.isNeg then b else a

/-- The integral value of a number in a direction; zeros and infinities pass, a zero result keeps the sign (R221). -/
def frndV (mode : Rnd) : FVal → FVal
  | .nan => .nan
  | .inf n => .inf n
  | .fin n m e => .fin n (roundInt mode n (dyNum m e) (dyDen e)).natAbs 0

/-- The Galois step of the rounding LFSR (R91). -/
def lfsrStep (s : W32) : W32 := if s.toNat % 2 = 1 then (s >>> 1) ^^^ 0x80200003#32 else s >>> 1

/-- The seed of an LFSR (R91). -/
def lfsrSeed (seed : W32) (v pos sweep : Nat) : W32 :=
  let s := seed ^^^ w32 (v * 0x9E3779B9) ^^^ w32 (pos * 0x85EBCA6B) ^^^ w32 (sweep * 0xC2B2AE35)
  if s = 0#32 then 1#32 else s

/-- The stochastic rounding of a value to a format, from the drawn number (R90). -/
def roundSr (f : Fmt) (sat : Bool) (r : W32) : FVal → Nat
  | .nan => nanCode f
  | .inf neg => infCode f sat neg
  | .fin neg m e =>
    if m = 0 then withSign f neg 0
    else
      let num := dyNum m e
      let den := dyDen e
      let q := lastPlace f num den
      let (w, rem, d) := scaled num den q
      if rem = 0 then packCode f sat .rtz neg w q
      else
        -- the distance from lo, the adjacent value below x, in 2^-32 of the gap
        let up := if neg then (d - rem) * 2 ^ 32 / d else rem * 2 ^ 32 / d
        let hi := decide (2 ^ 32 ≤ r.toNat + up)
        if neg then packCode f sat (if hi then .rdn else .rtz) neg (if hi then w else w + 1) q
        else packCode f sat (if hi then .rup else .rtz) neg (if hi then w + 1 else w) q

end Sys2Proof.Machine
end

