-- ==== Sys2Proof/Machine/Flags.lean ====
section
/-! DEFINITION. Lane types (R9, R84, R182), what a lane holds, and the relations and predicate functions that the compares and plog
write (R213, R217, R218). -/

namespace Sys2Proof.Machine

/-- The lane width of a type code (R182): FP6 lanes take eight bits (R84). -/
def laneW (t : Nat) : Nat :=
  match t with
  | 0 => 32
  | 1 => 32
  | 2 => 16
  | 3 => 16
  | 4 => 8
  | 5 => 8
  | 6 => 4
  | 7 => 4
  | 8 => 32
  | 9 => 16
  | 10 => 16
  | 15 => 4
  | _ => 8

/-- The lane count of a type code. -/
def laneN (t : Nat) : Nat := 32 / laneW t

/-- An integer type code. -/
def tyInt (t : Nat) : Bool := decide (t < 8)

/-- A signed integer type code: the even ones. -/
def tySigned (t : Nat) : Bool := t % 2 == 0

/-- The floating format of a type code. -/
def tyFmt (t : Nat) : Fmt :=
  match t with
  | 8 => .b32
  | 9 => .f16
  | 10 => .bf16
  | 11 => .e4m3
  | 12 => .e5m2
  | 13 => .e2m3
  | 14 => .e3m2
  | _ => .e2m1

/-- Lane i of a word as an unsigned number. -/
def laneBits (t : Nat) (w : W32) (i : Nat) : Nat := bitsOf w.toNat (laneW t * i + laneW t - 1) (laneW t * i)

/-- VAL(w, i) of R213. -/
def laneInt (t : Nat) (w : W32) (i : Nat) : Int :=
  if tySigned t then sextN (laneBits t w i) (laneW t) else ((laneBits t w i : Nat) : Int)

/-- Lane i of a floating type as a code: the two top bits of an FP6 lane are ignored (R84). -/
def laneCode (t : Nat) (w : W32) (i : Nat) : Nat := laneBits t w i % 2 ^ (tyFmt t).bits

/-- Lane i of a floating type after FTZIN (R213). -/
def laneVal (ftz : Bool) (t : Nat) (w : W32) (i : Nat) : FVal := readF ftz (tyFmt t) (laneCode t w i)

/-- A word from the codes of its lanes, lane 0 lowest (R9). -/
def joinLanes (W : Nat) : List Nat → Nat
  | [] => 0
  | c :: t => c % 2 ^ W + 2 ^ W * joinLanes W t

/-- A word whose lane i is `f i`, for the lanes of a type. -/
def mapLanes (t : Nat) (f : Nat → Nat) : W32 := BitVec.ofNat 32 (joinLanes (laneW t) ((List.range (laneN t)).map f))

/-- The integer forms of R213. -/
def intLanes (t : Nat) (sat : Bool) (f : Int → Int → Int → Int) (a b dold : W32) : W32 :=
  mapLanes t fun i =>
    let r := f (laneInt t a i) (laneInt t b i) (laneInt t dold i)
    zextI (if sat then satInt (tySigned t) (laneW t) r else r) (laneW t)

/-- The rounded floating forms of R213: `f` is exact but for the sign of a zero sum, which the direction gives. -/
def fltLanes (ftz : Bool) (t : Nat) (sat : Bool) (mode : Rnd) (f : FVal → FVal → FVal → FVal) (a b dold : W32) : W32 :=
  mapLanes t fun i =>
    flush ftz (tyFmt t) (roundF (tyFmt t) sat mode (f (laneVal ftz t a i) (laneVal ftz t b i) (laneVal ftz t dold i)))

/-- The relation of a compare (R217). -/
inductive Rel where
  | eq
  | ne
  | lt
  | le
  | gt
  | ge
  | un
  deriving DecidableEq, Repr

/-- A relation of integers. -/
def Rel.int : Rel → Int → Int → Bool
  | .eq, x, z => x == z
  | .ne, x, z => x != z
  | .lt, x, z => decide (x < z)
  | .le, x, z => decide (x ≤ z)
  | .gt, x, z => decide (z < x)
  | .ge, x, z => decide (z ≤ x)
  | .un, _, _ => false

/-- A relation of floating values: only ne and un hold of a NaN (R217). -/
def Rel.flt : Rel → FVal → FVal → Bool
  | .eq, x, z => feqV x z
  | .ne, x, z => !feqV x z
  | .lt, x, z => fltV x z
  | .le, x, z => fltV x z || feqV x z
  | .gt, x, z => fltV z x
  | .ge, x, z => fltV z x || feqV x z
  | .un, x, z => x.isNan || z.isNan

/-- The value a compare writes: the relation in every lane (R217). -/
def compareFlag (rel : Rel) (ftz : Bool) (t : Nat) (a b : W32) : Bool :=
  (List.range (laneN t)).all fun i =>
    if tyInt t then rel.int (laneInt t a i) (laneInt t b i) else rel.flt (laneVal ftz t a i) (laneVal ftz t b i)

/-- The function of a plog (R218). -/
def plogFlag (f : Nat) (p s : Bool) : Bool :=
  match f with
  | 0 => p && s
  | 1 => p || s
  | 2 => p != s
  | 3 => p && !s
  | 4 => p || !s
  | 5 => !(p && s)
  | 6 => !(p || s)
  | _ => !(p != s)

/-- Is the gate of a format E word true (R63, R180)? -/
def gateOpen (q : BitVec 4) (pg : BitVec 2) : Bool :=
  match pg.toNat with
  | 0 => true
  | 1 => q.getLsbD 0
  | 2 => !q.getLsbD 0
  | _ => q.getLsbD 1

end Sys2Proof.Machine
end

