-- ==== Sys2Proof/Machine/Operands.lean ====
section
/-! DEFINITION. How an element executes a context word: the element that `s.ep` names, its operand sources (R70 to R72), the queue of
its writes (R62, R73, R227), the gate (R63) and the order of a word's parts (R210). -/

namespace Sys2Proof.Machine

/-- An element about to execute a word: the group and its key, the slot, the item in it, and the element as the cycle began. -/
structure View where
  gk : Nat
  grp : Group
  gs : Nat
  pos : Nat
  slot : Slot
  item : Item
  v : Nat
  el : Elem
  deriving DecidableEq, Repr

/-- The element that `s.ep` names, in a slot that holds an item: in a bubble there is none (R38). -/
def State.view (s : State) : Option View :=
  match s.group? s.ep.g with
  | none => none
  | some g =>
    let sl := s.slot g s.ep.slot
    match sl.item, sl.v with
    | some it, some v =>
      some { gk := s.ep.g, grp := g, gs := s.ep.slot, pos := s.ep.pos, slot := sl, item := it, v := v,
             el := s.elem g s.ep.slot s.ep.pos }
    | _, _ => none

/-- The phase sets flush-to-zero (R89). -/
def View.ftz (w : View) : Bool := w.grp.img.ftz

/-- The active bank: 1 for contexts 16 to 31 (R39). -/
def View.bank (w : View) : Nat := if w.slot.bank then 1 else 0

/-- The context index the group executes now (R37). -/
def View.ctxIdx (w : View) : Nat := (if w.slot.bank then 16 else 0) + (if w.grp.img.ii = 0 then 0 else w.grp.t % w.grp.img.ii)

/-- Where a fault of this element lies (R382): the context index counts within the stripe's words. -/
def View.at_ (w : View) : FaultAt :=
  { gslot := w.gs, vs := w.v, pos := w.pos, ctx := if w.grp.img.ii = 0 then 0 else w.grp.t % w.grp.img.ii }

/-- The item is void (R141). -/
def View.void (w : View) : Bool :=
  match w.grp.voidFrom with
  | some n => decide (n ≤ w.item.n)
  | none => false

/-- The item may still read ports: it is not void, or became so by a read of this very cycle (R141). -/
def View.reads (w : View) : Bool := !w.void || w.grp.fresh.contains w.item.n

/-- What the stripe image holds for this position. -/
def View.pimg (w : View) : Option PosImg :=
  match w.grp.stripe? w.v with
  | some im => tfind im.pos w.pos
  | none => none

/-- The key of the element's bound input port, or output port, by its portmap nibble (R187). -/
def View.inKey (w : View) : Option Nat :=
  match w.pimg with
  | some p => if p.inp = 1 ∨ p.inp = 2 then some (portKey w.v (p.inp - 1)) else none
  | none => none

def View.outKey (w : View) : Option Nat :=
  match w.pimg with
  | some p => if p.outp = 1 ∨ p.outp = 2 then some (portKey w.v (p.outp + 1)) else none
  | none => none

/-- The physical register that index j names (R61). -/
def physReg (base : BitVec 4) (j : Nat) : Nat := (j + base.toNat) % 16

/-- Word `in` of R72: `n` words of the bound input port, in order, with the markers that attach to the item. -/
def View.takeIn (w : View) (n : Nat) (s : State) : List W32 × State :=
  match w.inKey with
  | none => (List.replicate n 0#32, s)
  | some key =>
    if !w.reads then (List.replicate n 0#32, s)
    else
      let (ws, ms, s1) := if w.grp.gated w.v (key % 4) then s.takeOffer w.gk key n else s.takeWords w.gk key n
      let s2 := match s1.group? w.gk with
        | some g =>
          let sl := s1.slot g w.gs
          s1.setSlot g w.gs { sl with item := sl.item.map fun it => { it with marks := it.marks ++ ms } }
        | none => s1
      (ws, s2)

/-- The value of a source code at the start of the cycle, the word read from the port being given (R70). -/
def View.src (w : View) (s : State) (inw : W32) (c : BitVec 5) : W32 :=
  let n := c.toNat
  if n < 16 then tget 0 w.el.k (physReg w.el.base n)
  else if n < 24 then tget 0 w.el.c (8 * w.bank + (n - 16))
  else
    match n with
    | 24 => w.el.pass
    | 25 => if w.pos = 0 then 0 else (s.elem w.grp w.gs (w.pos - 1)).pass
    | 26 => if w.pos ≥ 31 then 0 else (s.elem w.grp w.gs (w.pos + 1)).pass
    | 27 => if w.pos = 0 then 0 else (s.elem w.grp w.gs (w.pos - 1)).y
    | 28 => if w.pos ≥ 31 then 0 else (s.elem w.grp w.gs (w.pos + 1)).y
    | 29 => w.el.y
    | 30 => inw
    | _ => 0

/-- Queues a write of this element for the end of the cycle, or `due` unfrozen cycles later (R62, R227). -/
def View.queue (w : View) (late : Bool) (due : Nat) (k : WrKind) (s : State) : State :=
  match s.group? w.gk with
  | some g =>
    let e : Wr := { late := late, due := due, slot := w.gs, pos := w.pos, ctx := w.at_.ctx, item := w.item.n, tag := w.item.tag, kind := k }
    s.setGroup w.gk { g with wq := g.wq ++ [e] }
  | none => s

/-- The destination of a value: y always, and what the d field names, a register being fixed at issue (R73, R227). -/
def View.writeDest (w : View) (late : Bool) (due : Nat) (d : BitVec 5) (v : W32) (s : State) : State :=
  let s1 := w.queue late due (.y v) s
  if d.toNat < 16 then w.queue late due (.k (physReg w.el.base d.toNat) v) s1
  else if d.toNat = 17 then
    match w.outKey with
    | some key => w.queue late due (.out key v) s1
    | none => s1
  else s1

/-- What a word sees when it computes: the element, its operands by source code, and the old value of d. -/
structure Ops where
  w : View
  get : BitVec 5 → W32

/-- One step of R210 for a word with sources `srcs` that has passed its gate: reads `in` once if it is named, then `body`. -/
def veBody (srcs : List (BitVec 5)) (body : Ops → State → State) (w : View) (s : State) : State :=
  if srcs.contains 30#5 then
    let (ws, s1) := w.takeIn 1 s
    body { w := w, get := w.src s (ws.headD 0#32) } s1
  else body { w := w, get := w.src s 0#32 } s

/-- A format E word (R210): nothing in a bubble or under a false gate. -/
def veWord (g : BitVec 2) (srcs : List (BitVec 5)) (body : Ops → State → State) (s : State) : State :=
  match s.view with
  | none => s
  | some w => if gateOpen w.el.q g then veBody srcs body w s else s

/-- A format EI word, which always executes (R181). -/
def veImm (srcs : List (BitVec 5)) (body : Ops → State → State) (s : State) : State :=
  match s.view with
  | none => s
  | some w => veBody srcs body w s

/-- A word that produces a value of its operands. -/
def veValue (g : BitVec 2) (srcs : List (BitVec 5)) (d : BitVec 5) (f : Ops → W32) (s : State) : State :=
  veWord g srcs (fun o st => o.w.writeDest false 0 d (f o) st) s

/-- A two-source word: d and y take f of the operands and of the old value of d. -/
def veOp2 (g : BitVec 2) (a b d : BitVec 5) (f : Bool → W32 → W32 → W32 → W32) (s : State) : State :=
  veValue g [a, b] d (fun o => f o.w.ftz (o.get a) (o.get b) (o.get d)) s

/-- A one-source word. -/
def veOp1 (g : BitVec 2) (a d : BitVec 5) (f : Bool → W32 → W32) (s : State) : State :=
  veValue g [a] d (fun o => f o.w.ftz (o.get a)) s

/-- A word that writes predicate q[i] (R217, R218, R241). -/
def veFlag (g : BitVec 2) (srcs : List (BitVec 5)) (i : Nat) (f : Ops → Bool) (s : State) : State :=
  veWord g srcs (fun o st => o.w.queue false 0 (.q i (f o)) st) s

end Sys2Proof.Machine
end

