-- ==== Sys2Proof/Machine/VeBank.lean ====
section
/-! DEFINITION. The bank words of a VE (R226 to R228): LBANK of the element's own ring, one word at a time. -/

namespace Sys2Proof.Machine

/-- The AFC set-up of the active bank (R39, R64). -/
def View.afc (w : View) : AfcSetup := tget AfcSetup.zero w.el.setup w.bank

/-- The offset of the ldb, stb and atomic forms (R226). -/
def View.offA (w : View) (x : W32) : Nat := zextI ((w.el.afcA.toNat : Int) + x.toInt) 24

/-- The offset of the turn forms (R226). -/
def View.offT (w : View) (x : W32) : Nat := zextI ((w.el.afcA.toNat : Int) + x.toInt * w.afc.step1.toInt) 24

/-- The offset of the immediate forms (R226). -/
def View.offI (w : View) (i : BitVec 11) : Nat := (w.el.afcA.toNat + 4 * i.toNat) % 2 ^ 24

/-- The ring whose pool the element reaches (R99). -/
def View.ringNo (w : View) (s : State) : Nat := (s.slotPlace w.grp w.gs).1

/-- The place of the word at an offset (R97, R226). -/
def View.bankKey (w : View) (s : State) (o : Nat) : Nat := poolKey (w.ringNo s) (o - o % 4)

/-- The offset lies inside the scratch carve (R226). -/
def View.inScratch (w : View) (o : Nat) : Bool := decide (o < carveScratch w.grp.carve * 65536)

/-- Why an access at an offset does not take place: it lies outside the carve (R226), or the data of its bank is uncorrectable (R382, R428). -/
def View.bankFault (w : View) (o : Nat) (s : State) : Option State :=
  if !w.inScratch o then some (s.phaseFault w.gk 3 w.at_ (BitVec.ofNat 64 o))
  else if s.bad.contains (errUnit (w.bankKey s o)) then
    some ((s.mcheck (s.vfNum (w.ringNo s)) (w.bankKey s o) 1).phaseFault w.gk 13 FaultAt.zero (BitVec.ofNat 64 (mcAddr (w.bankKey s o))))
  else none

/-- A bank load: the word goes to d and y four unfrozen cycles later (R226, R227). -/
def View.bankLoad (w : View) (d : BitVec 5) (o : Nat) (s : State) : State :=
  match w.bankFault o s with
  | some s' => s'
  | none => w.writeDest true 4 d (BitVec.ofNat 32 (s.num (w.bankKey s o) 4)) s

/-- A bank store; a void item makes no access (R228). -/
def View.bankStore (w : View) (o : Nat) (v : W32) (s : State) : State :=
  if w.void then s
  else
    match w.bankFault o s with
    | some s' => s'
    | none => s.putWord (w.ringNo s) (w.bankKey s o) v.toNat

/-- A bank atomic: the new word is f of the old one, the old one goes to d and y as a load's does (R228). -/
def View.bankAtomic (w : View) (d : BitVec 5) (o : Nat) (f : W32 → W32) (s : State) : State :=
  if w.void then s
  else
    match w.bankFault o s with
    | some s' => s'
    | none =>
      let m := BitVec.ofNat 32 (s.num (w.bankKey s o) 4)
      w.writeDest true 4 d m (s.putWord (w.ringNo s) (w.bankKey s o) (f m).toNat)

/-- ldb (R228). -/
def execLdb (a _b d : BitVec 5) (g : BitVec 2) (s : State) : Host.Outcome State Fault Refusal :=
  .next (veWord g [a] (fun o st => o.w.bankLoad d (o.w.offA (o.get a)) st) s)

/-- stb (R228). -/
def execStb (a b _d : BitVec 5) (g : BitVec 2) (s : State) : Host.Outcome State Fault Refusal :=
  .next (veWord g [a, b] (fun o st => o.w.bankStore (o.w.offA (o.get a)) (o.get b) st) s)

/-- ldbi (R228). -/
def execLdbi (_a : BitVec 5) (i : BitVec 11) (d : BitVec 5) (s : State) : Host.Outcome State Fault Refusal :=
  .next (veImm [] (fun o st => o.w.bankLoad d (o.w.offI i) st) s)

/-- stbi stores X (R228). -/
def execStbi (a : BitVec 5) (i : BitVec 11) (_d : BitVec 5) (s : State) : Host.Outcome State Fault Refusal :=
  .next (veImm [a] (fun o st => o.w.bankStore (o.w.offI i) (o.get a) st) s)

/-- atadd (R228). -/
def execAtadd (a b d : BitVec 5) (g : BitVec 2) (s : State) : Host.Outcome State Fault Refusal :=
  .next (veWord g [a, b] (fun o st => o.w.bankAtomic d (o.w.offA (o.get a)) (fun m => m + o.get b) st) s)

/-- The smaller or larger of two words, signed for type 0 (R228). -/
def pickWord (t : BitVec 1) (larger : Bool) (m z : W32) : W32 :=
  let lt := if t = 0#1 then decide (m.toInt < z.toInt) else decide (m.toNat < z.toNat)
  if lt == larger then z else m

/-- atmin (R228). -/
def execAtmin (t : BitVec 1) (a b d : BitVec 5) (g : BitVec 2) (s : State) : Host.Outcome State Fault Refusal :=
  .next (veWord g [a, b] (fun o st => o.w.bankAtomic d (o.w.offA (o.get a)) (fun m => pickWord t false m (o.get b)) st) s)

/-- atmax (R228). -/
def execAtmax (t : BitVec 1) (a b d : BitVec 5) (g : BitVec 2) (s : State) : Host.Outcome State Fault Refusal :=
  .next (veWord g [a, b] (fun o st => o.w.bankAtomic d (o.w.offA (o.get a)) (fun m => pickWord t true m (o.get b)) st) s)

/-- atxchg (R228). -/
def execAtxchg (a b d : BitVec 5) (g : BitVec 2) (s : State) : Host.Outcome State Fault Refusal :=
  .next (veWord g [a, b] (fun o st => o.w.bankAtomic d (o.w.offA (o.get a)) (fun _ => o.get b) st) s)

/-- atcas: Z if the word equals the old d (R228). -/
def execAtcas (a b d : BitVec 5) (g : BitVec 2) (s : State) : Host.Outcome State Fault Refusal :=
  .next (veWord g [a, b] (fun o st =>
    o.w.bankAtomic d (o.w.offA (o.get a)) (fun m => if m = o.get d then o.get b else m) st) s)

/-- ldt (R226, R228). -/
def execLdt (a _b d : BitVec 5) (g : BitVec 2) (s : State) : Host.Outcome State Fault Refusal :=
  .next (veWord g [a] (fun o st => o.w.bankLoad d (o.w.offT (o.get a)) st) s)

/-- stt (R226, R228). -/
def execStt (a b _d : BitVec 5) (g : BitVec 2) (s : State) : Host.Outcome State Fault Refusal :=
  .next (veWord g [a, b] (fun o st => o.w.bankStore (o.w.offT (o.get a)) (o.get b) st) s)

end Sys2Proof.Machine
end

