-- ==== Sys2Proof/Machine/Special.lean ====
section
/-! DEFINITION. The special functions of R94, correctly rounded: the exact cases by the table, every other value from an interval of
dyadic numbers narrow enough that both ends round alike. -/

namespace Sys2Proof.Machine

/-- The whole square root of a number below 4^n. -/
def isqrt : Nat → Nat → Nat
  | 0, _ => 0
  | n + 1, v =>
    let r := isqrt n (v / 4) * 2
    if (r + 1) * (r + 1) ≤ v then r + 1 else r

/-- The odd terms u/1 + u^3/3 + ... of 2^k fixed point, from the power `p` of `u` on (`u2` is the square of u). -/
def atanhSum (k u2 : Nat) : Nat → Nat → Nat → Nat
  | 0, _, _ => 0
  | n + 1, p, d => p / d + atanhSum k u2 n (p * u2 / 2 ^ k) (d + 2)

/-- A lower bound of ln((1+u)/(1-u)) in 2^-k, for u = num/den at most 1/3; at most 4k + 8 below the value. -/
def lnLow (k num den : Nat) : Nat :=
  let u := num * 2 ^ k / den
  2 * atanhSum k (u * u / 2 ^ k) k u 1

/-- A lower bound of ln 2 in 2^-k, at most 4k + 8 below. -/
def ln2Low (k : Nat) : Nat := lnLow k 1 3

/-- The terms y^i/i! in 2^-k from the term `p` on. -/
def expSum (k y : Nat) : Nat → Nat → Nat → Nat
  | 0, _, _ => 0
  | n + 1, p, i => p + expSum k y n (p * y / 2 ^ k / i) (i + 1)

/-- A lower bound of e^y in 2^-k for y below 1 given in 2^-k. -/
def expLow (k y : Nat) : Nat := expSum k y k (2 ^ k) 1

/-- An interval of positive numbers, in 2^-k. -/
structure Ival where
  lo : Nat
  hi : Nat
  k : Nat
  deriving DecidableEq, Repr

/-- The slack added for the truncations of one evaluation at precision k. -/
def slackOf (k : Nat) : Nat := 64 * (k + 16) * (k + 16)

/-- 2^f for a fraction f = num/2^d with d at most k. -/
def pow2Ival (k num d : Nat) : Ival :=
  let y := num * 2 ^ (k - d) * ln2Low k / 2 ^ k
  let v := expLow k y
  ⟨v, v + slackOf k, k⟩

/-- ln z for z = num/den in [1, 2). -/
def lnIval (k num den : Nat) : Ival :=
  let v := lnLow k (num - den) (num + den)
  ⟨v, v + slackOf k, k⟩

/-- e^(2x) as an interval, for a positive x = num/den. -/
def expTwiceIval (k num den : Nat) : Ival :=
  let y := 2 * num * 2 ^ k / den
  let l := ln2Low k
  let n := y / l
  let r := y - n * l
  -- n ln 2 lies between n l and n (l + 4k + 8), so r may be too large by that much
  let v := expLow k r
  let err := slackOf k + 8 * n * (4 * k + 8)
  ⟨(v - err) * 2 ^ n, (v + err) * 2 ^ n, k⟩

/-- Rounds a value known to lie in an interval of fractions; `none` while the ends round apart. -/
def roundBetween (mode : Rnd) (neg : Bool) (ln ld hn hd : Nat) : Option Nat :=
  let a := roundRat .b32 false mode neg ln ld
  let b := roundRat .b32 false mode neg hn hd
  if a = b then some a else none

/-- Doubles the precision until the ends round alike (R94). -/
def refine (f : Nat → Option Nat) : Nat → Nat → Nat
  | 0, _ => 0
  | n + 1, k =>
    match f k with
    | some v => v
    | none => refine f n (2 * k)

/-- exp2 (R94). -/
def exp2F (mode : Rnd) : FVal → Nat
  | .nan => nanCode .b32
  | .inf neg => if neg then 0 else infCode .b32 false false
  | .fin neg m e =>
    if m = 0 then roundRat .b32 false mode false 1 1
    else
      let d := dyDen e
      let n := dyNum m e
      -- past these bounds every value rounds as the bound does
      if 200 * d < n then (if neg then roundRat .b32 false mode false 1 (2 ^ 200) else roundRat .b32 false mode false (2 ^ 200) 1)
      else
        -- x = whole + fr/d with 0 ≤ fr < d
        let whole : Int := if neg then -((n + d - 1) / d : Nat) else ((n / d : Nat) : Int)
        let fr := if neg then (d - n % d) % d else n % d
        if fr = 0 then roundRat .b32 false mode false (dyNum 1 whole) (dyDen whole)
        else refine (fun k =>
          let i := pow2Ival k fr (-e).toNat
          let q : Int := whole - i.k
          roundBetween mode false (dyNum i.lo q) (dyDen q) (dyNum i.hi q) (dyDen q)) 4 384

/-- log2 (R94). -/
def log2F (mode : Rnd) : FVal → Nat
  | .nan => nanCode .b32
  | .inf neg => if neg then nanCode .b32 else infCode .b32 false false
  | .fin neg m e =>
    if m = 0 then infCode .b32 false true
    else if neg then nanCode .b32
    else
      let b := m.log2
      let n : Int := e + b
      if m = 2 ^ b then (if n = 0 then 0 else roundRat .b32 false mode (n < 0) n.natAbs 1)
      else refine (fun k =>
        -- log2 x = n + ln z / ln 2
        let z := lnIval k m (2 ^ b)
        let l := ln2Low k
        let lo := z.lo * 2 ^ k / (l + 4 * k + 8)
        let hi := z.hi * 2 ^ k / l + 1
        let a : Int := n * 2 ^ k + lo
        let c : Int := n * 2 ^ k + hi
        if 0 ≤ a then roundBetween mode false a.natAbs (2 ^ k) c.natAbs (2 ^ k)
        else roundBetween mode true c.natAbs (2 ^ k) a.natAbs (2 ^ k)) 4 384

/-- rcp (R94). -/
def rcpF (mode : Rnd) : FVal → Nat
  | .nan => nanCode .b32
  | .inf neg => withSign .b32 neg 0
  | .fin neg m e => if m = 0 then infCode .b32 false neg else roundRat .b32 false mode neg (dyDen e) (dyNum m e)

/-- rsq (R94). -/
def rsqF (mode : Rnd) : FVal → Nat
  | .nan => nanCode .b32
  | .inf neg => if neg then nanCode .b32 else 0
  | .fin neg m e =>
    if m = 0 then infCode .b32 false neg
    else if neg then nanCode .b32
    else
      let n := dyNum m e
      let d := dyDen e
      refine (fun k =>
        let v := d * 2 ^ (2 * k) / n
        let s := isqrt (k + 160) v
        if s * s * n = d * 2 ^ (2 * k) then some (roundRat .b32 false mode false s (2 ^ k))
        else roundBetween mode false s (2 ^ k) (s + 1) (2 ^ k)) 4 256

/-- tanh (R94). -/
def tanhF (mode : Rnd) : FVal → Nat
  | .nan => nanCode .b32
  | .inf neg => roundRat .b32 false mode neg 1 1
  | .fin neg m e =>
    let n := dyNum m e
    let d := dyDen e
    if m = 0 then withSign .b32 neg 0
    else if 64 * d < n then (roundBetween mode neg (2 ^ 100 - 1) (2 ^ 100) (2 ^ 101 - 1) (2 ^ 101)).getD 0
    else if n * 2 ^ 40 < d then
      -- x - x^3/3 < tanh x < x - x^3/3 + 2 x^5/15
      let a := 15 * n * d ^ 4 - 5 * n ^ 3 * d ^ 2
      (roundBetween mode neg a (15 * d ^ 5) (a + 2 * n ^ 5) (15 * d ^ 5)).getD 0
    else refine (fun k =>
      let i := expTwiceIval k n d
      -- tanh x = (E - 1) / (E + 1)
      roundBetween mode neg (i.lo - 2 ^ k) (i.lo + 2 ^ k) (i.hi - 2 ^ k) (i.hi + 2 ^ k)) 4 384

end Sys2Proof.Machine
end

