-- ==== Sys2Proof/Machine/VeFloat.lean ====
section
/-! DEFINITION. The floating words of a VE: arithmetic, conversions, special functions and dot products (R220 to R225, R90). -/

namespace Sys2Proof.Machine

/-- A rounded floating form with lane function f (R213, R220). -/
def veFltOp (t : BitVec 4) (a b d : BitVec 5) (g : BitVec 2) (sat : BitVec 1) (r : BitVec 2) (f : FVal → FVal → FVal → FVal)
    (s : State) : State :=
  veOp2 g a b d (fun ftz x z w => fltLanes ftz t.toNat (sat == 1#1) (rndOf r) f x z w) s

/-- fadd (R220). -/
def execFadd (t : BitVec 4) (a b d : BitVec 5) (g : BitVec 2) (s : BitVec 1) (r : BitVec 2) (st : State) :
    Host.Outcome State Fault Refusal :=
  .next (veFltOp t a b d g s r (fun x z _ => faddV (rndOf r) x z) st)

/-- fsub (R220). -/
def execFsub (t : BitVec 4) (a b d : BitVec 5) (g : BitVec 2) (s : BitVec 1) (r : BitVec 2) (st : State) :
    Host.Outcome State Fault Refusal :=
  .next (veFltOp t a b d g s r (fun x z _ => faddV (rndOf r) x (fnegV z)) st)

/-- fmul (R220). -/
def execFmul (t : BitVec 4) (a b d : BitVec 5) (g : BitVec 2) (s : BitVec 1) (r : BitVec 2) (st : State) :
    Host.Outcome State Fault Refusal :=
  .next (veFltOp t a b d g s r (fun x z _ => fmulV x z) st)

/-- fma: x · z + w, the product never rounded (R220). -/
def execFma (t : BitVec 4) (a b d : BitVec 5) (g : BitVec 2) (s : BitVec 1) (r : BitVec 2) (st : State) :
    Host.Outcome State Fault Refusal :=
  .next (veFltOp t a b d g s r (fun x z w => faddV (rndOf r) (fmulV x z) w) st)

/-- fms: x · z - w (R220). -/
def execFms (t : BitVec 4) (a b d : BitVec 5) (g : BitVec 2) (s : BitVec 1) (r : BitVec 2) (st : State) :
    Host.Outcome State Fault Refusal :=
  .next (veFltOp t a b d g s r (fun x z w => faddV (rndOf r) (fmulV x z) (fnegV w)) st)

/-- fmin (R221). -/
def execFmin (t : BitVec 4) (a b d : BitVec 5) (g : BitVec 2) (s : State) : Host.Outcome State Fault Refusal :=
  .next (veFltOp t a b d g 0 0 (fun x z _ => fminV x z) s)

/-- fmax (R221). -/
def execFmax (t : BitVec 4) (a b d : BitVec 5) (g : BitVec 2) (s : State) : Host.Outcome State Fault Refusal :=
  .next (veFltOp t a b d g 0 0 (fun x z _ => fmaxV x z) s)

/-- A value with its sign cleared. -/
def fabsV : FVal → FVal
  | .nan => .nan
  | .inf _ => .inf false
  | .fin _ m e => .fin false m e

/-- fabs (R221). -/
def execFabs (t : BitVec 4) (a _b d : BitVec 5) (g : BitVec 2) (s : State) : Host.Outcome State Fault Refusal :=
  .next (veOp1 g a d (fun ftz x => fltLanes ftz t.toNat false .rne (fun v _ _ => fabsV v) x 0 0) s)

/-- fneg (R221). -/
def execFneg (t : BitVec 4) (a _b d : BitVec 5) (g : BitVec 2) (s : State) : Host.Outcome State Fault Refusal :=
  .next (veOp1 g a d (fun ftz x => fltLanes ftz t.toNat false .rne (fun v _ _ => fnegV v) x 0 0) s)

/-- frnd: the integral value in the direction rnd (R221). -/
def execFrnd (t : BitVec 4) (a _b d : BitVec 5) (g r : BitVec 2) (s : State) : Host.Outcome State Fault Refusal :=
  .next (veOp1 g a d (fun ftz x => fltLanes ftz t.toNat false (rndOf r) (fun v _ _ => frndV (rndOf r) v) x 0 0) s)

/-- fclamp: fmin(fmax(x, z), w) (R221). -/
def execFclamp (t : BitVec 4) (a b d : BitVec 5) (g : BitVec 2) (s : State) : Host.Outcome State Fault Refusal :=
  .next (veFltOp t a b d g 0 0 (fun x z w => fminV (fmaxV x z) w) s)

/-- An integer as an exact value. -/
def intV (x : Int) : FVal := .fin (x < 0) x.natAbs 0

/-- How a lane is rounded: in a direction, or by one draw of the LFSR each (R90). -/
structure Rounding where
  mode : Rnd
  sat : Bool
  sr : Bool

/-- Converts a lane to a floating format: gives the code and the LFSR afterwards. -/
def Rounding.toFloat (m : Rounding) (ftz : Bool) (f : Fmt) (l : W32) (x : FVal) : Nat × W32 :=
  if m.sr then
    let l' := lfsrStep l
    (flush ftz f (roundSr f m.sat l' x), l')
  else (flush ftz f (roundF f m.sat m.mode x), l)

/-- Converts a list of values lane by lane. -/
def Rounding.lanes (m : Rounding) (ftz : Bool) (f : Fmt) : W32 → List FVal → List Nat × W32
  | l, [] => ([], l)
  | l, x :: t =>
    let (c, l1) := m.toFloat ftz f l x
    let (cs, l2) := m.lanes ftz f l1 t
    (c :: cs, l2)

/-- Sets the LFSR of the element. -/
def View.setLfsr (w : View) (l : W32) (s : State) : State :=
  match s.group? w.gk with
  | some g => s.setElem g w.gs w.pos { s.elem g w.gs w.pos with lfsr := l }
  | none => s

/-- A conversion word: the exact lane values of the sources become lanes of type t. A void item rounds sr words to nearest and draws
nothing (R90, R141). -/
def veConvert (g : BitVec 2) (srcs : List (BitVec 5)) (d : BitVec 5) (t : Nat) (sat : Bool) (mode : Rnd) (sr : Bool)
    (vals : Ops → List FVal) (s : State) : State :=
  veWord g srcs (fun o st =>
    if tyInt t then
      let cs := (vals o).map fun x => zextI (convInt (tySigned t) (laneW t) mode x) (laneW t)
      o.w.writeDest false 0 d (BitVec.ofNat 32 (joinLanes (laneW t) cs)) st
    else
      let m : Rounding := { mode := mode, sat := sat, sr := sr && !o.w.void }
      let (cs, l) := m.lanes o.w.ftz (tyFmt t) o.w.el.lfsr (vals o)
      let st1 := if m.sr then o.w.setLfsr l st else st
      o.w.writeDest false 0 d (BitVec.ofNat 32 (joinLanes (laneW t) cs)) st1) s

/-- Lane i of a word of any type as an exact value, after FTZIN if it floats (R222). -/
def laneAny (ftz : Bool) (t : Nat) (w : W32) (i : Nat) : FVal :=
  if tyInt t then intV (laneInt t w i) else laneVal ftz t w i

/-- cvt (R222). -/
def execCvt (t : BitVec 4) (a : BitVec 5) (c : BitVec 4) (d : BitVec 5) (g : BitVec 2) (s : BitVec 1) (r : BitVec 2) (x : BitVec 1)
    (st : State) : Host.Outcome State Fault Refusal :=
  .next (veConvert g [a] d t.toNat (s == 1#1) (rndOf r) (x == 1#1)
    (fun o => (List.range (min (laneN c.toNat) (laneN t.toNat))).map (laneAny o.w.ftz c.toNat (o.get a))) st)

/-- The wider type that a pack or unpack type pairs with (R223). -/
def wideTy (t : Nat) : Nat :=
  match t with
  | 2 => 0
  | 3 => 1
  | 4 => 2
  | 5 => 3
  | 9 => 8
  | 10 => 8
  | 15 => 11
  | _ => 9

/-- pack: the lanes of A, then those of B, narrowed (R223). -/
def execPack (t : BitVec 4) (a b d : BitVec 5) (g : BitVec 2) (s : BitVec 1) (r : BitVec 2) (x : BitVec 1) (st : State) :
    Host.Outcome State Fault Refusal :=
  .next (
    let u := wideTy t.toNat
    veConvert g [a, b] d t.toNat (s == 1#1) (rndOf r) (x == 1#1)
      (fun o => (List.range (laneN u)).map (laneAny o.w.ftz u (o.get a)) ++
        (List.range (laneN u)).map (laneAny o.w.ftz u (o.get b))) st)

/-- Lanes of A from `from_` on, widened exactly (R223). -/
def veUnpack (t : BitVec 4) (a d : BitVec 5) (g : BitVec 2) (hi : Bool) (s : State) : State :=
  let u := wideTy t.toNat
  veOp1 g a d (fun ftz x => mapLanes u fun i =>
    let v := laneAny ftz t.toNat x (i + if hi then laneN u else 0)
    if tyInt u then zextI (convInt (tySigned u) (laneW u) .rne v) (laneW u)
    else flush ftz (tyFmt u) (roundF (tyFmt u) false .rne v)) s

/-- unpklo (R223). -/
def execUnpklo (t : BitVec 4) (a _b d : BitVec 5) (g : BitVec 2) (s : State) : Host.Outcome State Fault Refusal :=
  .next (veUnpack t a d g false s)

/-- unpkhi (R223). -/
def execUnpkhi (t : BitVec 4) (a _b d : BitVec 5) (g : BitVec 2) (s : State) : Host.Outcome State Fault Refusal :=
  .next (veUnpack t a d g true s)

/-- A special function of the one binary32 lane (R224, R94). -/
def veSpecial (a d : BitVec 5) (g : BitVec 2) (f : FVal → Nat) (s : State) : State :=
  veOp1 g a d (fun ftz x => BitVec.ofNat 32 (flush ftz .b32 (f (laneVal ftz 8 x 0)))) s

/-- exp2 (R94). -/
def execExp2 (a _b d : BitVec 5) (g r : BitVec 2) (s : State) : Host.Outcome State Fault Refusal :=
  .next (veSpecial a d g (exp2F (rndOf r)) s)

/-- log2 (R94). -/
def execLog2 (a _b d : BitVec 5) (g r : BitVec 2) (s : State) : Host.Outcome State Fault Refusal :=
  .next (veSpecial a d g (log2F (rndOf r)) s)

/-- rcp (R94). -/
def execRcp (a _b d : BitVec 5) (g r : BitVec 2) (s : State) : Host.Outcome State Fault Refusal :=
  .next (veSpecial a d g (rcpF (rndOf r)) s)

/-- rsq (R94). -/
def execRsq (a _b d : BitVec 5) (g r : BitVec 2) (s : State) : Host.Outcome State Fault Refusal :=
  .next (veSpecial a d g (rsqF (rndOf r)) s)

/-- tanh (R94). -/
def execTanh (a _b d : BitVec 5) (g r : BitVec 2) (s : State) : Host.Outcome State Fault Refusal :=
  .next (veSpecial a d g (tanhF (rndOf r)) s)

/-- The integer dot product into an s32 accumulator (R225). -/
def dotInt (ta tb : Nat) (sat : Bool) (x z w : W32) : W32 :=
  let sum := ((List.range (laneN ta)).map fun i => laneInt ta x i * laneInt tb z i).sum
  let r := w.toInt + sum
  w32 (if sat then satInt true 32 r else r)

/-- The floating dot product into a binary32 accumulator (R225, R92). -/
def dotFlt (ftz : Bool) (t : Nat) (sat : Bool) (mode : Rnd) (x z w : W32) : W32 :=
  let sum := sumProds mode ((List.range (laneN t)).map fun i => (laneVal ftz t x i, laneVal ftz t z i))
  BitVec.ofNat 32 (flush ftz .b32 (roundF .b32 sat mode (faddV mode (readF ftz .b32 w.toNat) sum)))

/-- dot (R225). -/
def execDot (t : BitVec 4) (a b d : BitVec 5) (g : BitVec 2) (s : BitVec 1) (r : BitVec 2) (st : State) :
    Host.Outcome State Fault Refusal :=
  .next (veOp2 g a b d (fun ftz x z w =>
    if tyInt t.toNat then dotInt t.toNat t.toNat (s == 1#1) x z w else dotFlt ftz t.toNat (s == 1#1) (rndOf r) x z w) st)

/-- dotx: s8 lanes of A and n8 lanes of B (R225). -/
def execDotx (a b d : BitVec 5) (g : BitVec 2) (s : BitVec 1) (st : State) : Host.Outcome State Fault Refusal :=
  .next (veOp2 g a b d (fun _ x z w => dotInt 4 5 (s == 1#1) x z w) st)

end Sys2Proof.Machine
end

