-- ==== Sys2Proof/Machine/Me.lean ====
section
/-! DEFINITION. The matrix elements: blocks and their issue timeline, feeds, runs, drains and the accumulator words (R76, R77, R92,
R93, R231 to R239). -/

namespace Sys2Proof.Machine

/-- The instruction a stored word of a position holds; an absent position executes nop (R188). -/
def StripeImg.instr (im : StripeImg) (pos ci : Nat) : Instr :=
  match tfind im.pos pos with
  | none => .nop
  | some p =>
    match decodeElem (p.words.getD ci 0) with
    | .ok i => i
    | .error _ => .nop

/-- Words of the ME column that issue to a block (R231, R232). -/
def meIssues : Instr → Bool
  | .mma _ _ _ _ _ _ _ _ _ => true
  | .mmx _ _ _ _ _ _ _ _ _ => true
  | .azero _ => true
  | .adrain _ _ _ => true
  | .aload _ => true
  | .ascale _ _ => true
  | _ => false

/-- The word of a stripe's ME column, with its context index (R231). -/
def StripeImg.meWord (im : StripeImg) : Option (Nat × Instr) :=
  ((List.range im.ii).map fun c => (c, im.instr 12 c)).find? fun e => meIssues e.2

/-- The bsrc bit of an mma or mmx word. -/
def meBsrc : Instr → Option Bool
  | .mma _ _ _ b _ _ _ _ _ => some (b == 1#1)
  | .mmx _ _ _ b _ _ _ _ _ => some (b == 1#1)
  | _ => none

/-- The bsrc bit of a virtual stripe's ME column, if it holds an mma or mmx word. -/
def Group.bsrcAt (g : Group) (v : Nat) : Option Bool :=
  match g.stripe? v with
  | some im =>
    match im.meWord with
    | some e => meBsrc e.2
    | none => none
  | none => none

/-- The top of the block that v belongs to (R231): up from v while the words take B from n. -/
def Group.blockTop (g : Group) : Nat → Nat
  | 0 => 0
  | v + 1 => if g.bsrcAt (v + 1) = some false then g.blockTop v else v + 1

/-- Stripes below v that continue its block, at most n (R231). -/
def Group.blockMore (g : Group) : Nat → Nat → Nat
  | 0, _ => 0
  | n + 1, v => if g.bsrcAt (v + 1) = some false then 1 + g.blockMore n (v + 1) else 0

/-- The number of stripes of the block with top v (R231). -/
def Group.blockSize (g : Group) (v : Nat) : Nat :=
  if g.bsrcAt v = some true then 1 + g.blockMore g.img.v v else 1

/-- A product format: k, element bits, A-feed bytes per beat (R234). -/
def meK (fmt : Nat) : Nat := if fmt ≤ 1 then 1 else if fmt = 2 ∨ fmt = 3 ∨ fmt = 7 then 2 else 4
def meBits (fmt : Nat) : Nat := if fmt ≤ 1 then 16 else if fmt = 4 ∨ fmt = 5 then 6 else if fmt = 6 ∨ fmt = 8 then 4 else 8
def meBeta (fmt : Nat) : Nat := if fmt = 4 ∨ fmt = 5 then 24 else 16

/-- The floating format of an ME fmt code (R183). -/
def meFmt (fmt : Nat) : Fmt :=
  match fmt with
  | 0 => .bf16
  | 1 => .f16
  | 2 => .e4m3
  | 3 => .e5m2
  | 4 => .e2m3
  | 5 => .e3m2
  | _ => .e2m1

/-- Run length of a len code (R183). -/
def meLen (l : BitVec 2) : Nat := 256 / 2 ^ l.toNat

/-- Scale groups of a run (R235). -/
def BlockRun.groups (r : BlockRun) : Nat := if r.op = 1 then r.len * meK r.fmt / 32 else 0

/-- The A scale span (R235). -/
def BlockRun.span (r : BlockRun) : Nat := 8 * r.groups

/-- Words of the B-feed port that beat b consumes, its group's scale words included (R234, R235). -/
def BlockRun.beatWords (r : BlockRun) (b : Nat) : Nat :=
  8 * meBeta r.fmt / 4 + (if r.op = 1 ∧ b % (32 / meK r.fmt) = 0 then 16 else 0)

/-- The words of a whole run (R235). -/
def BlockRun.runWords (r : BlockRun) : Nat := r.len * (8 * meBeta r.fmt / 4) + 16 * r.groups

/-- The last busy cycle of a word, counted from its issue (R232). -/
def BlockRun.busy (r : BlockRun) : Nat :=
  if r.op ≤ 1 then (if r.drains then r.len + 9 * r.size + 5 else r.len - 1)
  else if r.op = 3 then 9 * r.size + 5
  else if r.op = 4 then 127 else 0

/-- The last cycle in which the word acts at any ME. -/
def BlockRun.last (r : BlockRun) : Nat :=
  max r.busy ((if r.op ≤ 1 then r.len else if r.op = 4 then 128 else 1) + r.size + 6)

/-- The cycle of the first drained row (R237). -/
def BlockRun.drainAt (r : BlockRun) : Nat := (if r.op ≤ 1 then r.len else 0) + r.size + 6

/-- The row that the run drains in this cycle, if any (R237). -/
def BlockRun.row? (r : BlockRun) : Option Nat :=
  if (r.drains ∨ r.op = 3) ∧ r.drainAt ≤ r.cyc ∧ r.cyc < r.drainAt + 8 * r.size then some (r.cyc - r.drainAt) else none

/-- The block of top v is busy (R232). -/
def Group.blockBusy (g : Group) (top : Nat) : Bool := g.blocks.any fun r => r.top == top && decide (r.cyc ≤ r.busy)

/-- Bytes of LBANK that the A feed of a word reads from its offset (R234, R239). -/
def BlockRun.aBytes (r : BlockRun) : Nat := if r.op ≤ 1 then r.span + r.len * meBeta r.fmt else if r.op = 4 then 2048 else 0

/-- The words delivered by the port that an element names, and its tile size. -/
def View.inTile (w : View) : Nat × Nat :=
  match w.inKey with
  | some key =>
    match tfind w.grp.ports key with
    | some p => (p.delivered, p.decl.t)
    | none => (0, 0)
  | none => (0, 0)

/-- The y of position 11 that the A feed of block stripe i starts from: 0 while that stripe's slot does not hold the stripe yet, since its slot has held no
item of the pass (R234, R302; log 113). -/
def State.feedY (s : State) (g : Group) (gs v i : Nat) : Nat :=
  let sl := s.slot g (gs + i)
  if sl.v = some (v + i) ∧ sl.st = .run then (s.elem g (gs + i) 11).y.toNat % 2 ^ 24 / 8 * 8 else 0

/-- Issues a word to its block (R232): by the top stripe's position 12, for an item that is not void as its cycle begins, while the block is idle. The A
feeds take their offsets, whose spans are checked at once (R234). -/
def meIssue (mk : BlockRun) (s : State) : State :=
  match s.view with
  | none => s
  | some w =>
    let g := w.grp
    if w.pos ≠ 12 ∨ !w.reads ∨ g.blockTop w.v ≠ w.v ∨ g.blockBusy w.v then s
    else
      let n := g.blockSize w.v
      let offs := (List.range n).map (s.feedY g w.gs w.v)
      let r0 : BlockRun := { mk with top := w.v, slot := w.gs, size := n, item := w.item.n, tag := w.item.tag, aoff := offs }
      let tile := w.inTile
      let r : BlockRun := { r0 with drains := decide (r0.op ≤ 1) && r0.done && tile.2 != 0 && (tile.1 + r0.runWords) % tile.2 == 0 }
      match ((List.range n).zip offs).find? fun e => decide (r.aBytes ≠ 0 ∧ carveScratch g.carve * 65536 < e.2 + r.aBytes) with
      | some e => s.phaseFault w.gk 3 { w.at_ with gslot := w.gs + e.1, vs := w.v + e.1, pos := 12 } (BitVec.ofNat 64 e.2)
      | none => s.setGroup w.gk { g with blocks := g.blocks ++ [r] }

/-- A block word before it is issued. -/
def BlockRun.blank : BlockRun :=
  { top := 0, slot := 0, size := 0, item := 0, tag := none, op := 0, fmt := 0, acc := 0, len := 1, done := false, bout := true, dfmt := 0,
    sat := false, imm := 0, cyc := 0, drains := false, aoff := [], afeed := [], beats := [] }

/-- The run that a word of format EM starts, without the place of its issue (R236 to R239). -/
def meRun : Instr → Option BlockRun
  | .mma f k _ _ o l e d s =>
    some { BlockRun.blank with op := 0, fmt := f.toNat, acc := k.toNat, len := meLen l, done := e == 1#1, bout := o == 1#1,
                               dfmt := d.toNat, sat := s == 1#1 }
  | .mmx f k _ _ o l e d s =>
    some { BlockRun.blank with op := 1, fmt := f.toNat, acc := k.toNat, len := meLen l, done := e == 1#1, bout := o == 1#1,
                               dfmt := d.toNat, sat := s == 1#1 }
  | .azero k => some { BlockRun.blank with op := 2, acc := k.toNat }
  | .adrain k d s => some { BlockRun.blank with op := 3, acc := k.toNat, dfmt := d.toNat, sat := s == 1#1 }
  | .aload k => some { BlockRun.blank with op := 4, acc := k.toNat }
  | .ascale k i => some { BlockRun.blank with op := 5, acc := k.toNat, imm := i }
  | _ => none

/-- A word of format EM that its block makes. -/
def meWord (i : Instr) (s : State) : State :=
  match meRun i with
  | some r => meIssue r s
  | none => s

/-- mma (R236). -/
def execMma (f : BitVec 4) (k : BitVec 2) (a b o : BitVec 1) (l : BitVec 2) (e : BitVec 1) (d : BitVec 3) (s : BitVec 1)
    (st : State) : Host.Outcome State Fault Refusal := .next (meWord (.mma f k a b o l e d s) st)

/-- mmx (R236). -/
def execMmx (f : BitVec 4) (k : BitVec 2) (a b o : BitVec 1) (l : BitVec 2) (e : BitVec 1) (d : BitVec 3) (s : BitVec 1)
    (st : State) : Host.Outcome State Fault Refusal := .next (meWord (.mmx f k a b o l e d s) st)

/-- azero (R239). -/
def execAzero (k : BitVec 2) (s : State) : Host.Outcome State Fault Refusal := .next (meWord (.azero k) s)

/-- adrain (R237, R239). -/
def execAdrain (k : BitVec 2) (d : BitVec 3) (s : BitVec 1) (st : State) : Host.Outcome State Fault Refusal := .next (meWord (.adrain k d s) st)

/-- aload (R239). -/
def execAload (k : BitVec 2) (s : State) : Host.Outcome State Fault Refusal := .next (meWord (.aload k) s)

/-- ascale (R239). -/
def execAscale (k : BitVec 2) (i : BitVec 9) (s : State) : Host.Outcome State Fault Refusal := .next (meWord (.ascale k i) s)

/-- mpass: y takes y of the position to the west (R239). -/
def execMpass (s : State) : Host.Outcome State Fault Refusal :=
  .next (match s.view with
    | none => s
    | some w => w.queue false 0 (.y (if w.pos = 0 then 0 else (s.elem w.grp w.gs (w.pos - 1)).y)) s)

/-- The A feed of the stripe in a slot reads its beat of this cycle, as a bank access by position 12 (R234, R235). -/
def State.feedA (s : State) (gk gs : Nat) : State :=
  match s.group? gk with
  | none => s
  | some g =>
    let ring := (s.slotPlace g gs).1
    let step (r : BlockRun) : BlockRun :=
      if gs < r.slot ∨ r.slot + r.size ≤ gs then r
      else
        let i := gs - r.slot
        let b := r.cyc - i
        let n := if r.op = 4 then 128 else if r.op ≤ 1 then r.len else 0
        if r.cyc < i ∨ n ≤ b then r
        else
          let o := r.aoff.getD i 0
          let w := if r.op = 4 then 16 else meBeta r.fmt
          let per := 32 / meK r.fmt
          let scale := if r.op = 1 ∧ b % per = 0 then s.bytes (poolKey ring (o + 8 * (b / per))) 8 else (r.afeed.getD i ([], [])).2
          let bytes := s.bytes (poolKey ring (o + r.span + b * w)) w
          let pad := r.afeed ++ List.replicate (r.size - r.afeed.length) ([], [])
          { r with afeed := lset pad i (bytes, scale) }
    s.setGroup gk { g with blocks := g.blocks.map step }

/-- Element i of a packed slice (R85, R234). -/
def packed (fmt : Nat) (slice : List Byte) (i : Nat) : Nat :=
  bitsOf (leNat slice) (meBits fmt * i + meBits fmt - 1) (meBits fmt * i)

/-- One accumulator value after a beat (R92, R93): `x` and `z` are the slices of its row and column. -/
def accStep (ftz : Bool) (r : BlockRun) (x z : List Byte) (ga gb : Byte) (acc : W32) : W32 :=
  let n := meK r.fmt
  if r.fmt = 7 ∨ r.fmt = 8 then
    let e (l : List Byte) (i : Nat) : Int := sextN (packed r.fmt l i) (meBits r.fmt)
    acc + w32 ((List.range n).map fun i => e x i * e z i).sum
  else
    let e (l : List Byte) (i : Nat) : FVal := readF ftz (meFmt r.fmt) (packed r.fmt l i)
    let sum := sumProds .rne ((List.range n).map fun i => (e x i, e z i))
    let sum := if r.op = 1 then
        (if ga = 0xFF#8 ∨ gb = 0xFF#8 then FVal.nan else scaleV ((ga.toNat : Int) - 127 + ((gb.toNat : Int) - 127)) sum)
      else sum
    BitVec.ofNat 32 (flush ftz .b32 (roundF .b32 false .rne (faddV .rne (readF ftz .b32 acc.toNat) sum)))

/-- What ME (i, j) of a run has at its inputs in this cycle: A bytes and row scales, B bytes and column scales (R77, R235). -/
def BlockRun.inputs (r : BlockRun) (s : State) (g : Group) (i j : Nat) : (List Byte × List Byte) × (List Byte × List Byte) :=
  let west := s.elem g (r.slot + i) (12 + j - 1)
  let north := s.elem g (r.slot + i - 1) (12 + j)
  let beta := meBeta r.fmt
  let fed := r.beats.getD (r.cyc - j) ([], [])
  (if j = 0 then r.afeed.getD i ([], []) else (west.ya, west.yaScale),
   if i = 0 then (slice fed.1 (j * beta) beta, slice fed.2 (8 * j) 8) else (north.yb, north.ybScale))

/-- Sets a run of accumulator values of bank `k` from index `n`. -/
def setAcc (k : Nat) (acc : Tab W32) : Nat → List W32 → Tab W32
  | _, [] => acc
  | n, v :: t => setAcc k (tset 0 acc (64 * k + n) v) (n + 1) t

/-- ME (i, j) of a run in this cycle, from the latches as the cycle began (R77, R232, R236, R239). -/
def BlockRun.act (r : BlockRun) (s : State) (g : Group) (i j : Nat) (e : Elem) : Elem :=
  if r.cyc < i + j then e
  else
    let b := r.cyc - i - j
    let ((ab, as), (bb, bs)) := r.inputs s g i j
    if r.op ≤ 1 then
      if r.len ≤ b then e
      else
        let beta := meBeta r.fmt
        let vals := (List.range 64).map fun n =>
          accStep g.img.ftz r (slice ab (n / 8 * (beta / 8)) (beta / 8)) (slice bb (n % 8 * (beta / 8)) (beta / 8))
            (as.getD (n / 8) 0) (bs.getD (n % 8) 0) (tget 0 e.acc (64 * r.acc + n))
        let e1 := { e with tag := tset 0 e.tag r.acc (BitVec.ofNat 8 r.fmt), acc := setAcc r.acc e.acc 0 vals, ya := ab, yaScale := as }
        if r.bout then e1 else { e1 with yb := bb, ybScale := bs }
    else if r.op = 4 then
      if 128 ≤ b then e
      else
        let vals := (List.range 4).map fun n => BitVec.ofNat 32 (field ab (4 * n) 4)
        let e1 := { e with ya := ab, tag := tset 0 e.tag r.acc 0, exp := tset 0 e.exp r.acc 0 }
        if b / 16 = j then { e1 with acc := setAcc r.acc e.acc (4 * (b % 16)) vals } else e1
    else if b ≠ 0 then e
    else if r.op = 2 then
      { e with acc := setAcc r.acc e.acc 0 (List.replicate 64 0), tag := tset 0 e.tag r.acc 0, exp := tset 0 e.exp r.acc 0 }
    else if r.op = 5 then { e with exp := tset 0 e.exp r.acc (r.imm.signExtend 16) }
    else e

/-- The drained row that passes through yb of ME (i, j) on its way south in this cycle (R77, R237; log 12). -/
def BlockRun.southRow (r : BlockRun) (s : State) (g : Group) (i j : Nat) (e : Elem) : Elem :=
  let at_ := r.cyc + (r.size - 1 - i)
  if (r.drains ∨ r.op = 3) ∧ i + 1 < r.size ∧ r.drainAt ≤ at_ ∧ at_ < r.drainAt + 8 * (i + 1) then
    let n := at_ - r.drainAt
    let src := s.elem g (r.slot + n / 8) (12 + j)
    { e with yb := ((List.range 8).map fun c => leBytes 4 (tget 0 src.acc (64 * r.acc + 8 * (n % 8) + c)).toNat).flatten }
  else e

/-- Markers attach to an item wherever it is: in a slot, in the wrap buffer or on a die crossing (R245). -/
def State.giveMarks (s : State) (gk item : Nat) (ms : List Nat) : State :=
  if ms.isEmpty then s
  else
    match s.group? gk with
    | none => s
    | some g =>
      let give (it : Item) : Item := if it.n = item then { it with marks := it.marks ++ ms } else it
      let slot (st : State) (gs : Nat) : State := st.setSlot g gs { st.slot g gs with item := (st.slot g gs).item.map give }
      ((List.range (s.plen g)).foldl slot s).setGroup gk
        { g with wrap := g.wrap.map give, cross := g.cross.map fun x => (x.1, x.2.1, give x.2.2) }

/-- Consumes the B-feed words of a run's beat of this cycle (R234, R235). -/
def State.feedB (s : State) (gk idx : Nat) : State :=
  match s.group? gk with
  | none => s
  | some g =>
    match g.blocks[idx]? with
    | none => s
    | some r =>
      if 1 < r.op ∨ r.len ≤ r.cyc then s
      else
        match g.stripe? r.top with
        | none => s
        | some im =>
          match tfind im.pos 12 with
          | none => s
          | some pi =>
            let key := portKey r.top (pi.inp - 1)
            let n := r.beatWords r.cyc
            let void := match g.voidFrom with
              | some v => decide (v ≤ r.item) && !g.fresh.contains r.item
              | none => false
            let avail := match tfind g.ports key with
              | some p => s.deliverable g key p
              | none => 0
            let (ws, ms, s1) := if void then (List.replicate n 0#32, [], s) else s.takeWords gk key n
            let bytes := (ws.map fun w => leBytes 4 w.toNat).flatten
            let sc := if r.op = 1 ∧ r.cyc % (32 / meK r.fmt) = 0 then bytes.take 64 else (r.beats.getLast?.getD ([], [])).2
            let ops := bytes.drop (bytes.length - 8 * meBeta r.fmt)
            let r' := { r with beats := r.beats ++ [(ops, sc)], drains := r.drains && !void && decide (n ≤ avail) }
            match s1.group? gk with
            | none => s1
            | some g1 =>
              let s2 := s1.setGroup gk { g1 with blocks := lset g1.blocks idx r' }
              s2.giveMarks gk r.item ms

/-- Every ME of every block makes its part of this cycle, from the latches as the cycle began (R232, R236). -/
def State.blockCycle (s : State) (gk : Nat) : State :=
  match s.group? gk with
  | none => s
  | some g0 =>
    let s1 := (List.range g0.blocks.length).foldl (fun st i => st.feedB gk i) s
    match s1.group? gk with
    | none => s1
    | some g =>
      let me (r : BlockRun) (st : State) (n : Nat) : State :=
        let e := st.elem g (r.slot + n / 8) (12 + n % 8)
        let e' := r.southRow s1 g (n / 8) (n % 8) (r.act s1 g (n / 8) (n % 8) e)
        if e' = e then st else st.setElem g (r.slot + n / 8) (12 + n % 8) e'
      g.blocks.foldl (fun st r => (List.range (8 * r.size)).foldl (me r) st) s1

/-- Ends a cycle of the blocks: counts advance, and words that act no more are gone. -/
def Group.blockTick (g : Group) : Group :=
  { g with blocks := (g.blocks.map fun r => { r with cyc := r.cyc + 1 }).filter fun r => decide (r.cyc ≤ r.last) }

/-- The words of a drained row of a column (R237): values per word, and the width of a value. -/
def drainWidth (dfmt : Nat) : Nat := if dfmt = 0 then 32 else if dfmt ≤ 2 then 16 else 8

/-- A drained value (R238). -/
def drainValue (ftz : Bool) (tag : Nat) (e : Int) (dfmt : Nat) (sat : Bool) (v : W32) : Nat :=
  let fmt : Fmt := match dfmt with
    | 0 => .b32
    | 1 => .bf16
    | 2 => .f16
    | _ => .e4m3
  if tag = 7 ∨ tag = 8 then
    let x := scaleV e (intV v.toInt)
    let z := match x with
      | .fin n m q => roundInt .rne n (dyNum m q) (dyDen q)
      | .nan => 0
      | .inf _ => 0
    if dfmt = 0 then zextI (if sat then satInt true 32 z else z) 32
    else if dfmt = 3 then zextI (satInt true 8 z) 8
    else flush ftz fmt (roundF fmt sat .rne x)
  else
    let x := scaleV e (readF false .b32 v.toNat)
    if dfmt = 3 then zextI (convInt true 8 .rne x) 8 else flush ftz fmt (roundF fmt sat .rne x)

/-- ACC_DRAIN: each ME of the bottom stripe writes one row of the block's output tile; after the last row the bank is empty (R237). The words bear the
record tag that the run's item had at the issue (R243; log 113). -/
def State.drainRow (s : State) (gk idx : Nat) : State :=
  match s.group? gk with
  | none => s
  | some g =>
    match g.blocks[idx]? with
    | none => s
    | some r =>
      match r.row? with
      | none => s
      | some row =>
        let bot := r.slot + r.size - 1
        let v := r.top + r.size - 1
        let words (j : Nat) : List W32 :=
          let src := s.elem g (r.slot + row / 8) (12 + j)
          let e := (tget 0 src.exp r.acc).toInt
          let codes := (List.range 8).map fun c =>
            drainValue g.img.ftz (tget 0 src.tag r.acc).toNat e r.dfmt r.sat (tget 0 src.acc (64 * r.acc + 8 * (row % 8) + c))
          let all := joinLanes (drainWidth r.dfmt) codes
          (List.range (drainWidth r.dfmt / 4)).map fun n => BitVec.ofNat 32 (all / 2 ^ (32 * n))
        let out (j : Nat) : List WrKind :=
          match g.stripe? v with
          | some im =>
            match tfind im.pos (12 + j) with
            | some p => if p.outp = 0 then [] else (words j).map fun w => .out (portKey v (p.outp + 1)) w
            | none => []
          | none => []
        let wrs (j : Nat) : List Wr := (out j ++ [WrKind.y ((words j).headD 0)]).map fun k =>
          { late := false, due := 0, slot := bot, pos := 12 + j, ctx := 0, item := r.item, tag := r.tag, kind := k }
        -- an instruction of this cycle was issued later, and its write wins (R62)
        let s1 := s.setGroup gk { g with wq := ((List.range 8).map wrs).flatten ++ g.wq }
        if row + 1 = 8 * r.size then
          let zero (st : State) (n : Nat) : State :=
            let e := st.elem g (r.slot + n / 8) (12 + n % 8)
            st.setElem g (r.slot + n / 8) (12 + n % 8)
              { e with acc := setAcc r.acc e.acc 0 (List.replicate 64 0), tag := tset 0 e.tag r.acc 0, exp := tset 0 e.exp r.acc 0 }
          (List.range (8 * r.size)).foldl zero s1
        else s1

/-- ACC_DRAIN (R237). -/
def execAccDrain (g blk : Nat) (s : State) : Host.Outcome State Fault Refusal := .next (s.drainRow g blk)

end Sys2Proof.Machine
end

