-- ==== Sys2Proof/Machine/Records.lean ====
section
/-! DEFINITION. What a stripe leaves in and takes from its slot: PLOAD values, the records of stateful stripes, image blocks, and
constant updates (R42, R48, R49, R60, R66, R68, R69, R79, R188, R189). -/

namespace Sys2Proof.Machine

/-- The stripe image marks v stateful. -/
def Group.stateful (g : Group) (v : Nat) : Bool :=
  match g.stripe? v with
  | some im => im.stateful
  | none => false

/-- The phase scrolls on a group of length p (R35). -/
def Group.scrolls (g : Group) (p : Nat) : Bool := decide (p < g.img.v)

/-- Number of passes of a sweep (R35). -/
def Group.passes (g : Group) (p : Nat) : Nat := if p = 0 then 0 else ceilDiv g.img.v p

/-- The byte offset of v's record in the save carve (R49). -/
def Group.recOff (g : Group) (v : Nat) : Nat :=
  64 * ((g.img.stripes.take v).map fun im => if im.stateful then im.z else 0).sum

/-- The VE record of an element (R189). -/
def veRecord (bank : Nat) (e : Elem) : List Byte :=
  ((List.range 16).map fun i => leBytes 4 (tget 0 e.k i).toNat).flatten ++
  ((List.range 8).map fun i => leBytes 4 (tget 0 e.c (8 * bank + i)).toNat).flatten ++
  leBytes 4 e.y.toNat ++ leBytes 4 e.afcA.toNat ++
  leBytes 4 (e.afcI.toNat + e.base.toNat * 2 ^ 16 + e.q.toNat * 2 ^ 20) ++ List.replicate 20 0

/-- The ME record of an element (R189). -/
def meRecord (e : Elem) : List Byte :=
  ((List.range 256).map fun i => leBytes 4 (tget 0 e.acc i).toNat).flatten ++
  ((List.range 4).map fun b => leBytes 1 (tget 0 e.tag b).toNat ++ leBytes 2 (tget 0 e.exp b).toNat ++ List.replicate 5 0).flatten

/-- Puts values under consecutive keys. -/
def tfill (t : Tab W32) : Nat → List W32 → Tab W32
  | _, [] => t
  | n, v :: l => tfill (tset 0 t n v) (n + 1) l

/-- Words of a block of bytes. -/
def wordsOf (l : List Byte) (off n : Nat) : List W32 := (List.range n).map fun i => BitVec.ofNat 32 (field l (off + 4 * i) 4)

/-- Restores a VE from its record; what is saved as zero is ignored (R189). -/
def veRestore (bank : Nat) (l : List Byte) (e : Elem) : Elem :=
  let w := field l 104 4
  { e with k := tfill [] 0 (wordsOf l 0 16), c := tfill e.c (8 * bank) (wordsOf l 64 8), y := BitVec.ofNat 32 (field l 96 4),
           afcA := BitVec.ofNat 24 (field l 100 4), afcI := BitVec.ofNat 16 w, base := BitVec.ofNat 4 (w / 2 ^ 16),
           q := BitVec.ofNat 4 (w / 2 ^ 20) }

/-- Restores an ME from its record; y of every ME is 0 (R68). -/
def meRestore (l : List Byte) (e : Elem) : Elem :=
  { e with acc := tfill [] 0 (wordsOf l 0 256),
           tag := (List.range 4).foldl (fun t b => tset 0 t b (BitVec.ofNat 8 (field l (1024 + 8 * b) 1))) [],
           exp := (List.range 4).foldl (fun t b => tset 0 t b (BitVec.ofNat 16 (field l (1024 + 8 * b + 1) 2))) [] }

/-- The registers of R60 and R66 at their PLOAD values, the AFC from the set-up of a bank; context words and constants stay. -/
def Elem.fresh (e : Elem) (bank : Nat) : Elem :=
  { e with k := [], base := 0, y := 0, pass := 0, q := 0, afcA := (tget AfcSetup.zero e.setup bank).base, afcI := 0, acc := [],
           tag := [], exp := [], ya := [], yaScale := [], yb := [], ybScale := [] }

/-- The record of a stripe as its slot holds it (R69, R189). -/
def State.slotRecord (s : State) (g : Group) (gs : Nat) (im : StripeImg) (bank : Nat) : List Byte :=
  let one (p : Nat) : List Byte :=
    if im.smap.getLsbD p then (if isMe p then meRecord (s.elem g gs p) else veRecord bank (s.elem g gs p)) else []
  let l := ((List.range 32).map one).flatten
  l ++ List.replicate (64 * im.z - l.length) 0

/-- Offsets of the positions of a state map within a record. -/
def recPlaces (smap : W32) : List (Nat × Nat) :=
  ((List.range 32).foldl (fun (acc : List (Nat × Nat) × Nat) p =>
    if smap.getLsbD p then (acc.1 ++ [(p, acc.2)], acc.2 + if isMe p then 1056 else 128) else acc) ([], 0)).1

/-- The slot's elements take the values v starts with: PLOAD values, and for a position of a state map its record's (R42, R68). -/
def State.enterStripe (s : State) (g : Group) (gs : Nat) (bank : Nat) (record : Option (StripeImg × List Byte)) : State :=
  let places := match record with
    | some (im, _) => recPlaces im.smap
    | none => []
  let bytes := match record with
    | some (_, l) => l
    | none => []
  let one (st : State) (p : Nat) : State :=
    let e := (st.elem g gs p).fresh bank
    match places.find? fun x => x.1 == p with
    | some (_, off) =>
      st.setElem g gs p (if isMe p then meRestore (slice bytes off 1056) e else veRestore bank (slice bytes off 128) e)
    | none => st.setElem g gs p e
  (List.range 32).foldl one s

/-- The record of v in the save carve of the group's first ring (R49, R57). -/
def State.savedRecord (s : State) (g : Group) (v : Nat) : List Byte :=
  match g.stripe? v with
  | some im => s.bytes (poolKey g.first (saveBase g.carve + g.recOff v)) (64 * im.z)
  | none => []

/-- The leader of a position's gang (R75, R188). -/
def leaderOf (gmap : W32) : Nat → Nat
  | 0 => 0
  | p + 1 => if gmap.getLsbD (p + 1) then leaderOf gmap p else p + 1

/-- The members of the gang that a leader heads, itself first. -/
def gangOf (gmap : W32) : Nat → Nat → List Nat
  | 0, p => [p]
  | n + 1, p => if p < 31 ∧ gmap.getLsbD (p + 1) then p :: gangOf gmap n (p + 1) else [p]

/-- The key of a constant in a group's override table: stripe, leader position, index (R391). -/
def overKey (v pos idx : Nat) : Nat := v + pos * 2 ^ 16 + idx * 2 ^ 21

/-- Block k of v's image enters a bank of its slot: block 0 clears the bank first, and constants carry the updates applied so far
(R46, R79, R188). -/
def State.loadBlock (s : State) (g : Group) (gs v bank k : Nat) : State :=
  match g.stripe? v with
  | none => s
  | some im =>
    let one (st : State) (p : Nat) : State :=
      let e0 := st.elem g gs p
      let e1 := if k = 0 then
          { e0 with ctx := e0.ctx.filter (fun x => g.scrolls (s.plen g) && x.1 / 16 != bank),
                    c := e0.c.filter (fun x => x.1 / 8 != bank), setup := tdel e0.setup bank }
        else e0
      match tfind im.pos p with
      | none => st.setElem g gs p e1
      | some pi =>
        let inBlock (off : Nat) : Bool := off / 64 == k
        let ctx := (List.range pi.words.length).foldl (fun t i =>
          if inBlock (pi.wordsAt + 4 * i) then tset 0 t (16 * bank + i) (pi.words.getD i 0) else t) e1.ctx
        let lead := leaderOf im.gmap p
        let cs := match pi.consts with
          | none => e1.c
          | some l => (List.range 8).foldl (fun t i =>
              if inBlock (pi.constsAt + 4 * i) then tset 0 t (8 * bank + i) (tget (l.getD i 0) g.overlay (overKey v lead i)) else t) e1.c
        let cs := if pi.consts.isNone && k + 1 == im.nblk then
            (List.range 8).foldl (fun t i => tset 0 t (8 * bank + i) (tget 0 g.overlay (overKey v lead i))) cs else cs
        let af := match pi.afc with
          | none => e1.setup
          | some a => if inBlock pi.afcAt then tput e1.setup bank a else e1.setup
        st.setElem g gs p { e1 with ctx := ctx, c := cs, setup := af }
    (List.range 32).foldl one s

/-- A constant update reaches its stripe: every gang member's constant in the active bank and the SCR's copy change; a full override
table is a phase fault (R79, R281, R391). -/
def State.applyUpd (s : State) (gk gs : Nat) (u : CsetUpd) : State :=
  match s.group? gk with
  | none => s
  | some g =>
    let v := u.target.toNat % 2 ^ 16
    let pos := u.target.toNat / 2 ^ 16 % 32
    let idx := u.target.toNat / 2 ^ 21 % 8
    match g.stripe? v with
    | none => s
    | some im =>
      let lead := leaderOf im.gmap pos
      let key := overKey v lead idx
      let g1 := { g with upds := g.upds.erase u }
      if (tfind g.overlay key).isNone ∧ 1024 ≤ g.overlay.length then
        (s.setGroup gk g1).phaseFault gk 7 { gslot := gs, vs := v, pos := pos, ctx := 0 } (u.target.setWidth 64)
      else
        let bank := if (s.slot g gs).bank then 1 else 0
        let s1 := (gangOf im.gmap 8 lead).foldl (fun st p =>
          let e := st.elem g gs p
          st.setElem g gs p { e with c := tset 0 e.c (8 * bank + idx) u.val }) s
        (s1.setGroup gk { g1 with overlay := tput g1.overlay key u.val }).updRec g.issuer g.serial fun q => { q with csets := q.csets + 1 }

/-- Does a slot that an item reaches switch to the item's stripe only at this cycle boundary (R41, R43)? -/
def State.switching (s : State) (g : Group) (gs : Nat) (it : Item) : Bool :=
  let sl := s.slot g gs
  let p := s.plen g
  g.scrolls p && (decide (sl.v ≠ some (it.pass * p + gs)) || sl.sweep != g.sweep)

/-- The updates of the markers that items carry are applied where those items stand, before they execute there: in a slot that has yet to switch, at the
switch (R79, R245). -/
def State.applyMarks (s : State) (gk : Nat) : State :=
  match s.group? gk with
  | none => s
  | some g =>
    let due (gs : Nat) : List (Nat × CsetUpd) :=
      let sl := s.slot g gs
      match sl.item, sl.v with
      | some it, some v =>
        if s.switching g gs it then []
        else
        (g.upds.filter fun u => u.target.toNat % 2 ^ 16 == v && (match u.mark with
          | some m => it.marks.contains m
          | none => false)).map fun u => (gs, u)
      | _, _ => []
    if g.upds.isEmpty then s
    else (((List.range (s.plen g)).map due).flatten).foldl (fun st x => st.applyUpd gk x.1 x.2) s

end Sys2Proof.Machine
end

