-- ==== Sys2Proof/Machine/VePort.lean ====
section
/-! DEFINITION. The port words of a VE (R229). -/

namespace Sys2Proof.Machine

/-- emit writes X to the bound output port (R229). -/
def execEmit (a _b _d : BitVec 5) (g : BitVec 2) (s : State) : Host.Outcome State Fault Refusal :=
  .next (veWord g [a] (fun o st =>
    match o.w.outKey with
    | some key => o.w.queue false 0 (.out key (o.get a)) st
    | none => st) s)

/-- How many words a dropw discards (R229). -/
def dropCount (x : W32) : Nat := min x.toNat 32

/-- dropw discards words as a read would (R229). -/
def execDropw (a _b _d : BitVec 5) (g : BitVec 2) (s : State) : Host.Outcome State Fault Refusal :=
  .next (veWord g [a] (fun o st => (o.w.takeIn (dropCount (o.get a)) st).2) s)

/-- The bound input port of an element. -/
def View.inPort (w : View) : Option Port :=
  match w.inKey with
  | some key => tfind w.grp.ports key
  | none => none

/-- pcnt: the port's words delivered as the cycle began and credited ahead of the reading item (R229). -/
def execPcnt (_a _b d : BitVec 5) (g : BitVec 2) (s : State) : Host.Outcome State Fault Refusal :=
  .next (veValue g [] d (fun o =>
    match o.w.inPort with
    | some p => BitVec.ofNat 32 (p.countAt + p.creditedBefore o.w.item.n)
    | none => 0) s)

/-- eos: no word remains at a port that has reached end of stream (R229); a void item's waits like any other's (log 113). -/
def execEos (_a _b : BitVec 5) (q g : BitVec 2) (s : State) : Host.Outcome State Fault Refusal :=
  .next (veFlag g [] q.toNat (fun o =>
    match o.w.inPort with
    | some p => p.heldAt == 0
    | none => true) s)

end Sys2Proof.Machine
end

