-- ==== Sys2Proof/Machine/VePred.lean ====
section
/-! DEFINITION. Compares, predicate logic, selection, clamping, gates and steers (R214, R217 to R219, R240 to R242). -/

namespace Sys2Proof.Machine

/-- A compare (R217). -/
def veCompare (rel : Rel) (t : BitVec 4) (a b : BitVec 5) (q g : BitVec 2) (s : State) : State :=
  veFlag g [a, b] q.toNat (fun o => compareFlag rel o.w.ftz t.toNat (o.get a) (o.get b)) s

/-- cmp.eq. -/
def execCmpEq (t : BitVec 4) (a b : BitVec 5) (q g : BitVec 2) (s : State) : Host.Outcome State Fault Refusal :=
  .next (veCompare .eq t a b q g s)

/-- cmp.ne. -/
def execCmpNe (t : BitVec 4) (a b : BitVec 5) (q g : BitVec 2) (s : State) : Host.Outcome State Fault Refusal :=
  .next (veCompare .ne t a b q g s)

/-- cmp.lt. -/
def execCmpLt (t : BitVec 4) (a b : BitVec 5) (q g : BitVec 2) (s : State) : Host.Outcome State Fault Refusal :=
  .next (veCompare .lt t a b q g s)

/-- cmp.le. -/
def execCmpLe (t : BitVec 4) (a b : BitVec 5) (q g : BitVec 2) (s : State) : Host.Outcome State Fault Refusal :=
  .next (veCompare .le t a b q g s)

/-- cmp.gt. -/
def execCmpGt (t : BitVec 4) (a b : BitVec 5) (q g : BitVec 2) (s : State) : Host.Outcome State Fault Refusal :=
  .next (veCompare .gt t a b q g s)

/-- cmp.ge. -/
def execCmpGe (t : BitVec 4) (a b : BitVec 5) (q g : BitVec 2) (s : State) : Host.Outcome State Fault Refusal :=
  .next (veCompare .ge t a b q g s)

/-- cmp.un: either value of a lane is a NaN, in every lane. -/
def execCmpUn (t : BitVec 4) (a b : BitVec 5) (q g : BitVec 2) (s : State) : Host.Outcome State Fault Refusal :=
  .next (veCompare .un t a b q g s)

/-- plog (R218). -/
def execPlog (f : BitVec 3) (a b q g : BitVec 2) (s : State) : Host.Outcome State Fault Refusal :=
  .next (veFlag g [] q.toNat (fun o => plogFlag f.toNat (o.w.el.q.getLsbD a.toNat) (o.w.el.q.getLsbD b.toNat)) s)

/-- sel: both operands are read (R219). -/
def execSel (p : BitVec 2) (a b d : BitVec 5) (g : BitVec 2) (s : State) : Host.Outcome State Fault Refusal :=
  .next (veValue g [a, b] d (fun o => if o.w.el.q.getLsbD p.toNat then o.get a else o.get b) s)

/-- clamp: min(max(x, z), w) (R214). -/
def execClamp (t : BitVec 4) (a b d : BitVec 5) (g : BitVec 2) (s : State) : Host.Outcome State Fault Refusal :=
  .next (veOp2 g a b d (fun _ x z w => intLanes t.toNat false (fun i j k => min (max i j) k) x z w) s)

/-- gate: does the bound input port offer a record in this item time (R241)? -/
def View.offered (w : View) : Bool :=
  match w.inKey with
  | some key =>
    match tfind w.grp.ports key with
    | some p => p.offer.isSome && !w.void
    | none => false
  | none => false

def execGate (q g : BitVec 2) (s : State) : Host.Outcome State Fault Refusal :=
  .next (veFlag g [] q.toNat (fun o => o.w.offered) s)

/-- steer: A goes to O0 or, if q[N] is 1, to O1 (R242). -/
def execSteer (a : BitVec 5) (q : BitVec 2) (s : State) : Host.Outcome State Fault Refusal :=
  .next (veWord 0 [a] (fun o st =>
    o.w.queue false 0 (.out (portKey o.w.v (if o.w.el.q.getLsbD q.toNat then 3 else 2)) (o.get a)) st) s)

end Sys2Proof.Machine
end

