-- ==== Sys2Proof/Machine/Fabric.lean ====
section
/-! DEFINITION. The cycle of a ring group: what each word will ask of ports and banks, the freeze wire, the landing of writes, item
times, admission, the SCR's jobs and the switches (R34 to R59, R61 to R65, R135, R141 to R147, R243). -/

namespace Sys2Proof.Machine

/-- The source fields that a VE word reads (R185). -/
def elemSrcs : Instr → List (BitVec 5)
  | .mov a _ _ _ => [a]
  | .veAdd _ a b _ _ _ => [a, b]
  | .veSub _ a b _ _ _ => [a, b]
  | .veMul _ a b _ _ _ => [a, b]
  | .veMulh _ a b _ _ => [a, b]
  | .mad _ a b _ _ _ => [a, b]
  | .veMin _ a b _ _ => [a, b]
  | .veMax _ a b _ _ => [a, b]
  | .abs _ a _ _ _ _ => [a]
  | .neg _ a _ _ _ _ => [a]
  | .veAnd a b _ _ => [a, b]
  | .veOr a b _ _ => [a, b]
  | .veXor a b _ _ => [a, b]
  | .veAndn a b _ _ => [a, b]
  | .not a _ _ _ => [a]
  | .shl _ a b _ _ _ => [a, b]
  | .shr _ a b _ _ => [a, b]
  | .rol _ a b _ _ => [a, b]
  | .veClz _ a _ _ _ => [a]
  | .vePopc _ a _ _ _ => [a]
  | .avg _ a b _ _ => [a, b]
  | .veAddi _ a _ _ => [a]
  | .cmpEq _ a b _ _ => [a, b]
  | .cmpNe _ a b _ _ => [a, b]
  | .cmpLt _ a b _ _ => [a, b]
  | .cmpLe _ a b _ _ => [a, b]
  | .cmpGt _ a b _ _ => [a, b]
  | .cmpGe _ a b _ _ => [a, b]
  | .cmpUn _ a b _ _ => [a, b]
  | .sel _ a b _ _ => [a, b]
  | .clamp _ a b _ _ => [a, b]
  | .steer a _ => [a]
  | .fadd _ a b _ _ _ _ => [a, b]
  | .fsub _ a b _ _ _ _ => [a, b]
  | .fmul _ a b _ _ _ _ => [a, b]
  | .fma _ a b _ _ _ _ => [a, b]
  | .fms _ a b _ _ _ _ => [a, b]
  | .fmin _ a b _ _ => [a, b]
  | .fmax _ a b _ _ => [a, b]
  | .fabs _ a _ _ _ => [a]
  | .fneg _ a _ _ _ => [a]
  | .frnd _ a _ _ _ _ => [a]
  | .fclamp _ a b _ _ => [a, b]
  | .cvt _ a _ _ _ _ _ _ => [a]
  | .pack _ a b _ _ _ _ _ => [a, b]
  | .unpklo _ a _ _ _ => [a]
  | .unpkhi _ a _ _ _ => [a]
  | .exp2 a _ _ _ _ => [a]
  | .log2 a _ _ _ _ => [a]
  | .rcp a _ _ _ _ => [a]
  | .rsq a _ _ _ _ => [a]
  | .tanh a _ _ _ _ => [a]
  | .dot _ a b _ _ _ _ => [a, b]
  | .dotx a b _ _ _ => [a, b]
  | .ldb a _ _ _ => [a]
  | .stb a b _ _ => [a, b]
  | .stbi a _ _ => [a]
  | .atadd a b _ _ => [a, b]
  | .atmin _ a b _ _ => [a, b]
  | .atmax _ a b _ _ => [a, b]
  | .atxchg a b _ _ => [a, b]
  | .atcas a b _ _ => [a, b]
  | .ldt a _ _ _ => [a]
  | .stt a b _ _ => [a, b]
  | .emit a _ _ _ => [a]
  | .dropw a _ _ _ => [a]
  | _ => []

/-- The gate field of a format E word; EI and EM words always execute (R63, R181). -/
def elemGate : Instr → BitVec 2
  | .mov _ _ _ g => g
  | .veAdd _ _ _ _ g _ => g
  | .veSub _ _ _ _ g _ => g
  | .veMul _ _ _ _ g _ => g
  | .veMulh _ _ _ _ g => g
  | .mad _ _ _ _ g _ => g
  | .veMin _ _ _ _ g => g
  | .veMax _ _ _ _ g => g
  | .abs _ _ _ _ g _ => g
  | .neg _ _ _ _ g _ => g
  | .veAnd _ _ _ g => g
  | .veOr _ _ _ g => g
  | .veXor _ _ _ g => g
  | .veAndn _ _ _ g => g
  | .not _ _ _ g => g
  | .shl _ _ _ _ g _ => g
  | .shr _ _ _ _ g => g
  | .rol _ _ _ _ g => g
  | .veClz _ _ _ _ g => g
  | .vePopc _ _ _ _ g => g
  | .avg _ _ _ _ g => g
  | .cmpEq _ _ _ _ g => g
  | .cmpNe _ _ _ _ g => g
  | .cmpLt _ _ _ _ g => g
  | .cmpLe _ _ _ _ g => g
  | .cmpGt _ _ _ _ g => g
  | .cmpGe _ _ _ _ g => g
  | .cmpUn _ _ _ _ g => g
  | .plog _ _ _ _ g => g
  | .sel _ _ _ _ g => g
  | .clamp _ _ _ _ g => g
  | .gate _ g => g
  | .fadd _ _ _ _ g _ _ => g
  | .fsub _ _ _ _ g _ _ => g
  | .fmul _ _ _ _ g _ _ => g
  | .fma _ _ _ _ g _ _ => g
  | .fms _ _ _ _ g _ _ => g
  | .fmin _ _ _ _ g => g
  | .fmax _ _ _ _ g => g
  | .fabs _ _ _ _ g => g
  | .fneg _ _ _ _ g => g
  | .frnd _ _ _ _ g _ => g
  | .fclamp _ _ _ _ g => g
  | .cvt _ _ _ _ g _ _ _ => g
  | .pack _ _ _ _ g _ _ _ => g
  | .unpklo _ _ _ _ g => g
  | .unpkhi _ _ _ _ g => g
  | .exp2 _ _ _ g _ => g
  | .log2 _ _ _ g _ => g
  | .rcp _ _ _ g _ => g
  | .rsq _ _ _ g _ => g
  | .tanh _ _ _ g _ => g
  | .dot _ _ _ _ g _ _ => g
  | .dotx _ _ _ g _ => g
  | .ldb _ _ _ g => g
  | .stb _ _ _ g => g
  | .atadd _ _ _ g => g
  | .atmin _ _ _ _ g => g
  | .atmax _ _ _ _ g => g
  | .atxchg _ _ _ g => g
  | .atcas _ _ _ g => g
  | .ldt _ _ _ g => g
  | .stt _ _ _ g => g
  | .emit _ _ _ g => g
  | .dropw _ _ _ g => g
  | .pcnt _ _ _ g => g
  | .eos _ _ _ g => g
  | _ => 0

/-- A bank load or atomic, whose value is written four cycles on (R227): its d field. -/
def elemLate : Instr → Option (BitVec 5)
  | .ldb _ _ d _ => some d
  | .ldbi _ _ d => some d
  | .atadd _ _ d _ => some d
  | .atmin _ _ _ d _ => some d
  | .atmax _ _ _ d _ => some d
  | .atxchg _ _ d _ => some d
  | .atcas _ _ d _ => some d
  | .ldt _ _ d _ => some d
  | _ => none

/-- The d field of a word that produces a value at the end of its cycle (R73). -/
def elemDst : Instr → Option (BitVec 5)
  | .mov _ _ d _ => some d
  | .veAdd _ _ _ d _ _ => some d
  | .veSub _ _ _ d _ _ => some d
  | .veMul _ _ _ d _ _ => some d
  | .veMulh _ _ _ d _ => some d
  | .mad _ _ _ d _ _ => some d
  | .veMin _ _ _ d _ => some d
  | .veMax _ _ _ d _ => some d
  | .abs _ _ _ d _ _ => some d
  | .neg _ _ _ d _ _ => some d
  | .veAnd _ _ d _ => some d
  | .veOr _ _ d _ => some d
  | .veXor _ _ d _ => some d
  | .veAndn _ _ d _ => some d
  | .not _ _ d _ => some d
  | .shl _ _ _ d _ _ => some d
  | .shr _ _ _ d _ => some d
  | .rol _ _ _ d _ => some d
  | .veClz _ _ _ d _ => some d
  | .vePopc _ _ _ d _ => some d
  | .avg _ _ _ d _ => some d
  | .veAddi _ _ _ d => some d
  | .movi _ _ d => some d
  | .sel _ _ _ d _ => some d
  | .clamp _ _ _ d _ => some d
  | .fadd _ _ _ d _ _ _ => some d
  | .fsub _ _ _ d _ _ _ => some d
  | .fmul _ _ _ d _ _ _ => some d
  | .fma _ _ _ d _ _ _ => some d
  | .fms _ _ _ d _ _ _ => some d
  | .fmin _ _ _ d _ => some d
  | .fmax _ _ _ d _ => some d
  | .fabs _ _ _ d _ => some d
  | .fneg _ _ _ d _ => some d
  | .frnd _ _ _ d _ _ => some d
  | .fclamp _ _ _ d _ => some d
  | .cvt _ _ _ d _ _ _ _ => some d
  | .pack _ _ _ d _ _ _ _ => some d
  | .unpklo _ _ _ d _ => some d
  | .unpkhi _ _ _ d _ => some d
  | .exp2 _ _ d _ _ => some d
  | .log2 _ _ d _ _ => some d
  | .rcp _ _ d _ _ => some d
  | .rsq _ _ d _ _ => some d
  | .tanh _ _ d _ _ => some d
  | .dot _ _ _ d _ _ _ => some d
  | .dotx _ _ d _ _ => some d
  | .pcnt _ _ d _ => some d
  | _ => none

/-- The offset of a word's bank access, if it makes one (R226, R228): a gated-off word makes none, nor does a void item's store. -/
def elemBank (w : View) (s : State) (i : Instr) : Option Nat :=
  let x (a : BitVec 5) : W32 := w.src s 0 a
  match i with
  | .ldb a _ _ _ => some (w.offA (x a))
  | .ldt a _ _ _ => some (w.offT (x a))
  | .ldbi _ i _ => some (w.offI i)
  | .stb a _ _ _ => if w.void then none else some (w.offA (x a))
  | .stt a _ _ _ => if w.void then none else some (w.offT (x a))
  | .stbi _ i _ => if w.void then none else some (w.offI i)
  | .atadd a _ _ _ => if w.void then none else some (w.offA (x a))
  | .atmin _ a _ _ _ => if w.void then none else some (w.offA (x a))
  | .atmax _ a _ _ _ => if w.void then none else some (w.offA (x a))
  | .atxchg a _ _ _ => if w.void then none else some (w.offA (x a))
  | .atcas a _ _ _ => if w.void then none else some (w.offA (x a))
  | _ => none

/-- The instruction that a position of a slot holds at the present context index (R37): a stored word that is no instruction does
nothing, which only a debug write can bring about. -/
def State.wordAt (s : State) (g : Group) (gs pos : Nat) : Instr :=
  let sl := s.slot g gs
  let ci := (if sl.bank then 16 else 0) + (if g.img.ii = 0 then 0 else g.t % g.img.ii)
  match decodeElem (tget 0 (s.elem g gs pos).ctx ci) with
  | .ok i => i
  | .error _ => .nop

/-- The elements that execute a word in this cycle, in ascending slot and position order (R54). -/
def State.active (s : State) (gk : Nat) : List (View × Instr) :=
  match s.group? gk with
  | none => []
  | some g =>
    if !g.started then []
    else
      let slotOps (gs : Nat) : List (View × Instr) :=
        if (s.slot g gs).item.isNone then []
        else (List.range 32).filterMap fun p =>
          let i := s.wordAt g gs p
          if i = .nop then none
          else
            match State.view { s with ep := { g := gk, slot := gs, pos := p } } with
            | some w => if gateOpen w.el.q (elemGate i) then some (w, i) else none
            | none => none
      ((List.range (s.plen g)).map slotOps).flatten

/-- Words that this cycle asks of an input port: the port, the count and the reading item. -/
structure InNeed where
  key : Nat
  n : Nat
  item : Nat
  deriving DecidableEq, Repr

/-- Words that this cycle writes to an output port: the port, the count and the item's tag. -/
structure OutNeed where
  key : Nat
  n : Nat
  tag : Option (BitVec 16)
  deriving DecidableEq, Repr

/-- What one word asks of its input port (R72, R229). -/
def inNeed (s : State) (x : View × Instr) : List InNeed :=
  let (w, i) := x
  match w.inKey with
  | none => []
  | some key =>
    if w.void then []
    else
      let n := match i with
        | .dropw a _ _ _ => dropCount (w.src s 0 a)
        | _ => if (elemSrcs i).contains 30#5 then 1 else 0
      if n = 0 then [] else [{ key := key, n := n, item := w.item.n }]

/-- The first beat's words of a word that issues to its block in this cycle (R232, R234). -/
def issueNeed (x : View × Instr) : List InNeed :=
  let (w, i) := x
  if w.pos ≠ 12 ∨ w.void ∨ w.grp.blockTop w.v ≠ w.v ∨ w.grp.blockBusy w.v then []
  else
    match w.inKey, i with
    | some key, .mma f _ _ _ _ _ _ _ _ => [{ key := key, n := 8 * meBeta f.toNat / 4, item := w.item.n }]
    | some key, .mmx f _ _ _ _ _ _ _ _ => [{ key := key, n := 8 * meBeta f.toNat / 4 + 16, item := w.item.n }]
    | _, _ => []

/-- An item is void (R141). -/
def Group.isVoid (g : Group) (n : Nat) : Bool :=
  match g.voidFrom with
  | some v => decide (v ≤ n)
  | none => false

/-- What the runs in progress ask of their B-feed ports (R234). -/
def runNeed (g : Group) (r : BlockRun) : List InNeed :=
  if 1 < r.op ∨ r.len ≤ r.cyc ∨ g.isVoid r.item then []
  else
    match g.stripe? r.top with
    | some im =>
      match tfind im.pos 12 with
      | some p => [{ key := portKey r.top (p.inp - 1), n := r.beatWords r.cyc, item := r.item }]
      | none => []
    | none => []

/-- What one word writes to a port at the end of this cycle (R73, R229, R242). -/
def outNeed (x : View × Instr) : List OutNeed :=
  let (w, i) := x
  if w.void then []
  else
    let one (key : Option Nat) : List OutNeed :=
      match key with
      | some k => [{ key := k, n := 1, tag := w.item.tag }]
      | none => []
    match i with
    | .emit _ _ _ _ => one w.outKey
    | .steer _ q => [{ key := portKey w.v (if w.el.q.getLsbD q.toNat then 3 else 2), n := 1, tag := w.item.tag }]
    | _ => if elemDst i = some 17#5 then one w.outKey else []

/-- Late results that land in this cycle (R227). -/
def lateNeed (g : Group) : List OutNeed :=
  g.wq.filterMap fun e =>
    if e.late ∧ e.due = 0 ∧ !g.isVoid e.item then
      match e.kind with
      | .out key _ => some { key := key, n := 1, tag := e.tag }
      | .y _ => none
      | .k _ _ => none
      | .q _ _ => none
    else none

/-- The words of a drained row at each port (R237). -/
def drainNeed (g : Group) (r : BlockRun) : List OutNeed :=
  if r.row?.isNone ∨ g.isVoid r.item then []
  else
    let v := r.top + r.size - 1
    match g.stripe? v with
    | none => []
    | some im => (List.range 8).filterMap fun j =>
        match tfind im.pos (12 + j) with
        | some p => if p.outp = 0 then none else some { key := portKey v (p.outp + 1), n := drainWidth r.dfmt / 4, tag := r.tag }
        | none => none

/-- The needs of one cycle, summed over each port. -/
def sumIn (l : List InNeed) : List InNeed :=
  l.foldl (fun acc x =>
    match acc.findIdx? fun y => y.key == x.key with
    | some i => acc.modify i fun y => { y with n := y.n + x.n }
    | none => acc ++ [x]) []

def sumOut (l : List OutNeed) : List OutNeed :=
  l.foldl (fun acc x =>
    match acc.findIdx? fun y => y.key == x.key && y.tag == x.tag with
    | some i => acc.modify i fun y => { y with n := y.n + x.n }
    | none => acc ++ [x]) []

/-- Why the freeze wire is held (R53): `merge` stands for an arm write that a merge without its head record refuses (R147). -/
inductive Cause where
  | deliver
  | accept
  | merge (key : Nat)
  | agFault
  | bank
  deriving DecidableEq, Repr

/-- An AG or a Cairn comparator of the group waits for a page request (R53): that the comparator's holds the freeze wire too is log 113. -/
def State.agHeld (s : State) (g : Group) : Bool :=
  ((List.range g.k).any fun i => (s.ring (g.first + i)).ags.any fun a => a.2.fault.isSome) ||
  g.cairns.any (·.held)

/-- All input needs of this cycle, by port. -/
def State.inNeeds (s : State) (gk : Nat) (g : Group) : List InNeed :=
  let act := s.active gk
  sumIn ((act.map (inNeed s)).flatten ++ (act.map issueNeed).flatten ++ (g.blocks.map (runNeed g)).flatten)

/-- The words of a need at a port that feeds no merge share its room whatever their tags (R135). -/
def Group.pooled (g : Group) (x : OutNeed) : OutNeed :=
  match tfind g.ports x.key with
  | some p => if g.feedKind x.key p = .merge then x else { x with tag := none }
  | none => x

/-- All output needs of this cycle, by port, and by tag where the port feeds a merge. -/
def State.outNeeds (s : State) (gk : Nat) (g : Group) : List OutNeed :=
  sumOut ((((s.active gk).map outNeed).flatten ++ lateNeed g ++ (g.blocks.map (drainNeed g)).flatten).map g.pooled)

/-- An input port lacks words that this cycle needs. -/
def State.lacks (s : State) (g : Group) (x : InNeed) : Bool :=
  match tfind g.ports x.key with
  | some p => !g.gated (x.key / 4) (x.key % 4) && decide (s.deliverable g x.key p < x.n)
  | none => false

/-- The port has its end-of-stream mark. -/
def State.markAt (s : State) (g : Group) (key : Nat) : Bool :=
  match tfind g.ports key with
  | some p => s.eosMark g key p
  | none => true

/-- The eos words that must still wait (R229): a void item's wait too, so that what they write does not depend on arrival times (log 113). -/
def eosWaits (s : State) (x : View × Instr) : Bool :=
  match x.2 with
  | .eos _ _ _ _ =>
    match x.1.inKey with
    | some key =>
      match tfind x.1.grp.ports key with
      | some p => (s.inWords x.1.grp key p).isEmpty && !s.eosMark x.1.grp key p
      | none => false
    | none => false
  | _ => false

/-- The causes that hold the freeze wire in this cycle, but for bank conflicts (R53). -/
def State.causes (s : State) (gk : Nat) (g : Group) : List Cause :=
  let ins := (s.inNeeds gk g).filterMap fun x => if s.lacks g x && !s.markAt g x.key then some Cause.deliver else none
  let eos := if (s.active gk).any (eosWaits s) then [Cause.deliver] else []
  let outs := (s.outNeeds gk g).filterMap fun x =>
    match tfind g.ports x.key with
    | none => none
    | some p =>
      if x.n ≤ s.outSpace g x.key p x.tag then none
      else
        match p.kind with
        | .pool off _ =>
          match g.fedBy off with
          | some (k, ip) => if g.merges (k / 4) && (tfind ip.win ip.head.toNat).isNone then some (Cause.merge k) else some Cause.accept
          | none => some Cause.accept
        | .ag _ _ => some Cause.accept
        | .camp _ _ _ => some Cause.accept
        | .chain _ _ => some Cause.accept
        | .token _ => some Cause.accept
  (if s.agHeld g then [Cause.agFault] else []) ++ ins ++ eos ++ outs

/-- A job of a ring's SCR (R46): the slot it serves, and the switch it belongs to, by sweep, pass and slot. -/
inductive JobKind where
  | first
  | load
  | save
  | restore
  deriving DecidableEq, Repr

structure Job where
  gs : Nat
  kind : JobKind
  sweep : Nat
  pass : Nat
  deriving DecidableEq, Repr

/-- The order of R46: sweep, pass, slot, then load, save, restore. -/
def Job.rank (j : Job) : List Nat :=
  [j.sweep, j.pass, j.gs, match j.kind with
    | .first => 0
    | .load => 1
    | .save => 2
    | .restore => 3]

/-- Lexicographic order. -/
def lexLt : List Nat → List Nat → Bool
  | [], [] => false
  | [], _ :: _ => true
  | _ :: _, [] => false
  | a :: s, b :: t => if a < b then true else if b < a then false else lexLt s t

/-- The sweep and pass of the switch that a slot waits for. -/
def Slot.target (sl : Slot) (p : Nat) : Nat × Nat :=
  match sl.next, sl.v with
  | some n, some v => (if v < n then sl.sweep else sl.sweep + 1, if p = 0 then 0 else n / p)
  | some n, none => (sl.sweep, if p = 0 then 0 else n / p)
  | none, some v => (sl.sweep, if p = 0 then 0 else v / p)
  | none, none => (sl.sweep, 0)

/-- The eligible jobs of a slot (R46, R50, R51). -/
def Slot.jobs (sl : Slot) (gs p : Nat) (scrolls : Bool) : List Job :=
  let (sw, pa) := sl.target p
  let mk (k : JobKind) : Job := { gs := gs, kind := k, sweep := sw, pass := pa }
  (if sl.st = .load then [mk .first] else []) ++
  (if scrolls && sl.next.isSome && decide (sl.shadow ≠ .ready) && decide (sl.st ≠ .load) then [mk .load] else []) ++
  (if sl.st = .save then [mk .save] else []) ++
  (if sl.st = .restore then [mk .restore] else [])

/-- The group slots that a ring of the group holds (R35). -/
def State.slotsOf (s : State) (g : Group) (r : Nat) : List Nat :=
  (List.range (s.plen g)).filter fun gs => (s.slotPlace g gs).1 == r

/-- The items that the phase has admitted or been credited (R36, R40). -/
def Group.counted (g : Group) : Nat := g.admitted + g.credited

/-- No further item will come from the input ports: the count is met or an item is void (R36, R40, R141). -/
def Group.final (g : Group) : Bool := decide (g.count ≤ g.counted) || g.voidFrom.isSome

/-- A slot that has switched to a stripe of a sweep that will not run: it has no next stripe (R40). -/
def Group.stranded (g : Group) (p : Nat) (sl : Slot) : Bool := g.scrolls p && g.final && decide (sl.st = .run) && decide (g.sweep < sl.sweep)

/-- The job whose block a ring's SCR serves next (R46). -/
def State.nextJob (s : State) (g : Group) (r : Nat) : Option Job :=
  let p := s.plen g
  let all := ((s.slotsOf g r).map fun gs => if g.stranded p (s.slot g gs) then [] else (s.slot g gs).jobs gs p (g.scrolls p)).flatten
  all.foldl (fun (best : Option Job) j =>
    match best with
    | none => some j
    | some b => if lexLt j.rank b.rank then some j else some b) none

/-- Blocks of v's image, and of its record in a scrolling phase (R46, R49). -/
def Group.imgBlocks (g : Group) (v : Nat) : Nat :=
  match g.stripe? v with
  | some im => im.nblk
  | none => 0

def Group.recBlocks (g : Group) (p v : Nat) : Nat :=
  match g.stripe? v with
  | some im => if im.stateful && g.scrolls p then im.z else 0
  | none => 0

/-- The bank access of an SCR's next block: saves and restores reach the first ring's save carve (R47). -/
def State.jobBank (s : State) (g : Group) (r : Nat) : Option Nat :=
  match s.nextJob g r with
  | none => none
  | some j =>
    let sl := s.slot g j.gs
    let off (v n : Nat) : Nat := saveBase g.carve + g.recOff v + 64 * n
    match j.kind with
    | .save => sl.v.map fun v => (g.first * 48 + off v sl.blocks / 131072)
    | .restore => sl.next.map fun v => (g.first * 48 + off v sl.blocks / 131072)
    | .first =>
      match sl.v with
      | some v => if g.imgBlocks v ≤ sl.blocks then some (g.first * 48 + off v (sl.blocks - g.imgBlocks v) / 131072) else none
      | none => none
    | .load => none

/-- The bank that beat 0 of a word reads which issues to its block in this cycle (R234). -/
def State.issueBank (s : State) (x : View × Instr) : Option Nat :=
  let (w, i) := x
  if w.pos ≠ 12 ∨ w.void ∨ w.grp.blockTop w.v ≠ w.v ∨ w.grp.blockBusy w.v then none
  else
    match meRun i with
    | some r => if r.aBytes = 0 then none else some (w.ringNo s * 48 + (s.feedY w.grp w.gs w.v 0 + r.span) / 131072)
    | none => none

/-- The banks of all accesses of this cycle: SCR blocks, element accesses and A feeds (R54, R234). -/
def State.cycleBanks (s : State) (gk : Nat) (g : Group) : List Nat :=
  (List.range g.k).filterMap (fun i => s.jobBank g (g.first + i)) ++
  (s.active gk).filterMap (fun x => (elemBank x.1 s x.2).map fun o => x.1.ringNo s * 48 + o / 131072) ++
  (s.active gk).filterMap s.issueBank ++
  (g.blocks.map fun r => (List.range r.size).filterMap fun i =>
    let n := if r.op = 4 then 128 else if r.op ≤ 1 then r.len else 0
    if r.cyc < i ∨ n ≤ r.cyc - i then none
    else some ((s.slotPlace g (r.slot + i)).1 * 48 + (r.aoff.getD i 0 + r.span + (r.cyc - i) * meBeta r.fmt) / 131072)).flatten

/-- The accesses to the busiest bank (R54). -/
def busiest (l : List Nat) : Nat := (l.map fun b => l.count b).foldl max 0

/-- Word counts and words held as the cycle begins (R62, R229). -/
def State.snapPorts (s : State) (gk : Nat) : State :=
  match s.group? gk with
  | none => s
  | some g => s.setGroup gk { g with ports := tmap (fun k p =>
      { p with countAt := p.delivered, heldAt := (s.inWords g k p).length }) g.ports }

/-- Items whose reads meet the end of a stream in this cycle become void (R141). -/
def State.voidReads (s : State) (gk : Nat) : State :=
  match s.group? gk with
  | none => s
  | some g =>
    let act := s.active gk
    let needs := (act.map (inNeed s)).flatten ++ (act.map issueNeed).flatten ++ (g.blocks.map (runNeed g)).flatten
    let short := (sumIn needs).filter fun x => s.lacks g x && s.markAt g x.key
    let items := short.map (·.item)
    match items.foldl (fun (m : Option Nat) n => some (match m with
      | some k => min k n
      | none => n)) g.voidFrom with
    | none => s.setGroup gk { g with fresh := [] }
    | some n =>
      let s1 := s.setGroup gk { g with voidFrom := some n, fresh := items, closed := g.closed || !items.isEmpty }
      if items.isEmpty then s1
      else s1.updRec g.issuer g.serial fun q => { q with void := true, fvoid := some n }

/-- BANK_LOAD_WRITEBACK: loads and atomics of the fourth cycle back write their registers; a result bound for a port joins the words
of this cycle (R227). -/
def State.landLoads (s : State) (gk : Nat) : State :=
  match s.group? gk with
  | none => s
  | some g =>
    let step (st : State) (e : Wr) : State :=
      if !e.late ∨ e.due ≠ 0 then st
      else
        let el := st.elem g e.slot e.pos
        match e.kind with
        | .y v => st.setElem g e.slot e.pos { el with y := v }
        | .k n v => st.setElem g e.slot e.pos { el with k := tset 0 el.k n v }
        | .q _ _ => st
        | .out _ _ => st
    let s1 := g.wq.foldl step s
    let wq := g.wq.filterMap fun e =>
      if !e.late then some e
      else if e.due ≠ 0 then some { e with due := e.due - 1 }
      else
        match e.kind with
        | .out _ _ => some { e with late := false }
        | .y _ => none
        | .k _ _ => none
        | .q _ _ => none
    match s1.group? gk with
    | some g1 => s1.setGroup gk { g1 with wq := wq }
    | none => s1

/-- BANK_LOAD_WRITEBACK (R227). -/
def execBankLoadWriteback (g : Nat) (s : State) : Host.Outcome State Fault Refusal := .next (s.landLoads g)

/-- The queue of words at output ports in position order, other writes in issue order (R62, R135). -/
def insertPos (e : Wr) : List Wr → List Wr
  | [] => [e]
  | x :: t => if e.slot < x.slot ∨ (e.slot = x.slot ∧ e.pos < x.pos) then e :: x :: t else x :: insertPos e t

/-- One word leaves through a port at the end of a cycle; a void item's does not (R73, R141). -/
def State.landOut (s : State) (gk : Nat) (e : Wr) : State :=
  match e.kind, s.group? gk with
  | .out key w, some g =>
    if g.isVoid e.item then s
    else
      match tfind g.ports key with
      | none => s
      | some p =>
        let tag := match p.opens.find? fun r => r.item == e.item with
          | some r => r.tag
          | none => e.tag
        let gone := (s.slot g e.slot).item.map (·.n) ≠ some e.item
        if g.feedKind key p = .merge ∧ tag = none then
          s.phaseFault gk 5 { gslot := e.slot, vs := key / 4, pos := e.pos, ctx := e.ctx } 0
        else s.outWord gk key e.item e.pos e.ctx tag gone w
  | _, _ => s

/-- The writes of a cycle land at its end (R62, R73, R135). -/
def State.commit (s : State) (gk : Nat) : State :=
  match s.group? gk with
  | none => s
  | some g =>
    let now := g.wq.filter fun e => !e.late
    let step (st : State) (e : Wr) : State :=
      let el := st.elem g e.slot e.pos
      match e.kind with
      | .y v => st.setElem g e.slot e.pos { el with y := v }
      | .k n v => st.setElem g e.slot e.pos { el with k := tset 0 el.k n v }
      | .q i b => st.setElem g e.slot e.pos { el with q := if b then el.q ||| (1#4 <<< i) else el.q &&& ~~~(1#4 <<< i) }
      | .out _ _ => st
    let s1 := now.foldl step s
    let outs := (now.filter fun e => match e.kind with
      | .out _ _ => true
      | .y _ => false
      | .k _ _ => false
      | .q _ _ => false).foldl (fun l e => insertPos e l) []
    match s1.group? gk with
    | none => s1
    | some g1 => outs.foldl (fun st e => st.landOut gk e) (s1.setGroup gk { g1 with wq := g.wq.filter (·.late) })

/-- The item has a bank result still to land in a slot. -/
def Group.lateIn (g : Group) (gs : Nat) : Bool := g.wq.any fun e => e.late && e.slot == gs

/-- A run has rows still to drain through an output port (R237). -/
def BlockRun.drainsTo (r : BlockRun) (g : Group) (key : Nat) : Bool :=
  (r.drains || r.op == 3) && decide (r.cyc < r.drainAt + 8 * r.size) && decide (key / 4 = r.top + r.size - 1) &&
    (match g.stripe? (key / 4) with
      | some im => (List.range 8).any fun j => ((tfind im.pos (12 + j)).map fun p => decide (p.outp ≠ 0) && p.outp + 1 == key % 4).getD false
      | none => false)

/-- Closed records enter the ports they feed, in item order, none while a word of the item or an earlier one is still to land or to drain; a record of the wrong length for a merge is a phase fault (R243). -/
def State.settleRec (s : State) (gk key : Nat) : Nat → State
  | 0 => s
  | n + 1 =>
    match s.group? gk with
    | none => s
    | some g =>
      match tfind g.ports key with
      | none => s
      | some p =>
        match p.opens with
        | [] => s
        | r :: rest =>
          let lateWords := g.wq.any fun e => e.late && decide (e.item ≤ r.item) && (match e.kind with
            | .out k _ => k == key
            | .y _ => false
            | .k _ _ => false
            | .q _ _ => false)
          let drains := g.blocks.any fun b => decide (b.item ≤ r.item) && b.drainsTo g key
          if !r.closed || lateWords || drains then s
          else
            match p.kind with
            | .pool off _ =>
              match g.fedBy off with
              | none => (s.setPort gk key { p with opens := rest }).settleRec gk key n
              | some (k, ip) =>
                let fk := g.feedKind key p
                if fk = .merge ∧ r.words.length ≠ ip.decl.w then
                  let pl := s.plen g
                  s.phaseFault gk 6 { gslot := if pl = 0 then 0 else key / 4 % pl, vs := key / 4, pos := r.pos, ctx := r.ctx }
                    (BitVec.ofNat 64 r.words.length)
                else
                  let s1 := s.setPort gk key { p with opens := rest, steered := p.steered + 1 }
                  match s1.group? gk with
                  | none => s1
                  | some g1 =>
                    let s2 := if fk = .plainGated then
                        r.words.foldl (fun st w =>
                          match st.group? gk with
                          | some g2 =>
                            match tfind g2.ports k with
                            | some ip2 => st.enqueueFifo gk g2 k ip2 w
                            | none => st
                          | none => st) s1
                      else s1.enqueueRec gk g1 k ip r.tag r.words
                    s2.settleRec gk key n
            | .ag _ _ => s
            | .camp _ _ _ => s
            | .chain _ _ => s
            | .token _ => s

/-- Settles the records of every output port. -/
def State.settleRecs (s : State) (gk : Nat) : State :=
  match s.group? gk with
  | none => s
  | some g => (g.ports.filter fun e => !e.2.opens.isEmpty).foldl (fun st e => st.settleRec gk e.1 e.2.opens.length) s

/-- The AFC at the end of an item time that held an item (R64). -/
def Elem.afcStep (e : Elem) (bank : Nat) : Elem :=
  let a := tget AfcSetup.zero e.setup bank
  let i := e.afcI + 1
  let n := (e.afcA.toNat : Int) + a.step0.toInt
  if a.count0 ≠ 0 ∧ i = a.count0 then
    { e with afcI := 0, afcA := BitVec.ofInt 24 (n - a.count0.toNat * a.step0.toInt + a.step1.toInt) }
  else { e with afcI := i, afcA := BitVec.ofInt 24 n }

/-- The end of an item time in a slot: bases rotate, AFCs advance if it held an item, offers lapse, and the records of the item close and
enter the ports they feed, where the next item time can offer them (R146, R313); gives the boundary the item carries on (R38, R61, R64,
R143, R243). -/
def State.endItemTime (s : State) (gk gs : Nat) : State × Option Item :=
  match s.group? gk with
  | none => (s, none)
  | some g =>
    let sl := s.slot g gs
    match sl.v with
    | none => (s, none)
    | some v =>
      if sl.st ≠ .run then (s, none)
      else
        let bank := if sl.bank then 1 else 0
        let bnd := (List.range 32).map fun p => (s.elem g gs p).y
        let s1 := (List.range 32).foldl (fun st p =>
          let e := st.elem g gs p
          let e1 := if sl.item.isSome then e.afcStep bank else e
          st.setElem g gs p { e1 with base := e1.base + 1 }) s
        let s2 := ([0, 1].filter fun p => g.gated v p).foldl (fun st p => st.endOffer gk (portKey v p)) s1
        match sl.item with
        | none => (s2, none)
        | some it =>
          let s3 := [2, 3].foldl (fun st p =>
            match st.group? gk with
            | some g1 =>
              match tfind g1.ports (portKey v p) with
              | some po =>
                (st.setPort gk (portKey v p)
                  { po with opens := po.opens.map fun r => if r.item = it.n then { r with closed := true } else r }).settleRec gk (portKey v p)
                  po.opens.length
              | none => st
            | none => st) s2
          (s3, some { it with bnd := bnd })

/-- An item time begins in a slot: pass registers, reseeding at a sweep's first item, record tags and offers (R65, R71, R143, R243). The item's own number,
which the steer words of its stripe set, replaces the number of a record offered there (R242, R243; log 113). -/
def State.enterItem (s : State) (gk gs : Nat) (item : Option Item) : State :=
  match s.group? gk with
  | none => s
  | some g =>
    let sl := s.slot g gs
    let bnd := match item with
      | some it => it.bnd
      | none => []
    match sl.v with
    | none => s.setSlot g gs { sl with item := item }
    | some v =>
      let reseed := match item with
        | some it => g.img.n != 0 && it.n % g.img.n == 0
        | none => false
      let sweep := match item with
        | some it => if g.img.n = 0 then 0 else it.n / g.img.n
        | none => 0
      let s1 := (List.range 32).foldl (fun st p =>
        let e := st.elem g gs p
        let l := if reseed && !isMe p then lfsrSeed g.img.seed v p sweep else e.lfsr
        st.setElem g gs p { e with pass := bnd.getD p 0, lfsr := l }) s
      match item with
      | none =>
        let s2 := s1.setSlot g gs { sl with item := none }
        ([0, 1].filter fun p => g.gated v p).foldl (fun st p => (st.startOffer gk (portKey v p) true).2) s2
      | some it =>
        let it1 := if g.steers v then { it with tag := some (BitVec.ofNat 16 it.n) } else it
        let s2 := s1.setSlot g gs { sl with item := some it1 }
        ([0, 1].filter fun p => g.gated v p).foldl (fun st p =>
          let (tag, st1) := st.startOffer gk (portKey v p) (g.isVoid it.n)
          match (if g.steers v then none else tag), st1.group? gk with
          | some q, some g1 =>
            let sl1 := st1.slot g1 gs
            st1.setSlot g1 gs { sl1 with item := sl1.item.map fun i => { i with tag := some q } }
          | _, _ => st1) s2

/-- The item's next place after it leaves a slot (R38, R44, R45, R57). -/
inductive Dest where
  | gone
  | wrap
  | slot (n : Nat)
  | cross (i : Nat)
  deriving DecidableEq, Repr

/-- Where an item goes that leaves virtual stripe v from group slot gs (R19, R44, R45). -/
def State.destOf (s : State) (g : Group) (gs v : Nat) : Dest :=
  let p := s.plen g
  if v + 1 = g.img.v then .gone
  else if gs + 1 = p then (if dieOf g.first ≠ dieOf (s.slotPlace g gs).1 then .cross p else .wrap)
  else
    let r := (s.slotPlace g gs).1
    let r' := (s.slotPlace g (gs + 1)).1
    if dieOf r ≠ dieOf r' then .cross (gs + 1) else .slot (gs + 1)

/-- The wrap buffer's copy of an item in the wrap carve (R44, R104; log 11). -/
def State.storeWrap (s : State) (g : Group) (it : Item) : State :=
  let cap := 512 * carveWrap g.carve
  if cap = 0 then s
  else s.putBytes (poolKey g.first (wrapBase g.carve + 128 * (it.n % cap))) ((it.bnd.map fun w => leBytes 4 w.toNat).flatten)

/-- The die crossings of a cycle advance; an item that has crossed from the last ring to the first is in the wrap buffer (R19). -/
def State.crossTick (s : State) (gk : Nat) : State :=
  match s.group? gk with
  | none => s
  | some g =>
    let p := s.plen g
    let l := g.cross.map fun x => (x.1 - 1, x.2.1, x.2.2)
    let home (x : Nat × Nat × Item) : Bool := x.1 == 0 && x.2.1 == p
    let s1 := (l.filter home).foldl (fun st x => st.storeWrap g x.2.2) s
    s1.setGroup gk { g with cross := l.filter fun x => !home x, wrap := g.wrap ++ (l.filter home).map (·.2.2) }

/-- An item reaches a slot, or a bubble does: its item time begins there, at the slot's switch if the slot has yet to switch (R41). -/
def State.reachSlot (s : State) (gk : Nat) (g : Group) (gs : Nat) (item : Option Item) : State :=
  if (item.map (s.switching g gs)).getD false then s.setSlot g gs { s.slot g gs with item := item } else s.enterItem gk gs item

/-- ITEM_TIME_BOUNDARY: every item moves to the next group slot with its boundary; bases rotate, pass registers and AFCs follow (R38,
R44, R45, R61, R64, R71). A die crossing takes 24 cycles more (R19); where it ends within an item time, the item enters at the next boundary (DESIGN CHOICE,
log 113). -/
def State.itemBoundary (s : State) (gk : Nat) : State :=
  match s.group? gk with
  | none => s
  | some g0 =>
    let p := s.plen g0
    -- ends, from the last slot back
    let ends := (List.range p).foldl (fun (acc : State × List (Nat × Nat × Item)) gs =>
      let v := ((acc.1.slot g0 gs).v).getD 0
      match acc.1.endItemTime gk gs with
      | (st, some it) => (st, acc.2 ++ [(gs, v, it)])
      | (st, none) => (st, acc.2)) (s, [])
    let s1 := ends.1
    match s1.group? gk with
    | none => s1
    | some g1 =>
      -- a record of the wrong length has ended the phase's items (R243)
      if g1.mark.isSome ∧ g0.mark.isNone then s1
      else
      let move (acc : State × Group × List (Nat × Item)) (x : Nat × Nat × Item) : State × Group × List (Nat × Item) :=
        let (st, g, ins) := acc
        let (gs, v, it) := x
        let sl := st.slot g gs
        let st1 := st.setSlot g gs { sl with left := sl.left + 1, item := none }
        match st1.destOf g gs v with
        | .gone => (st1, { g with exited := g.exited + 1 }, ins)
        | .wrap => (st1.storeWrap g it, { g with wrap := g.wrap ++ [{ it with pass := it.pass + 1 }] }, ins)
        | .slot n => (st1, g, ins ++ [(n, it)])
        | .cross n =>
          (st1, { g with cross := g.cross ++ [(24, n, if n = p then { it with pass := it.pass + 1 } else it)] }, ins)
      let (s2, g2, ins) := ends.2.foldl move (s1, g1, [])
      -- items whose crossing is over enter, one a slot (log 113)
      let arrive (acc : List (Nat × Item) × List (Nat × Nat × Item)) (x : Nat × Nat × Item) :
          List (Nat × Item) × List (Nat × Nat × Item) :=
        if x.1 = 0 ∧ x.2.1 < p ∧ !(acc.1.any fun y => y.1 == x.2.1) ∧ !(acc.2.any fun y => y.2.1 == x.2.1) then (acc.1 ++ [(x.2.1, x.2.2)], acc.2)
        else (acc.1, acc.2 ++ [x])
      let (ins', cross') := g2.cross.foldl arrive (ins, [])
      let s3 := s2.setGroup gk { g2 with cross := cross' }
      (List.range p).foldl (fun st gs =>
        st.reachSlot gk g2 gs ((ins'.find? fun y => y.1 == gs).map (·.2))) s3

/-- ITEM_TIME_BOUNDARY (R38). -/
def execItemTimeBoundary (g : Nat) (s : State) : Host.Outcome State Fault Refusal := .next (s.itemBoundary g)

end Sys2Proof.Machine
end

