-- ==== Sys2Proof/Machine/Scroll.lean ====
section
/-! DEFINITION. The scroll controller: leaving a stripe, the next stripe, job steps, switches, admission and the ends of sweeps (R36,
R40 to R52, R176). -/

namespace Sys2Proof.Machine

/-- A block that holds stripe v is still at work at one of its MEs (R232, R233; log 110). -/
def Group.busyAt (g : Group) (v : Nat) : Bool :=
  g.blocks.any fun r => decide (r.top ≤ v) && decide (v < r.top + r.size)

/-- The last item time of the sweep has left the stripe that a slot holds (R41, R227, R233). -/
def Group.leftLast (g : Group) (gs : Nat) (sl : Slot) : Bool :=
  g.closed && sl.sweep == g.sweep && sl.left == g.sweepItems && !g.lateIn gs && (match sl.v with
    | some v => !g.busyAt v
    | none => false)

/-- The slot's next virtual stripe, tested as its last item time leaves (R40). -/
def Group.nextStripe (g : Group) (p v : Nat) : Option Nat :=
  if v + p < g.img.v then some (v + p) else if g.final || p = 0 then none else some (v % p)

/-- No item of the phase will write through stripe v again: none will be admitted, none in flight has yet to pass v, and nothing that v
issued is still to land (R140). -/
def State.passedAll (s : State) (g : Group) (v : Nat) : Bool :=
  let p := s.plen g
  g.final && (g.wrap.all fun it => decide (v < it.pass * p)) && (g.cross.all fun x => decide (v < x.2.2.pass * p + x.2.1)) &&
    ((List.range p).all fun gs =>
      let sl := s.slot g gs
      sl.item.isNone || decide (v < sl.v.getD 0)) &&
    (g.wq.all fun e => match e.kind with
      | .out k _ => k / 4 != v
      | .y _ => true
      | .k _ _ => true
      | .q _ _ => true) &&
    !g.busyAt v

/-- A sweep in which Cairn skipped every remaining tile has ended: credits met the count before an item of it was admitted (R40). -/
def Group.emptyEnd (g : Group) : Bool := g.closed && g.final && g.sweepItems == 0 && g.exited == g.admitted

/-- A slot whose last item time has left takes the transition of R50. The end of a sweep in which credits met the count counts as that for every slot, none of
which has a next stripe then (R40); a slot that stands in a sweep which will not run has none either; a slot of a resident phase goes idle once the phase's
last item has left it. -/
def State.leaveSlot (s : State) (gk gs : Nat) : State :=
  match s.group? gk with
  | none => s
  | some g =>
    let sl := s.slot g gs
    let p := s.plen g
    let idle : State := s.setSlot g gs { sl with v := none, next := none, st := .idle }
    if g.emptyEnd then idle
    else if g.stranded p sl then s.setSlot g gs { sl with next := none }
    else if !g.scrolls p then
      (if sl.st = .run ∧ g.closed ∧ !g.lateIn gs ∧ s.passedAll g gs then idle else s)
    else if sl.st ≠ .run ∨ !g.leftLast gs sl then s
    else
      match sl.v with
      | none => s
      | some v =>
        match g.nextStripe p v with
        | none => idle
        | some n =>
          let st : ScrollSt := if g.stateful v then .save else if g.stateful n then .restore else .after
          s.setSlot g gs { sl with next := some n, st := st, blocks := 0 }

/-- The stripe that a slot which has just begun v will hold next, where that needs no test (R40). -/
def Group.knownNext (g : Group) (p v : Nat) : Option Nat := if v + p < g.img.v then some (v + p) else none

/-- The stripe that a slot which switches from v to n will hold next: none after a switch into a sweep that will not run (R40). -/
def Group.nextAfter (g : Group) (p v n : Nat) : Option Nat := if n ≤ v ∧ g.final then none else g.knownNext p n

/-- One block of a ring's SCR work (R46). -/
def State.serveJob (s : State) (g : Group) (j : Job) : State :=
  let sl := s.slot g j.gs
  let p := s.plen g
  let base := poolKey g.first (saveBase g.carve)
  match j.kind with
  | .first =>
    match sl.v with
    | none => s
    | some v =>
      let kept := tfind g.kept v
      let total := g.imgBlocks v + (match kept, g.stripe? v with
        | some _, some im => im.z
        | _, _ => g.recBlocks p v)
      let s1 := if sl.blocks < g.imgBlocks v then s.loadBlock g j.gs v 0 sl.blocks else s
      let sl1 := s1.slot g j.gs
      let s2 := s1.setSlot g j.gs { sl1 with blocks := sl.blocks + 1 }
      if sl.blocks + 1 < total then s2
      else
        let record := match g.stripe? v with
          | some im => (match kept with
            | some l => some (im, l)
            | none => if g.recBlocks p v = 0 then none else some (im, s.savedRecord g v))
          | none => none
        let s2 := match s2.group? g.first with
          | some g2 => s2.setGroup g.first { g2 with kept := tdel g2.kept v }
          | none => s2
        let s3 := s2.enterStripe g j.gs 0 record
        let sl3 := s3.slot g j.gs
        s3.setSlot g j.gs { sl3 with st := .run, blocks := 0, restored := true, next := g.knownNext p v }
  | .load =>
    match sl.next with
    | none => s
    | some v =>
      let k := match sl.shadow with
        | .fill n => n
        | .free => 0
        | .ready => 0
      let s1 := s.loadBlock g j.gs v (if sl.bank then 0 else 1) k
      let sl1 := s1.slot g j.gs
      s1.setSlot g j.gs { sl1 with shadow := if k + 1 < g.imgBlocks v then .fill (k + 1) else .ready }
  | .save =>
    match sl.v, sl.v.bind g.stripe? with
    | some v, some im =>
      let l := s.slotRecord g j.gs im (if sl.bank then 1 else 0)
      let s1 := s.putBytes (base + g.recOff v + 64 * sl.blocks) (slice l (64 * sl.blocks) 64)
      let done := im.z ≤ sl.blocks + 1
      let st : ScrollSt := if !done then .save else if (sl.next.map g.stateful).getD false then .restore else .after
      s1.setSlot g j.gs { sl with blocks := if done then 0 else sl.blocks + 1, st := st }
    | _, _ => s
  | .restore =>
    match sl.next.bind g.stripe? with
    | some im =>
      let done := im.z ≤ sl.blocks + 1
      s.setSlot g j.gs { sl with blocks := if done then 0 else sl.blocks + 1, st := if done then .after else .restore }
    | none => s

/-- SCR_JOB_STEP: ring r's SCR moves one block of the job whose switch comes first (R46). -/
def State.scrStep (s : State) (r : Nat) : State :=
  match (s.ring r).group with
  | none => s
  | some gk =>
    match s.group? gk with
    | none => s
    | some g =>
      match s.nextJob g r with
      | some j => s.serveJob g j
      | none => s

/-- SCR_JOB_STEP (R46). -/
def execScrJobStep (r : Nat) (s : State) : Host.Outcome State Fault Refusal := .next (s.scrStep r)

/-- A slot takes its next stripe, in its other bank (R41, R42, R51, R68). -/
def State.changeStripe (s : State) (gk gs : Nat) : State :=
  match s.group? gk with
  | none => s
  | some g =>
    let sl := s.slot g gs
    match sl.v, sl.next with
    | some v, some n =>
      let p := s.plen g
      let record := match g.stripe? n with
        | some im => if im.stateful then some (im, s.savedRecord g n) else none
        | none => none
      let sl' : Slot := { sl with v := some n, st := .run, blocks := 0, shadow := .free, next := g.nextAfter p v n, bank := !sl.bank,
                                  sweep := if v < n then sl.sweep else sl.sweep + 1, left := 0 }
      (s.setSlot g gs sl').enterStripe g gs (if sl.bank then 0 else 1) record
    | _, _ => s

/-- A slot switches; an item that reached it at the same cycle boundary begins its item time in the new stripe (R41, R43). -/
def State.switchSlot (s : State) (gk gs : Nat) : State :=
  match s.group? gk with
  | none => s
  | some g =>
    match (s.slot g gs).item with
    | none => s.changeStripe gk gs
    | some it => (s.changeStripe gk gs).enterItem gk gs (some it)

/-- SLOT_SWITCH: of a ring's slots that qualify, the lowest switches (R41). -/
def State.slotSwitch (s : State) (r : Nat) : State :=
  match (s.ring r).group with
  | none => s
  | some gk =>
    match s.group? gk with
    | none => s
    | some g =>
      match (s.slotsOf g r).find? fun gs => decide ((s.slot g gs).st = .after) && decide ((s.slot g gs).shadow = .ready) with
      | some gs => (s.switchSlot gk gs).applyMarks gk
      | none => s

/-- SLOT_SWITCH (R41). -/
def execSlotSwitch (r : Nat) (s : State) : Host.Outcome State Fault Refusal := .next (s.slotSwitch r)

/-- The longest that stripe v's slot is still in use after its last item time has ended there: results in flight and block work at
their longest, so that admission depends on the program alone (R43, R227, R233; log 13). -/
def Group.lingers (g : Group) (v : Nat) : Nat :=
  match g.stripe? v with
  | none => 0
  | some im =>
    let late (p : Nat) : Nat := (List.range im.ii).foldl (fun m c =>
      if (elemLate (im.instr p c)).isSome then max m (c + 5 - im.ii) else m) 0
    let ve := (List.range 32).foldl (fun m p => max m (late p)) 0
    let top := g.blockTop v
    let me := match g.stripe? top with
      | none => 0
      | some it =>
        match it.meWord with
        | none => 0
        | some (c, i) =>
          let n := g.blockSize top
          let last := match i with
            | .mma _ _ _ _ _ l e _ _ => if e = 1#1 then meLen l + 9 * n + 5 else meLen l + n + 6
            | .mmx _ _ _ _ _ l e _ _ => if e = 1#1 then meLen l + 9 * n + 5 else meLen l + n + 6
            | .adrain _ _ _ => 9 * n + 5
            | .aload _ => 134 + n
            | _ => 7 + n
          c + last + 1 - im.ii - (v - top) * im.ii
    if im.meWord.isSome then max ve me else ve

/-- One unfrozen cycle of the scroll controllers alone, `now` cycles ahead, slot gs, if it holds a stripe below `first`, the first of the
pass to come, being left at `leave gs`. -/
def State.scrollCycle (s : State) (gk first : Nat) (leave : Nat → Option Nat) (now : Nat) : State :=
  match s.group? gk with
  | none => s
  | some g =>
    let rings := (List.range g.k).map fun i => g.first + i
    let s1 := rings.foldl (fun st r => st.scrStep r) s
    let p := s.plen g
    let s2 := (List.range p).foldl (fun st gs =>
      let sl := st.slot g gs
      match leave gs, sl.v with
      | some t, some v =>
        if sl.st = .run ∧ t ≤ now + 1 ∧ sl.sweep = g.sweep ∧ v < first then
          match g.nextStripe p v with
          | some n =>
            let st' : ScrollSt := if g.stateful v then .save else if g.stateful n then .restore else .after
            st.setSlot g gs { sl with next := some n, blocks := 0, st := st' }
          | none => st
        else st
      | _, _ => st) s1
    rings.foldl (fun st r => st.slotSwitch r) s2

/-- Will every slot of the pass hold its stripe by C + s·II, if C is now (R43)? -/
def State.willHold (s : State) (gk : Nat) (ii pass n : Nat) (leave : Nat → Option Nat) : Nat → Nat → Bool
  | 0, _ => true
  | fuel + 1, now =>
    match s.group? gk with
    | none => false
    | some g =>
      let p := s.plen g
      let gs := if ii = 0 then 0 else now / ii
      let ok := if ii ≠ 0 ∧ now % ii = 0 ∧ gs < n then
          (match (s.slot g gs).v with
            | some v => v == pass * p + gs && decide ((s.slot g gs).st = .run)
            | none => false)
        else true
      ok && (s.scrollCycle gk (pass * p) leave now).willHold gk ii pass n leave fuel (now + 1)

/-- The die crossings on the way from one group slot to a later one (R19). -/
def State.crossings (s : State) (g : Group) (a b : Nat) : Nat :=
  ((List.range (b - a)).filter fun i => dieOf (s.slotPlace g (a + i)).1 ≠ dieOf (s.slotPlace g (a + i + 1)).1).length

/-- The unfrozen cycles from the item-time boundary at which an item leaves one die to the one at which it enters the next (R19; log 113). -/
def Group.crossTime (g : Group) : Nat := if g.img.ii = 0 then 0 else ceilDiv 24 g.img.ii * g.img.ii

/-- Of the items in slots and on crossings, the last: its number, the slot it stands in or has left for the crossing, and the unfrozen cycles until it leaves
that slot, negative where it has left it. -/
def State.lastItem (s : State) (g : Group) : Option (Nat × Nat × Int) :=
  let ii := g.img.ii
  let toEnd := if ii = 0 then 0 else ii - g.t % ii
  let later (m : Option (Nat × Nat × Int)) (x : Nat × Nat × Int) : Option (Nat × Nat × Int) :=
    match m with
    | some k => if k.1 ≤ x.1 then some x else m
    | none => some x
  let slots := (List.range (s.plen g)).foldl (fun m gs =>
    match (s.slot g gs).item with
    | some it => later m (it.n, gs, toEnd)
    | none => m) none
  g.cross.foldl (fun m x =>
    let enters := if ii = 0 ∨ x.1 ≤ toEnd then toEnd else toEnd + ceilDiv (x.1 - toEnd) ii * ii
    later m (x.2.2.n, x.2.1 - 1, (enters : Int) - g.crossTime)) slots

/-- The unfrozen cycles until the last item leaves slot gs, negative where it has left it, if it leaves slot q in t cycles (R38, R43). -/
def State.leaves (s : State) (g : Group) (q : Nat) (t : Int) (gs : Nat) : Int :=
  t + ((gs : Int) - q) * g.img.ii + ((s.crossings g q gs : Int) - s.crossings g gs q) * g.crossTime

/-- The first item of a pass may be admitted in this cycle (R43). -/
def State.passReady (s : State) (gk pass : Nat) : Bool :=
  match s.group? gk with
  | none => false
  | some g =>
    let p := s.plen g
    let n := min p (g.img.v - pass * p)
    let ii := g.img.ii
    let leave (gs : Nat) : Option Nat :=
      if pass = 0 then none
      else
        let v := ((s.slot g gs).v).getD 0
        match s.lastItem g with
        | some (_, q, t) => some (s.leaves g q t gs + g.lingers v).toNat
        | none => some 0
    s.willHold gk ii pass n leave ((n - 1) * ii + 1) 0

/-- The region of a phase's Cairn work. -/
def State.cairnRegion (s : State) (g : Group) (c : Cairn) : Option Region :=
  (s.ring g.issuer).vf.bind fun v => tfind (s.vfOf v).regions c.region

/-- The items of a tile of a phase's Cairn work. -/
def State.cairnIpt (s : State) (g : Group) (c : Cairn) : Nat := ((s.cairnRegion g c).map (·.ipt)).getD 0

/-- The tile of a region that the next item belongs to is decided and computed, or the region's stream has ended (R173, R176). -/
def State.tileOk (s : State) (g : Group) (c : Cairn) : Bool :=
  let ipt := s.cairnIpt g c
  if ipt ≠ 0 ∧ g.counted % ipt ≠ 0 then true
  else
    match c.tiles with
    | t :: _ => t.decided && !t.skip
    | [] => c.ended

/-- Cairn work i of a group is replaced. -/
def Group.setCairn (g : Group) (i : Nat) (c : Cairn) : Group := { g with cairns := g.cairns.set i c }

/-- The storer AG behind an output port steps past the words of a skipped tile once it has taken those of the tiles before (R176). -/
def State.skipWords (s : State) (gk key tile outw : Nat) : State :=
  match s.group? gk with
  | none => s
  | some g =>
    match (tfind g.ports key).map Port.kind with
    | some (PortKind.ag south n) =>
      s.updRing (s.ringOfV g (key / 4)) fun x =>
        let a := tget Ag.reset x.ags (agIdx south n)
        let esz := match a.desc with
          | some d => if d.esz = 0 then 1 else d.esz
          | none => 1
        let len := outw * 4 / esz
        { x with ags := tput x.ags (agIdx south n) ({ a with skips := a.skips ++ [(tile * len, len)] } : Ag).stepPast }
    | _ => s

/-- The next tile of Cairn work i, if it is decided and the items before it have been counted: a skipped one gives its credits — its items, unless the skip of
another region's tile has removed them, and its words — and a computed one whose items another region's skip has removed is passed over (R139, R176;
log 113). -/
def State.creditOne (s : State) (gk i : Nat) : State :=
  match s.group? gk with
  | none => s
  | some g =>
    match g.cairns[i]? with
    | none => s
    | some c =>
      match s.cairnRegion g c, c.tiles with
      | some rg, t :: rest =>
        if !t.decided || g.final || decide (g.counted < t.tile * rg.ipt) then s
        else
          let behind := decide (t.tile * rg.ipt < g.counted)
          if !t.skip then (if behind then s.setGroup gk (g.setCairn i { c with tiles := rest }) else s)
          else
            let g1 := { g.setCairn i { c with tiles := rest } with credited := g.credited + if behind then 0 else rg.ipt }
            let ports := match tfind g1.ports c.inPort with
              | some p => tput g1.ports c.inPort { p.passOver p.decl.t with credTiles := p.credTiles + 1, credits := (g.admitted, p.decl.t) :: p.credits }
              | none => g1.ports
            let g2 := { g1 with ports := ports, closed := g1.closed || decide (g1.count ≤ g1.counted) }
            let s1 := (s.setGroup gk g2).updRec g.issuer g.serial fun q => { q with items := g2.counted, cred := q.cred + 1 }
            match c.outPort with
            | some k => s1.skipWords gk k t.tile rg.outw
            | none => s1
      | _, _ => s

/-- The decided tiles that stand next give their credits. -/
def State.creditTile (s : State) (gk : Nat) : State :=
  match s.group? gk with
  | none => s
  | some g => (List.range g.cairns.length).foldl (fun st i => st.creditOne gk i) s

/-- An item enters group slot 0; the first of a phase starts the modulo counter (R37, R71). -/
def State.takeIn (s : State) (gk : Nat) (it : Item) : State :=
  match s.group? gk with
  | none => s
  | some g => ((s.setGroup gk { g with started := true, t := if g.started then g.t else 0 }).enterItem gk 0 (some it)).applyMarks gk

/-- A group that a pre-emption waits for stands where no item of a further sweep is admitted or credited (R52, R179). -/
def Group.stoppedAt (g : Group) : Bool := g.preempt && (g.closed || g.sweepItems == 0)

/-- ITEM_ADMISSION: the next item from the input ports in pass 0, or from the wrap buffer in a later pass (R36, R43, R44). -/
def State.itemAdmission (s0 : State) (gk : Nat) : State :=
  let s := if (s0.group? gk).any Group.stoppedAt then s0 else s0.creditTile gk
  match s.group? gk with
  | none => s
  | some g =>
    let p := s.plen g
    let open_ := (s.slot g 0).item.isNone && (!g.started || (g.img.ii != 0 && g.t % g.img.ii == 0)) && !g.draining && g.hold == 0 && !s.agHeld g
    if !open_ then s
    else if g.pass = 0 then
      -- a resident phase starts its next sweep with no gap, unless a pre-emption waits (R43, R52)
      let g1 := if g.closed && !g.scrolls p && !g.final && !g.preempt then
          { g with closed := false, sweep := g.sweep + 1, sweepItems := 0, sweepCtr := 0, overrun := false } else g
      if g1.closed || g1.final || !(g1.cairns.all (s.tileOk g1)) || (g1.preempt && g1.sweepItems == 0) then s
      else if (g1.sweepItems == 0 && !(g1.started && !g1.scrolls p)) && !s.passReady gk 0 then s
      else
        let n := g1.admitted
        let g2 := { g1 with admitted := n + 1, sweepItems := g1.sweepItems + 1, passItems := g1.passItems + 1,
                            closed := decide (g1.sweepItems + 1 = g1.img.n) || decide (g1.count ≤ g1.counted + 1) }
        let opened (c : Cairn) : Cairn :=
          let ipt := s.cairnIpt g c
          if ipt ≠ 0 ∧ g1.counted % ipt = 0 then { c with tiles := c.tiles.drop 1 } else c
        ((s.setGroup gk { g2 with cairns := g2.cairns.map opened }).updRec g.issuer g.serial fun q => { q with items := g2.counted }).takeIn gk
          { n := n, pass := 0, tag := none, void := false, marks := [], bnd := [] }
    else
      match g.wrap with
      | it :: rest =>
        if it.pass ≠ g.pass then s
        else if g.passItems = 0 ∧ !s.passReady gk g.pass then s
        else (s.setGroup gk { g with wrap := rest, passItems := g.passItems + 1 }).takeIn gk it
      | [] => s

/-- ITEM_ADMISSION (R43). -/
def execItemAdmission (g : Nat) (s : State) : Host.Outcome State Fault Refusal := .next (s.itemAdmission g)

/-- The cycle that begins is held for the words that a port lacks, or for room at it (R53). -/
def State.waitsOn (s : State) (gk key : Nat) : Bool :=
  let u := s.itemAdmission gk
  match u.group? gk with
  | none => false
  | some g =>
    ((u.inNeeds gk g).any fun x => x.key == key && u.lacks g x && !u.markAt g key) ||
    ((u.active gk).any fun x => x.1.inKey == some key && eosWaits u x) ||
    ((u.outNeeds gk g).any fun x => x.key == key && (match tfind g.ports key with
      | some p => decide (u.outSpace g key p x.tag < x.n)
      | none => false))

/-- The causes that hold the freeze wire in the cycle that begins, with the item that it would admit (R37, R43, R53). -/
def State.cycleCauses (s : State) (gk : Nat) : List Cause :=
  let u := s.itemAdmission gk
  match u.group? gk with
  | some g => u.causes gk g
  | none => []

/-- MERGE_DEADLOCK: a fatal phase fault at the merge that lacks its head record (R147). -/
def execMergeDeadlock (g : Nat) (s : State) : Host.Outcome State Fault Refusal :=
  .next (match s.group? g with
    | none => s
    | some gr =>
      if gr.deadCycles < 1024 then s
      else
        match (s.cycleCauses g).findSome? fun c => match c with
          | .merge k => some k
          | .deliver => none
          | .accept => none
          | .agFault => none
          | .bank => none with
        | none => s
        | some k =>
          let p := s.plen gr
          let h := match tfind gr.ports k with
            | some ip => ip.head
            | none => 0
          s.phaseFault g 4 { gslot := if p = 0 then 0 else k / 4 % p, vs := k / 4, pos := 0, ctx := 0 } (h.setWidth 64))

/-- The pass whose items are being admitted moves on once all of the sweep's items have been admitted to it (R43). -/
def Group.nextPass (g : Group) (p : Nat) : Group :=
  if g.scrolls p ∧ g.closed ∧ g.passItems = g.sweepItems ∧ g.pass + 1 < g.passes p then { g with pass := g.pass + 1, passItems := 0 } else g

/-- The sweeps that have ended (R36, R52): in a resident phase sweeps overlap, and one has ended when its items have left. -/
def Group.sweepsDone (g : Group) : Nat := if g.img.n = 0 then 0 else g.exited / g.img.n

/-- End-of-stream marks inside the phase: a FIFO's after the last item has passed its output port, a tagged port's once its declared
tiles have arrived or been credited (R140). -/
def State.markEos (s : State) (g : Group) : Tab Port :=
  tmap (fun k ip =>
    if k % 4 ≥ 2 then ip
    else
      match ip.kind with
      | .pool off _ =>
        if ip.decl.tagged then { ip with eos := ip.eos || ip.tilesMet }
        else
          let outs := g.ports.filter fun e => e.1 % 4 ≥ 2 && (match e.2.kind with
            | .pool o _ => o == off
            | .ag _ _ => false
            | .camp _ _ _ => false
            | .chain _ _ => false
            | .token _ => false)
          { ip with eos := ip.eos || (outs.all fun e => e.2.opens.isEmpty && s.passedAll g (e.1 / 4)) }
      | .ag _ _ => ip
      | .camp _ _ _ => ip
      | .chain _ _ => ip
      | .token _ => ip) g.ports

/-- The present sweep has ended: every item of it has left, with all its work (R36, R52). -/
def Group.swept (g : Group) : Bool := g.closed && g.exited == g.admitted && g.wq.all (fun e => !e.late) && g.blocks.isEmpty

/-- The last sweep of a phase: the one in which its first void item runs, and else the present one (R36, R40, R141). -/
def Group.finalSweep (g : Group) : Nat :=
  match g.voidFrom with
  | some n => if g.img.n = 0 then g.sweep else n / g.img.n
  | none => g.sweep

/-- A pre-emption request before any item has been admitted: the loads of the phase are discarded, in a cycle that is not frozen (R50). -/
def State.discardLoads (s : State) (gk : Nat) : State :=
  match s.group? gk with
  | none => s
  | some g =>
    if g.preempt && g.admitted == 0 && !g.draining then (List.range (s.plen g)).foldl (fun st gs => st.setSlot g gs Slot.reset) s else s

/-- The end of a cycle: slots left by their last item take their transitions, and a sweep whose last item has left V - 1 ends, upon which the next one is
due or the phase drains; a pre-emption request discards the loads of a phase that has admitted nothing (R36, R40, R50, R52, R233). -/
def State.settle (s0 : State) (gk : Nat) : State :=
  match s0.group? gk with
  | none => s0
  | some g0 =>
    let p := s0.plen g0
    let s := (List.range p).foldl (fun st gs => st.leaveSlot gk gs) s0
    match s.group? gk with
    | none => s
    | some gA =>
      let gB := gA.nextPass p
      let g := { gB with ports := s.markEos gB }
      if !g.swept then (s.setGroup gk g).discardLoads gk
      else if g.final then
        (s.setGroup gk { g with draining := true, lastSweep := true }).updRec g.issuer g.serial fun q =>
          { q with state := 4, sweeps := g.finalSweep + 1 }
      else
        (s.updRec g.issuer g.serial fun q => { q with sweeps := if g.scrolls p then g.sweep + 1 else g.sweepsDone }).setGroup gk
          { g with sweep := g.sweep + 1, sweepItems := 0, closed := false, pass := 0, passItems := 0, sweepCtr := 0, overrun := false }

end Sys2Proof.Machine
end

