-- ==== Sys2Proof/Machine/Image.lean ====
section
/-! DEFINITION. Phase images: their layout, and the checks that PLOAD makes of them (R58, R72 to R78, R184 to R194, R230, R231, R241,
R242, R244). -/

namespace Sys2Proof.Machine

/-- A failed image check (R382): the check's number where the spec lists one, the virtual stripe, and the byte offset. -/
structure ImgErr where
  check : Option Nat
  vs : Nat
  off : Nat
  deriving DecidableEq, Repr

def imgErr (check vs off : Nat) : ImgErr := { check := some check, vs := vs, off := off }

/-- Stops at the first condition that does not hold. -/
def firstFail (l : List (Bool × ImgErr)) : Option ImgErr := (l.find? fun x => !x.1).map (·.2)

/-- Kinds of words by position (R184, R185): 0 nop, 1 VE, 2 ME. -/
def wordKind (w : W32) : Nat :=
  let op := w.toNat / 2 ^ 25
  if op = 0 then 0 else if op < 0x60 then 1 else 2

/-- What a bank instruction needs of bmode (R187). -/
def bankMode : Instr → Nat
  | .ldb _ _ _ _ => 1
  | .ldbi _ _ _ => 1
  | .ldt _ _ _ _ => 1
  | .stb _ _ _ _ => 2
  | .stbi _ _ _ => 2
  | .stt _ _ _ _ => 2
  | .atadd _ _ _ _ => 3
  | .atmin _ _ _ _ _ => 3
  | .atmax _ _ _ _ _ => 3
  | .atxchg _ _ _ _ => 3
  | .atcas _ _ _ _ => 3
  | _ => 0

/-- Does an element word read its input port, other than to ask about it (R72, R229)? -/
def readsIn : Instr → Bool
  | .dropw _ _ _ _ => true
  | .pcnt _ _ _ _ => true
  | .eos _ _ _ _ => true
  | i => (elemSrcs i).contains 30#5

/-- Does a word write the output port (R73, R229)? An unused d field of 17, in a word that produces no value, has no effect and needs no port
(log 114). -/
def writesOut : Instr → Bool
  | .emit _ _ _ _ => true
  | i => elemDst i == some 17#5 || elemLate i == some 17#5

def isSteer : Instr → Option (BitVec 2)
  | .steer _ q => some q
  | _ => none

def isGate : Instr → Bool
  | .gate _ _ => true
  | _ => false

def isEos : Instr → Bool
  | .eos _ _ _ _ => true
  | _ => false

/-- Set bits of a 32-bit mask below n, as a list. -/
def maskList (m : Nat) : List Nat := (List.range 32).filter fun p => m / 2 ^ p % 2 == 1

def maskBit (m p : Nat) : Bool := m / 2 ^ p % 2 == 1

/-- The size of a saved record in blocks for a state map (R69). -/
def recordBlocks (smap : Nat) : Nat :=
  let n := maskList smap
  ceilDiv (128 * (n.filter fun p => !isMe p).length + 1056 * (n.filter isMe).length) 64

/-- The positions of the body sections of a stripe image, relative to its start (R188). -/
structure StripeLay where
  ii : Nat
  posm : Nat
  gmap : Nat
  cmask : Nat
  amask : Nat
  leaders : List Nat
  constAt : Nat
  afcAt : Nat
  stop : Nat

def stripeLay (l : List Byte) (o : Nat) : StripeLay :=
  let ii := field l o 1
  let posm := field l (o + 4) 4
  let gmap := field l (o + 12) 4
  let cmask := field l (o + 32) 4
  let amask := field l (o + 36) 4
  let leaders := (List.range 32).filter fun p => maskBit posm p && !maskBit gmap p
  let constAt := 64 + 4 * ii * leaders.length
  let afcAt := constAt + 32 * (maskList cmask).length
  { ii := ii, posm := posm, gmap := gmap, cmask := cmask, amask := amask, leaders := leaders, constAt := constAt, afcAt := afcAt,
    stop := afcAt + 12 * (maskList amask).length }

/-- A position's port nibble (R187). -/
def portNibble (l : List Byte) (o p : Nat) : Nat := field l (o + 16 + p / 2) 1 / (if p % 2 = 0 then 1 else 16) % 16

/-- The PosImg of a position set in posmask (R75, R188). -/
def posImg (l : List Byte) (o : Nat) (y : StripeLay) (p : Nat) : PosImg :=
  let lead := leaderOf (BitVec.ofNat 32 y.gmap) p
  let col := (y.leaders.filter (· < lead)).length
  let wordsAt := 64 + 4 * y.ii * col
  let cidx := ((maskList y.cmask).filter (· < lead)).length
  let aidx := ((maskList y.amask).filter (· < lead)).length
  let hasC := maskBit y.cmask lead
  let hasA := maskBit y.amask lead
  let a := o + y.afcAt + 12 * aidx
  let gstep := fieldS l (a + 10) 2
  let nib := portNibble l o p
  { words := wordsOf l (o + wordsAt) y.ii, wordsAt := wordsAt,
    consts := if hasC then some (wordsOf l (o + y.constAt + 32 * cidx) 8) else none,
    constsAt := if hasC then y.constAt + 32 * cidx else 0,
    afc := if hasA then some { base := BitVec.ofInt 24 ((field l a 3 : Nat) + ((p - lead : Nat) : Int) * gstep),
                               step0 := BitVec.ofNat 16 (field l (a + 4) 2), count0 := BitVec.ofNat 16 (field l (a + 6) 2),
                               step1 := BitVec.ofNat 16 (field l (a + 8) 2) } else none,
    afcAt := if hasA then y.afcAt + 12 * aidx else 0,
    inp := nib % 4, outp := nib / 4 }

/-- The stripe image at an offset of a phase image (R187, R188). -/
def stripeAt (l : List Byte) (o : Nat) : StripeImg :=
  let y := stripeLay l o
  let flags := field l (o + 1) 1
  { off := o, ii := y.ii, stateful := flags % 2 == 1, bmode := flags / 2 % 4, z := field l (o + 2) 1, pmode := field l (o + 3) 1,
    posmask := BitVec.ofNat 32 y.posm, smap := BitVec.ofNat 32 (field l (o + 8) 4), gmap := BitVec.ofNat 32 y.gmap,
    pos := (maskList y.posm).map fun p => (p, posImg l o y p), nblk := field l (o + 42) 2 }

/-- The words a position executes, with the instruction each holds. -/
def PosImg.instrs (p : PosImg) : List (Except DecodeError Instr) := p.words.map decodeElem

def okInstrs (l : List (Except DecodeError Instr)) : List Instr := l.filterMap fun e => match e with
  | .ok i => some i
  | .error _ => none

/-- The longest run of gang members from a position (R75). -/
def gangRun (gmap : Nat) (p : Nat) : Nat := 1 + ((List.range 32).takeWhile fun i => maskBit gmap (p + 1 + i)).length

/-- R190 for a stripe image, other than its words. A steer or merge pair is named for another purpose where a position names its O1 or its I1
(log 114). -/
def stripeHeaderOk (l : List Byte) (o : Nat) : Bool :=
  let y := stripeLay l o
  let flags := field l (o + 1) 1
  let stateful := flags % 2 == 1
  let z := field l (o + 2) 1
  let pm := field l (o + 3) 1
  let smap := field l (o + 8) 4
  let nblk := field l (o + 42) 2
  let nibs := (List.range 32).map fun p => (p, portNibble l o p)
  decide (flags < 8) && decide (pm < 16) && zeroBytes l (o + 44) 20 && zeroBytes l (o + y.stop) (nblk * 64 - y.stop) &&
    field l (o + 40) 2 == y.leaders.length && nblk == ceilDiv y.stop 64 &&
    !maskBit y.gmap 0 &&
    ((maskList y.gmap).all fun p => maskBit y.posm p && maskBit y.posm (p - 1)) &&
    ((maskList y.gmap).all fun p => isMe p == isMe (p - 1)) &&
    (y.leaders.all fun p => gangRun y.gmap p ≤ 8) &&
    ((maskList (y.cmask ||| y.amask)).all fun p => y.leaders.contains p && !isMe p) &&
    ((maskList y.amask).zipIdx.all fun (_, i) => field l (o + y.afcAt + 12 * i + 3) 1 == 0) &&
    ((maskList smap).all fun p => maskBit y.posm p) &&
    (if stateful then decide (1 ≤ z) && decide (z ≤ 180) && z == recordBlocks smap else z == 0 && smap == 0) &&
    (nibs.all fun (p, n) => decide (n % 4 < 3) && decide (n / 4 < 3) && (n == 0 || maskBit y.posm p)) &&
    (!(pm % 2 == 1) || nibs.all fun (_, n) => n / 4 ≠ 2) && (!(pm / 2 % 2 == 1) || nibs.all fun (_, n) => n % 4 ≠ 2) &&
    ((stripeAt l o).pos.all fun (_, p) => (okInstrs p.instrs).all fun i => bankMode i ≤ flags / 2 % 4)

/-- R186 with R72, R73 and R76 for the words of a stripe. -/
def StripeImg.wordsOk (im : StripeImg) : Bool :=
  im.pos.all fun (p, pi) =>
    (pi.words.all fun w => wordKind w == 0 || wordKind w == (if isMe p then 2 else 1)) &&
      (pi.instrs.all fun e => match e with
        | .ok i => (!readsIn i || pi.inp ≠ 0) && (!writesOut i || pi.outp ≠ 0)
        | .error _ => false) &&
      (p ≠ 12 || (okInstrs pi.instrs).all fun i => match i with
        | .mma _ _ a _ _ _ _ _ _ => a == 1#1
        | .mmx _ _ a _ _ _ _ _ _ => a == 1#1
        | _ => true)

/-- The input port p (0 or 1) of a stripe is gated or belongs to a merge pair. -/
def StripeImg.offers (im : StripeImg) (p : Nat) : Bool :=
  im.pmode / 2 ^ (2 + p) % 2 == 1 || (im.pmode / 2 % 2 == 1)

/-- R230, R241, R242 and R244: words whose ports must be of a kind. -/
def StripeImg.flowOk (im : StripeImg) : Bool :=
  let steers := (im.pos.map fun (_, pi) => (okInstrs pi.instrs).filterMap isSteer).flatten
  (im.pos.all fun (_, pi) =>
      (okInstrs pi.instrs).all fun i =>
        (!isEos i || !im.offers (pi.inp - 1)) &&
          (!isGate i || (pi.inp ≠ 0 && im.offers (pi.inp - 1))) &&
          ((isSteer i).isNone || (pi.outp == 1 && im.pmode % 2 == 1)) &&
          (!(im.pmode % 2 == 1 && writesOut i) || pi.outp == 0)) &&
    (match steers with
      | [] => true
      | q :: t => t.all (· == q)) &&
    (im.pmode / 2 % 2 == 0 || im.pos.all fun (_, pi) => pi.inp ≠ 2)

/-- The steer words of a stripe, counting gang members: ws of R242. -/
def StripeImg.steerWords (im : StripeImg) : Nat :=
  (im.pos.map fun (_, pi) => ((okInstrs pi.instrs).filterMap isSteer).length).sum

/-- Is a word of an ME column other than nop and mpass? -/
def meReal : Instr → Bool
  | .nop => false
  | .mpass => false
  | _ => true

/-- An ME word with the fields cleared that may differ within a stripe (asrc), or between the stripes of a block (bsrc, bout). -/
def meSame (stripes : Bool) : Instr → Instr
  | .mma f k _ b o l e d s => .mma f k 0 (if stripes then 0 else b) (if stripes then 0 else o) l e d s
  | .mmx f k _ b o l e d s => .mmx f k 0 (if stripes then 0 else b) (if stripes then 0 else o) l e d s
  | i => i

/-- The column of an ME position. -/
def StripeImg.meColumn (im : StripeImg) (p : Nat) : List Instr := (List.range im.ii).map fun c => im.instr p c

/-- R231 within one stripe. -/
def StripeImg.meOk (im : StripeImg) : Bool :=
  let m := im.posmask.toNat / 2 ^ 12 % 256
  (m == 0 || m == 255) &&
    decide (((im.meColumn 12).filter meReal).length ≤ 1) &&
    ((List.range 8).all fun j => (im.meColumn (12 + j)).map (meSame false) == (im.meColumn 12).map (meSame false))

/-- The bout bit of a word. -/
def meBout : Instr → Bool
  | .mma _ _ _ _ o _ _ _ _ => o == 1#1
  | .mmx _ _ _ _ o _ _ _ _ => o == 1#1
  | _ => false

/-- The word drains its bank (R236, R239). -/
def meDrains : Instr → Bool
  | .mma _ _ _ _ _ _ e _ _ => e == 1#1
  | .mmx _ _ _ _ _ _ e _ _ => e == 1#1
  | .adrain _ _ _ => true
  | _ => false

/-- Words per run (R235). -/
def meRunWords : Instr → Option Nat
  | .mma f _ _ _ _ l _ _ _ => some (meLen l * (8 * meBeta f.toNat / 4))
  | .mmx f _ _ _ _ l _ _ _ => some (meLen l * (8 * meBeta f.toNat / 4) + 16 * (meLen l * meK f.toNat / 32))
  | _ => none

/-- A declaration of a port. -/
def PhaseImg.decl? (m : PhaseImg) (v p : Nat) : Option PortDecl := m.decls.find? fun d => d.v == v && d.p == p

/-- The bsrc of stripe v in a list of stripes. -/
def bsrcIn (l : List StripeImg) (v : Nat) : Option Bool :=
  match l[v]? with
  | some im =>
    match im.meWord with
    | some e => meBsrc e.2
    | none => none
  | none => none

/-- Stripes after v that continue its block. -/
def moreIn (l : List StripeImg) : Nat → Nat → Nat
  | 0, _ => 0
  | n + 1, v => if bsrcIn l (v + 1) = some false then 1 + moreIn l n (v + 1) else 0

/-- The last stripe of the block that begins at v. -/
def blockEnd (l : List StripeImg) (v : Nat) : Nat := if bsrcIn l v = some true then v + moreIn l l.length v else v

/-- R231 for the block that begins at v; `top` is its word. A port of position 12 is checked only for a word that runs (log 128). -/
def PhaseImg.blockOk (m : PhaseImg) (v : Nat) (im : StripeImg) : Bool :=
  match im.meWord with
  | none => true
  | some (_, top) =>
    let e := blockEnd m.stripes v
    let same := (List.range (e - v)).all fun i =>
      match m.stripes[v + 1 + i]? with
      | some q => (q.meColumn 12).map (meSame true) == (im.meColumn 12).map (meSame true)
      | none => false
    let bouts := (List.range (e - v)).all fun i =>
      match m.stripes[v + i]? with
      | some q => !((q.meColumn 12).any meBout)
      | none => false
    let inp := match tfind im.pos 12 with
      | some pi => pi.inp
      | none => 0
    let feed := match meRunWords top with
      | none => true
      | some w =>
        inp ≠ 0 && !im.offers (inp - 1) && (im.pos.all fun (p, pi) => p == 12 || pi.inp ≠ inp) &&
          (match m.decl? v (inp - 1) with
            | some d => d.t % w == 0
            | none => true)
    let drain := !meDrains top ||
      (match m.stripes[e]? with
        | some q => (List.range 8).all fun j => match tfind q.pos (12 + j) with
            | some pi => pi.outp ≠ 0
            | none => false
        | none => false)
    same && bouts && feed && drain

/-- R76 for B: a word that takes B from n follows a stripe of its block. -/
def PhaseImg.bFromN (m : PhaseImg) (v : Nat) : Bool :=
  bsrcIn m.stripes v ≠ some false || (v ≠ 0 && (bsrcIn m.stripes (v - 1)).isSome)

/-- R78: the block that begins at v lies in one pass and one ring, for the slot counts of the group. -/
def PhaseImg.placeOk (m : PhaseImg) (counts : List Nat) (v : Nat) : Bool :=
  let p := counts.sum
  let e := blockEnd m.stripes v
  p ≠ 0 && v / p == e / p && (splitSlot counts (v % p)).1 == (splitSlot counts (e % p)).1

/-- The ports that a stripe uses: those its positions name, O1 of a steer pair and I1 of a merge pair (R134, R192). -/
def StripeImg.uses (im : StripeImg) (p : Nat) : Bool :=
  (im.pos.any fun (_, pi) => if p < 2 then pi.inp == p + 1 else pi.outp == p - 1) ||
    (p == 3 && im.pmode % 2 == 1) || (p == 1 && im.pmode / 2 % 2 == 1)

/-- A port declaration (R192). -/
def declAt (l : List Byte) (o : Nat) : PortDecl :=
  { v := field l o 2, p := field l (o + 2) 1 % 4, tagged := field l (o + 3) 1 % 2 == 1, t := field l (o + 4) 4,
    tag := field l (o + 8) 1, w := field l (o + 9) 1, d := field l (o + 10) 2, tiles := field l (o + 12) 4 }

/-- The values of a declaration's fields (R136, R192). -/
def declOk (l : List Byte) (o : Nat) (m : PhaseImg) : Bool :=
  let d := declAt l o
  match m.stripes[d.v]? with
  | none => false
  | some im =>
    let offers := decide (d.p < 2) && im.offers d.p
    let mergeIn := decide (d.p < 2) && im.pmode / 2 % 2 == 1
    decide (field l (o + 2) 1 < 4) && decide (field l (o + 3) 1 < 2) && decide (1 ≤ d.t) && decide (d.t ≤ 2 ^ 20) &&
      (!d.tagged || d.p < 2) &&
      (if offers then decide (1 ≤ d.w) && decide (d.w ≤ 32) else d.w == 0) &&
      (if mergeIn && d.p == 0 then decide (1 ≤ d.d) && decide (d.d ≤ 4096) else d.d == 0) &&
      (d.tagged || d.tiles == 0) && im.uses d.p

/-- A phase image as its bytes give it (R191, R192); fields that the checks have not passed are read as they stand. -/
def imageOf (l : List Byte) : PhaseImg :=
  let v := field l 6 2
  let pd := field l 32 8
  let sl := field l 40 8
  let flags := field l 9 1
  { v := v, ii := field l 8 1, ftz := flags % 2 == 1, zipt := flags / 2 % 2 == 1, n := field l 10 2, count := field l 12 4,
    seed := BitVec.ofNat 32 (field l 16 4), decls := (List.range (field l 20 2)).map fun i => declAt l (pd + 16 * i),
    stripes := (List.range v).map fun i => stripeAt l (field l (sl + 8 * i) 8) }

/-- No element stands twice in a list. -/
def noDup : List Nat → Bool
  | [] => true
  | a :: t => !t.contains a && noDup t

/-- R191 and R192: offsets and sizes. -/
def offsetsOk (l : List Byte) (size : Nat) : Bool :=
  let v := field l 6 2
  let pd := field l 32 8
  let sl := field l 40 8
  aligned size 64 && decide (64 ≤ size) && aligned pd 8 && aligned sl 8 && decide (pd + 16 * field l 20 2 ≤ size) &&
    decide (sl + 8 * v ≤ size) &&
    ((List.range v).all fun i =>
      let o := field l (sl + 8 * i) 8
      aligned o 64 && decide (o + 64 ≤ size) && decide (o + 64 * field l (o + 42) 2 ≤ size))

/-- The sum of the stateful records in bytes (R49). -/
def PhaseImg.recordBytes (m : PhaseImg) : Nat := (m.stripes.map fun im => if im.stateful then 64 * im.z else 0).sum

/-- R58 for the whole image, with the group's slot counts and the carve word. -/
def PhaseImg.r58 (m : PhaseImg) (counts : List Nat) (carve : W64) : Bool :=
  let scroll := decide (counts.sum < m.v)
  decide (1 ≤ m.v) && decide (1 ≤ m.n) && decide (1 ≤ m.ii) && decide (m.ii ≤ if scroll then 16 else 32) &&
    (!scroll || (decide (m.n ≤ 512 * carveWrap carve) && decide (m.recordBytes ≤ 65536 * carveSave carve)))

/-- R58 for one stripe: the uniform II and the state size. -/
def PhaseImg.r58Stripe (m : PhaseImg) (im : StripeImg) : Bool :=
  im.ii == m.ii && (!im.stateful || (decide (1 ≤ im.z) && decide (im.z ≤ 180)))

/-- A matrix block drains through stripe v, which its last stripe is, while v is in steer mode: a word other than a steer word writes O0 or O1 (R242). -/
def PhaseImg.drainsSteer (m : PhaseImg) (v : Nat) (im : StripeImg) : Bool :=
  im.pmode % 2 == 1 && (im.pos.any fun e => isMe e.1 && e.2.outp ≠ 0) &&
    (List.range (v + 1)).any fun u => blockEnd m.stripes u == v && (match m.stripes[u]? with
      | some top => (match top.meWord with
          | some w => meDrains w.2
          | none => false)
      | none => false)

/-- The checks of a phase image in the order of their numbers in R382; the image checks that R382 does not number come last, and stand
without a number (log 18). -/
def imageErr (l : List Byte) (size : Nat) (counts : List Nat) (carve : W64) : Option ImgErr :=
  let magic := field l 0 4 == 0x4C475048 && field l 4 2 == 2
  let resv := decide (field l 9 1 < 4) && zeroBytes l 22 2 && zeroBytes l 52 12 && field l 24 8 / 2 ^ 35 == 0
  if !magic then some (imgErr 1 0 0)
  else if !resv then some (imgErr 2 0 0)
  else if !offsetsOk l size then some (imgErr 3 0 0)
  else
    let m := imageOf l
    let pd := field l 32 8
    let vs := List.range m.v
    let keys := m.decls.map fun d => portKey d.v d.p
    let declBad := (List.range m.decls.length).find? fun i => !declOk l (pd + 16 * i) m
    let missing := vs.any fun v => match m.stripes[v]? with
      | some im => [0, 1, 2, 3].any fun p => im.uses p && !keys.contains (portKey v p)
      | none => true
    let tags := (m.decls.filter (·.tagged)).map (·.tag)
    let bad (f : Nat → StripeImg → Bool) : Option (Nat × Nat) :=
      (m.stripes.zipIdx.find? fun (im, v) => !f v im).map fun (im, v) => (v, im.off)
    match declBad with
    | some i => some (imgErr 4 0 (pd + 16 * i))
    | none =>
      if !noDup keys || missing || !noDup tags then some (imgErr 4 0 pd)
      else if !m.r58 counts carve then some (imgErr 5 0 0)
      else
        let flow (v : Nat) (im : StripeImg) : Bool :=
          im.flowOk && im.meOk && !m.drainsSteer v im && (bsrcIn m.stripes v == some false || m.blockOk v im)
        [(some 5, bad fun _ im => m.r58Stripe im), (some 6, bad fun v im => im.meWord.isNone || m.placeOk counts v),
          (some 7, bad fun v im => im.wordsOk && m.bFromN v), (some 8, bad fun _ im => stripeHeaderOk l im.off), (none, bad flow)].findSome?
          fun x => x.2.map fun e => { check := x.1, vs := e.1, off := e.2 }

/-- R103: the carve word. -/
def carveOk (carve creq : W64) : Bool :=
  decide (carveScratch carve + carveSpill carve + carveWrap carve + carveSave carve + carveFifo carve ≤ 96) &&
    carve.toNat / 2 ^ 35 == 0 && decide (carveScratch creq ≤ carveScratch carve) && decide (carveSpill creq ≤ carveSpill carve) &&
    decide (carveWrap creq ≤ carveWrap carve) && decide (carveSave creq ≤ carveSave carve) &&
    decide (carveFifo creq ≤ carveFifo carve)

end Sys2Proof.Machine
end

