-- ==== Sys2Proof/Machine/Ops.lean ====
section
/-! DEFINITION. The operations that sequencer instructions share: registers, waiting, completing, memory accesses and their checks, and
taking a trap or an interrupt and returning from one (R248 to R256, R300, R323 to R328). -/

namespace Sys2Proof.Machine

/-- The outcome of an instruction. -/
abbrev Out := Host.Outcome State Fault Refusal

/-- The registers of a thread. -/
def State.seqOf (s : State) : Thread → Seq
  | .ring r => (s.ring r).seq
  | .core d => (s.die d).core

/-- Changes the registers of a thread. -/
def State.updSeq (s : State) (t : Thread) (f : Seq → Seq) : State :=
  match t with
  | .ring r => s.updRing r fun x => { x with seq := f x.seq }
  | .core d => s.updDie d fun x => { x with core := f x.core }

/-- The thread that runs. -/
def State.me (s : State) : Seq := s.seqOf s.cur

/-- A source register: x0 reads 0 (R195). -/
def State.x (s : State) (i : BitVec 5) : W64 := if i = 0 then 0 else tget 0 s.me.x i.toNat

/-- Writes a register with what its value depends on (R255); a write to x0 is discarded (R195). -/
def State.setXd (s : State) (i : BitVec 5) (v : W64) (d : Dep) : State :=
  if i = 0 then s else s.updSeq s.cur fun q => { q with x := tput q.x i.toNat v, deps := tset Dep.zero q.deps i.toNat d }

/-- Writes a register with a value that depends on no load. -/
def State.setX (s : State) (i : BitVec 5) (v : W64) : State := s.setXd i v Dep.zero

/-- What the values of some registers depend on (R255). -/
def State.depOf (s : State) (l : List (BitVec 5)) : Dep := l.foldl (fun d i => d.join (tget Dep.zero s.me.deps i.toNat)) Dep.zero

/-- The address of the instruction that runs. -/
def State.pc (s : State) : W64 := s.me.pc

/-- The level at which a thread runs (R319). -/
def State.levelOf (s : State) : Thread → Level
  | .ring r => (s.ring r).level
  | .core _ => .h

/-- The ring of the thread that runs, if it is a ring's. -/
def State.myRing (s : State) : Option Nat :=
  match s.cur with
  | .ring r => some r
  | .core _ => none

/-- An operation will still write a register when its copy is accepted (R283). -/
def Ring.owes (x : Ring) (i : BitVec 5) : Bool :=
  (x.asyncs.any fun a => (match a.op with
    | .cpy _ => true
    | .cpyB _ => true
    | .pload _ _ _ => false
    | .crnStep _ => false) && a.rd == i) || x.copyReady.any fun c => c.rd == some i

/-- A register awaits an outstanding load, atomic or promise (R248, R283). -/
def State.pend (s : State) (t : Thread) (i : BitVec 5) : Bool :=
  i ≠ 0 && ((s.seqOf t).loads.any (fun l => l.rd == i) ||
    (match t with
      | .ring r => (s.ring r).owes i
      | .core _ => false))

/-- Some register of a list awaits a result. -/
def State.pendAny (s : State) (l : List (BitVec 5)) : Bool := l.any (s.pend s.cur)

/-- The wait of an instruction is over. -/
def State.endWait (s : State) (t : Thread) : State :=
  match t with
  | .ring r => s.updRing r fun x => { x with wait := none }
  | .core _ => s

/-- The instruction completes and continues at an address (R248, R262). -/
def State.goto (s : State) (target : W64) : State :=
  (s.endWait s.cur).updSeq s.cur fun q => { q with pc := target, instret := q.instret + 1 }

/-- The instruction completes and continues with the next word. -/
def State.done (s : State) : State := s.goto (s.pc + 4)

/-- An instruction that reads some registers and writes one: it waits for those that are outstanding (R248). -/
def regOp (d : BitVec 5) (srcs : List (BitVec 5)) (v : State → W64) (s : State) : Out :=
  if s.pendAny (d :: srcs) then .next s else .next (s.setXd d (v s) (s.depOf srcs)).done

/-- A jump target that R202 rejects: misaligned, non-canonical or in the upper half. -/
def badTarget (v : W64) : Bool := v.toNat % 4 ≠ 0 || decide (2 ^ 54 ≤ v.toNat)

/-- One byte of an access by a thread at a level. -/
def State.threadPlace (s : State) (t : Thread) (lvl : Level) (a : Acc) (va : W64) : Except AccErr (Nat × MemAttr) :=
  match t with
  | .ring r => s.ringPlace (s.ctxOf r lvl) a va
  | .core d => s.corePlace d a va

/-- The checks of an access of `n` bytes by the running thread, in their order (R252); `al` demands an alignment. -/
def State.access (s : State) (a : Acc) (va : W64) (n : Nat) (al : Option Nat) : Except AccErr (List (Nat × MemAttr)) :=
  let off : Bool := match al with
    | some m => decide (va.toNat % m ≠ 0)
    | none => false
  match spanPlaces (s.threadPlace s.cur (s.levelOf s.cur) a) va n with
  | .error e => if off && decide (3 < e.order) then .error (.align va) else .error e
  | .ok ps => if off then .error (.align va) else .ok ps

/-- Would a fetch at an address fail, and how (R203, R252)? -/
def State.fetchErr (s : State) (t : Thread) (lvl : Level) (pc : W64) : Option AccErr :=
  match spanPlaces (s.threadPlace t lvl .fetch) pc 4 with
  | .error e => some e
  | .ok _ => none

/-- The cause and value of a failed check (R324, R371). -/
def AccErr.cause : AccErr → Nat × W64
  | .addr va => (0x12, va)
  | .align va => (0x13, va)
  | .bounds va => (0x14, va)
  | .xlat f => (if f.onlyX then 0x15 else if f.stage = 1 then 0x16 else 0x17, f.addr)
  | .window h => (0x18, h)
  | .mem _ => (0, 0)

/-- The fields SSTATUS takes when S is entered (R325). -/
def State.enterStatus (s : State) (r : Nat) : W64 :=
  let st := s.rcsr r 0x1001
  let lvl := if (s.ring r).level = .u then 0 else 1
  BitVec.ofNat 64 (fld st 0 0 * 2 + lvl * 4 + fld (s.rcsr r 0x02C) 0 0 * 8)

/-- STVEC's handler address (R322). -/
def State.stvec (s : State) (r : Nat) : W64 := s.rcsr r 0x1002 &&& 0xFFFFFFFFFFFFFFFC

/-- The handler address of S cannot be entered: it fails R202 or its fetch would fault (R325). -/
def State.badHandler (s : State) (r : Nat) : Bool :=
  badTarget (s.stvec r) || (s.fetchErr (.ring r) .s (s.stvec r)).isSome

/-- Delivery to S, for a trap or an interrupt (R325): `cause` is what SCAUSE holds. -/
def State.toS (s : State) (r : Nat) (pc : W64) (cause value : W64) : State :=
  let st := s.enterStatus r
  let target := s.stvec r
  let s1 := (((s.setRcsr r 0x1003 pc).setRcsr r 0x1004 cause).setRcsr r 0x1005 value).setRcsr r 0x1001 st
  s1.updRing r fun x => { x with level := .s, wait := none, run := .run, seq := { x.seq with pc := target } }

/-- The S branch of R325. Where S cannot be entered for an interrupt, RTVAL takes the index of its bit (log 130). -/
def State.sBranch (s : State) (r : Nat) (pc : W64) (cause value : W64) : State :=
  if s.badHandler r then s.park r pc 0x1B (BitVec.ofNat 64 (fld cause 7 0)) else s.toS r pc cause value

/-- HDELEG withholds a cause from S, or the cause is H's own (R324, R325). -/
def State.hOnly (s : State) (r cause : Nat) : Bool :=
  cause == 0x17 || cause == 0x19 || cause == 0x1A || cause == 0x1B ||
    (decide (0x10 ≤ cause) && !bit (s.rcsr r 0x2104) (cause - 0x10))

/-- The routing of a synchronous cause that the graph's handler does not take (R325). -/
def State.routeTrap (s : State) (r : Nat) (pc : W64) (cause : Nat) (value : W64) : State :=
  if s.hOnly r cause then s.park r pc cause value else s.sBranch r pc (BitVec.ofNat 64 cause) value

/-- The graph's handler takes user causes now (R300). -/
def State.userTaken (s : State) (r cause : Nat) : Bool :=
  (s.ring r).level == .u && bit (s.rcsr r 0x028) 0 && !bit (s.rcsr r 0x02C) 0 && !bit (s.rcsr r 0x1007) cause

/-- UTVEC's handler address (R299). -/
def State.utvec (s : State) (r : Nat) : W64 := s.rcsr r 0x028 &&& 0xFFFFFFFFFFFFFFFC

/-- Delivery to the graph's handler (R300). -/
def State.toUser (s : State) (r : Nat) (pc : W64) (cause : Nat) (value : W64) : State :=
  let target := s.utvec r
  let s1 := (((s.setRcsr r 0x029 pc).setRcsr r 0x02A (BitVec.ofNat 64 cause)).setRcsr r 0x02B value).setRcsr r 0x02C 1
  s1.updRing r fun x => { x with wait := none, seq := { x.seq with pc := target, x := tput x.seq.x 31 (pc + 4) } }

/-- A synchronous cause of a ring's RSQ (R300, R325). A user delivery waits for an outstanding write of x31 (log 15). -/
def State.trapRing (s : State) (r : Nat) (cause : Nat) (value : W64) : State :=
  let pc := (s.ring r).seq.pc
  if cause < 0x10 ∧ s.userTaken r cause then
    if badTarget (s.utvec r) then s.routeTrap r pc 0x12 (s.utvec r)
    else if s.pend (.ring r) 31 then s
    else s.toUser r pc cause value
  else s.routeTrap r pc cause value

/-- HSTATUS as it reads: evtp follows the queue and tmrp the compare (R328). -/
def State.hstatus (s : State) (d : Nat) : W64 :=
  setFld (setFld (s.dcsr d 0x2006) 8 8 (if (s.die d).hevt.isEmpty then 0 else 1)) 9 9 (if s.dcsr d 0x2008 ≤ s.time then 1 else 0)

/-- SIP as it reads: tmr is 1 while TIME has reached STIMECMP (R322). -/
def State.sip (s : State) (r : Nat) : W64 := setFld (s.rcsr r 0x100A) 0 0 (if s.rcsr r 0x100B ≤ s.time then 1 else 0)

/-- A management core takes a trap or an interrupt (R328): where HTVEC fails R202 it stops and reports over I3C. -/
def State.coreTrap (s : State) (d : Nat) (cause value : W64) : State :=
  let target := s.dcsr d 0x2002 &&& 0xFFFFFFFFFFFFFFFC
  if badTarget target then { s.updDie d fun x => { x with stopped := true } with i3c := some 1 }
  else
    let st := s.dcsr d 0x2006
    let st' := setFld (setFld st 1 1 (fld st 0 0)) 0 0 0
    let s1 := (((s.setDcsr d 0x2003 (s.die d).core.pc).setDcsr d 0x2004 cause).setDcsr d 0x2005 value).setDcsr d 0x2006 st'
    s1.updDie d fun x => { x with waiting := false, core := { x.core with pc := target } }

/-- The running thread takes a synchronous trap: precise, at the instruction that runs (R248, R325, R328). -/
def State.trap (s : State) (cause : Nat) (value : W64) : State :=
  match s.cur with
  | .ring r => s.trapRing r cause value
  | .core d => s.coreTrap d (BitVec.ofNat 64 cause) value

/-- A ring's interrupt that is pending and taken now: the lowest bit of SIP AND SIE (R323). -/
def State.ringInt (s : State) (r : Nat) : Option Nat :=
  let x := s.ring r
  let p := fld (s.sip r &&& s.rcsr r 0x1009) 4 0
  if x.run = .run ∧ p ≠ 0 ∧ (x.level = .u ∨ bit (s.rcsr r 0x1001) 0) then some (trailZeros 5 p) else none

/-- A management core's interrupt that is taken now: 8 for an event, 9 for the timer (R328). -/
def State.coreInt (s : State) (d : Nat) : Option Nat :=
  let st := s.hstatus d
  if !bit st 0 then none
  else if bit st 8 ∧ bit st 4 then some 8
  else if bit st 9 ∧ bit st 5 then some 9
  else none

/-- A management core has something to leave wfi for (R331). -/
def State.coreWake (s : State) (d : Nat) : Bool :=
  let st := s.hstatus d
  (bit st 8 && bit st 4) || (bit st 9 && bit st 5)

/-- The newest older store of the buffer that holds a place (R254). -/
def forward (stores : List BufStore) (seq place : Nat) : Option Byte :=
  let hit := (stores.filter fun b => decide (b.seq < seq) && b.locs.contains place).getLast?
  match hit with
  | some b => ((b.locs.zip b.data).find? fun p => p.1 == place).map (·.2)
  | none => none

/-- Two lists of places overlap. -/
def overlap (a b : List Nat) : Bool := a.any b.contains

/-- An older outstanding load or atomic touches one of the places (R111). -/
def olderLoad (q : Seq) (seq : Nat) (locs : List Nat) : Bool := q.loads.any fun l => decide (l.seq < seq) && overlap l.locs locs

/-- An access of a thread met an error after it passed its checks (R248, R412, R428). An integrity fault of a core stops no VF: the access delivers nothing (log
7). -/
def State.threadFail (s : State) (t : Thread) (e : MemErr) : State :=
  match t, e with
  | .ring r, e => s.memFail r 0 e
  | .core d, .machine pa => s.post d 6 0 0 (errRing d pa)
  | .core _, _ => s

/-- The thread that runs has been stopped by an integrity fault of its own access (R412). -/
def State.stoppedNow (s : State) : Bool :=
  match s.cur with
  | .ring r => (s.ring r).run == .parked
  | .core _ => false

/-- A failed check ends an access: the trap of R252, or where a descriptor of its walk does not come the machine check, with which the access ends
without effect (R364, R428). -/
def State.accTrap (s : State) (e : AccErr) : State :=
  match e with
  | .mem m =>
    let u := s.threadFail s.cur m
    if u.stoppedNow then u else u.done
  | e => s.trap e.cause.1 e.cause.2

/-- The same for an access that writes a register: a machine check leaves 0 in it, and an integrity fault what it held (R412, R428). -/
def State.accTrapTo (s : State) (d : BitVec 5) (e : AccErr) : State :=
  match e with
  | .mem (.machine _) => (s.setX d 0).accTrap e
  | e => s.accTrap e

/-- An access names a byte of the range [base, base + len) (R260). -/
def inRange (base len : Nat) (va : W64) (n : Nat) : Bool :=
  (List.range n).any fun i =>
    let a := (va + BitVec.ofNat 64 i).toNat
    decide (base ≤ a) && decide (a < base + len)

/-- A window access: no annotation, fence or release orders it (R122). -/
def isWin (l : List MemAttr) : Bool := l.any fun a => (winOf a).isSome

/-- Accesses of a thread that a fence or a release waits for are outstanding (R118, R122). -/
def Seq.busy (q : Seq) : Bool := (q.loads.any fun l => !isWin l.attrs) || (q.stores.any fun b => !isWin b.attrs)

/-- The thread's earlier accesses have performed: a release waits for them (R287, R295, R296, R343). -/
def State.quiet (s : State) : Bool := !s.me.busy

/-- A FENCE has every address in its range (R118). -/
def RangeFence.full (f : RangeFence) : Bool := decide (2 ^ 64 ≤ f.len)

/-- A FENCE or FENCE.RG in the way of an access: an access before it in its range has not performed (R118). -/
def Seq.barred (q : Seq) (seq : Nat) (va : W64) (n : Nat) : Bool :=
  q.ranges.any fun f => decide (f.seq < seq) && f.done.isNone && inRange f.base f.len va n

/-- An access before a fence, in its range, is outstanding. -/
def Seq.within (q : Seq) (f : RangeFence) : Bool :=
  (q.loads.any fun l => decide (l.seq < f.seq) && !isWin l.attrs && inRange f.base f.len l.va l.nb) ||
    (q.stores.any fun b => decide (b.seq < f.seq) && !isWin b.attrs && inRange f.base f.len b.va b.locs.length)

/-- All that a thread has done happens before something (R110). -/
def State.ordered (s : State) (t : Thread) : Dep :=
  { near := s.free, wrote := joinTab (s.seqOf t).front.wrote [((agentOf t).code, s.free)] }

/-- What a thread's earlier reads in a fence's range have met of releases within its scope: the fence acquires it (R118). -/
def Seq.heardIn (q : Seq) (f : RangeFence) : Dep :=
  q.heard.foldl (fun d e => if f.base ≤ e.1 ∧ e.1 < f.base + f.len then e.2.foldl (fun d x => if x.1 ≤ f.scope then d.join x.2 else d) d else d) Dep.zero

/-- The thread's writes to HOST are visible to every agent of a scope (R118). -/
def State.showHost (s : State) (t : Thread) (c : Nat) : State :=
  { s with past := s.past.map fun e =>
      if e.who = agentOf t ∧ isHostPa e.key ∧ (tfind e.shown c).isNone then { e with shown := tput e.shown c s.free } else e }

/-- What a front holds after a fence of a scope whose earlier accesses had performed by a stamp (R106, R118). -/
def Front.fence (f : Front) (c now : Nat) (d : Dep) : Front := (if c = 3 then f.all now else f).acquire c { d with near := max now d.near }

/-- The operations that a thread issued after a FENCE come after it too (R118, R119). -/
def State.fenceAsyncs (s : State) (t : Thread) (f : RangeFence) (heard : Dep) : State :=
  match t with
  | .core _ => s
  | .ring r =>
    if !f.full || !((s.ring r).asyncs.any fun a => decide (f.seq < a.seq)) then s
    else s.updRing r fun x => { x with asyncs := x.asyncs.map fun a =>
      if f.seq < a.seq then { a with x := { a.x with front := a.x.front.fence f.scope s.free heard } } else a }

/-- The accesses before a fence, in its range, have performed (R118): its later accesses observe what its scope's agents had written by now and what its earlier
reads acquire, and its earlier writes are visible to its scope and released by its later ones. A FENCE.RG keeps this for the accesses in its range. -/
def State.settleFence (s : State) (t : Thread) (f : RangeFence) : State :=
  let heard := (s.seqOf t).heardIn f
  let own := s.ordered t
  let gave : Dep := { own with wrote := joinTab own.wrote heard.wrote }
  let s1 := s.updSeq t fun q =>
    if f.full then
      { q with front := q.front.fence f.scope s.free heard, fenced := joinRel q.fenced [(f.scope, gave)],
               ranges := q.ranges.filter fun r => r.seq ≠ f.seq ∧ (r.done.isNone ∨ f.seq < r.seq ∨ f.scope < r.scope) }
    else { q with ranges := q.ranges.map fun r => if r.seq = f.seq then { r with done := some s.free, gave := gave } else r }
  ((s1.fenceAsyncs t f heard).showHost t f.scope).releaseBy t f.scope

/-- The fences of a thread whose earlier accesses have all performed take effect (R118). -/
def State.settleRanges (s : State) (t : Thread) : State :=
  let q := s.seqOf t
  (q.ranges.filter fun f => f.done.isNone && !q.within f).foldl (fun u f => u.settleFence t f) s

/-- A thread as a reader of an access: its front, with what its address depends on and the FENCE.RGs before it in whose ranges it lies (R118, R255). -/
def State.readerOf (s : State) (t : Thread) (seq : Nat) (dep : Dep) (va : W64) (n : Nat) : Reader :=
  let q := s.seqOf t
  let f := q.ranges.foldl (init := q.front.join dep) fun f x =>
    match x.done with
    | some u => if x.seq < seq ∧ inRange x.base x.len va n then f.fence x.scope u x.gave else f
    | none => f
  { me := agentOf t, front := f }

/-- What a read gives a thread: its bytes, what they depend on but for the releases it has read — what its address depends on, and the newest write
observed — what it has observed, and the state in which the thread knows it. -/
structure Got where
  bytes : List Byte
  base : Dep
  state : State
  obs : List (Byte × Option Past)

/-- What a thread's read gives a dependent access, or an acquire at a scope: the releases that it synchronises with at that scope too (R116, R255). -/
def Got.dep (g : Got) (t : Thread) (c : Nat) : Dep := g.base.join (g.state.syncOf (agentOf t) c g.obs)

/-- Reads bytes for a thread: its own older stores first, then what it observes of memory (R111, R254); what happens before the read becomes visible first
(R106). -/
def State.readFor (s : State) (t : Thread) (seq : Nat) (dep : Dep) (va : W64) (ps : List (Nat × MemAttr)) : Except MemErr Got :=
  let q := s.seqOf t
  let rest := ps.filter fun p => (forward q.stores seq p.1).isNone
  let go : Got :=
    let s0 := s.force (s.readerOf t seq dep va ps.length).front.wrote
    let l := s0.observe (s.readerOf t seq dep va ps.length) 0 ps
    let seen := ((ps.zip l).zipIdx).filter fun x => (forward q.stores seq x.1.1.1).isNone
    let obs := seen.map (·.1.2)
    let near := (seen.filter fun x => !isHostPa x.1.1.1 && (winOf x.1.1.2).isNone).map (·.1.2)
    let heard := s0.hears (agentOf t) (seen.map fun x => (va + BitVec.ofNat 64 x.2, x.1.2))
    { bytes := (ps.zip l).map fun x => (forward q.stores seq x.1.1).getD x.2.1,
      base := dep.join { near := s0.stampOf (agentOf t) near, wrote := [] }, obs := obs,
      state := (s0.updSeq t fun q => { q with front := s0.learn (agentOf t) q.front rest obs, heard := joinHeard q.heard heard }).transfers rest }
  match s.placesErr rest with
  | some e => .error e
  | none => .ok go

/-- An acquire at a scope, by a thread that has read (R116): later accesses observe all that was ordered before the writes read. -/
def State.acquire (s : State) (t : Thread) (c : Nat) (d : Dep) : State := s.updSeq t fun q => { q with front := q.front.acquire c d }

/-- An acquire of what the ring's copies, and the phases it issued, have released: a wait that ends (R112, R119). -/
def State.acquireOwn (s : State) (r : Nat) : State :=
  s.updSeq (.ring r) fun q => { q with front := q.front.sup (s.ring r).joined, cut := q.nextSeq }

/-- A load or atomic that orders later accesses at its scope (R116, R122). -/
def PendLoad.orders (l : PendLoad) : Bool := l.acq && !isWin l.attrs

/-- An acquire is outstanding that holds a later access, but none to a window (R116, R122). One at ring scope with no other agent of the ring at work does
not hold a store, whose order no other agent of its scope can tell (R109; log 112). -/
def State.acqHolds (s : State) (store : Bool) (ps : List (Nat × MemAttr)) : Bool :=
  !isWin (ps.map (·.2)) && s.me.loads.any fun l => l.orders && !(store && s.noPeer s.cur l.scope.toNat)

/-- An access takes the next place in program order. -/
def State.nextSeqNo (s : State) : Nat := s.me.nextSeq

/-- A load passes its checks and becomes outstanding (R248, R251). The store buffer merges no store across an acquire or an atomic (R117). -/
def State.issueLoad (s : State) (l : PendLoad) : State :=
  let cuts : Bool := l.acq || (match l.kind with
    | .load _ => false
    | .map => false
    | .amo _ _ _ => true)
  s.updSeq s.cur fun q => { q with loads := q.loads ++ [l], nextSeq := q.nextSeq + 1, cut := if cuts then q.nextSeq + 1 else q.cut }

/-- The newest buffered store to the same bytes that a store may merge with: no acquire, fence or atomic lies between them (R117), and no outstanding load that
reads a byte of the earlier store, which it must observe (R111). -/
def Seq.mergeAt (q : Seq) (locs : List Nat) : Option Nat :=
  let free (b : BufStore) : Bool := !q.loads.any fun l => decide (b.seq < l.seq) && overlap l.locs b.locs
  ((q.stores.zipIdx.filter fun e => e.1.locs == locs && decide (q.cut ≤ e.1.seq) && free e.1).getLast?).map (·.2)

/-- A store retires into the store buffer: a misaligned one as single bytes (R253, R254). It may take into itself an earlier store of the RSQ to the
same bytes (R117). -/
def State.issueStore (s : State) (b : BufStore) (whole : Bool) : State :=
  if whole then
    let plain := s.updSeq s.cur fun q => { q with stores := q.stores ++ [b], nextSeq := q.nextSeq + 1 }
    match s.cur, s.me.mergeAt b.locs with
    | .ring _, some i =>
      match s.me.stores[i]? with
      | some p =>
        if Config.mergeStore s.free then
          s.updSeq s.cur fun q =>
            { q with stores := q.stores.eraseIdx i ++
                       [{ b with rel := b.rel || p.rel, scope := if p.scope.toNat < b.scope.toNat then b.scope else p.scope }],
                     nextSeq := q.nextSeq + 1 }
        else plain
      | none => plain
    | _, _ => plain
  else
    let parts := (List.range b.locs.length).map fun i =>
      { b with va := b.va + BitVec.ofNat 64 i, locs := (b.locs.drop i).take 1, attrs := (b.attrs.drop i).take 1, data := (b.data.drop i).take 1 }
    s.updSeq s.cur fun q => { q with stores := q.stores ++ parts, nextSeq := q.nextSeq + 1 }

/-- The value an atomic writes, if it writes (R256). -/
def amoNew (kind : BitVec 5) (n : Nat) (m z c : Nat) : Option Nat :=
  let sg (v : Nat) : Int := sextN v (8 * n)
  match kind with
  | 0 => some ((m + z) % 2 ^ (8 * n))
  | 1 => some (m &&& z)
  | 2 => some (m ||| z)
  | 3 => some (m ^^^ z)
  | 4 => some (if sg z < sg m then z else m)
  | 5 => some (if sg m < sg z then z else m)
  | 6 => some (min m z)
  | 7 => some (max m z)
  | 8 => some z
  | 9 => if m = c then some z else none
  | _ => none

/-- The effective address of a memory form (R251). -/
def State.ea (s : State) (base : BitVec 5) (size : BitVec 2) (disp : BitVec 10) : W64 :=
  s.x base + BitVec.ofInt 64 (disp.toInt * (2 ^ size.toNat : Nat))

/-- A load of format M (R251). -/
def loadOp (signed : Bool) (d b : BitVec 5) (z o c : BitVec 2) (i : BitVec 10) (s : State) : Out :=
  if s.pendAny [d, b] then .next s
  else
    let n := 2 ^ z.toNat
    let va := s.ea b z i
    match s.access .load va n (if o = 0 then none else some n) with
    | .error e => .next (s.accTrapTo d e)
    | .ok ps =>
      if s.acqHolds false ps then .next s
      else
        .next (s.issueLoad { seq := s.nextSeqNo, kind := .load signed, rd := d, nb := n, acq := o.getLsbD 0, rel := false, scope := c,
                             va := va, locs := ps.map (·.1), attrs := ps.map (·.2), dep := s.depOf [b], got := [], took := Dep.zero }).done

/-- A store of format M (R251). -/
def storeOp (d b : BitVec 5) (z o c : BitVec 2) (i : BitVec 10) (s : State) : Out :=
  if s.pendAny [d, b] then .next s
  else
    let n := 2 ^ z.toNat
    let va := s.ea b z i
    match s.access .store va n (if o = 0 then none else some n) with
    | .error e => .next (s.accTrap e)
    | .ok ps =>
      if s.acqHolds true ps then .next s
      else
        .next (s.issueStore { seq := s.nextSeqNo, rel := o.getLsbD 1, scope := c, va := va, locs := ps.map (·.1),
                              attrs := ps.map (·.2), data := leBytes n (s.x d).toNat } (va.toNat % n == 0)).done

/-- An atomic (R256). -/
def amoOp (kind : BitVec 5) (d a b : BitVec 5) (c o : BitVec 2) (z : BitVec 1) (s : State) : Out :=
  if s.pendAny [d, a, b] then .next s
  else
    let n := 4 * 2 ^ z.toNat
    let va := s.x a
    match s.access .amo va n (some n) with
    | .error e => .next (s.accTrapTo d e)
    | .ok ps =>
      if s.acqHolds false ps then .next s
      else
        .next (s.issueLoad { seq := s.nextSeqNo, kind := .amo kind (s.x b) (s.x d), rd := d, nb := n, acq := o.getLsbD 0,
                             rel := o.getLsbD 1, scope := c, va := va, locs := ps.map (·.1), attrs := ps.map (·.2), dep := s.depOf [a],
                             got := [], took := Dep.zero }).done

/-- A read the instruction needs at once (R259, R285, R291, R296, R330), its address computed from some registers: it waits while an older load of the same
bytes, an acquire, or a fence before it is outstanding, and while the banks it reads take no traffic (R426). The bytes of data that never came read 0 (R428;
log 16). -/
def State.readNow (s : State) (regs : List (BitVec 5)) (va : W64) (ps : List (Nat × MemAttr)) : Option (List Byte × State) :=
  if s.acqHolds false ps || (ps.any fun p => s.railGated p.1) || olderLoad s.me s.me.nextSeq (ps.map (·.1)) ||
      (!isWin (ps.map (·.2)) && s.me.barred s.me.nextSeq va ps.length) then none
  else
    match s.readFor s.cur s.me.nextSeq (s.depOf regs) va ps with
    | .ok g => some (g.bytes, g.state)
    | .error e => some (ps.map fun _ => 0, s.threadFail s.cur e)

/-- A read of a record by a synchronous form: checked whole and then read (R252, R330). -/
def withRecord (regs : List (BitVec 5)) (va : W64) (n al : Nat) (k : List Byte → State → Out) (s : State) : Out :=
  match s.access .load va n (some al) with
  | .error e => .next (s.accTrap e)
  | .ok ps =>
    match s.readNow regs va ps with
    | none => .next s
    | some (bs, s1) => if s1.stoppedNow then .next s1 else k bs s1

/-- The thread that an event names by number: rings 0 to 127, then the cores. -/
def threadOf (th : Nat) : Thread := if th < 128 then .ring th else .core (th - 128)

/-- The value a load writes from its bytes (R251, R256). -/
def PendLoad.value (l : PendLoad) (bs : List Byte) : W64 :=
  match l.kind with
  | .load signed => if signed then w64 (sextN (leNat bs) (8 * l.nb)) else BitVec.ofNat 64 (leNat bs)
  | .amo _ _ _ => w64 (sextN (leNat bs) (8 * l.nb))
  | .map => BitVec.ofNat 64 (leNat bs)

/-- A thread has older accesses outstanding than its access in a place of the program order, those to windows aside (R116, R122). -/
def Seq.before (q : Seq) (seq : Nat) : Bool :=
  (q.loads.any fun l => decide (l.seq < seq) && !isWin l.attrs) || (q.stores.any fun b => decide (b.seq < seq) && !isWin b.attrs)

/-- A release of a thread at a scope still waits for older accesses (R116): not at ring scope where the ring has no other agent at work (R109; log 112). -/
def State.relWaits (s : State) (t : Thread) (seq : Nat) (c : BitVec 2) : Bool := !s.noPeer t c.toNat && (s.seqOf t).before seq

/-- An outstanding access may perform now: same-place order with older accesses (R111), and the FENCE.RGs before it (R118). An atomic's release waits
where it performs (R256). -/
def loadReady (q : Seq) (l : PendLoad) : Bool :=
  !olderLoad q l.seq l.locs && !(!isWin l.attrs && q.barred l.seq l.va l.nb) &&
    (match l.kind with
      | .load _ => true
      | .map => true
      | .amo _ _ _ => !(q.stores.any fun b => decide (b.seq < l.seq) && overlap b.locs l.locs))

/-- An access of an RSQ has performed: the operations that it issued later observe what it has observed and written at its places (R111, R112, R119). -/
def State.tellAsyncs (s : State) (t : Thread) (seq : Nat) (locs : List Nat) : State :=
  match t with
  | .core _ => s
  | .ring r =>
    let known := (s.seqOf t).front.known.filter fun e => locs.contains e.1
    if known.isEmpty || !((s.ring r).asyncs.any fun a => decide (seq < a.seq)) then s
    else s.updRing r fun x => { x with asyncs := x.asyncs.map fun a =>
      if seq < a.seq then { a with x := { a.x with front := { a.x.front with known := joinTab a.x.front.known known } } } else a }

/-- A load ends: its register takes the value and what it depends on, and it is no longer outstanding. -/
def State.endLoad (s : State) (t : Thread) (k : Nat) (rd : BitVec 5) (v : W64) (d : Dep) : State :=
  let s1 := match (s.seqOf t).loads[k]? with
    | some l => s.tellAsyncs t l.seq l.locs
    | none => s
  (s1.updSeq t fun q =>
    { q with loads := q.loads.eraseIdx k, x := if rd = 0 then q.x else tput q.x rd.toNat v,
             deps := if rd = 0 then q.deps else tset Dep.zero q.deps rd.toNat d }).settleRanges t

/-- What a thread's write releases, by scope: by its annotation all that happens before it, what the FENCEs before it gave, and what its release sequence
does (R116, R118). -/
def State.releases (s : State) (t : Thread) (rel : Bool) (c seq : Nat) (va : W64) (locs : List Nat) : Tab Dep :=
  let q := s.seqOf t
  let own : Tab Dep := if rel then [(c, s.ordered t)] else []
  let ranged := q.ranges.foldl (fun l f => if f.done.isSome ∧ f.seq < seq ∧ inRange f.base f.len va locs.length then joinRel l [(f.scope, f.gave)] else l) []
  let earlier := match s.past.find? fun e => locs.contains e.key && e.who == (agentOf t) with
    | some e => e.sync
    | none => []
  joinRel (joinRel (joinRel q.fenced own) ranged) earlier

/-- A thread writes memory, its release first (R110, R116): the access in a place of its program order, at an address. A window's write is observed elsewhere
once it spreads or is sealed, and releases nothing (R122). -/
def State.writeFor (s : State) (t : Thread) (rel : Bool) (c : BitVec 2) (seq : Nat) (va : W64) (sync : Tab Dep) (ps : List (Nat × MemAttr))
    (bs : List Byte) : Except MemErr State :=
  let win := isWin (ps.map (·.2))
  let s1 := if rel && !win then s.releaseBy t c.toNat else s
  match s1.writeAt (agentOf t) win (if win then [] else joinRel sync (s.releases t rel c.toNat seq va (ps.map (·.1)))) ps bs with
  | .error e => .error e
  | .ok s2 => .ok (s2.updSeq t fun q => { q with front := { q.front with known := ps.foldl (fun m p => tset 0 m p.1 s.free) q.front.known } })

/-- The write of a byte that an atomic reads: the newest, or where host writes alone follow it an older one, over which the atomic then writes. In HOST nothing
falls between its read and its write (R107). -/
def State.amoSees (s : State) (t : Thread) (l : PendLoad) : List (Byte × Option Past) :=
  let ps := l.locs.zip l.attrs
  let newest (k : Nat) : Option Past := s.past.find? fun e => e.key == k
  let own := s.past.find? fun e => l.locs.contains e.key && e.who ≠ .host
  let t0 := (own.map (·.stamp)).getD 0
  if !l.locs.any isHostPa && (s.past.any fun e => l.locs.contains e.key && e.who == .host) &&
      decide (s.floor (s.readerOf t l.seq l.dep l.va l.nb) ps ≤ t0) && Config.hostBetween s.free then
    l.locs.map fun k =>
      let hosts := s.past.filter fun e => e.key == k && decide (t0 < e.stamp)
      ((hosts.getLast?.map (·.old)).getD (s.byte k), s.past.find? fun e => e.key == k && decide (e.stamp ≤ t0))
  else l.locs.map fun k => (s.byte k, newest k)

/-- Load k of a thread meets an error of memory: x[d] is 0 after a machine check, an integrity fault delivers nothing, and a place in gated banks is waited for
(R412, R426, R428). -/
def State.loadFail (s : State) (t : Thread) (k : Nat) (rd : BitVec 5) (e : MemErr) : State :=
  match e with
  | .machine pa => (s.endLoad t k rd 0 Dep.zero).threadFail t (.machine pa)
  | .integrity pa => (s.endLoad t k 0 0 Dep.zero).threadFail t (.integrity pa)
  | .gated => s

/-- An atomic performs (R256): one read and, unless a cas fails, one write, which where it is a release waits for what precedes it. -/
def State.performAmo (s : State) (t : Thread) (k : Nat) (l : PendLoad) (kind : BitVec 5) (z c : W64) : State :=
  let ps := l.locs.zip l.attrs
  match s.placesErr ps with
  | some e => s.loadFail t k l.rd e
  | none =>
    let obs := s.amoSees t l
    let bs := obs.map (·.1)
    let lim := 2 ^ (8 * l.nb)
    let new := amoNew kind l.nb (leNat bs) (z.toNat % lim) (c.toNat % lim)
    if new.isSome && l.rel && s.relWaits t l.seq l.scope then s
    else
      -- the writes it reads have reached every agent of its scope (R106, R107)
      let s0 := (s.force (s.readerOf t l.seq l.dep l.va l.nb).front.wrote).reachWith fun e => l.locs.contains e.key
      let seen := obs.map fun x => (x.1, x.2.map fun e => e.reached s.free)
      let base := l.dep.join { near := if l.locs.any isHostPa then 0 else s0.stampOf (agentOf t) seen, wrote := [] }
      let heard := s0.hears (agentOf t) (seen.zipIdx.map fun x => (l.va + BitVec.ofNat 64 x.2, x.1))
      let s1 := (s0.updSeq t fun q => { q with front := s0.learn (agentOf t) q.front ps seen, heard := joinHeard q.heard heard }).transfers ps
      let s2 := if l.orders then s1.acquire t l.scope.toNat (base.join (s0.syncOf (agentOf t) l.scope.toNat seen)) else s1
      let s3 := s2.endLoad t k l.rd (l.value bs) (base.join (s0.syncOf (agentOf t) 3 seen))
      match new with
      | none => s3
      | some v =>
        match s3.writeFor t l.rel l.scope l.seq l.va (obs.foldl (fun m x => match x.2 with
            | some e => joinRel m e.sync
            | none => m) []) ps (leBytes l.nb v) with
        | .ok s4 => s4.tellAsyncs t l.seq l.locs
        | .error e => s3.threadFail t e

/-- The word that a crn.map returns: each bit as the thread observes it on its own, but for bytes of its own buffered stores (R121, R254, R293). -/
def State.mapValue (s : State) (t : Thread) (l : PendLoad) (bs : List Byte) : W64 :=
  let rd := s.readerOf t l.seq l.dep l.va l.nb
  let bit (j : Nat) : Bool :=
    match (l.locs.zip l.attrs)[j / 8]? with
    | none => false
    | some p =>
      match forward (s.seqOf t).stores l.seq p.1 with
      | some _ => (bs.getD (j / 8) 0).getLsbD (j % 8)
      | none => (((s.observe rd (j + 1) [p]).headD (0, none)).1).getLsbD (j % 8)
  BitVec.ofNat 64 ((List.range 64).foldl (fun n j => if bit j then n + 2 ^ j else n) 0)

/-- The pool bank that a place of the LBANK space lies in: 48 banks of 128 KiB to a ring (R15). -/
def bankNo (k : Nat) : Nat := (k - 2 ^ 56) / 2 ^ 23 * 48 + (k - 2 ^ 56) % 2 ^ 23 / 131072

/-- An RSQ's access waits: to LBANK while this cycle of its ring's fabric accesses the bank, and to Basecamp while the banks' ring is rail-gated (R54, R254,
R426). -/
def State.bankBusy (s : State) (t : Thread) (locs : List Nat) : Bool :=
  match t with
  | .core _ => false
  | .ring r =>
    locs.any s.railGated ||
      match (s.ring r).group.bind s.group? with
      | none => false
      | some g => !g.draining && !s.groupHeld g && locs.any fun k => isPool k && g.banks.contains (bankNo k)

/-- LOAD_WRITEBACK (R248, R253): the whole of an aligned load, or byte `part` of a misaligned one. -/
def execLoadWriteback (th k part : Nat) (s : State) : Out :=
  let t := threadOf th
  let q := s.seqOf t
  match q.loads[k]? with
  | none => .next s
  | some l =>
    if !loadReady q l || s.bankBusy t l.locs then .next s
    else
      let fail (e : MemErr) : Out := .next (s.loadFail t k l.rd e)
      match l.kind with
      | .amo kind z c => .next (s.performAmo t k l kind z c)
      | .map =>
        match s.readFor t l.seq l.dep l.va (l.locs.zip l.attrs) with
        | .error e => fail e
        | .ok g => .next (g.state.endLoad t k l.rd (g.state.mapValue t l g.bytes) (g.dep t 3))
      | .load _ =>
        let ps := l.locs.zip l.attrs
        if l.va.toNat % l.nb = 0 then
          match s.readFor t l.seq l.dep l.va ps with
          | .ok g =>
            let s1 := if l.orders then g.state.acquire t l.scope.toNat (g.dep t l.scope.toNat) else g.state
            .next (s1.endLoad t k l.rd (l.value g.bytes) (g.dep t 3))
          | .error e => fail e
        else
          match (ps.drop part).head? with
          | none => .next s
          | some p =>
            match s.readFor t l.seq l.dep (l.va + BitVec.ofNat 64 part) [p] with
            | .error e => fail e
            | .ok g =>
              let got := tput l.got part (g.bytes.headD 0)
              let took := l.took.join (g.dep t 3)
              if got.length < l.nb then
                .next (g.state.updSeq t fun q => { q with loads := q.loads.set k { l with got := got, took := took } })
              else .next (g.state.endLoad t k l.rd (l.value ((List.range l.nb).map fun i => tget 0 got i)) took)

/-- Buffered store k of a thread may perform now (R111, R116, R118). -/
def State.storeReady (s : State) (t : Thread) (k : Nat) (b : BufStore) : Bool :=
  let q := s.seqOf t
  !olderLoad q b.seq b.locs && !((q.stores.take k).any fun o => overlap o.locs b.locs) &&
    (isWin b.attrs || (!q.barred b.seq b.va b.locs.length && !(b.rel && s.relWaits t b.seq b.scope)))

/-- STORE_PERFORM (R111, R116, R254): a buffered store performs once the older accesses it must follow have. -/
def execStorePerform (th k : Nat) (s : State) : Out :=
  let t := threadOf th
  let q := s.seqOf t
  match q.stores[k]? with
  | none => .next s
  | some b =>
    if !s.storeReady t k b || s.bankBusy t b.locs then .next s
    else
      let s1 := s.updSeq t fun q => { q with stores := q.stores.eraseIdx k }
      match s1.writeFor t b.rel b.scope b.seq b.va [] (b.locs.zip b.attrs) b.data with
      | .ok s2 => .next ((s2.tellAsyncs t b.seq b.locs).settleRanges t)
      | .error e => .next ((s1.threadFail t e).settleRanges t)

end Sys2Proof.Machine
end

