-- ==== Sys2Proof/Machine/Engine.lean ====
section
/-! DEFINITION. What engines share: dependency slots and completions, page requests, and reads and writes through the translation an
operation copied at issue (R268 to R275, R367, R372 to R376). -/

namespace Sys2Proof.Machine

def DepSlot.reset : DepSlot := { out := [], err := false, code := 0 }

/-- A dependency slot of a ring. -/
def State.dep (s : State) (r i : Nat) : DepSlot := tget DepSlot.reset (s.ring r).deps i

/-- The next operation number of a ring, which counts into a slot or into none (R268). -/
def State.newOp (s : State) (r : Nat) (set : Option Nat) : Nat × State :=
  let id := (s.ring r).nextOp
  let s1 := s.updRing r fun x => { x with nextOp := id + 1 }
  match set with
  | some i => (id, s1.updRing r fun x =>
      let d := tget DepSlot.reset x.deps i
      { x with deps := tput x.deps i { d with out := d.out ++ [id] } })
  | none => (id, s1)

/-- What a wait on slots awaits: the operations counted into each and not complete (R269). -/
def State.awaits (s : State) (r : Nat) (mask : Nat) : List (Nat × List Nat) :=
  ((List.range 8).filter fun i => mask / 2 ^ i % 2 == 1).map fun i => (i, (s.dep r i).out)

/-- Every awaited operation has completed (R269). -/
def State.satisfied (s : State) (r : Nat) (l : List (Nat × List Nat)) : Bool :=
  l.all fun (i, ops) => ops.all fun o => !(s.dep r i).out.contains o

/-- The lowest slot of a wait with its error flag set (R269, R288). -/
def State.waitErr (s : State) (r : Nat) (l : List (Nat × List Nat)) : Option (Nat × BitVec 8) :=
  (l.find? fun (i, _) => (s.dep r i).err).map fun (i, _) => (i, (s.dep r i).code)

/-- Records a failure of an operation that counts into no slot in ASYNCERR (R275). -/
def State.asyncErr (s : State) (r : Nat) (op : Nat) (code : BitVec 8) : State :=
  let v := s.rcsr r 0x023
  let n := sat32 (fld v 31 0 + 1)
  if bit v 63 then s.setRcsr r 0x023 (setFld v 31 0 n)
  else s.setRcsr r 0x023 (BitVec.ofNat 64 (2 ^ 63 + op * 2 ^ 40 + code.toNat * 2 ^ 32 + n))

/-- A counted operation leaves its slot; an error sets err and, where err was clear, the code (R268). -/
def State.endOp (s : State) (r id : Nat) (set : Option Nat) (err : Option (BitVec 8)) : State :=
  match set with
  | none => s
  | some i =>
    s.updRing r fun x =>
      let d := tget DepSlot.reset x.deps i
      let d1 := { d with out := d.out.erase id }
      let d2 := match err with
        | some c => if d1.err then d1 else { d1 with err := true, code := c }
        | none => d1
      { x with deps := tput x.deps i d2 }

/-- The completion of a copy or a crn.step (R268, R274): a failure with no slot goes to ASYNCERR, or for a token firing to ferr. -/
def State.endCopy (s : State) (r id : Nat) (src : CopySrc) (set : Option Nat) (err : Option (BitVec 8)) : State :=
  let s1 := s.endOp r id set err
  match set, err with
  | none, some c =>
    match src with
    | .rsq op => s1.asyncErr r op.toNat c
    | .firing b _ => s1.updRing r fun x => { x with ferr := if x.ferr.contains b then x.ferr else b :: x.ferr }
  | _, _ => s1

/-- The 4 KiB-aligned pieces of a span of addresses. -/
def pieces : Nat → W64 → Nat → List (W64 × Nat)
  | 0, _, _ => []
  | fuel + 1, va, n =>
    let m := 4096 - va.toNat % 4096
    if n ≤ m then [(va, n)] else (va, m) :: pieces fuel (va + BitVec.ofNat 64 m) (n - m)

/-- The checks and places of a span of addresses for an engine of a ring: one translation serves each 4 KiB. -/
def State.spanPlaces (s : State) (c : XCtx) (a : Acc) (va : W64) (n : Nat) : Except AccErr (List (Nat × MemAttr)) :=
  if n = 0 then .ok []
  else
    let l := (pieces (n / 4096 + 2) va n).map fun p =>
      match s.ringPlace c a p.1 with
      | .ok (k, m) => Except.ok ((List.range p.2).map fun i => (k + i, m))
      | .error e => .error e
    match firstErr l with
    | some e => .error e
    | none => .ok (okList l).flatten

/-- Some byte of a span lies in a page with execute permission (R204). -/
def State.spanExec (s : State) (c : XCtx) (va : W64) (n : Nat) : Bool :=
  (pieces (n / 4096 + 2) va (max n 1)).any fun p => s.pageExec c p.1

/-- The engines of ring r make no step: its VF has stopped, or its clock (R412, R426). -/
def State.unitOff (s : State) (r : Nat) : Bool := (s.vfOf (s.vfNum r)).stopped || decide (3 ≤ (s.ring r).power)

/-- Why an engine's access fails. -/
inductive EngErr where
  /-- The access failed a check; a translation fault becomes a page request (R372). -/
  | acc (e : AccErr)
  | mem (e : MemErr)
  deriving DecidableEq, Repr

/-- An operation of a ring's engines as a reader: all that was ordered before its issue (R110, R112, R119). -/
def XCtx.reader (c : XCtx) : Reader := { me := .engines c.ring, front := c.front }

/-- A failed check of an engine's access. -/
def EngErr.ofAcc : AccErr → EngErr
  | .mem e => .mem e
  | e => .acc e

/-- An engine reads `n` bytes. A sigbase or skbase that is no GLOBAL address is reached like any other address of the ring's engines (R170; log 119). -/
def State.engRead (s : State) (c : XCtx) (va : W64) (n : Nat) : Except EngErr (List Byte) :=
  match s.spanPlaces c .load va n with
  | .error e => .error (.ofAcc e)
  | .ok ps =>
    match s.readAt c.reader ps with
    | .error e => .error (.mem e)
    | .ok l => .ok (l.map (·.1))

/-- The transfers over Certia Link of an engine's read of some spans, each by its address and length (R409). -/
def State.engLinked (s : State) (c : XCtx) (l : List (W64 × Nat)) : State := l.foldl (fun st x => st.linked (s.spanPlaces c .load x.1 x.2)) s

/-- An engine writes bytes, which may become visible only later (R106, R119; log 111). -/
def State.engPut (s : State) (lag : Bool) (c : XCtx) (va : W64) (bs : List Byte) : Except EngErr State :=
  match s.spanPlaces c .store va bs.length with
  | .error e => .error (.ofAcc e)
  | .ok ps =>
    match s.writeAt (.engines c.ring) lag [] ps bs with
    | .error e => .error (.mem e)
    | .ok s1 => .ok s1

def State.engWrite (s : State) (c : XCtx) (va : W64) (bs : List Byte) : Except EngErr State := s.engPut true c va bs

def CopyDesc.mc (d : CopyDesc) : Bool := d.ctl.getLsbD 7
def CopyDesc.tagged (d : CopyDesc) : Bool := d.ctl.getLsbD 8
def CopyDesc.tag (d : CopyDesc) : Nat := bitsOf d.ctl.toNat 23 16

/-- The columns of a mask. -/
def CopyDesc.cols (d : CopyDesc) : List Nat := (List.range 32).filter d.cmask.getLsbD

/-- The rings that a copy writes in, or in whose ring groups it writes a tagged port (R138, R159). -/
def CopyDesc.targets (d : CopyDesc) (r : Nat) : List Nat := if d.mc then d.cols.map fun c => 32 * dieOf r + c else [r]

/-- Branch b of a copy has written its piece of part i. -/
def CopyJob.wroteAt (j : CopyJob) (i b : Nat) : Bool := j.done.contains i || (tget [] j.wrote i).contains b

/-- A page request that a faulting agent makes (R372, R375). -/
structure Ask where
  ring : Nat
  fault : XFault
  asid : BitVec 16
  wr : Bool
  rd : Bool
  ul : Bool
  src : Nat
  south : Bool
  ag : Nat
  waiter : Waiter

/-- The lowest free entry among those a request may take (R373): its VF's own two, then the shared ones while it holds fewer than 64. -/
def freeEntry (prq : Tab PrqReq) (vf : Nat) : Option Nat :=
  let own := [2 * vf, 2 * vf + 1].filter fun e => decide (e < 256) && (tfind prq e).isNone
  match own with
  | e :: _ => some e
  | [] =>
    let held := (prq.filter fun e => decide (256 ≤ e.1) && e.2.vf == vf).length
    if held < 64 then ((List.range 768).map (· + 256)).find? fun e => (tfind prq e).isNone else none

/-- A stamp later than every entry's. -/
def nextStamp (prq : Tab PrqReq) : Nat := prq.foldl (fun n e => max n (e.2.stamp + 1)) 0

/-- An entry becomes NEW, and an event announces it (R374, R441). -/
def State.newEntry (s : State) (d e : Nat) (q : PrqReq) : State :=
  let p := (s.die d).prq
  (s.updDie d fun x => { x with prq := tput x.prq e { q with st := .new, stamp := nextStamp p } }).post d 2 q.vf e q.ring

/-- The same page of the same VF, stage and ASID (R373). -/
def PrqReq.sameAs (q : PrqReq) (p : PrqReq) : Bool :=
  q.vf == p.vf && q.stage2 == p.stage2 && q.asid == p.asid && q.addr.toNat / 65536 == p.addr.toNat / 65536

/-- A request is placed by R373: merged, in a free entry, or held at its agent, as it is while an earlier one of its VF is held. -/
def State.placeReq (s : State) (d : Nat) (q : PrqReq) : State :=
  let x := s.die d
  match x.prq.find? fun e => e.2.sameAs q with
  | some (e, p) =>
    s.setDie d { x with prq := tput x.prq e { p with wr := p.wr || q.wr, rd := p.rd || q.rd, waiters := p.waiters ++ q.waiters } }
  | none =>
    match freeEntry x.prq q.vf, x.held.any fun h => h.vf == q.vf with
    | some e, false => s.newEntry d e q
    | _, _ => s.setDie d { x with held := x.held ++ [q] }

/-- A faulting agent makes its page request (R372). -/
def State.pageAsk (s : State) (a : Ask) : State :=
  s.placeReq (dieOf a.ring)
    { vf := s.vfNum a.ring, stage2 := a.fault.stage == 2, asid := if a.fault.stage = 2 then 0 else a.asid, addr := a.fault.addr,
      reason := a.fault.reason, level := if a.fault.reason = 4 ∨ a.fault.reason = 5 then 0 else a.fault.level, wr := a.wr,
      rd := a.rd, ul := a.ul, src := a.src, south := a.south, ag := a.ag, ring := a.ring, waiters := [(a.waiter, a.fault.addr)], st := .new,
      stamp := 0 }

/-- The ASID of a copy of SATP (R322). -/
def XCtx.asid (c : XCtx) : BitVec 16 := BitVec.ofNat 16 (bitsOf c.satp.toNat 63 48)

/-- A held request that can be placed now, by its index: the oldest of its VF (R373). -/
def Die.placeable (x : Die) : Option Nat :=
  let first (i : Nat) (q : PrqReq) : Bool := !((x.held.take i).any fun h => h.vf == q.vf)
  let fits (q : PrqReq) : Bool := (x.prq.any fun e => e.2.sameAs q) || (freeEntry x.prq q.vf).isSome
  (List.range x.held.length).find? fun i =>
    match x.held[i]? with
    | some q => first i q && fits q
    | none => false

/-- PRQ_HELD_PLACEMENT: the first held request of a die that a free entry admits is placed, those of its VF that are held after it aside (R373). -/
def execPrqHeldPlacement (die : Nat) (s : State) : Out :=
  let x := s.die die
  match x.placeable with
  | none => .next s
  | some i =>
    match x.held[i]? with
    | none => .next s
    | some q =>
      let s1 := (s.setDie die { x with held := x.held.filter fun h => h.vf ≠ q.vf }).placeReq die q
      .next (s1.updDie die fun y => { y with held := (x.held.eraseIdx i).filter (fun h => h.vf == q.vf) ++ y.held })

/-- The error code of an engine's failed access that is not a translation fault (R271; log 121). -/
def EngErr.code : EngErr → BitVec 8
  | .acc (.addr _) => errAddr
  | .acc (.align _) => errAddr
  | .acc (.bounds _) => errAddr
  | .acc (.xlat _) => errXlat
  | .acc (.window _) => errWindow
  | .acc (.mem _) => errMcheck
  | .mem (.machine _) => errMcheck
  | .mem (.integrity _) => errMcheck
  | .mem .gated => errMcheck


end Sys2Proof.Machine
end

