-- ==== Sys2Proof/Machine/Agen.lean ====
section
/-! DEFINITION. Trailhead address generators: their descriptors, patterns, line requests and completions, and zero-compressed groups
(R148 to R155). -/

namespace Sys2Proof.Machine

/-- The fields of a 64-byte descriptor (R148). -/
def agDescOf (l : List Byte) : AgDesc :=
  let ctl := field l 0 1
  { raw := slice l 0 64, mode := ctl % 4, store := ctl / 4 % 2 == 1, zc := ctl / 8 % 2 == 1, esz := 2 ^ (ctl / 16 % 4),
    nd := field l 1 1 % 8, padv := BitVec.ofNat 32 (field l 4 4), base := BitVec.ofNat 64 (field l 8 8),
    cnt := (List.range 5).map fun i => field l (16 + 4 * i) 4, str := (List.range 5).map fun i => fieldS l (36 + 4 * i) 4,
    hh := field l 56 2, wd := field l 58 2, ff := field l 60 1, ss := field l 61 1, pp := field l 62 1,
    ilim := field l 56 4, ist := fieldS l 60 4 }

def AgDesc.cntAt (d : AgDesc) (i : Nat) : Nat := d.cnt.getD i 0
def AgDesc.strAt (d : AgDesc) (i : Nat) : Int := d.str.getD i 0

/-- The checks of R153 on one descriptor, the index descriptor of indirect mode aside. -/
def AgDesc.ok (d : AgDesc) : Bool :=
  let l := d.raw
  decide (field l 0 1 < 64) && decide (field l 1 1 < 8) && zeroBytes l 2 2 && decide (d.mode < 3) &&
    decide (1 ≤ d.nd) && decide (d.nd ≤ 5) &&
    (d.mode ≠ 0 || zeroBytes l 56 8) && (d.mode ≠ 1 || field l 63 1 == 0) &&
    ((List.range 5).all fun i =>
      if i < d.nd then d.cntAt i ≠ 0
      else d.cntAt i == 0 && (d.strAt i == 0 || (d.mode == 1 && (i == 1 || i == 2)))) &&
    (d.mode ≠ 1 || (d.nd == 1 && d.ff ≠ 0 && d.ss ≠ 0 && d.hh ≠ 0 && d.wd ≠ 0)) &&
    (!d.zc || (d.mode == 0 && d.esz ≠ 8 && d.cntAt 0 == 128 && d.strAt 0 == d.esz && d.base.toNat % 64 == 0 &&
      ((List.range 4).all fun i => d.strAt (i + 1) % 64 == 0))) &&
    d.base.toNat % d.esz == 0

/-- What an index AG's descriptor must be (R151, R153). -/
def AgDesc.indexOk (d : AgDesc) : Bool := d.ok && d.mode == 0 && !d.store && d.esz == 4 && !d.zc

/-- ey and ex of a window descriptor (R150). -/
def AgDesc.ey (d : AgDesc) : Int := floorDiv ((d.hh : Int) + 2 * d.pp - d.ff) (d.ss : Int) + 1
def AgDesc.ex (d : AgDesc) : Int := floorDiv ((d.wd : Int) + 2 * d.pp - d.ff) (d.ss : Int) + 1

/-- ey·ex, 0 where either is not positive (R150). -/
def AgDesc.outputs (d : AgDesc) : Nat := d.ey.toNat * d.ex.toNat

/-- Elements of one walk: the whole pattern, or in indirect mode one index's. -/
def AgDesc.walk (d : AgDesc) : Nat :=
  if d.mode = 1 then d.outputs * d.ff * d.ff * d.cntAt 0
  else ((List.range d.nd).map d.cntAt).foldl (· * ·) 1

/-- One element of a pattern: an address, a pad that makes no access, or none. -/
inductive AgElem where
  | at_ (va : W64)
  | pad
  deriving DecidableEq, Repr

/-- The offset of the n-th combination of indices, innermost first (R149). -/
def AgDesc.affOff (d : AgDesc) : Nat → Nat → Nat → Int
  | 0, _, _ => 0
  | k + 1, i, n =>
    let c := d.cntAt i
    if c = 0 then 0 else ((n % c : Nat) : Int) * d.strAt i + d.affOff k (i + 1) (n / c)

/-- Element n of a walk that begins at a base (R149, R150). -/
def AgDesc.elem (d : AgDesc) (base : W64) (n : Nat) : AgElem :=
  if d.mode = 1 then
    let c0 := if d.cntAt 0 = 0 then 1 else d.cntAt 0
    let c := n % c0
    let f := if d.ff = 0 then 1 else d.ff
    let fx := n / c0 % f
    let fy := n / c0 / f % f
    let o := n / c0 / f / f
    let exN := if d.ex.toNat = 0 then 1 else d.ex.toNat
    let y : Int := ((o / exN * d.ss + fy : Nat) : Int) - d.pp
    let x : Int := ((o % exN * d.ss + fx : Nat) : Int) - d.pp
    if 0 ≤ y ∧ y < d.hh ∧ 0 ≤ x ∧ x < d.wd then
      .at_ (base + BitVec.ofInt 64 (y * d.strAt 2 + x * d.strAt 1 + (c : Nat) * d.strAt 0))
    else .pad
  else .at_ (base + BitVec.ofInt 64 (d.affOff d.nd 0 n))

/-- Element n of an AG's present walk: in indirect mode base + k·ist, or a pad for an index out of range (R151). -/
def Ag.elem (a : Ag) (d : AgDesc) (n : Nat) : AgElem :=
  if d.mode = 2 then
    match a.curIdx with
    | some k => if 0 ≤ k ∧ k < d.ilim then d.elem (d.base + BitVec.ofInt 64 (k * d.ist)) n else .pad
    | none => .pad
  else d.elem d.base n

/-- The bytes of a pad element (R148). -/
def AgDesc.padBytes (d : AgDesc) : List Byte := leBytes d.esz (d.padv.toNat % 2 ^ (8 * min d.esz 4))

/-- The bytes of a zero-compressed slot, in lines, for a number of non-zero elements (R154, R155). -/
def zcLines (esz nz : Nat) : Nat := ceilDiv (16 + nz * esz) 64

/-- A zero-compressed slot's lines for 128 elements (R154, R155). -/
def zcPack (esz : Nat) (els : List (List Byte)) : List Byte :=
  let nzs := els.map fun e => e.any (· ≠ 0#8)
  let bitmap := (List.range 16).map fun i =>
    BitVec.ofNat 8 ((List.range 8).foldl (fun v j => if nzs.getD (8 * i + j) false then v + 2 ^ j else v) 0)
  let data := (els.filter fun e => e.any (· ≠ 0#8)).flatten
  let n := (els.filter fun e => e.any (· ≠ 0#8)).length
  bitmap ++ data ++ List.replicate (64 * zcLines esz n - 16 - data.length) 0

/-- The number of set bits of a slot's bitmap. -/
def zcCount (l : List Byte) : Nat := ((l.take 16).map fun b => popCount 8 b.toNat).sum

/-- The 128 elements that a slot's bytes hold: the bitmap governs (R155). -/
def zcUnpack (esz : Nat) (l : List Byte) : List (List Byte) :=
  ((List.range 128).foldl (fun (acc : List (List Byte) × Nat) j =>
    if (l.getD (j / 8) 0).getLsbD (j % 8) then (acc.1 ++ [slice l (16 + acc.2 * esz) esz], acc.2 + 1)
    else (acc.1 ++ [List.replicate esz 0], acc.2)) ([], 0)).1

/-- An AG of a ring. -/
def State.ag (s : State) (r n : Nat) : Ag := tget Ag.reset (s.ring r).ags n

def State.setAg (s : State) (r n : Nat) (a : Ag) : State := s.updRing r fun x => { x with ags := tput x.ags n a }

/-- The other AG of a trailhead pair (R151). -/
def pairOf (n : Nat) : Nat := if n % 2 = 0 then n + 1 else n - 1

/-- The places of an element or line for an AG. -/
def State.agPlaces (s : State) (a : Ag) (d : AgDesc) (va : W64) (n : Nat) : Except AccErr (List (Nat × MemAttr)) :=
  if 2 ^ 63 ≤ va.toNat then .error (.addr va) else s.spanPlaces a.x (if d.store then .store else .load) va n

/-- The granules of a ring's fifo carve that no FIFO of the phase takes, lowest first (R102, R172). -/
def State.freeGranules (s : State) (g : Group) (r : Nat) : List Nat :=
  (List.range (16 * carveFifo g.carve)).filter fun n => g.ports.all fun e =>
    match e.2.kind with
    | .pool off size => s.ringOfV g (e.1 / 4) ≠ r || n < off / 4096 || (off + size) / 4096 ≤ n
    | .ag _ _ => true
    | .camp _ _ _ => true
    | .chain _ _ => true
    | .token _ => true

/-- A word that the Cairn comparator stages lies in one of two buffers, which take the lowest free granules of the fifo carve (R104, R173; log 11). -/
def State.stageWord (s : State) (g : Group) (c : Cairn) (t : Nat) (w : W32) : State :=
  let r := s.ringOfV g (c.inPort / 4)
  let at_ := 4 * c.staged.length
  match (s.freeGranules g r)[c.stagedTiles % 2 * ceilDiv (4 * t) 4096 + at_ / 4096]? with
  | some n => s.putNum (poolKey r (fifoBase g.carve + 4096 * n + at_ % 4096)) 4 w.toNat
  | none => s

/-- The Cairn work of a group that takes the words of an input port. -/
def Group.cairnAt (g : Group) (key : Nat) : Option (Nat × Cairn) := (g.cairns.zipIdx.find? fun c => c.1.inPort == key).map fun c => (c.2, c.1)

/-- Words go to the port that an AG feeds, or to the Cairn comparator that stages them (R149, R173). -/
def State.agWords (s : State) (gk key : Nat) (ws : List W32) : State :=
  ws.foldl (init := s) fun st w =>
    match st.group? gk with
    | none => st
    | some g =>
      match tfind g.ports key, g.cairnAt key with
      | none, _ => st
      | some p, none => st.enqueueFifo gk g key p w
      | some p, some (i, c) =>
        match st.cairnRegion g c with
        | none => st
        | some rg =>
          if rg.ntiles ≤ c.stagedTiles then
            (st.setGroup gk (g.setCairn i { c with dropped := c.dropped + 1 })).setPort gk key { p with disc := p.disc + 1 }
          else
            let staged := c.staged ++ [w]
            let c' := if staged.length < p.decl.t then { c with staged := staged }
              else { c with staged := [], stagedTiles := c.stagedTiles + 1,
                            tiles := c.tiles ++ [{ tile := c.stagedTiles, words := staged, decided := false, skip := false }] }
            (st.stageWord g c p.decl.t w).setGroup gk (g.setCairn i c')

/-- The words that a loader's port takes now: those that its 128 lines leave room for, or that the comparator's two buffers still hold (R134, R152, R173). -/
def State.agSpace (s : State) (g : Group) (key : Nat) : Nat :=
  match tfind g.ports key with
  | none => 0
  | some p =>
    match g.cairnAt key with
    | none => agStoreCap - p.q.length
    | some (_, c) =>
      match s.cairnRegion g c with
      | some rg => if rg.ntiles ≤ c.stagedTiles then agStoreCap else (2 - c.tiles.length) * p.decl.t - c.staged.length
      | none => 0

/-- The end-of-stream mark of a loader AG reaches its port; a Cairn comparator passes it on once its tiles are decided (R140, R173). -/
def State.agEos (s : State) (gk key : Nat) : State :=
  match s.group? gk with
  | none => s
  | some g =>
    match tfind g.ports key, g.cairnAt key with
    | none, _ => s
    | some p, some (i, c) =>
      (s.setGroup gk (g.setCairn i { c with staged := [], ended := true, dropped := c.dropped + c.staged.length })).setPort gk key
        { p with disc := p.disc + c.staged.length, eos := c.tiles.all (·.decided) }
    | some p, none => s.setPort gk key { p with eos := true }

/-- A fatal AG makes no further request, and a loader sends its mark; what it requested before still completes (R376, R379). -/
def State.agFatal (s : State) (gk r n : Nat) : State :=
  let a := s.ag r n
  let s1 := s.setAg r n { a with ended := true, fault := none, part := [] }
  match a.bound, a.desc with
  | some (_, key, role), some d => if d.store ∨ role ≠ 0 then s1 else s1.agEos gk key
  | _, _ => s1

/-- A memory error met by an access of a phase's engines (R412, R428). -/
def State.engMemFail (s : State) (gk r : Nat) (e : MemErr) : State :=
  match e with
  | .integrity pa => s.integrityFault (s.vfNum r) (dieOf r) pa
  | .machine pa => (s.mcheck (s.vfNum r) pa 2).phaseFault gk 13 FaultAt.zero (BitVec.ofNat 64 (mcAddr pa))
  | .gated => s

/-- A failed check of an AG's access: a page request, or a phase fault, for a window trap of kind 12 (R100, R123, R372, R382; log 121). An AG reaches no aperture
(R99). -/
def State.agFail (s : State) (gk r n : Nat) (a : Ag) (d : AgDesc) (e : AccErr) : State :=
  match e with
  | .xlat f =>
    (s.setAg r n { a with fault := some { addr := f.addr, stage2 := f.stage == 2 }, again := false }).pageAsk
      { ring := r, fault := f, asid := a.x.asid, wr := d.store, rd := !d.store, ul := a.x.lvl == .u, src := 0,
        south := decide (4 ≤ n), ag := n % 4, waiter := .ag r n }
  | .addr va => (s.agFatal gk r n).phaseFault gk 1 FaultAt.zero va
  | .align va => (s.agFatal gk r n).phaseFault gk 1 FaultAt.zero va
  | .bounds va => (s.agFatal gk r n).phaseFault gk 2 FaultAt.zero va
  | .window h => (s.agFatal gk r n).phaseFault gk 12 FaultAt.zero h
  | .mem (.integrity pa) => s.engMemFail gk r (.integrity pa)
  | .mem (.machine pa) => (s.agFatal gk r n).engMemFail gk r (.machine pa)
  | .mem .gated => s

/-- The word of an AG's stream that its port takes next: a resumed loader starts at or before it (R392). -/
def Group.streamAt (g : Group) (key : Nat) : Nat :=
  match tfind g.ports key, g.cairnAt key with
  | some p, some (_, c) => c.stagedTiles * p.decl.t + c.staged.length
  | some p, none => p.arrived
  | none, _ => 0

/-- The words at the front of what a loader holds that its port has had before it resumed. -/
def Ag.stale (a : Ag) (g : Group) (key esz : Nat) : Nat := g.streamAt key - (a.delivered * esz - a.part.length) / 4

/-- Ends an AG whose pattern is over: a loader that has delivered every whole word fills its last one with zeros and marks, a storer drops what it still
holds (R140, R149, R150). -/
def State.agFinish (s : State) (r n : Nat) : State :=
  let a := s.ag r n
  match a.bound, a.desc with
  | some (gk, key, role), some d =>
    match s.group? gk with
    | none => s
    | some g =>
      if a.ended then s
      else if d.store then
        let s1 := s.setAg r n { a with ended := true, part := [] }
        match tfind g.ports key with
        | some p => s1.setPort gk key { p with disc := p.disc + a.part.length / 4 }
        | none => s1
      else if !a.units.isEmpty then s
      else if role ≠ 0 then s.setAg r n { a with ended := true }
      else if 4 ≤ a.part.length ∨ (!a.part.isEmpty ∧ s.agSpace g key = 0) then s
      else
        let s1 := s.setAg r n { a with ended := true, part := [] }
        (if a.part.isEmpty ∨ 0 < a.stale g key d.esz then s1 else s1.agWords gk key (wordsOf (a.part ++ [0, 0, 0]) 0 1)).agEos gk key
  | _, _ => s

/-- A loader's completed requests deliver in order: their bytes are packed into words, as many as its port takes (R149, R173), and after the last element the
AG ends. -/
def State.agDrain (s : State) (r n : Nat) : Nat → State
  | 0 => s
  | fuel + 1 =>
    let a := s.ag r n
    match a.bound, a.desc with
    | some (gk, key, role), some d =>
      match s.group? gk with
      | none => s
      | some g =>
        if d.store then s
        else
          let whole := min (a.part.length / 4) (s.agSpace g key)
          let stale := if role = 0 then min (a.part.length / 4) (a.stale g key d.esz) else 0
          if 0 < stale then (s.setAg r n { a with part := a.part.drop (4 * stale) }).agDrain r n fuel
          else if role = 0 ∧ 0 < whole then
            ((s.setAg r n { a with part := a.part.drop (4 * whole) }).agWords gk key (wordsOf a.part 0 whole)).agDrain r n fuel
          else if role = 0 ∧ 4 ≤ a.part.length then s
          else
            match a.units with
            | u :: rest =>
              if !u.done then s
              else (s.setAg r n { a with units := rest, delivered := a.delivered + u.data.length, part := a.part ++ u.data.flatten }).agDrain r n fuel
            | [] => if d.mode = 2 ∨ a.issued < d.walk then s else s.agFinish r n
    | _, _ => s

/-- The elements, from the present one on, that one line request can serve: addresses of one 64-byte line, and pads (R152). -/
def Ag.lineRun (a : Ag) (d : AgDesc) (line : Option Nat) : Nat → Nat → List AgElem
  | 0, _ => []
  | fuel + 1, n =>
    if d.walk ≤ n then []
    else
      match a.elem d n with
      | .pad => .pad :: a.lineRun d line fuel (n + 1)
      | .at_ va =>
        match line with
        | none => .at_ va :: a.lineRun d (some (va.toNat / 64)) fuel (n + 1)
        | some k => if va.toNat / 64 = k then .at_ va :: a.lineRun d line fuel (n + 1) else []

/-- The elements of a request up to the next skipped tile (R176). -/
def Ag.toSkip (a : Ag) (d : AgDesc) (l : List AgElem) : List AgElem :=
  match a.skips with
  | (at_, _) :: _ => l.take (at_ - a.total d d.walk)
  | [] => l

/-- Elements that a storer has been given in full. -/
def Ag.given (a : Ag) (d : AgDesc) : Nat := a.part.length / d.esz

/-- The element's places, or the check that fails. -/
def State.agElems (s : State) (a : Ag) (d : AgDesc) : List AgElem → Except AccErr (List (List (Nat × MemAttr)))
  | [] => .ok []
  | .pad :: t =>
    match s.agElems a d t with
    | .ok l => .ok ([] :: l)
    | .error e => .error e
  | .at_ va :: t =>
    match s.agPlaces a d va d.esz with
    | .error e => .error e
    | .ok ps =>
      match s.agElems a d t with
      | .ok l => .ok (ps :: l)
      | .error e => .error e

/-- The attribute of a unit's places. -/
def attrOf (l : List (List (Nat × MemAttr))) : MemAttr :=
  match l.flatten with
  | p :: _ => p.2
  | [] => .sram

/-- In indirect mode, the next index is taken from the index AG once the present walk is over (R151). Gives the AG ready to walk, or
none when it must wait, or has ended. -/
def State.agIndex (s : State) (r n : Nat) (a : Ag) (d : AgDesc) : Option State :=
  if d.mode ≠ 2 then some s
  else if a.curIdx.isSome ∧ a.issued < d.walk then some s
  else
    let b := s.ag r (pairOf n)
    if 4 ≤ b.part.length then
      let k := sextN (leNat (b.part.take 4)) 32
      let out := decide (k < 0) || decide ((d.ilim : Int) ≤ k)
      let s1 := s.setAg r (pairOf n) { b with part := b.part.drop 4 }
      let n' := if out then a.oor + 1 else a.oor
      some (s1.setAg r n { a with curIdx := some k, issued := 0, idxTaken := a.idxTaken + 1, oor := n' })
    else if b.ended ∧ ((s.agFinish r n).ag r n).ended then some (s.agFinish r n)
    else none

/-- The bytes that a loader's requests will still deliver. -/
def Ag.coming (a : Ag) (d : AgDesc) : Nat :=
  a.part.length + (a.units.map fun u => (if u.slot.isSome then 128 else u.locs.length) * d.esz).sum

/-- In indirect mode a storer steps past the elements of a skipped tile that its present index walks (R151, R176). -/
def Ag.stepIndex (a : Ag) (d : AgDesc) : Option Ag :=
  match a.skips with
  | (at_, n) :: rest =>
    if d.mode = 2 ∧ d.store ∧ at_ ≤ a.total d d.walk then
      let m := min n (d.walk - a.issued)
      some { a with issued := a.issued + m, skips := if m = n then rest else (at_ + m, n - m) :: rest }
    else none
  | [] => none

/-- An AG that the freeze itself waits for: its port lacks words, or room, and no request of its is outstanding that could bring them. It goes on, since the
freeze would never end otherwise (R31; log 19). -/
def State.agStarved (s : State) (gk key : Nat) (a : Ag) : Bool := a.units.all (·.done) && s.waitsOn gk key

/-- The next thing that an AG can do on its own: deliver what has come, end, or issue its next coalesced request, which it does in no frozen cycle but to make
a request again whose page fault has been answered, or where the freeze waits for it alone (R30, R31, R54, R152, R376). -/
def State.agTry (s0 : State) (r ag : Nat) : Option State :=
  let a0 := s0.ag r ag
  match a0.bound, a0.desc with
  | some (gk, key, role), some d =>
    match s0.group? gk with
    | none => none
    | some g =>
      let ready := decide (4 ≤ a0.part.length) || (match a0.units with
        | u :: _ => u.done && decide (a0.part.length < 4)
        | [] => false)
      if a0.ended ∨ s0.groupHeld g then none
      else if !d.store ∧ role = 0 ∧ ready ∧ 0 < s0.agSpace g key then some (s0.agDrain r ag (2 * a0.units.length + 2))
      else if a0.fault.isSome ∨ 128 ≤ a0.units.length ∨ (g.frozen ∧ !g.draining ∧ !a0.again ∧ !s0.agStarved gk key a0) then none
      else
        match s0.agIndex r ag a0 d with
        | none => none
        | some s =>
          let a := s.ag r ag
          let part := decide (4 ≤ a.part.length) || (!a.part.isEmpty && s.agSpace g key == 0)
          if a.ended then some s
          else if d.walk ≤ a.issued ∨ (g.mark.isSome ∧ !d.store) then
            (if d.store ∨ (a.units.isEmpty ∧ (role ≠ 0 ∨ !part)) then some (s.agFinish r ag) else none)
          else if (a.stepIndex d).isSome then (a.stepIndex d).map (s.setAg r ag)
          else if !d.store ∧ role = 0 ∧ s.agSpace g key ≤ a.coming d / 4 then none
          else if role ≠ 0 ∧ 512 ≤ a.part.length then none
          else if d.zc then
            let va := match a.elem d a.issued with
              | .at_ v => v
              | .pad => 0
            if d.store then
              if a.given d < 128 then none
              else
                let els := (List.range 128).map fun i => slice a.part (i * d.esz) d.esz
                let bs := zcPack d.esz els
                match s.agPlaces a d va bs.length with
                | .error e => some (s.agFail gk r ag a d e)
                | .ok ps =>
                  let u : AgUnit := { locs := ps.map fun p => [p.1], data := bs.map fun b => [b], attr := attrOf [ps], got := [], done := false,
                                      slot := some (va, bs.length / 64) }
                  some (s.setAg r ag ({ a with issued := a.issued + 128, part := a.part.drop (128 * d.esz), again := false,
                                               units := a.units ++ [u] } : Ag).stepPast)
            else
              match s.agPlaces a d va 64 with
              | .error e => some (s.agFail gk r ag a d e)
              | .ok ps =>
                let u : AgUnit :=
                  { locs := ps.map fun p => [p.1], data := [], attr := attrOf [ps], got := [], done := false, slot := some (va, 1) }
                some (s.setAg r ag { a with issued := a.issued + 128, units := a.units ++ [u], again := false })
          else
            let run := a.lineRun d none 64 a.issued
            let els := if d.store then a.toSkip d (run.take (a.given d)) else run
            if els.isEmpty then none
            else
              match s.agElems a d els with
              | .error e => some (s.agFail gk r ag a d e)
              | .ok pls =>
                let data := if d.store then (List.range els.length).map fun i => slice a.part (i * d.esz) d.esz else []
                let u : AgUnit :=
                  { locs := pls.map fun l => l.map (·.1), data := data, attr := attrOf pls, got := [], done := false, slot := none }
                some (s.setAg r ag ({ a with issued := a.issued + els.length, units := a.units ++ [u], again := false,
                                             part := if d.store then a.part.drop (els.length * d.esz) else a.part } : Ag).stepPast)
  | _, _ => none

/-- AG_LINE_REQUEST: the AG issues its next coalesced request (R152; log 19). -/
def execAgLineRequest (r ag : Nat) (s : State) : Out := .next ((s.agTry r ag).getD s)

/-- Request k of an AG meets a memory error: an integrity fault stops its VF, a machine check makes the AG fatal, and a request to gated banks waits (R412, R426,
R428). -/
def State.agMemFail (s : State) (gk r n k : Nat) (e : MemErr) : State :=
  match e with
  | .integrity _ => s.engMemFail gk r e
  | .gated => s
  | .machine _ =>
    let a := s.ag r n
    ((s.setAg r n { a with units := a.units.eraseIdx k }).agFatal gk r n).engMemFail gk r e

/-- The places of a request's bytes with their attribute, and the bytes it writes there: those of a dropped element have no place (R150, R151). -/
def AgUnit.places (u : AgUnit) : List (Nat × MemAttr) := u.locs.flatten.map fun k => (k, u.attr)

def AgUnit.bytes (u : AgUnit) : List Byte := ((u.locs.zip u.data).map fun p => if p.1.isEmpty then [] else p.2).flatten

/-- The parts of a request that have yet to perform, with their bytes (R105). -/
def AgUnit.rest (u : AgUnit) : List (List (Nat × MemAttr)) := (partsOf u.places).filter fun l => l.any fun p => (tfind u.got p.1).isNone

/-- The part that an event names of a request, or its first. -/
def AgUnit.pick (u : AgUnit) (j : Nat) : List (Nat × MemAttr) := (u.rest[j]?).getD (u.rest.headD [])

/-- An earlier request of the AG has yet to access one of the places: its stream order stands at each address (R113). -/
def Ag.behind (a : Ag) (k : Nat) (ps : List (Nat × MemAttr)) : Bool :=
  (a.units.take k).any fun v => !v.done && ps.any fun p => v.locs.flatten.contains p.1 && (tfind v.got p.1).isNone

/-- A part of a loader's request reads memory (R105, R113). -/
def State.agReadPart (s : State) (gk r n k : Nat) (a : Ag) (u : AgUnit) (ps : List (Nat × MemAttr)) : State :=
  let rd : Reader := { me := .engines r, front := a.x.front }
  match s.readAt rd ps with
  | .error e => s.agMemFail gk r n k e
  | .ok l =>
    let got := (ps.zip l).foldl (fun t x => tput t x.1.1 x.2.1) u.got
    (s.transfers ps).setAg r n { a with units := a.units.set k { u with got := got }, x := { a.x with front := s.learn rd.me a.x.front ps l } }

/-- A loader's request whose parts have all been read is done; a zero-compressed slot may hold further lines, which are translated then (R152, R155). -/
def State.agLoaded (s : State) (gk r n k : Nat) (a : Ag) (d : AgDesc) (u : AgUnit) : State :=
  let bytes := u.locs.flatten.map fun p => tget 0 u.got p
  let finish (data : List (List Byte)) : State :=
    (s.setAg r n { a with units := a.units.set k { u with data := data, done := true } }).agDrain r n (2 * a.units.length + 2)
  match u.slot with
  | none => finish (u.locs.map fun l => if l.isEmpty then d.padBytes else l.map fun p => tget 0 u.got p)
  | some (va, have_) =>
    let lines := zcLines d.esz (zcCount bytes)
    if lines ≤ have_ then finish (zcUnpack d.esz bytes)
    else if a.fault.isSome then s
    else
      match s.agPlaces a d va (64 * lines) with
      | .error e => s.agFail gk r n a d e
      | .ok ps => s.setAg r n { a with units := a.units.set k { u with locs := ps.map fun p => [p.1], slot := some (va, lines) } }

/-- A part of a storer's request writes memory (R105): where two elements of it go to one address, the later in stream order stays (R113, R133). The request
is gone with its last part. -/
def State.agWritePart (s : State) (gk r n k : Nat) (d : AgDesc) (u : AgUnit) (ps : List (Nat × MemAttr)) : State :=
  let all := u.places.zip u.bytes
  match s.writeAt (.engines r) true [] ps (ps.map fun p => ((all.reverse.find? fun x => x.1.1 == p.1).map (·.2)).getD 0) with
  | .error e => s.agMemFail gk r n k e
  | .ok s1 =>
    let a := s1.ag r n
    let u1 := { u with got := ps.foldl (fun t p => tput t p.1 0) u.got }
    if !u1.rest.isEmpty then s1.setAg r n { a with units := a.units.set k u1 }
    else
      let m := match u.slot with
        | some _ => 128
        | none => u.data.length
      let s2 := s1.setAg r n { a with units := a.units.eraseIdx k, delivered := a.delivered + m }
      if d.mode ≠ 2 ∧ d.walk ≤ a.issued ∧ (s2.ag r n).units.isEmpty then s2.agFinish r n else s2

/-- AG_LINE_COMPLETION: of request k mod 128 of an AG, the part that k / 128 names performs, each at its own time (R105, R113, R152). -/
def execAgLineCompletion (r ag k : Nat) (s : State) : Out :=
  let a := s.ag r ag
  let i := k % 128
  match a.bound, a.desc, a.units[i]? with
  | some (gk, _, _), some d, some u =>
    let ps := u.pick (k / 128)
    if u.done then .next (s.agDrain r ag (2 * a.units.length + 2))
    else if a.behind i ps then .next s
    else if d.store then .next (s.agWritePart gk r ag i d u ps)
    else if u.rest.isEmpty then .next (s.agLoaded gk r ag i a d u)
    else
      let s1 := s.agReadPart gk r ag i a u ps
      let a1 := s1.ag r ag
      .next (match a1.units[i]? with
        | some v => if v.rest.isEmpty ∧ !v.done then s1.agLoaded gk r ag i a1 d v else s1
        | none => s1)
  | _, _, _ => .next s

end Sys2Proof.Machine
end

