-- ==== Sys2Proof/Machine/Cairn.lean ====
section
/-! DEFINITION. Cairn: regions, signatures, the decision of a tile and its effects (R170 to R179). -/

namespace Sys2Proof.Machine

/-- A region as its descriptor gives it (R170). -/
def regionOf (l : List Byte) : Region :=
  { raw := slice l 0 64, efmt := field l 0 1 % 4, f := field l 1 1, theta := BitVec.ofNat 16 (field l 2 2), te := field l 4 4,
    ntiles := field l 8 4, ipt := field l 12 4, outw := field l 16 4, nmaps := field l 20 2,
    sigbase := BitVec.ofNat 64 (field l 24 8), skbase := BitVec.ofNat 64 (field l 32 8), s := 0, force := false, bound := false, carried := [] }

/-- The ranges and reserved fields of R170. The alignment of the stores and the kind of theta are checked where a phase binds the region
(R172; log 108). -/
def regionOk (l : List Byte) : Bool :=
  let r := regionOf l
  decide (field l 0 1 < 4) && decide (r.efmt < 3) && decide (r.f ≤ 254) && r.te % 16 == 0 && decide (16 ≤ r.te) &&
    decide (r.te ≤ 2 ^ 18) && decide (1 ≤ r.ntiles) && decide (r.ntiles ≤ 2 ^ 24) && decide (1 ≤ r.ipt) &&
    decide (r.ipt ≤ 2 ^ 20) && decide (r.outw ≤ 2 ^ 20) && decide (1 ≤ r.nmaps) && zeroBytes l 22 2 && zeroBytes l 40 24

/-- The element format of a region (R170). -/
def Region.fmt (r : Region) : Fmt := if r.efmt = 0 then .bf16 else if r.efmt = 1 then .f16 else .b32

/-- Bytes per element. -/
def Region.esz (r : Region) : Nat := if r.efmt = 2 then 4 else 2

/-- mb of R177: the bytes of a step map. -/
def Region.mapBytes (r : Region) : Nat := 8 * ceilDiv r.ntiles 64

/-- The address of a step's map (R177). -/
def Region.mapAt (r : Region) (t : Nat) : W64 := r.skbase + BitVec.ofNat 64 (t % (if r.nmaps = 0 then 1 else r.nmaps) * r.mapBytes)

/-- Where a tile's record and age lie (R171). -/
def Region.sigAt (r : Region) (i : Nat) : W64 := r.sigbase + BitVec.ofNat 64 (64 * i)
def Region.ageAt (r : Region) (i : Nat) : W64 := r.sigbase + BitVec.ofNat 64 (64 * r.ntiles + i)

/-- The elements of a tile's words, in delivery order. -/
def Region.elements (r : Region) (ws : List W32) : List Nat :=
  let bs := (ws.map fun w => leBytes 4 w.toNat).flatten
  (List.range r.te).map fun i => field bs (r.esz * i) r.esz

/-- A value divided by a positive integer, rounded once to BF16. -/
def meanCode (v : FVal) (b : Nat) : Nat :=
  match v with
  | .fin neg m e => roundRat .bf16 false .rne neg (dyNum m e) (dyDen e * b)
  | v => roundF .bf16 false .rne v

/-- The absolute value of a value. -/
def absV (v : FVal) : FVal := if v.isNeg then fnegV v else v

/-- The signature of a tile: mean and maxabs of each sub-block (R174). Flush-to-zero never applies (R89). -/
def Region.signature (r : Region) (els : List Nat) : List (Nat × Nat) :=
  let b := r.te / 16
  (List.range 16).map fun j =>
    let xs := ((els.drop (j * b)).take b).map (decodeF r.fmt)
    let sum := xs.foldl (fun acc x => decodeF .b32 (roundF .b32 false .rne (faddV .rne acc x))) (decodeF .b32 0)
    let mx := xs.foldl (fun acc x => if acc.isNan then acc else if x.isNan then x else if fltV acc (absV x) then absV x else acc) (decodeF .b32 0)
    (meanCode sum b, roundF .bf16 false .rne mx)

/-- The 64 bytes of a record (R174). -/
def sigBytes (l : List (Nat × Nat)) : List Byte := (l.map fun x => leBytes 2 x.1 ++ leBytes 2 x.2).flatten

def sigOf (l : List Byte) : List (Nat × Nat) := (List.range 16).map fun j => (field l (4 * j) 2, field l (4 * j + 2) 2)

/-- The difference of two codes is at most theta: exact, equal values differ by 0, an infinity against anything else by infinity
(R175). -/
def diffLe (a b : Nat) (theta : FVal) : Bool :=
  let x := decodeF .bf16 a
  let y := decodeF .bf16 b
  if feqV x y then true
  else !fltV theta (absV (faddV .rne x (fnegV y)))

/-- A tile is skipped (R176). -/
def Region.skips (r : Region) (age : Nat) (new old : List (Nat × Nat)) : Bool :=
  let codes := ((new ++ old).map fun x => [x.1, x.2]).flatten
  let th := decodeF .bf16 r.theta.toNat
  age ≠ 0xFF && (codes.all fun c => !(decodeF .bf16 c).isNan) &&
    ((new.zip old).all fun p => diffLe p.1.1 p.2.1 th && diffLe p.1.2 p.2.2 th) && decide (age < r.f) && !r.force

/-- The Cairn comparator's page request or failure (R372, R375, R376): its accesses are those of the phase's engines. -/
def State.cairnFail (s : State) (gk : Nat) (g : Group) (i : Nat) (c : Cairn) (wr : Bool) (e : EngErr) : State :=
  let r := s.ringOfV g (c.inPort / 4)
  match e with
  | .acc (.xlat f) =>
    (s.setGroup gk (g.setCairn i { c with held := true })).pageAsk
      { ring := r, fault := f, asid := g.x.asid, wr := wr, rd := !wr, ul := g.x.lvl == .u, src := 3, south := false, ag := 0,
        waiter := .cairn gk i }
  | .acc (.addr va) => s.phaseFault gk 1 FaultAt.zero va
  | .acc (.align va) => s.phaseFault gk 1 FaultAt.zero va
  | .acc (.bounds va) => s.phaseFault gk 2 FaultAt.zero va
  | .acc (.window h) => s.phaseFault gk 12 FaultAt.zero h
  | .acc (.mem e) => s.engMemFail gk r e
  | .mem e => s.engMemFail gk r e

/-- Bits `lo` to `lo + n - 1` of a step map are written (R177). -/
def mapWord (old : List Byte) (lo : Nat) (bits : List Bool) : List Byte :=
  (List.range 8).map fun k =>
    let b := old.getD k 0
    BitVec.ofNat 8 ((List.range 8).foldl (fun v j =>
      let i := 8 * k + j
      let bit := if lo ≤ i ∧ i < lo + bits.length then bits.getD (i - lo) false else b.getLsbD j
      if bit then v + 2 ^ j else v) 0)

/-- The map bits a decision writes: the tile's own, and after the step's last tile the bits beyond it as 0 (R177). -/
def Region.mapBits (r : Region) (i : Nat) (skip : Bool) : List Bool :=
  if i + 1 = r.ntiles then skip :: List.replicate (63 - i % 64) false else [skip]

/-- The undecided tiles of an ended stream take map bits of 0, one 8-byte part at a time (R173, R177). -/
def State.clearMap (s : State) (x : XCtx) (rg : Region) (step from_ : Nat) : Nat → Except EngErr State
  | 0 => .ok s
  | fuel + 1 =>
    if 64 * ceilDiv rg.ntiles 64 ≤ from_ then .ok s
    else
      let va := rg.mapAt step + BitVec.ofNat 64 (8 * (from_ / 64))
      match s.engRead x va 8 with
      | .error e => .error e
      | .ok old =>
        match (s.engLinked x [(va, 8)]).engPut false x va (mapWord old (from_ % 64) (List.replicate (64 - from_ % 64) false)) with
        | .error e => .error e
        | .ok s1 => s1.clearMap x rg step (from_ / 64 * 64 + 64) fuel

/-- The loader behind an input port delivers what it holds, now that the comparator has room. -/
def State.agRefill (s : State) (g : Group) (key : Nat) : State :=
  match (tfind g.ports key).map Port.kind with
  | some (PortKind.ag south n) =>
    let r := s.ringOfV g (key / 4)
    s.agDrain r (agIdx south n) (2 * (s.ag r (agIdx south n)).units.length + 2)
  | _ => s

/-- A decided tile's effects on the comparator's books and the port: a computed tile's words are delivered (R176). -/
def State.decideTile (s : State) (gk i k : Nat) (skip : Bool) : State :=
  match s.group? gk with
  | none => s
  | some g =>
    match g.cairns[i]? with
    | none => s
    | some c =>
      match c.tiles[k]?, tfind g.ports c.inPort with
      | some t, some p =>
        let tiles := c.tiles.set k { t with decided := true, skip := skip, words := [] }
        let s1 := s.setGroup gk (g.setCairn i
          { c with tiles := tiles, decidedTiles := c.decidedTiles + 1, mapBits := c.mapBits ++ [skip], held := false })
        -- a resumed port has had the first words of its first tile already
        let s2 := if skip then s1 else (t.words.drop (p.arrived + p.creditWords - t.tile * p.decl.t)).foldl (fun st w =>
          match st.group? gk with
          | some g2 =>
            match tfind g2.ports c.inPort with
            | some p2 => st.enqueueFifo gk g2 c.inPort p2 w
            | none => st
          | none => st) (s1.setPort gk c.inPort p)
        let s3 := match s2.group? gk with
          | some g3 =>
            match tfind g3.ports c.inPort with
            | some p3 => if c.ended ∧ tiles.all (·.decided) then s2.setPort gk c.inPort { p3 with eos := true } else s2
            | none => s2
          | none => s2
        s3.agRefill g c.inPort
      | _, _ => s

/-- The comparator of a ring as an agent: by the phase's registers, and after its own earlier writes, which never lag (R113, R115). -/
def State.cairnCtx (s : State) (g : Group) (c : Cairn) : XCtx :=
  let x := g.x.onRing (s.ringOfV g (c.inPort / 4))
  { x with front := { x.front with wrote := joinTab x.front.wrote [(Agent.code (.engines x.ring), s.free)] } }

/-- What is left for the comparator to do for a region: its oldest undecided tile, or after the stream's end the map bits of tiles that were never staged. -/
def Cairn.work (c : Cairn) (rg : Region) : Option (Option Nat) :=
  if c.held then none
  else
    match c.tiles.findIdx? (fun t => !t.decided) with
    | some k => some (some k)
    | none => if c.ended ∧ c.decidedTiles < rg.ntiles ∧ c.mapBits.length < rg.ntiles then some none else none

/-- TILE_DECISION: the oldest undecided staged tile of a region is decided, and its record, age and map bit are written before any item of it is
admitted (R173, R176, R178); a tile that a restored image holds as decided is not decided again (R179). Once the stream has ended, the bits of the tiles that were never staged follow. After a phase fault no tile is decided (R177); after
a void item those still staged are (log 113). -/
def execTileDecision (gk : Nat) (s : State) : Out :=
  match s.group? gk with
  | none => .next s
  | some g =>
    if g.mark.isSome then .next s
    else
      let next := g.cairns.zipIdx.findSome? fun x =>
        (s.cairnRegion g x.1).bind fun rg => (x.1.work rg).map fun w => (x.2, x.1, rg, w)
      match next with
      | none => .next s
      | some (i, c, rg, none) =>
        match s.clearMap (s.cairnCtx g c) rg c.step c.decidedTiles (ceilDiv rg.ntiles 64 + 1) with
        | .error e => .next (s.cairnFail gk g i c true e)
        | .ok s1 => .next (s1.setGroup gk (g.setCairn i { c with mapBits := List.replicate rg.ntiles false }))
      | some (i, c, rg, some k) =>
        match c.tiles[k]?, c.tiles[k]?.bind fun t => c.carried.find? fun d => d.1 == t.tile with
        | none, _ => .next s
        | some _, some (_, skip) => .next (s.decideTile gk i k skip)
        | some t, none =>
          let mapVa := rg.mapAt c.step + BitVec.ofNat 64 (8 * (t.tile / 64))
          match s.engRead (s.cairnCtx g c) (rg.sigAt t.tile) 64, s.engRead (s.cairnCtx g c) (rg.ageAt t.tile) 1, s.engRead (s.cairnCtx g c) mapVa 8 with
          | .ok old, .ok age, .ok mw =>
            let s := s.engLinked (s.cairnCtx g c) [(rg.sigAt t.tile, 64), (rg.ageAt t.tile, 1), (mapVa, 8)]
            let new := rg.signature (rg.elements t.words)
            let a := leNat age
            let skip := rg.skips a new (sigOf old)
            let w1 := if skip then Except.ok s else s.engPut false (s.cairnCtx g c) (rg.sigAt t.tile) (sigBytes new)
            match w1 with
            | .error e => .next (s.cairnFail gk g i c true e)
            | .ok s1 =>
              match s1.engPut false (s.cairnCtx g c) (rg.ageAt t.tile) [if skip then BitVec.ofNat 8 (a + 1) else 0] with
              | .error e => .next (s.cairnFail gk g i c true e)
              | .ok s2 =>
                match s2.engPut false (s.cairnCtx g c) mapVa (mapWord mw (t.tile % 64) (rg.mapBits t.tile skip)) with
                | .error e => .next (s.cairnFail gk g i c true e)
                | .ok s3 => .next (s3.decideTile gk i k skip)
          | .error e, _, _ => .next (s.cairnFail gk g i c false e)
          | _, .error e, _ => .next (s.cairnFail gk g i c false e)
          | _, _, .error e => .next (s.cairnFail gk g i c false e)

end Sys2Proof.Machine
end

