-- ==== Sys2Proof/Machine/Bind.lean ====
section
/-! DEFINITION. What a PLOAD reads and checks: the phase descriptor, the image, the binding block and the AG descriptors (R134, R150,
R151, R153, R172, R193, R194, R204, R231, R382). -/

namespace Sys2Proof.Machine

/-- An entry of a binding block (R193). -/
structure BindEnt where
  raw : List Byte
  v : Nat
  p : Nat
  kind : Nat
  count : Bool
  hasRegion : Bool
  west : Bool
  region : Nat
  agNum : Nat
  south : Bool
  queue : Nat
  addr : W64
  size : Nat
  chan : Nat
  idx : W64
  deriving DecidableEq, Repr

/-- The entry at an offset of a binding block. -/
def bindAt (l : List Byte) (o : Nat) : BindEnt :=
  let f := field l (o + 4) 1
  let a := field l (o + 6) 1
  { raw := slice l o 32, v := field l o 2, p := field l (o + 2) 1 % 4, kind := field l (o + 3) 1, count := f % 2 == 1,
    hasRegion := f / 2 % 2 == 1, west := f / 4 % 2 == 1, region := field l (o + 5) 1 % 64, agNum := a % 4, south := a / 4 % 2 == 1,
    queue := a % 16, addr := BitVec.ofNat 64 (field l (o + 8) 8), size := field l (o + 16) 4, chan := field l (o + 20) 4 % 256,
    idx := BitVec.ofNat 64 (field l (o + 24) 8) }

/-- The AG descriptors that a binding entry names: its own, and in indirect mode the index AG's. -/
structure AgPair where
  main : AgDesc
  index : Option AgDesc
  deriving DecidableEq, Repr

/-- Reserved fields and kinds of an entry (R193, R194). -/
def BindEnt.resvOk (e : BindEnt) (ag : Option AgPair) : Bool :=
  let l := e.raw
  let indirect := match ag with
    | some a => a.main.mode == 2
    | none => false
  decide (field l 2 1 < 4) && decide (e.kind < 5) && decide (field l 4 1 < 8) && decide (field l 5 1 < 64) &&
    (match e.kind with
      | 1 => decide (field l 6 1 < 8)
      | 4 => decide (field l 6 1 < 16)
      | _ => field l 6 1 == 0) &&
    field l 7 1 == 0 && (decide (e.kind < 3) || zeroBytes l 8 8) && (e.kind == 0 || e.kind == 2 || zeroBytes l 16 4) &&
    decide (field l 20 4 < 256) && (indirect || zeroBytes l 24 8)

/-- Why a PLOAD's reads or checks fail. -/
inductive LoadErr where
  | eng (e : EngErr)
  /-- The kind, the check, the virtual stripe and the value of R382; a check the spec does not number is a free value (log 18). -/
  | check (kind : Nat) (check : Option Nat) (vs : Nat) (fval : W64)
  deriving DecidableEq, Repr

/-- What a PLOAD has read and found good. -/
structure Loaded where
  desc : List Byte
  img : PhaseImg
  carve : W64
  ents : List BindEnt
  ags : List (Option AgPair)
  count : Nat
  deriving DecidableEq, Repr

/-- A structure that PLOAD reads: aligned and reachable (R194). -/
def State.plRead (s : State) (c : XCtx) (va : W64) (al n : Nat) : Except LoadErr (List Byte) :=
  if va.toNat % al ≠ 0 then .error (.eng (.acc (.align va)))
  else
    match s.engRead c va n with
    | .ok l => .ok l
    | .error e => .error (.eng e)

/-- The AG descriptors of one entry: the index AG's is the one at the address that the entry gives, whatever address that is (R153; log 127). -/
def State.plAg (s : State) (c : XCtx) (e : BindEnt) : Except LoadErr (Option AgPair) :=
  if e.kind ≠ 1 then .ok none
  else
    match s.plRead c e.addr 8 64 with
    | .error x => .error x
    | .ok l =>
      let d := agDescOf l
      if d.mode ≠ 2 then .ok (some { main := d, index := none })
      else
        match s.plRead c e.idx 8 64 with
        | .error x => .error x
        | .ok m => .ok (some { main := d, index := some (agDescOf m) })

def State.plAgs (s : State) (c : XCtx) : List BindEnt → Except LoadErr (List (Option AgPair))
  | [] => .ok []
  | e :: t =>
    match s.plAg c e with
    | .error x => .error x
    | .ok a =>
      match s.plAgs c t with
      | .error x => .error x
      | .ok l => .ok (a :: l)

/-- The binding block at an address: its count word and its entries (R193). -/
def State.plBinds (s : State) (c : XCtx) (va : W64) : Except LoadErr (Nat × List BindEnt) :=
  match s.plRead c va 8 8 with
  | .error x => .error x
  | .ok h =>
    let n := field h 0 2
    match s.plRead c va 8 (8 + 32 * n) with
    | .error x => .error x
    | .ok l => .ok (field h 0 8, (List.range n).map fun i => bindAt l (8 + 32 * i))

/-- The phase image at an address: the whole of it where its header gives a size that holds its lists, else the header (R191). -/
def State.plImage (s : State) (c : XCtx) (va : W64) : Except LoadErr (List Byte) :=
  match s.plRead c va 64 64 with
  | .error x => .error x
  | .ok h =>
    let size := field h 48 4
    if size % 64 = 0 ∧ 64 ≤ size ∧ field h 32 8 + 16 * field h 20 2 ≤ size ∧ field h 40 8 + 8 * field h 6 2 ≤ size then
      s.plRead c va 64 size
    else .ok h

/-- The ring of a group, by index, that holds a virtual stripe (R35, R134). -/
def ringIdx (counts : List Nat) (v : Nat) : Nat := if counts.sum = 0 then 0 else (splitSlot counts (v % counts.sum)).1

/-- An entry is an input binding. -/
def BindEnt.isIn (e : BindEnt) : Bool := decide (e.p < 2)

def BindEnt.off (e : BindEnt) : Nat := e.addr.toNat

/-- Two pool regions overlap. -/
def BindEnt.meets (a b : BindEnt) : Bool :=
  a.kind == 0 && b.kind == 0 && decide (a.off < b.off + b.size) && decide (b.off < a.off + a.size)

def BindEnt.sameRegion (a b : BindEnt) : Bool := a.kind == 0 && b.kind == 0 && a.off == b.off && a.size == b.size

/-- The entry belongs to the merge pair of its stripe. -/
def PhaseImg.mergeIn (m : PhaseImg) (e : BindEnt) : Bool :=
  e.isIn && (match m.stripes[e.v]? with
    | some im => im.pmode / 2 % 2 == 1
    | none => false)

/-- The pool FIFO rules of R134 for entry i. -/
def poolOk (m : PhaseImg) (carve : W64) (ents : List BindEnt) (e : BindEnt) : Bool :=
  if e.kind ≠ 0 then true
  else
    let same := ents.filter e.sameRegion
    let ins := same.filter (·.isIn)
    let outs := same.filter fun x => !x.isIn
    let merges := ins.any m.mergeIn
    let pair := ents.filter fun x => x.isIn && x.v == e.v
    let d := m.decl? e.v e.p
    e.off % 4096 == 0 && e.size % 4096 == 0 && decide (e.off + e.size ≤ 65536 * carveFifo carve) &&
      (ents.all fun x => !e.meets x || e.sameRegion x) &&
      (decide (ins.length ≤ 1) || (merges && decide (ins.length = 2) && ins.all fun x => x.v == (ins.headD e).v)) &&
      (decide (outs.length ≤ 1) || merges) &&
      (!m.mergeIn e || (pair.length == 2 && pair.all e.sameRegion &&
        (match m.decl? e.v 0 with
          | some d0 => decide (4 * d0.d * d0.w ≤ e.size)
          | none => false))) &&
      (!e.isIn || !outs.isEmpty || (match d with
        | some x => x.tagged
        | none => false))

/-- The AGs that an entry uses, by ring index and number: its own, and the index AG's (R134, R151). -/
def agKeys (counts : List Nat) (e : BindEnt) (ag : Option AgPair) : List (Nat × Nat) :=
  match ag with
  | none => []
  | some a =>
    let r := ringIdx counts e.v
    let n := agIdx e.south e.agNum
    if a.index.isSome then [(r, n), (r, pairOf n)] else [(r, n)]

/-- R134 for entry i of the block; `others` are the AG keys of the other entries. -/
def State.r134 (s : State) (first : Nat) (counts : List Nat) (m : PhaseImg) (carve : W64) (ents : List BindEnt) (e : BindEnt)
    (ag : Option AgPair) (others : List (Nat × Nat)) : Bool :=
  let used := match m.stripes[e.v]? with
    | some im => im.uses e.p
    | none => false
  let r := first + ringIdx counts e.v
  let x := s.ring r
  used && ((ents.filter fun q => q.v == e.v && q.p == e.p).length == 1) && poolOk m carve ents e &&
    (!m.mergeIn e || e.kind == 0) &&
    (match e.kind with
      | 1 => (match ag with
          | some a => a.main.store == !e.isIn
          | none => false) && (agKeys counts e ag).all fun k => !others.contains k
      | 2 =>
        let o := e.addr.toNat - 0xFFFFFFFFC0000000
        decide (0xFFFFFFFFC0000000 ≤ e.addr.toNat) && decide (o + e.size ≤ 2 ^ 22 * x.slen) && e.size % 4096 == 0
      | 3 => if e.west then decide (x.sbase < r) else decide (r + 1 < x.sbase + x.slen)
      | 4 => !e.isIn
      | _ => true)

/-- R153 for an entry. -/
def r153 (ag : Option AgPair) : Bool :=
  match ag with
  | none => true
  | some a =>
    a.main.ok && (match a.index with
      | some i => i.indexOk
      | none => true)

/-- The position whose port feeds B to a block's top stripe (R231). -/
def PhaseImg.bFeed (m : PhaseImg) (e : BindEnt) : Bool :=
  match m.stripes[e.v]? with
  | none => false
  | some im =>
    (match im.meWord with
      | some w => (meRunWords w.2).isSome
      | none => false) && bsrcIn m.stripes e.v == some true &&
      (match tfind im.pos 12 with
        | some p => p.inp == e.p + 1
        | none => false)

/-- The granules of the fifo carve that the pool FIFOs of a ring take. -/
def fifoGranules (counts : List Nat) (ents : List BindEnt) (ring : Nat) : List Nat :=
  (ents.filter fun x => x.kind == 0 && ringIdx counts x.v == ring).foldl (init := []) fun l x =>
    l ++ ((List.range (x.size / 4096)).map fun i => x.off / 4096 + i).filter fun n => !l.contains n

/-- The words that a storer's whole pattern takes, in bytes: in indirect mode its walk for each index (R149, R151). -/
def AgPair.storeBytes (a : AgPair) : Nat :=
  a.main.walk * (match a.index with
    | some i => i.walk
    | none => 1) * a.main.esz

/-- A storer AG writes `outw` words per tile: its pattern takes them for every tile, and a tile ends with one of its elements, or with one of its slots
(R172; log 40). -/
def AgPair.tileOk (a : AgPair) (outw ntiles : Nat) : Bool :=
  let esz := if a.main.esz = 0 then 1 else a.main.esz
  a.main.store && a.storeBytes == 4 * outw * ntiles && outw * 4 % esz == 0 && (!a.main.zc || outw * 4 / esz % 128 == 0)

/-- R172 for an entry that names a region, which lies on the ring of the input port that names it (log 39). -/
def State.r172 (s : State) (vf : Nat) (counts : List Nat) (m : PhaseImg) (carve : W64) (ents : List BindEnt) (e : BindEnt) (ag : Option AgPair)
    (count : Nat) : Bool :=
  if !e.hasRegion then true
  else
    match tfind (s.vfOf vf).regions e.region with
    | none => false
    | some rg =>
      let named := ents.filter (·.hasRegion)
      let ins := named.filter fun x => x.isIn && x.region == e.region
      let ring := ringIdx counts (ins.headD e).v
      let one := ins.length == 1 && decide ((named.filter fun x => !x.isIn && x.region == e.region).length ≤ 1) &&
        named.all fun x => !x.isIn || x.region == e.region || ringIdx counts x.v ≠ ring
      let th := rg.theta.toNat
      let d := m.decl? e.v e.p
      one && regionOk rg.raw && rg.sigbase.toNat % 64 == 0 && rg.skbase.toNat % 8 == 0 && decide (th < 32768) && !(decodeF .bf16 th).isNan && !rg.bound && count == rg.ntiles * rg.ipt &&
        decide ((fifoGranules counts ents ring).length + 2 * ceilDiv (rg.te * rg.esz) 4096 ≤ 16 * carveFifo carve) &&
        (match ag with
          | none => false
          | some a =>
            if e.isIn then
              !e.south && a.main.esz == rg.esz && (match d with
                | some x => rg.te * rg.esz == 4 * x.t
                | none => false)
            else a.tileOk rg.outw rg.ntiles)

/-- R242 for an entry: a port that reads the FIFO of a steer port declares records of as many words as the stripe has steer words. -/
def PhaseImg.r242 (m : PhaseImg) (ents : List BindEnt) (e : BindEnt) : Bool :=
  !e.isIn || ents.all fun o => o.isIn || !e.sameRegion o || (match m.stripes[o.v]? with
    | none => true
    | some im => im.pmode % 2 == 0 || (match m.decl? e.v e.p with
        | some d => d.w == im.steerWords
        | none => true))

/-- The item counts that flagged entries give (R150). -/
def flaggedCounts (ents : List BindEnt) (ags : List (Option AgPair)) : List Nat :=
  (ents.zip ags).filterMap fun x =>
    if x.1.count then x.2.map fun a => a.main.outputs else none

/-- The count flag is allowed, and every flagged AG gives the same count (R150). -/
def countFlagOk (ents : List BindEnt) (ags : List (Option AgPair)) (e : BindEnt) (ag : Option AgPair) : Bool :=
  if !e.count then true
  else
    (match ag with
      | some a => a.main.mode == 1
      | none => false) && (flaggedCounts ents ags).all fun n => n == (flaggedCounts ents ags).headD 0

/-- The first check that an entry fails, with its number in R382 where it has one. -/
def firstBad : List (Bool × Option Nat) → Option (Option Nat)
  | [] => none
  | (ok, n) :: t => if ok then firstBad t else some n

/-- The binding checks in entry order; a used port without a binding fails last, with the entry count as the index. -/
def State.bindErr (s : State) (vf first : Nat) (counts : List Nat) (m : PhaseImg) (carve : W64) (head : Nat) (ents : List BindEnt)
    (ags : List (Option AgPair)) (count : Nat) : Option (Option Nat × Nat) :=
  let one (i : Nat) : Option (Option Nat × Nat) :=
    match ents[i]? with
    | none => none
    | some e =>
      let ag := (ags[i]?).getD none
      let others := (((List.range ents.length).filter (· ≠ i)).map fun j =>
        match ents[j]? with
        | some q => agKeys counts q ((ags[j]?).getD none)
        | none => []).flatten
      (firstBad [(e.resvOk ag, none), (s.r134 first counts m carve ents e ag others, some 1), (r153 ag, some 2),
        (countFlagOk ents ags e ag, none), (!(e.hasRegion && m.bFeed e), some 4), (s.r172 vf counts m carve ents e ag count, some 3), (m.r242 ents e, none)]).map fun n => (n, i)
  if 65536 ≤ head then some (none, 0)
  else
    match (List.range ents.length).findSome? one with
    | some x => some x
    | none =>
      let missing := (List.range m.v).any fun v =>
        match m.stripes[v]? with
        | some im => [0, 1, 2, 3].any fun p => im.uses p && !(ents.any fun e => e.v == v && e.p == p)
        | none => false
      if missing then some (some 1, ents.length) else none

/-- The phase's item count (R150). -/
def itemCount (desc : List Byte) (m : PhaseImg) (ents : List BindEnt) (ags : List (Option AgPair)) : Nat :=
  if field desc 28 4 % 2 = 1 then field desc 24 4
  else
    match flaggedCounts ents ags with
    | n :: _ => n
    | [] => m.count

/-- The offset in a span of its first byte that lies in an executable page (R204). -/
def State.execAt (s : State) (c : XCtx) (va : W64) (n : Nat) : Option Nat :=
  ((pieces (n / 4096 + 2) va (max n 1)).find? fun p => s.pageExec c p.1).map fun p => p.1.toNat - va.toNat

/-- The executable page that one of a PLOAD's structures lies in: the byte offset, for the image (R204, R382). -/
def State.plExec (s : State) (c : XCtx) (descVa : Option W64) (desc img : List Byte) (ents : List BindEnt)
    (ags : List (Option AgPair)) : Option Nat :=
  match s.execAt c (BitVec.ofNat 64 (field desc 0 8)) img.length with
  | some o => some o
  | none =>
    let d := match descVa with
      | some va => s.spanExec c va 32
      | none => false
    let other := d || s.spanExec c (BitVec.ofNat 64 (field desc 8 8)) (8 + 32 * ents.length) ||
      (ents.zip ags).any fun x =>
        match x.2 with
        | some a => s.spanExec c x.1.addr 64 || (a.index.isSome && s.spanExec c x.1.idx 64)
        | none => false
    if other then some 0 else none

/-- Every check of a PLOAD, in the order addresses, image, carve, binding, for a ring group of the given first ring and slot counts
(R194). `saved` are the AG descriptors of a resumed phase, which it does not read again (R387). -/
def State.loadPhase (s : State) (c : XCtx) (descVa : Option W64) (desc : List Byte) (first : Nat) (counts : List Nat)
    (saved : BindEnt → Option (Option AgPair)) (ownRegion : Bool) : Except LoadErr Loaded :=
  let imgVa := BitVec.ofNat 64 (field desc 0 8)
  match s.plImage c imgVa with
  | .error e => .error e
  | .ok l =>
    match s.plBinds c (BitVec.ofNat 64 (field desc 8 8)) with
    | .error e => .error e
    | .ok (head, ents) =>
      let fresh := if ents.all fun e => (saved e).isSome then .ok (ents.map fun e => (saved e).getD none) else s.plAgs c ents
      match fresh with
      | .error e => .error e
      | .ok ags =>
        let carve := BitVec.ofNat 64 (field desc 16 8)
        let size := field l 48 4
        let bad (e : ImgErr) : Except LoadErr Loaded := .error (.check 9 e.check e.vs (BitVec.ofNat 64 e.off))
        let rest : Except LoadErr Loaded :=
          match imageErr l size counts carve with
          | some e => bad e
          | none =>
            if !carveOk carve (BitVec.ofNat 64 (field l 24 8)) then .error (.check 10 (some 0) 0 carve)
            else
              let m := imageOf l
              let count := itemCount desc m ents ags
              -- a resumed phase's own binding of its region is no obstacle to it
              let s1 := if ownRegion then s.updVf (s.vfNum c.ring) (fun f => { f with regions := tmap (fun _ r => { r with bound := false }) f.regions })
                else s
              match s1.bindErr (s.vfNum c.ring) first counts m carve head ents ags count with
              | some (n, i) => .error (.check 11 n 0 (BitVec.ofNat 64 i))
              | none => .ok { desc := desc, img := m, carve := carve, ents := ents, ags := ags, count := count }
        match imageErr l size counts carve with
        | some { check := some 1, vs := v, off := o } => bad (imgErr 1 v o)
        | e =>
          if 2 ≤ field desc 28 4 then bad (imgErr 2 0 0)
          else
            match e, s.plExec c descVa desc l ents ags with
            | some { check := some _, vs := _, off := _ }, _ => rest
            | _, some o => bad (imgErr 9 0 o)
            | _, none => rest

end Sys2Proof.Machine
end

