-- ==== Sys2Proof/Machine/Phase.lean ====
section
/-! DEFINITION. The life of a phase: choosing its ring group, checks, acceptance, draining and retirement (R19, R28, R36, R49, R50, R101,
R115, R134, R140, R142, R172, R177, R276 to R280, R351, R352, R381). -/

namespace Sys2Proof.Machine

/-- The record of a handle, if it is one of the last 16 (R278, R380). -/
def State.rec? (s : State) (r serial : Nat) : Option PhaseRec := tfind (s.ring r).recs serial

/-- The resident phase of a handle. -/
def State.groupOf (s : State) (r serial : Nat) : Option (Nat × Group) :=
  s.groups.find? fun e => e.2.issuer == r && e.2.serial == serial

/-- Tiles delivered by a port, credited ones included (R136, R139). -/
def Port.tiles (p : Port) : Nat := p.delivered / (if p.decl.t = 0 then 1 else p.decl.t) + p.credTiles

/-- Words that the ports of a group have discarded (R142). -/
def Group.discards (g : Group) : Nat := (g.ports.map fun e => e.2.disc).sum

/-- The AGs that are bound to a group: ring and number. -/
def State.agsOf (s : State) (gk : Nat) (g : Group) : List (Nat × Nat) :=
  ((List.range g.k).map fun i => (s.ring (g.first + i)).ags.filterMap fun a =>
    match a.2.bound with
    | some (k, _, _) => if k = gk then some (g.first + i, a.1) else none
    | none => none).flatten

/-- The record with the counts of a phase that is resident (R381): what its AGs and ports have counted comes on top of what a restored record holds. -/
def State.liveRec (s : State) (r serial : Nat) (q : PhaseRec) : PhaseRec :=
  match s.groupOf r serial with
  | none => q
  | some (gk, g) =>
    { q with disc := g.discards, tiles := ((g.ports.filter fun e => e.1 % 4 < 2).map fun e => e.2.tiles).sum,
             oor := q.oor + ((s.agsOf gk g).map fun a => (s.ag a.1 a.2).oor).sum }

/-- The summary word (R280). -/
def PhaseRec.summary (q : PhaseRec) : W64 :=
  let code := if q.state = 6 then q.code.toNat else 0
  BitVec.ofNat 64 (q.items % 2 ^ 32 * 2 ^ 32 + min q.csets 255 * 2 ^ 24 + code * 2 ^ 16 + (if q.void then 512 else 0) +
    (if q.zip then 256 else 0) + q.state)

/-- Word n of a record (R381). -/
def PhaseRec.word (q : PhaseRec) (n : Nat) : W64 :=
  match n with
  | 0 => q.summary
  | 1 => BitVec.ofNat 64 (sat32 q.oor * 2 ^ 32 + sat32 q.disc)
  | 2 => BitVec.ofNat 64 (sat32 q.cred * 2 ^ 32 + sat32 q.tiles)
  | 3 => BitVec.ofNat 64 (q.kind * 2 ^ 56 + q.check % 256 * 2 ^ 48 + q.ctx % 32 * 2 ^ 37 + q.pos % 32 * 2 ^ 32 + q.vs % 65536 * 2 ^ 16 + q.gslot % 65536)
  | 4 => q.fval
  | 5 => BitVec.ofNat 64 ((if q.state = 0 then 0 else match q.fvoid with
      | some n => sat32 n
      | none => 2 ^ 32 - 1) * 2 ^ 32 + sat32 q.sweeps)
  | 6 => q.tret
  | _ => 0

/-- An asynchronous operation leaves the pending list. -/
def State.dropAsync (s : State) (r id : Nat) : State := s.updRing r fun x => { x with asyncs := x.asyncs.filter fun a => a.id != id }

def State.setAsync (s : State) (r : Nat) (a : Async) : State :=
  s.updRing r fun x => { x with asyncs := x.asyncs.map fun b => if b.id = a.id then a else b }

/-- A pload that has not become resident retires in error (R278). -/
def State.refusePload (s : State) (r : Nat) (a : Async) (serial : Nat) (code : BitVec 8) : State :=
  let s1 := s.updRec r serial fun q => { q with state := 6, code := code, tret := s.time }
  (s1.dropAsync r a.id).endOp r a.id a.set (some code)

/-- A pload whose translation failed retires in error (R376, R382). -/
def State.xlatPload (s : State) (r : Nat) (a : Async) (serial : Nat) (va : W64) : State :=
  (s.updRec r serial fun q => { q with kind := 8, fval := va }).refusePload r a serial errXlat

/-- A pload's reads or checks fail (R194, R271, R376). -/
def State.ploadFail (s : State) (r : Nat) (a : Async) (serial : Nat) (e : LoadErr) : State :=
  match e with
  | .eng (.acc (.xlat f)) =>
    (s.setAsync r { a with held := true }).pageAsk
      { ring := r, fault := f, asid := a.x.asid, wr := false, rd := true, ul := a.x.lvl == .u, src := 2, south := false, ag := 0,
        waiter := .async r a.id }
  | .eng (.mem (.integrity pa)) => s.memFail r 0 (.integrity pa)
  | .eng (.mem .gated) => s
  | .eng (.mem (.machine pa)) =>
    ((s.memFail r 0 (.machine pa)).updRec r serial fun q => { q with kind := 13, fval := BitVec.ofNat 64 (mcAddr pa) }).refusePload r a serial errMcheck
  | .eng (.acc (.window h)) => (s.updRec r serial fun q => { q with kind := 12, fval := h }).refusePload r a serial errWindow
  | .eng e => s.refusePload r a serial e.code
  | .check kind n vs fval =>
    let c := match n with
      | some n => n
      | none => (Config.unlistedCheck s.free).toNat
    (s.updRec r serial fun q => { q with kind := kind, check := c, vs := vs, fval := fval }).refusePload r a serial (faultCode kind)

/-- Has ring r left power state 0 (R276, R383, R438)? -/
def State.powerGated (s : State) (r : Nat) : Bool := (s.ring r).power ≠ 0

/-- Does ring r offer itself to placement, to launches and to ccfg? From the success of a quiesce request on it does not (R352, R426). -/
def State.offered (s : State) (r : Nat) : Bool := (s.ring r).power == 0 && (s.ring r).powerNext.isNone

/-- The rings of a run. -/
def runOf (first k : Nat) : List Nat := (List.range k).map (first + ·)

/-- Is y + p of an axis reached by a window (R150)? -/
def reached (e f s z : Nat) : Bool :=
  let st := if s = 0 then 1 else s
  let o := min (e - 1) (z / st)
  e ≠ 0 && decide (z - o * st < f)

/-- The in-image coordinates that a window reaches on an axis of length n: the lowest and the highest. -/
def reachRange (n e f s p : Nat) : Option (Nat × Nat) :=
  let l := (List.range n).filter fun y => reached e f s (y + p)
  match l.head?, l.getLast? with
  | some a, some b => some (a, b)
  | _, _ => none

/-- The least and greatest of a coordinate range times a stride. -/
def span1 (lo hi : Int) (str : Int) : Int × Int := if 0 ≤ str then (lo * str, hi * str) else (hi * str, lo * str)

/-- The smallest byte interval that holds every address a loader's pattern can reach (R352). -/
def AgDesc.footprint (d : AgDesc) : Option (Int × Int) :=
  let b : Int := d.base.toNat
  let dims := (List.range d.nd).map fun i => span1 0 ((d.cntAt i : Int) - 1) (d.strAt i)
  let aff := dims.foldl (fun (acc : Int × Int) x => (acc.1 + x.1, acc.2 + x.2)) (b, b)
  match d.mode with
  | 0 => some (aff.1, aff.2 + d.esz)
  | 1 =>
    match reachRange d.hh d.ey.toNat d.ff d.ss d.pp, reachRange d.wd d.ex.toNat d.ff d.ss d.pp with
    | some (y0, y1), some (x0, x1) =>
      let y := span1 y0 y1 (d.strAt 2)
      let x := span1 x0 x1 (d.strAt 1)
      let c := span1 0 ((d.cntAt 0 : Int) - 1) (d.strAt 0)
      some (b + y.1 + x.1 + c.1, b + y.2 + x.2 + c.2 + d.esz)
    | _, _ => none
  | _ =>
    if d.ilim = 0 then none
    else
      let k := span1 0 ((d.ilim : Int) - 1) d.ist
      some (aff.1 + k.1, aff.2 + k.2 + d.esz)

/-- The footprints of the loader AGs of a binding block, index AGs included. -/
def footprints (ags : List (Option AgPair)) : List (Int × Int) :=
  (ags.map fun a =>
    match a with
    | none => []
    | some p => (if p.main.store then [] else p.main.footprint.toList) ++ (match p.index with
        | some i => i.footprint.toList
        | none => [])).flatten

/-- Bytes that two intervals share. -/
def shared (a : Int × Int) (lo hi : Int) : Nat := (min a.2 hi - max a.1 lo).toNat

/-- The map of the launch that runs on ring r (R351). -/
def State.launchMap (s : State) (r : Nat) : List (W64 × Nat × Nat) :=
  match (s.vfOf (s.vfNum r)).launches.reverse.find? fun l => l.left.contains r with
  | some l => l.map
  | none => []

/-- The weight of a strip ring (R352). -/
def weightOf (map : List (W64 × Nat × Nat)) (fps : List (Int × Int)) (j : Nat) : Nat :=
  ((map.filter fun m => m.2.2 == j).map fun m => (fps.map fun f => shared f m.1.toNat (m.1.toNat + m.2.1)).sum).sum

/-- The group that the dispatcher chooses for k rings (R352; log 120): its first ring. -/
def State.chooseGroup (s : State) (r k : Nat) (fps : List (Int × Int)) : Option Nat :=
  let x := s.ring r
  let map := s.launchMap r
  let cands := if k = 0 then [] else (List.range (x.slen + 1 - k)).filter fun b => (runOf (x.sbase + b) k).all s.offered
  let score (b : Nat) : Nat := ((List.range k).map fun i => weightOf map fps (b + i)).sum
  let best (l : List Nat) : Option Nat := l.foldl (fun (m : Option Nat) b =>
    match m with
    | none => some b
    | some c => if score c < score b then some b else some c) none
  let free := cands.filter fun b => (runOf (x.sbase + b) k).all fun q => (s.ring q).group.isNone
  (match best free with
    | some b => some b
    | none => best cands).map (x.sbase + ·)

/-- The phase descriptor, read at acceptance (R193, R277). -/
def State.readPdesc (s : State) (c : XCtx) (va : W64) : Except LoadErr (List Byte) := s.plRead c va 8 32

/-- What a PLOAD reads, by addresses and lengths (R193, R194): its descriptor, its image, its binding block and the AGs' descriptors. -/
def State.loadSpans (s : State) (c : XCtx) (va : W64) (d : List Byte) (ents : List BindEnt) (ags : List (Option AgPair)) : List (W64 × Nat) :=
  let img := BitVec.ofNat 64 (field d 0 8)
  let bind := BitVec.ofNat 64 (field d 8 8)
  let body : List (W64 × Nat) := match s.plImage c img with
    | .ok l => [(img, 64), (img, l.length)]
    | .error _ => []
  (va, 32) :: body ++ [(bind, 8), (bind, 8 + 32 * ents.length)] ++ ((ents.zip ags).flatMap fun x => match x.2 with
    | some a => (x.1.addr, 64) :: (if a.index.isSome then [(x.1.idx, 64)] else [])
    | none => [])

/-- The footprints that a choice needs: only a launch with a map gives weights (R352). -/
def State.choiceFoot (s : State) (r : Nat) (c : XCtx) (desc : W64) : Except LoadErr (List (Int × Int)) :=
  if (s.launchMap r).isEmpty then .ok []
  else
    match s.readPdesc c desc with
    | .error e => .error e
    | .ok d =>
      match s.plBinds c (BitVec.ofNat 64 (field d 8 8)) with
      | .error e => .error e
      | .ok (_, ents) =>
        match s.plAgs c ents with
        | .error e => .error e
        | .ok ags => .ok (footprints ags)

/-- The choices of group that have succeeded and wait (R277). -/
def State.tickets (s : State) : List (Nat × Nat × Nat) :=
  (s.rings.map fun e => e.2.asyncs.filterMap fun a => a.grp.map fun g => (a.ticket, g.1, g.2)).flatten

/-- Two runs of rings share a ring. -/
def runsMeet (a k b n : Nat) : Bool := decide (a < b + n) && decide (b < a + k)

/-- Chooses the ring group of a pload (R276, R277, R352). -/
def State.placePload (s : State) (r : Nat) (a : Async) (desc gsel : W64) (serial : Nat) : State :=
  let k := fld gsel 14 8
  let base := fld gsel 6 0
  let x := s.ring r
  let take (first : Nat) : State :=
    let t := (s.tickets.map (·.1)).foldl max 0 + 1
    s.setAsync r { a with grp := some (first, k), ticket := t }
  if k = 0 then s.refusePload r a serial errPlace
  else if bit gsel 16 then
    match s.choiceFoot r a.x desc with
    | .error e => s.ploadFail r a serial e
    | .ok fps =>
      match s.chooseGroup r k fps with
      | none => s.refusePload r a serial errPlace
      | some first => take first
  else if x.slen < base + k ∨ (runOf (x.sbase + base) k).all s.offered = false then s.refusePload r a serial errPlace
  else take (x.sbase + base)

/-- The kind of port that an entry binds. -/
def BindEnt.port (e : BindEnt) : PortKind :=
  match e.kind with
  | 0 => .pool e.addr.toNat e.size
  | 1 => .ag e.south e.agNum
  | 2 => .camp e.addr e.size e.chan
  | 3 => .chain e.west e.chan
  | _ => .token e.queue

/-- The ports of a phase (R134). -/
def Loaded.ports (l : Loaded) : Tab Port :=
  l.ents.foldl (fun t e =>
    match l.img.decl? e.v e.p with
    | some d => tput t (portKey e.v e.p) (Port.start d e.port (if e.hasRegion then some e.region else none))
    | none => t) []

/-- The AGs of a phase start at their first elements (R134, R151). Each looks in its own TLB (R369), and the PLOAD is a release at strip scope that each
acquires: its reads come after all that happens before the PLOAD, the issuer's own accesses among them (R110, R112). -/
def State.bindAgs (s : State) (gk : Nat) (g : Group) (l : Loaded) : State :=
  (l.ents.zip l.ags).foldl (init := s) fun st x =>
    match x.2 with
    | none => st
    | some a =>
      let r := st.ringOfV g x.1.v
      let n := agIdx x.1.south x.1.agNum
      let key := portKey x.1.v x.1.p
      let ctx (m : Nat) : XCtx := { g.x.onRing r with tlb := .ag r m }
      let s1 := st.setAg r n { Ag.reset with bound := some (gk, key, 0), desc := some a.main, idxDesc := a.index, x := ctx n }
      match a.index with
      | some i => s1.setAg r (pairOf n) { Ag.reset with bound := some (gk, key, 1), desc := some i, x := ctx (pairOf n) }
      | none => s1

/-- The ring buffers and links of a phase (R134). A link holds 2 KiB at each end. A producer that finds its channel empty, with no mark in it, begins at
the buffer's start; the words and the mark of an earlier producer stay for its consumer (R140). -/
def State.bindChans (s : State) (g : Group) : State :=
  g.ports.foldl (init := s) fun st e =>
    match st.chanKey g e.1 e.2 with
    | none => st
    | some k =>
      let c := st.chan k
      let cap := match e.2.kind with
        | .camp _ size _ => size / 4
        | .chain _ _ => 1024
        | .pool _ _ => 0
        | .ag _ _ => 0
        | .token _ => 0
      let base := match e.2.kind with
        | .camp a _ _ => a.toNat
        | .chain _ _ => 0
        | .pool _ _ => 0
        | .ag _ _ => 0
        | .token _ => 0
      st.setChan k { c with cap := cap, base := base, wrote := if e.1 % 4 ≥ 2 ∧ c.words.isEmpty ∧ c.ends.isEmpty then 0 else c.wrote }

/-- An element as its stripe image starts it (R49, R68, R188). -/
def PosImg.start (p : PosImg) : Elem :=
  Elem.fresh { Elem.reset with c := (match p.consts with
                                     | some l => tfill [] 0 l
                                     | none => []),
                               setup := (match p.afc with
                                         | some a => [(0, a)]
                                         | none => []) } 0

/-- The record of a stateful stripe at PLOAD (R49, R189). -/
def StripeImg.startRecord (im : StripeImg) : List Byte :=
  let l := ((List.range 32).map fun p =>
    if im.smap.getLsbD p then
      (if isMe p then meRecord Elem.reset else veRecord 0 (match tfind im.pos p with
        | some q => q.start
        | none => Elem.reset))
    else []).flatten
  l ++ List.replicate (64 * im.z - l.length) 0

/-- The save records of a scrolling phase take their initial state (R49). -/
def State.startRecords (s : State) (g : Group) : State :=
  if !g.scrolls (s.plen g) then s
  else
    (List.range g.img.v).foldl (init := s) fun st v =>
      match g.stripe? v with
      | some im => if im.stateful then st.putBytes (poolKey g.first (saveBase g.carve + g.recOff v)) im.startRecord else st
      | none => st

/-- The Cairn work of a phase (R172): one for every input port that names a region. Tiles that a restored image holds as decided come with it (R179). -/
def State.bindCairns (s : State) (vf : Nat) (l : Loaded) : List Cairn :=
  (l.ents.filter fun e => e.hasRegion && e.isIn).map fun e =>
    let out := (l.ents.find? fun q => q.hasRegion && !q.isIn && q.region == e.region).map fun q => portKey q.v q.p
    let rg := tfind (s.vfOf vf).regions e.region
    { region := e.region, inPort := portKey e.v e.p, outPort := out, step := (rg.map (·.s)).getD 0, tiles := [], staged := [], stagedTiles := 0,
      decidedTiles := 0, mapBits := [], carried := (rg.map (·.carried)).getD [], dropped := 0, held := false, ended := false }

/-- A region of a VF changes. -/
def State.updRegion (s : State) (vf n : Nat) (f : Region → Region) : State :=
  s.updVf vf fun v => { v with regions := match tfind v.regions n with
    | some r => tput v.regions n (f r)
    | none => v.regions }

/-- A group at its acceptance (R34, R50, R71). -/
def Group.start (first k issuer serial : Nat) (a : Async) (l : Loaded) (cairns : List Cairn) : Group :=
  { first := first, k := k, issuer := issuer, serial := serial, opId := a.id, set := a.set, desc := l.desc, x := a.x, img := l.img,
    carve := l.carve, count := l.count, draining := l.count == 0, mark := none, ports := l.ports, started := false, t := 0,
    stage := .entry, cursor := 0, hold := 0, banks := [], served := false, rsqWait := [], sweep := 0, sweepItems := 0, closed := false, pass := 0, passItems := 0,
    admitted := 0, credited := 0, exited := 0, voidFrom := none, fresh := [], lastSweep := false, wrap := [], cross := [], wq := [],
    blocks := [], upds := [], overlay := [], nextMark := 0, cairns := cairns, kept := [], frozen := false, frozenFor := 0, deadCycles := 0, sweepCtr := 0,
    overrun := false, preempt := false, pload := a }

/-- Slots below min(V, P) begin their first load; with no item every slot stays IDLE (R50). -/
def State.startSlots (s : State) (g : Group) : State :=
  let p := s.plen g
  (List.range p).foldl (init := s) fun st gs =>
    st.setSlot g gs (if gs < g.img.v ∧ !g.draining then { Slot.reset with v := some gs, st := .load, sweep := g.sweep } else Slot.reset)

/-- The elements of a ring take the values of R60 and R66 at a PLOAD (R68, R302). -/
def Ring.freshElems (x : Ring) : Ring := { x with elems := tmap (fun _ e => e.fresh 0) x.elems }

/-- The dies of the clock set of a die: those that ring groups join, directly or in chains (R424). -/
def State.clockSet (s : State) (d : Nat) : List Nat :=
  let spans := s.groups.map fun g => (dieOf g.1, dieOf (g.1 + g.2.k - 1))
  let grow (l : List Nat) : List Nat :=
    (List.range 4).filter fun e => l.contains e || spans.any fun p => decide (p.1 ≤ e) && decide (e ≤ p.2) && l.any fun c => decide (p.1 ≤ c) && decide (c ≤ p.2)
  grow (grow (grow [d]))

/-- Every die of a set takes a setting (R424). -/
def State.setM (s : State) (set : List Nat) (m : Nat) : State :=
  set.foldl (init := s) fun st d => st.updDie d fun x => { x with m := m, stretched := s.time }

/-- The dies that a new group joins take one setting, the lowest of theirs (R24, R424). -/
def State.joinClocks (s : State) (d : Nat) : State :=
  let set := s.clockSet d
  let m := (set.map fun e => (s.die e).m).foldl min 16
  if set.all fun e => (s.die e).m == m then s else s.setM set m

/-- A phase becomes resident: CARVEW on every ring, its ports, AGs, records and slots, and one clock setting (R24, R101, R134, R277). -/
def State.acceptPhase (s : State) (g : Group) (l : Loaded) : State :=
  let s1 := (runOf g.first g.k).foldl (init := s) fun st r =>
    st.updRing r fun x => { x.freshElems with carvew := g.carve, group := some g.first }
  let s2 := (s1.setGroup g.first g).joinClocks (dieOf g.first)
  let s3 := ((s2.bindChans g).bindAgs g.first g l).startSlots g
  g.cairns.foldl (init := s3) fun st c => st.updRegion (s.vfNum g.x.ring) c.region fun r => { r with bound := true, carried := [] }

/-- PLOAD_ACCEPT (R194, R276, R277, R278): the pload first chooses its group, and later, when every ring of it holds no phase and no
earlier choice contends for one, reads, checks and accepts. It fails with PLACE if a ring of the group has been gated meanwhile (R426). -/
def execPloadAccept (r k : Nat) (s : State) : Out :=
  match (s.ring r).asyncs[k]? with
  | none => .next s
  | some a =>
    match a.op, a.st with
    | .pload desc gsel serial, .group =>
      if a.held ∨ s.unitOff r ∨ (s.strip (s.ring r).sbase).capture then .next s
      else
        match a.grp with
        | none => .next (s.placePload r a desc gsel serial)
        | some (first, n) =>
          let waits := (runOf first n).any (fun q => (s.ring q).group.isSome || (s.ring q).halted) ||
            s.tickets.any fun t => decide (t.1 < a.ticket) && runsMeet first n t.2.1 t.2.2
          if (runOf first n).all s.offered = false then .next (s.refusePload r a serial errPlace)
          else if waits then .next s
          else
            let s1 := s.updRec r serial fun q => { q with state := 2 }
            match s1.readPdesc a.x desc with
            | .error e => .next (s1.ploadFail r a serial e)
            | .ok d =>
              let counts := (runOf first n).map fun q => (s.ring q).ringp
              match s1.loadPhase a.x (some desc) d first counts (fun _ => none) false with
              | .error e => .next (s1.ploadFail r a serial e)
              | .ok l =>
                let g := Group.start first n r serial a l (s1.bindCairns (s.vfNum r) l)
                let s2 := (((s1.engLinked a.x (s1.loadSpans a.x desc d l.ents l.ags)).dropAsync r a.id).acceptPhase g l).startRecords g
                .next (s2.updRec r serial fun q => { q with state := if g.draining then 4 else 3 })
    | _, _ => .next s

/-- Discards what an input port still holds, once no item will read it (R142). -/
def State.drainIn (s : State) (gk key : Nat) : State :=
  match s.group? gk with
  | none => s
  | some g =>
    match tfind g.ports key with
    | none => s
    | some p =>
      let ws := s.allIn g key p
      let recs := (p.recs.map fun r => r.2.length).sum + (p.win.map fun w => w.2.length).sum
      let p1 := { p with disc := p.disc + ws + recs, recs := [], win := [], offer := none }
      let s1 := s.setPort gk key p1
      match s1.group? gk with
      | some g1 => s1.dropWords gk g1 key p1 ws
      | none => s1

/-- An input port has its end-of-stream mark, in a phase that runs no further item (R140). -/
def State.inEnded (s : State) (g : Group) (key : Nat) (p : Port) : Bool :=
  match p.kind with
  | .pool _ _ => if p.decl.tagged then p.tilesMet else true
  | .ag _ _ => p.eos
  | .camp _ _ _ => s.eosMark g key p
  | .chain _ _ => s.eosMark g key p
  | .token _ => true

/-- An AG has drained: a loader has sent its mark, a storer has written every whole element it was given (R28, R115). -/
def Ag.drained (a : Ag) : Bool :=
  match a.desc with
  | none => true
  | some d =>
    a.fault.isNone && a.units.isEmpty &&
      (a.ended || (match a.bound with
        | some (_, _, role) => if role ≠ 0 then true else d.store && decide (a.part.length < if d.zc then 128 * d.esz else d.esz)
        | none => true))

/-- The billets fired by tokens that a port produces have drained (R115, R163): no token waits for an armed billet, and no copy that one has fired is
under way, whether or not its billet is still armed. -/
def State.tokensDone (s : State) (g : Group) (key : Nat) (p : Port) : Bool :=
  match p.kind with
  | .token q =>
    let x := s.ring (s.ringOfV g (key / 4))
    let bound := x.billets.any fun b => field b.2.record 72 1 / 16 % 2 == 1 && field b.2.record 72 1 % 16 == q
    (!bound || (tget [] x.tqs q).isEmpty) && !((x.copyReady ++ x.copies).any fun j =>
      match j.src with
      | .firing _ n => n == q
      | .rsq _ => false)
  | .pool _ _ => true
  | .ag _ _ => true
  | .camp _ _ _ => true
  | .chain _ _ => true

/-- A tagged copy that has begun to write to a port of the group, which it is bound to (R115, R138). -/
def State.tagBusy (s : State) (g : Group) : Bool :=
  let tags := g.ports.filterMap fun e => if e.1 % 4 < 2 ∧ e.2.decl.tagged then some e.2.decl.tag else none
  !tags.isEmpty && allRings.any fun r =>
    (s.ring r).copies.any fun j => j.desc.tagged && tags.contains j.desc.tag &&
      ((j.desc.targets r).zipIdx.any fun q => !j.dead.contains q.1 && decide (g.first ≤ q.1) && decide (q.1 < g.first + g.k) && j.wroteAt 0 (q.2 + 1))

/-- Cairn work of a draining phase is done: every staged tile is decided and the map is whole, unless a fault ended it (R28, R177). -/
def State.workDone (s : State) (g : Group) (c : Cairn) : Bool :=
  !c.held && (g.mark.isSome || ((c.tiles.all (·.decided)) && (match s.cairnRegion g c with
    | some rg => decide (rg.ntiles ≤ c.decidedTiles) || decide (rg.ntiles ≤ c.mapBits.length)
    | none => true)))

def State.cairnDone (s : State) (g : Group) : Bool := g.cairns.all (s.workDone g)

/-- What a draining phase does in a cycle: it discards the words of its inputs, and a faulted phase's idle loaders end (R142, R379). -/
def State.drainStep (s : State) (gk : Nat) : State :=
  match s.group? gk with
  | none => s
  | some g =>
    let s1 := s.setGroup gk { g with cairns := g.cairns.map fun c => { c with tiles := c.tiles.filter fun t => !t.decided } }
    let s2 := (g.ports.filter fun e => e.1 % 4 < 2).foldl (init := s1) fun st e => st.drainIn gk e.1
    if g.mark.isNone then s2
    else
      (s.agsOf gk g).foldl (init := s2) fun st a =>
        let x := st.ag a.1 a.2
        let loads := match x.desc with
          | some d => !d.store
          | none => false
        if loads && x.units.isEmpty && x.fault.isNone then st.agFinish a.1 a.2 else st

/-- A phase has drained (R28). -/
def State.isDrained (s : State) (gk : Nat) (g : Group) : Bool :=
  (g.ports.all fun e => (if e.1 % 4 < 2 then s.inEnded g e.1 e.2 else true) && s.tokensDone g e.1 e.2) &&
    ((s.agsOf gk g).all fun a => (s.ag a.1 a.2).drained) && s.cairnDone g && !s.tagBusy g

/-- The steer stripe whose records a merge restores: steer and merge stripes nest in stripe order (R144, R145). -/
def steerOf (l : List StripeImg) : List (Nat × Nat) :=
  (l.zipIdx.foldl (fun (acc : List (Nat × Nat) × List Nat) x =>
    let a1 := if x.1.pmode / 2 % 2 = 1 then
        (match acc.2 with
          | q :: st => (acc.1 ++ [(x.2, q)], st)
          | [] => acc)
      else acc
    if x.1.pmode % 2 = 1 then (a1.1, x.2 :: a1.2) else a1) ([], [])).1

/-- A merge pair lacked a sequence number at the end (R142). -/
def Group.lacking (g : Group) : Bool :=
  (steerOf g.img.stripes).any fun x =>
    let n (p : Nat) : Nat := match tfind g.ports (portKey x.2 p) with
      | some q => q.steered
      | none => 0
    match tfind g.ports (portKey x.1 0) with
    | some q => q.head != BitVec.ofNat 16 (n 2 + n 3)
    | none => false

/-- The channels of a retired phase: the marks of its outputs follow their words, and what its inputs had left of their producers goes (R140). -/
def State.closeChans (s : State) (g : Group) : State :=
  g.ports.foldl (init := s) fun st e =>
    match st.chanKey g e.1 e.2 with
    | none => st
    | some k => st.setChan k (if e.1 % 4 ≥ 2 then (st.chan k).mark else (st.chan k).finish)

/-- The rings of a group hold no phase any more. -/
def State.freeGroup (s : State) (gk : Nat) (g : Group) : State :=
  let s1 := (s.agsOf gk g).foldl (init := s) fun st a => st.updRing a.1 fun x => { x with ags := tdel x.ags a.2 }
  let s2 := (List.range (s.plen g)).foldl (init := s1) fun st gs => st.setSlot g gs Slot.reset
  let s3 := (runOf g.first g.k).foldl (init := s2) fun st r => st.updRing r fun x => { x with group := none }
  { s3 with groups := tdel s3.groups gk }

/-- The retirement of a phase is a release at strip scope of all that it and its engines have written, and of all that happened before the phase (R110,
R112): a wait on the phase acquires it. -/
def State.publish (s : State) (g : Group) : State :=
  s.updRing g.issuer fun x =>
    { x with joined := (x.joined.sup g.x.front).acquire 0 { near := 0, wrote := (runOf g.first g.k).map fun r => (Agent.code (.engines r), s.free) } }

/-- A phase retires (R28, R112, R142, R177, R278). -/
def State.retire (s : State) (gk : Nat) (g : Group) : State :=
  let q0 := s.liveRec g.issuer g.serial ((s.rec? g.issuer g.serial).getD PhaseRec.reset)
  let zip := g.discards ≠ 0 || q0.void || g.lacking
  let err : Option (BitVec 8) := match g.mark with
    | some c => some c
    | none => if zip && g.img.zipt then some errZip else none
  let q := { q0 with zip := zip, tret := s.time, state := if err.isSome then 6 else 5, code := err.getD 0 }
  let s1 := (s.publish g).updRec g.issuer g.serial fun _ => q
  let s2 := g.cairns.foldl (init := s1) fun st c => st.updRegion (s.vfNum g.x.ring) c.region fun r =>
    if err.isSome then { r with bound := false } else { r with bound := false, s := (r.s + 1) % 2 ^ 32, force := false }
  ((s2.closeChans g).freeGroup gk g).endOp g.issuer g.opId g.set err

/-- PHASE_RETIREMENT: a draining phase discards what still reaches it, and retires once its ports and the engines bound to it have
drained (R28, R142, R278). -/
def execPhaseRetirement (gk : Nat) (s : State) : Out :=
  match s.group? gk with
  | none => .next s
  | some g =>
    if !g.draining then .next s
    else
      let s1 := s.drainStep gk
      match s1.group? gk with
      | none => .next s1
      | some g1 => if s1.isDrained gk g1 then .next (s1.retire gk g1) else .next s1

end Sys2Proof.Machine
end

