-- ==== Sys2Proof/Machine/Copy.lean ====
section
/-! DEFINITION. The copy unit: descriptors and their checks, promises, billets, the parts of a copy, multicast branches and guards, MX
transposes, and completions (R95, R138, R156 to R169, R283 to R287, R400 to R403, R421). -/

namespace Sys2Proof.Machine

/-- The fields of a descriptor or template (R156). -/
def copyDescOf (l : List Byte) : CopyDesc :=
  { ctl := BitVec.ofNat 32 (field l 0 4), tok := BitVec.ofNat 32 (field l 4 4), src := BitVec.ofNat 64 (field l 8 8),
    dst := BitVec.ofNat 64 (field l 16 8), n0 := field l 24 4, n1 := field l 28 2, n2 := field l 30 2, sstr1 := fieldS l 32 4,
    dstr1 := fieldS l 36 4, sstr2 := fieldS l 40 4, dstr2 := fieldS l 44 4, cmask := BitVec.ofNat 32 (field l 48 4),
    rmask := field l 52 1, resv53 := field l 53 1, qp := field l 54 2, aux := BitVec.ofNat 64 (field l 56 8) }

def CopyDesc.form (d : CopyDesc) : Nat := bitsOf d.ctl.toNat 3 0
def CopyDesc.mxfmt (d : CopyDesc) : Nat := bitsOf d.ctl.toNat 6 4
def CopyDesc.tqen (d : CopyDesc) : Bool := d.ctl.getLsbD 24
def CopyDesc.tq (d : CopyDesc) : Nat := bitsOf d.ctl.toNat 28 25
def CopyDesc.remote (d : CopyDesc) : Bool := decide (5 ≤ d.form)

/-- The element formats of an MX transpose (R156). -/
def mxFmt (n : Nat) : Fmt :=
  match n with
  | 0 => .e4m3
  | 1 => .e5m2
  | 2 => .e2m3
  | 3 => .e3m2
  | _ => .e2m1

/-- Bytes of an element of a transpose. -/
def CopyDesc.esz (d : CopyDesc) : Nat := if d.form = 3 then 2 else 1

/-- Bits of an MX element. -/
def CopyDesc.mxBits (d : CopyDesc) : Nat := (mxFmt d.mxfmt).bits

/-- The lowest and highest offsets from dst that a copy writes (the highest exclusive). -/
def CopyDesc.extent (d : CopyDesc) : Int × Int :=
  let row := span1 0 ((d.n1 : Int) - 1) d.dstr1
  let pl := span1 0 ((d.n2 : Int) - 1) d.dstr2
  let col := span1 0 ((d.n0 : Int) - 1) d.dstr1
  match d.form with
  | 1 => (row.1 + pl.1, row.2 + pl.2 + d.n0)
  | 2 => (col.1 + pl.1, col.2 + pl.2 + d.n1)
  | 3 => (col.1 + pl.1, col.2 + pl.2 + 2 * d.n1)
  | 4 =>
    let sc := (d.dstr2, d.dstr2 + (d.n0 * (d.n1 / 32) : Nat))
    (min col.1 sc.1, max (col.2 + (d.n1 * d.mxBits / 8 : Nat)) sc.2)
  | _ => (0, d.n0)

/-- An address of the LBANK aperture, and its offset (R97). -/
def lbankOff (va : W64) : Option Nat := if 0xFFFFFFFFFF000000 ≤ va.toNat then some (va.toNat - 0xFFFFFFFFFF000000) else none

/-- An address of the CAMP aperture, and its offset (R97). -/
def campOff (va : W64) : Option Nat :=
  if 0xFFFFFFFFC0000000 ≤ va.toNat ∧ va.toNat < 0xFFFFFFFFE0000000 then some (va.toNat - 0xFFFFFFFFC0000000) else none

/-- R159's limits on a multicast copy. -/
def CopyDesc.mcOk (d : CopyDesc) : Bool :=
  if !d.mc || d.tagged then true
  else
    let e := d.extent
    match lbankOff d.dst, campOff d.dst with
    | some o, _ => decide (0 ≤ (o : Int) + e.1) && decide ((o : Int) + e.2 ≤ 1572864)
    | none, some o => d.rmask % 16 == 0 && decide (0 ≤ (o % 2 ^ 22 : Nat) + e.1) && decide ((o % 2 ^ 22 : Nat) + e.2 ≤ 2 ^ 22)
    | none, none => false

/-- The limits of a form (R157). -/
def CopyDesc.formOk (d : CopyDesc) : Bool :=
  let m8 (v : Int) : Bool := v % 8 == 0
  let lin := d.n1 == 1 && d.n2 == 1 && aligned d.src.toNat 8 && aligned d.dst.toNat 8 && aligned d.n0 8
  match d.form with
  | 0 => lin
  | 1 => aligned d.src.toNat 8 && aligned d.dst.toNat 8 && aligned d.n0 8 && m8 d.sstr1 && m8 d.dstr1 && m8 d.sstr2 && m8 d.dstr2
  | 2 => aligned d.n0 8 && aligned d.n1 8
  | 3 => aligned d.n0 4 && aligned d.n1 4
  | 4 => aligned d.n0 32 && aligned d.n1 32 && d.n2 == 1
  | _ => lin

/-- The checks of R160 for a VF with `qps` queue pairs. -/
def CopyDesc.ok (d : CopyDesc) (qps : Nat) : Bool :=
  decide (d.form < 8) && decide (d.mxfmt < 5) && bitsOf d.ctl.toNat 15 9 == 0 && bitsOf d.ctl.toNat 31 29 == 0 &&
    decide (d.rmask < 16) && d.resv53 == 0 && d.n1 ≠ 0 && d.n2 ≠ 0 && d.formOk && d.mcOk && (!d.tagged || d.dst == 0) &&
    (if d.remote then decide (d.qp < qps) else d.qp == 0)

/-- The VF's queue-pair count (R421). -/
def State.qpCount (s : State) (v : Nat) : Nat := fld (s.vcsr v 0x1041) 10 0

/-- A strip's guard drops a unit (R400 to R403, R339). -/
def State.guardDrop (s : State) (base : Nat) (east : Bool) (vf stream kind pos slot ring : Nat) : State :=
  let c := s.rcsr base 0x2130
  let c1 := if east then setFld c 63 32 (sat32 (fld c 63 32 + 1)) else setFld c 31 0 (sat32 (fld c 31 0 + 1))
  let s1 := s.setRcsr base 0x2130 c1
  let s2 := if bit (s1.rcsr base 0x2131) 63 then s1
    else (s1.setRcsr base 0x2131 (BitVec.ofNat 64 (2 ^ 63 + vf % 128 * 2 ^ 48 + stream % 65536 * 2 ^ 32 + (if east then 2 ^ 25 else 0) +
      kind % 8 * 2 ^ 22 + pos % 32 * 2 ^ 16 + slot % 64 * 2 ^ 8 + ring % 128))).setRcsr base 0x2132 s.time
  let st := s2.strip base
  let s3 := if st.mute ∧ st.muted then s2 else (s2.setStrip base { st with muted := true }).raiseVf vf 8
  let st3 := s3.strip base
  let last := if east then st3.lastEast else st3.lastWest
  let due := match last with
    | none => true
    | some t => decide (t + st3.gap * 1024 ≤ s.time.toNat)
  if st3.gap = 0 then s3.post (dieOf ring) 4 kind 0 ring
  else if due then
    (s3.setStrip base (if east then { st3 with lastEast := some s.time.toNat } else { st3 with lastWest := some s.time.toNat })).post
      (dieOf ring) 4 kind 0 ring
  else s3

/-- The rows of a mask: one for a CAMP or tagged destination. -/
def CopyDesc.rows (d : CopyDesc) : List Nat :=
  if d.tagged || (lbankOff d.dst).isNone then [0] else (List.range 4).filter fun j => d.rmask / 2 ^ j % 2 == 1

/-- The part count of a copy: 8 bytes each, or for an MX transpose one block (R105, R157, R158). -/
def CopyDesc.parts (d : CopyDesc) : Nat :=
  match d.form with
  | 1 => d.n0 / 8 * d.n1 * d.n2
  | 2 => d.n2 * d.n0 * (d.n1 / 8)
  | 3 => d.n2 * d.n0 * (d.n1 / 4)
  | 4 => d.n0 * (d.n1 / 32)
  | _ => d.n0 / 8

/-- The spans of addresses that a copy reads, as offsets from src with lengths (R157, R158). -/
def CopyDesc.srcSpans (d : CopyDesc) : List (Int × Nat) :=
  let rows (w : Nat) : List (Int × Nat) :=
    ((List.range d.n2).map fun (pl : Nat) => (List.range d.n1).map fun (r : Nat) => ((r : Int) * d.sstr1 + pl * d.sstr2, w)).flatten
  match d.form with
  | 1 => rows d.n0
  | 2 => rows d.n0
  | 3 => rows (2 * d.n0)
  | 4 => ((List.range d.n1).map fun (r : Nat) => [((r : Int) * d.sstr1, d.n0 * d.mxBits / 8), (d.sstr2 + (r * (d.n0 / 32) : Nat), d.n0 / 32)]).flatten
  | _ => [(0, d.n0)]

/-- The spans of addresses that a copy writes, as offsets from dst with lengths (R157, R158). -/
def CopyDesc.dstSpans (d : CopyDesc) : List (Int × Nat) :=
  let rows (n w : Nat) : List (Int × Nat) :=
    ((List.range d.n2).map fun (pl : Nat) => (List.range n).map fun (r : Nat) => ((r : Int) * d.dstr1 + pl * d.dstr2, w)).flatten
  match d.form with
  | 1 => rows d.n1 d.n0
  | 2 => rows d.n0 d.n1
  | 3 => rows d.n0 (2 * d.n1)
  | 4 => ((List.range d.n0).map fun (c : Nat) => [((c : Int) * d.dstr1, d.n1 * d.mxBits / 8), (d.dstr2 + (c * (d.n1 / 32) : Nat), d.n1 / 32)]).flatten
  | _ => [(0, d.n0)]

/-- The first addresses of the 4 KiB-aligned pieces of some spans. -/
def spanStarts (base : W64) (l : List (Int × Nat)) : List W64 :=
  (l.map fun x => (pieces (x.2 / 4096 + 2) (base + BitVec.ofInt 64 x.1) x.2).map (·.1)).flatten

/-- Bytes that a copy moves, for its promise: of an MX transpose its elements and its scales (R164; log 20). -/
def CopyDesc.bytes (d : CopyDesc) : Nat :=
  match d.form with
  | 1 => d.n0 * d.n1 * d.n2
  | 2 => d.n0 * d.n1 * d.n2
  | 3 => 2 * d.n0 * d.n1 * d.n2
  | 4 => d.n1 * (d.n0 * d.mxBits / 8 + d.n0 / 32)
  | _ => d.n0

/-- What part j reads, as offsets from src with lengths, and the offsets from dst of what it writes, with lengths. -/
structure PartMap where
  reads : List (Int × Nat)
  writes : List (Int × Nat)
  deriving DecidableEq, Repr

/-- The element of an MX source row: its byte offset, the bit within it, and the bytes that hold it (R85). -/
def mxAt (bits c : Nat) : Nat × Nat × Nat := (c * bits / 8, c * bits % 8, (c * bits % 8 + bits + 7) / 8)

/-- The offsets of part j (R157, R158). -/
def CopyDesc.part (d : CopyDesc) (j : Nat) : PartMap :=
  let nz (n : Nat) : Nat := if n = 0 then 1 else n
  match d.form with
  | 1 =>
    let w := nz (d.n0 / 8)
    let i := j % w
    let r := j / w % nz d.n1
    let pl := j / w / nz d.n1
    { reads := [((r : Int) * d.sstr1 + pl * d.sstr2 + 8 * i, 8)], writes := [((r : Int) * d.dstr1 + pl * d.dstr2 + 8 * i, 8)] }
  | 4 =>
    let nb := nz (d.n1 / 32)
    let b := j % nb
    let c := j / nb
    let (o, _, n) := mxAt d.mxBits c
    { reads := ((List.range 32).map fun k =>
        let row : Nat := 32 * b + k
        [((row : Int) * d.sstr1 + o, n), (d.sstr2 + (row * (d.n0 / 32) + c / 32 : Nat), 1)]).flatten,
      writes := [((c : Int) * d.dstr1 + (b * 4 * d.mxBits : Nat), 4 * d.mxBits), (d.dstr2 + (c * (d.n1 / 32) + b : Nat), 1)] }
  | 2 =>
    let w := nz (d.n1 / 8)
    let i := j % w
    let c := j / w % nz d.n0
    let pl := j / w / nz d.n0
    { reads := (List.range 8).map fun k => (((8 * i + k : Nat) : Int) * d.sstr1 + pl * d.sstr2 + c, 1),
      writes := [((pl : Int) * d.dstr2 + c * d.dstr1 + 8 * i, 8)] }
  | 3 =>
    let w := nz (d.n1 / 4)
    let i := j % w
    let c := j / w % nz d.n0
    let pl := j / w / nz d.n0
    { reads := (List.range 4).map fun k => (((4 * i + k : Nat) : Int) * d.sstr1 + pl * d.sstr2 + 2 * c, 2),
      writes := [((pl : Int) * d.dstr2 + c * d.dstr1 + 8 * i, 8)] }
  | _ => { reads := [(8 * j, 8)], writes := [(8 * j, 8)] }

/-- emax of an MX format (R95). -/
def mxEmax (f : Fmt) : Int :=
  match f with
  | .e4m3 => 8
  | .e5m2 => 15
  | .e2m3 => 2
  | .e3m2 => 4
  | _ => 2

/-- floor(log2 |x|) of a finite value that is not zero. -/
def log2V : FVal → Option Int
  | .fin _ m e => if m = 0 then none else some ((m.log2 : Int) + e)
  | .inf _ => none
  | .nan => none

/-- An output block of an MX transpose: its codes and its scale (R95). -/
def mxBlock (f : Fmt) (xs : List (Nat × Nat)) : List Nat × Nat :=
  let vals := xs.map fun x => (decodeF f x.1, x.2)
  if xs.any (fun x => x.2 == 255) || vals.any (fun v => v.1.isNan) then (xs.map fun _ => 0, 255)
  else
    let fin := vals.map fun v =>
      let x : FVal := match v.1 with
        | .inf neg => .fin neg 57344 0
        | x => x
      scaleV ((v.2 : Int) - 127) x
    let top := fin.foldl (fun (m : Option Int) x =>
      match m, log2V x with
      | none, l => l
      | some a, some b => some (max a b)
      | some a, none => some a) none
    let e := clampI (-127) 127 (match top with
      | some t => t - mxEmax f
      | none => 0)
    (fin.map fun x => roundF f true .rne (scaleV (-e) x), (e + 127).toNat)

/-- The bytes of an MX transpose's part from what it read: 32 pairs of element bytes and a scale byte (R85, R158). -/
def CopyDesc.mxBytes (d : CopyDesc) (j : Nat) (ls : List (List Byte)) : List (List Byte) :=
  let nb := if d.n1 / 32 = 0 then 1 else d.n1 / 32
  let (_, sh, _) := mxAt d.mxBits (j / nb)
  let xs := (List.range 32).map fun k => (leNat (ls.getD (2 * k) []) / 2 ^ sh % 2 ^ d.mxBits, leNat (ls.getD (2 * k + 1) []))
  let (codes, sc) := mxBlock (mxFmt d.mxfmt) xs
  [leBytes (4 * d.mxBits) (joinLanes d.mxBits codes), leBytes 1 sc]

/-- The byte strings that a part writes, from those it read. -/
def CopyDesc.output (d : CopyDesc) (j : Nat) (ls : List (List Byte)) : List (List Byte) :=
  if d.form = 4 then d.mxBytes j ls else [ls.flatten]

/-- The places of a list of pieces. -/
def State.piecePlaces (s : State) (c : XCtx) (a : Acc) (base : W64) : List (Int × Nat) → Except AccErr (List (Nat × MemAttr))
  | [] => .ok []
  | (o, n) :: t =>
    match s.spanPlaces c a (base + BitVec.ofInt 64 o) n with
    | .error e => .error e
    | .ok ps =>
      match s.piecePlaces c a base t with
      | .error e => .error e
      | .ok l => .ok (ps ++ l)

/-- Cuts bytes into pieces of given lengths. -/
def cutPieces : List (Int × Nat) → List Byte → List (List Byte)
  | [], _ => []
  | (_, n) :: t, l => l.take n :: cutPieces t (l.drop n)

/-- Reads a list of pieces, none of them atomic with another (R105). -/
def State.readPieces (s : State) (c : XCtx) (base : W64) (l : List (Int × Nat)) : Except EngErr (List (List Byte)) :=
  match s.piecePlaces c .load base l with
  | .error e => .error (.ofAcc e)
  | .ok ps =>
    match s.readAt c.reader ps with
    | .error e => .error (.mem e)
    | .ok bs => .ok (cutPieces l (bs.map (·.1)))

/-- A piece cut at the multiples of 8: what performs in one part (R105). -/
def chunks : Nat → W64 → List Byte → List (W64 × List Byte)
  | 0, _, _ => []
  | fuel + 1, va, bs =>
    let n := 8 - va.toNat % 8
    if bs.isEmpty then [] else (va, bs.take n) :: chunks fuel (va + BitVec.ofNat 64 n) (bs.drop n)

/-- Where an endpoint of a copy lies (R164). -/
inductive EndPt where
  /-- Pool or Basecamp of a ring. -/
  | sram (ring : Nat)
  | chan (g : Nat)
  | host
  /-- Its translation is not complete. -/
  | unknown
  deriving DecidableEq, Repr

/-- Where an address of a copy lies (R164). Its translation is not complete at the acceptance where a page request stands in its way (log 20). -/
def State.endPt (s : State) (c : XCtx) (a : Acc) (va : W64) : EndPt :=
  match campOff va with
  | some o => .sram ((s.ring c.ring).sbase + o / 2 ^ 22)
  | none =>
    if (lbankOff va).isSome then .sram c.ring
    else
      match s.ringPlace c a va with
      | .ok (_, .host _ _) => .host
      | .ok (k, _) => .chan (chanOf k)
      | .error _ => .unknown

/-- The pool-bound input port of a ring's resident phase that binds a tag (R138). -/
def State.tagPort (s : State) (r tag : Nat) : Option (Nat × Nat × Port) :=
  match (s.ring r).group with
  | none => none
  | some gk =>
    match s.group? gk with
    | none => none
    | some g =>
      (g.ports.find? fun e => decide (e.1 % 4 < 2) && e.2.decl.tagged && e.2.decl.tag == tag && (match e.2.kind with
        | .pool _ _ => true
        | .ag _ _ => false
        | .camp _ _ _ => false
        | .chain _ _ => false
        | .token _ => false)).map fun e => (gk, e.1, e.2)

/-- The ring whose pool holds the FIFO that a tagged copy reaches through a ring. -/
def State.tagRing (s : State) (q tag : Nat) : Nat :=
  match s.tagPort q tag with
  | some (gk, key, _) => (match s.group? gk with
    | some g => s.ringOfV g (key / 4)
    | none => q)
  | none => q

/-- No element of a list twice. -/
def dedup {α : Type} [DecidableEq α] (l : List α) : List α := l.foldl (fun m x => if x ∈ m then m else m ++ [x]) []

/-- The endpoints of a copy (R164): every place that its source and its destination touch, the source and the destination themselves even where the copy moves
no byte, and of a multicast each branch beside the destination. -/
def State.endPts (s : State) (r : Nat) (c : XCtx) (d : CopyDesc) : List EndPt :=
  let dst := if d.tagged then (d.targets r).map fun q => EndPt.sram (s.tagRing q d.tag)
    else if d.mc then s.endPt c .store d.dst :: (d.targets r).map EndPt.sram
    else (d.dst :: spanStarts d.dst d.dstSpans).map (s.endPt c .store)
  dedup ((d.src :: spanStarts d.src d.srcSpans).map (s.endPt c .load) ++ dst)

/-- The base Lroute, groute and die of an endpoint (R164): `far` is the die of the strip farthest from the ring. -/
def EndPt.row (p : EndPt) (r far : Nat) : Nat × Nat × Nat :=
  match p with
  | .sram q => (60, 64, dieOf q)
  | .chan g => if ringOfChan g = r then (600, 64, dieOf r) else (700, 32, dieOf (ringOfChan g))
  | .host => (700, 32, dieOf r)
  | .unknown => (700, 32, far)

/-- The promise of a copy, and its copy unit's backlogs after acceptance (R164). Of two dies that are equally far the lower counts (log 20). -/
def State.promise (s : State) (r : Nat) (c : XCtx) (d : CopyDesc) : W64 × Tab Nat :=
  let x := s.ring r
  let lo := dieOf x.sbase
  let hi := dieOf (x.sbase + x.slen - 1)
  let far := if dieOf r - lo < hi - dieOf r then hi else lo
  let pts := s.endPts r c d
  if d.remote ∨ pts.contains .host then (0, x.backlog)
  else
    let rows := pts.map fun p => p.row r far
    let dies := dieOf r :: rows.map (·.2.2)
    let bounds := dies.foldl max 0 - dies.foldl min (dieOf r)
    let lroute := (rows.map (·.1)).foldl max 0 + 80 * bounds
    let g0 := if 0 < bounds ∨ rows.any (fun w => w.2.1 == 32) then 32 else 64
    let g := if d.form = 2 ∨ d.form = 3 then g0 / 2 else if d.form = 4 then g0 / 4 else g0
    let key := 64 * lroute + g
    let n := ceilDiv d.bytes g
    let b := tget 0 x.backlog key
    let m := (s.die (dieOf r)).m
    (s.time + BitVec.ofNat 64 (ceilDiv ((lroute + b + n) * 20) (if m = 0 then 1 else m)), tput x.backlog key (b + n))

/-- Where a queue pair's table entry lies (R421). -/
def State.qpSpan (s : State) (v qp : Nat) : W64 × Nat := (s.vcsr v 0x1040 + BitVec.ofNat 64 (32 * qp), 32)

/-- A queue-pair table entry (R421), read under an operation's copy of the translation registers (R367); none if a reserved bit is set. -/
def State.qpEntry (s : State) (c : XCtx) (v qp : Nat) : Except EngErr (Option (List Byte)) :=
  match s.engRead c (s.qpSpan v qp).1 (s.qpSpan v qp).2 with
  | .error e => .error e
  | .ok l => .ok (if field l 19 1 < 8 ∧ field l 20 1 < 32 ∧ zeroBytes l 21 11 then some l else none)

/-- A register of a ring takes the value of an accepted or refused copy (R283). -/
def State.putReg (s : State) (r : Nat) (rd : Option (BitVec 5)) (v : W64) : State :=
  match rd with
  | none => s
  | some i => if i = 0 then s else s.updRing r fun x => { x with seq := { x.seq with x := tput x.seq.x i.toNat v } }

/-- A copy that fails before acceptance (R160, R283). -/
def State.refuseCopy (s : State) (r id : Nat) (src : CopySrc) (set : Option Nat) (rd : Option (BitVec 5)) (e : BitVec 8) : State :=
  (s.putReg r rd 0).endCopy r id src set (some e)

/-- Why a copy that reaches its acceptance completes in error at once, having written no byte, in the order of R271 (R168, R421, R100): addresses are checked
here for the whole copy, translations part by part. -/
def State.acceptErr (s : State) (r : Nat) (j : CopyJob) : Option (BitVec 8) :=
  let bad (va : W64) : Bool :=
    match s.ringPlace j.x .load va with
    | .error (.addr _) => true
    | .error (.bounds _) => true
    | .error (.align _) => false
    | .error (.xlat _) => false
    | .error (.window _) => false
    | .error (.mem _) => false
    | .ok _ => false
  if (j.desc.form ≠ 6 ∧ (spanStarts j.desc.src j.desc.srcSpans).any bad = true) ∨
      (!(j.desc.mc || j.desc.tagged || (j.desc.remote && j.desc.form ≠ 6)) ∧ (spanStarts j.desc.dst j.desc.dstSpans).any bad = true) then some errAddr
  else if j.err.isSome then j.err
  else if j.desc.remote ∧ (s.vfOf (s.vfNum r)).qpErr.contains j.desc.qp then some errRemote
  else none

/-- The slot of a copy, as a guard report names it (R402). -/
def CopyJob.stream (j : CopyJob) : Nat := if j.desc.tagged then j.desc.tag else 0xFF00 + j.set.getD 8

/-- The branches of a multicast copy that its guard drops, or that lie beyond a target's scratch carve (R159, R400). -/
def State.branches (s : State) (r : Nat) (j : CopyJob) : State × List Nat × Bool :=
  let x := s.ring r
  if !j.desc.mc then (s, [], false)
  else
    let out := (j.desc.targets r).filter fun q => !(decide (x.sbase ≤ q) && decide (q < x.sbase + x.slen))
    let drop (st : State) (q : Nat) : State :=
      j.desc.rows.foldl (fun st _ => st.guardDrop x.sbase (decide (r < q)) (s.vfNum r) j.stream 2 0x1F 0x3F r) st
    let s1 := out.foldl drop s
    let e := j.desc.extent
    let beyond := (j.desc.targets r).filter fun q =>
      match lbankOff j.desc.dst with
      | some o => !j.desc.tagged && j.desc.rows.any fun row =>
          decide (((carveScratch (s.ring q).carvew * 65536 : Nat) : Int) < (o : Int) + row * 1572864 + e.2)
      | none => false
    (s1, out, !j.desc.rows.isEmpty && (!out.isEmpty || !beyond.isEmpty))

/-- A copy is accepted: its promise is made and its branches are set (R163, R164). A remote form reads its queue-pair entry first: where the read meets an
integrity fault or a translation fault the copy holds, the latter with a page request, and where it fails in another way it ends with DESC (R372, R412,
R420, R421). -/
def State.acceptCopy (s : State) (r : Nat) (j : CopyJob) : State :=
  let qp : Except EngErr (Option (List Byte)) :=
    if j.desc.remote ∧ j.err.isNone then s.qpEntry j.x (s.vfNum r) j.desc.qp else .ok (some [])
  match qp with
  | .error (.mem (.integrity pa)) => (s.memFail r 3 (.integrity pa)).updRing r fun x => { x with copyReady := j :: x.copyReady }
  | .error (.acc (.xlat f)) =>
    (s.updRing r fun x => { x with copyReady := { j with held := true } :: x.copyReady }).pageAsk
      { ring := r, fault := f, asid := j.x.asid, wr := false, rd := true, ul := j.x.lvl == .u, src := 1, south := false, ag := 0,
        waiter := .copy r j.id }
  | .error (.mem (.machine pa)) => (s.memFail r 3 (.machine pa)).refuseCopy r j.id j.src j.set j.rd errDesc
  | .error (.acc _) => s.refuseCopy r j.id j.src j.set j.rd errDesc
  | .ok none => s.refuseCopy r j.id j.src j.set j.rd errDesc
  | .error (.mem .gated) => s.updRing r fun x => { x with copyReady := j :: x.copyReady }
  | .ok (some l) =>
    let s := if l.isEmpty then s else s.engLinked j.x [s.qpSpan (s.vfNum r) j.desc.qp]
    match s.acceptErr r j with
    | some e => s.refuseCopy r j.id j.src j.set j.rd e
    | none =>
      let (pr, bl) := s.promise r j.x j.desc
      let s1 := (s.putReg r j.rd pr).updRing r fun x => { x with backlog := bl }
      let (s2, dead, lost) := s1.branches r j
      s2.updRing r fun x =>
        { x with copies := x.copies ++ [{ j with promise := pr, rd := none, dead := dead, err := if lost then some errBranch else none }] }

/-- The copy unit of ring r starts no copy now (R394, R412). -/
def State.copyStill (s : State) (r : Nat) : Bool :=
  let x := s.ring r
  x.halted || (s.vfOf (s.vfNum r)).stopped || decide (2 ≤ x.power) || decide (64 ≤ x.copies.length)

/-- The copy unit of ring r accepts nothing that its RSQ has issued now, during a capture nothing at all (R384, R394, R412). -/
def State.copyHeld (s : State) (r : Nat) : Bool := s.copyStill r || (s.strip (s.ring r).sbase).capture

/-- A draining phase waits for the tokens of a queue of ring r: its retirement, which a capture waits for, needs the copies that they fire (R115, R384; log
118). -/
def State.tokensDue (s : State) (r : Nat) : Bool :=
  s.groups.any fun g => g.2.draining && g.2.ports.any fun e => decide (2 ≤ e.1 % 4) && (match e.2.kind with
    | .token _ => s.ringOfV g.2 (e.1 / 4) == r
    | .pool _ _ => false
    | .ag _ _ => false
    | .camp _ _ _ => false
    | .chain _ _ => false)

/-- COPY_ACCEPT: the oldest issue that is ready (R163), unless it holds for the page request of its queue-pair entry (R372). A firing that has held so is
accepted even while a capture waits for it (R52). -/
def execCopyAccept (r : Nat) (s : State) : Out :=
  match (s.ring r).copyReady with
  | [] => .next s
  | j :: rest =>
    if j.held || (if j.orig.isSome then s.copyHeld r else s.copyStill r) then .next s
    else .next ((s.updRing r fun x => { x with copyReady := rest }).acceptCopy r j)

/-- The template of a billet shifted by k (R161). -/
def Billet.fire (b : Billet) (k : Int) : CopyDesc :=
  let d := copyDescOf b.record
  { d with src := d.src + BitVec.ofInt 64 (k * fieldS b.record 64 4), dst := d.dst + BitVec.ofInt 64 (k * fieldS b.record 68 4) }

/-- The queue that a billet binds (R285). -/
def Billet.queue (b : Billet) : Option Nat := if field b.record 72 1 / 16 % 2 = 1 then some (field b.record 72 1 % 16) else none

/-- The slot that a billet's token firings are counted into. -/
def Billet.slot (b : Billet) : Option Nat := if field b.record 73 1 % 16 < 8 then some (field b.record 73 1 % 16) else none

/-- A job for a descriptor. -/
def CopyJob.start (id : Nat) (src : CopySrc) (d : CopyDesc) (set : Option Nat) (rd : Option (BitVec 5)) (x : XCtx) (orig : Option Async) : CopyJob :=
  { id := id, src := src, desc := d, set := set, rd := rd, x := x, promise := 0, done := [], got := [], wrote := [], dead := [], err := none, fatal := false,
    held := false, orig := orig }

/-- BILLET_FIRE: with no RSQ issue pending, the lowest armed billet whose queue is not empty takes a token (R163, R285), unless the slot it counts into is
full: issue stalls then (R268). The completion that enqueued the token synchronises with it (R119). -/
def execBilletFire (r : Nat) (s : State) : Out :=
  let x := s.ring r
  let ready := x.billets.find? fun e =>
    match e.2.queue with
    | some q => !(tget [] x.tqs q).isEmpty
    | none => false
  if (if (s.strip x.sbase).capture && s.tokensDue r then s.copyStill r else s.copyHeld r || !x.copyReady.isEmpty) then .next s
  else
    match ready with
    | none => .next s
    | some (n, b) =>
      match b.queue.map fun q => (q, tget [] x.tqs q) with
      | some (q, tok :: rest) =>
        if (b.slot.map fun i => decide (127 ≤ (s.dep r i).out.length)).getD false then .next s
        else
          let s1 := s.updRing r fun y => { y with tqs := tset [] y.tqs q rest }
          let (id, s2) := s1.newOp r b.slot
          let d := b.fire tok.toInt
          let c := b.x.acquired x.joined
          if d.ok (s.qpCount (s.vfNum r)) then .next ((s2.force c.front.wrote).acceptCopy r (CopyJob.start id (.firing n q) d b.slot none c none))
          else .next (s2.endCopy r id (.firing n q) b.slot (some errDesc))
      | _ => .next s

/-- One piece of a part, as it is written (R105, R119). -/
inductive CopySink where
  /-- An address of the destination. -/
  | mem (va : W64) (bs : List Byte)
  /-- Bytes of a branch's LBANK or Basecamp banks. -/
  | bank (keys : List Nat) (bs : List Byte)
  /-- The FIFO that a tag reaches through a ring. -/
  | port (q : Nat) (bs : List Byte)
  deriving DecidableEq, Repr

/-- The places of a piece in one branch: LBANK bytes within the target's scratch carve, or CAMP bytes (R159). -/
def State.branchKeys (s : State) (d : CopyDesc) (q row : Nat) (o : Int) (n : Nat) : Option (List Nat) :=
  match lbankOff d.dst, campOff d.dst with
  | some b, _ =>
    if (b : Int) + row * 1572864 + d.extent.2 ≤ (carveScratch (s.ring q).carvew * 65536 : Nat) then
      some ((List.range n).map fun (i : Nat) => poolKey q ((b : Int) + row * 1572864 + o + i).toNat)
    else none
  | none, some b => some ((List.range n).map fun (i : Nat) => campKey q (((b % 2 ^ 22 : Nat) : Int) + o + i).toNat)
  | none, none => none

/-- What part i writes, piece by piece and branch by branch; none where a branch is not written (R138, R157 to R159). -/
def State.sinks (s : State) (r : Nat) (j : CopyJob) (i : Nat) (out : List (List Byte)) : List (Option CopySink) :=
  let d := j.desc
  let cut := (((d.part i).writes.zip out).map fun w => chunks (w.2.length + 1) (d.dst + BitVec.ofInt 64 w.1.1) w.2).flatten
  if d.remote && d.form != 6 then []
  else if d.tagged then (d.targets r).map fun q => if j.dead.contains q then none else some (.port q out.flatten)
  else if d.mc then
    ((d.targets r).map fun q => (d.rows.map fun row => cut.map fun c =>
      if j.dead.contains q then none
      else (s.branchKeys d q row (c.1 - d.dst).toInt c.2.length).map fun keys => CopySink.bank keys c.2).flatten).flatten
  else cut.map fun c => some (.mem c.1 c.2)

def State.setCopy (s : State) (r k : Nat) (j : CopyJob) : State := s.updRing r fun x => { x with copies := x.copies.set k j }

/-- A copy's first failure after acceptance is the one it records (R271). A lost branch leaves the others to be written (R138, R159); any other failure ends
the copy. -/
def CopyJob.fails (j : CopyJob) (e : BitVec 8) : CopyJob :=
  { j with err := some (j.err.getD e), fatal := j.fatal || !(j.desc.mc && (e == errBranch || e == errTag)) }

/-- A part of a copy fails after acceptance: a page request, one at a time, or an error (R166, R372). -/
def State.copyFail (s : State) (r k : Nat) (j : CopyJob) (wr : Bool) (e : EngErr) : State :=
  match e with
  | .acc (.xlat f) =>
    if j.held then s
    else
      (s.setCopy r k { j with held := true }).pageAsk
        { ring := r, fault := f, asid := j.x.asid, wr := wr, rd := !wr, ul := j.x.lvl == .u, src := 1, south := false, ag := 0,
          waiter := .copy r j.id }
  | .mem (.integrity pa) => s.memFail r 3 (.integrity pa)
  | .mem (.machine pa) => (s.memFail r 3 (.machine pa)).setCopy r k (j.fails errMcheck)
  | .mem .gated => s
  | e => s.setCopy r k (j.fails e.code)

/-- The parts whose source bytes share a line of a window with those of part i: they are read together (R123; log 111). -/
def State.lineMates (s : State) (j : CopyJob) (i : Nat) : List Nat :=
  let line (n : Nat) : Option Nat := match (j.desc.part n).reads with
    | [(o, _)] => some ((j.desc.src + BitVec.ofInt 64 o).toNat / 64)
    | _ => none
  let win := match (j.desc.part i).reads with
    | (o, _) :: _ => (match s.ringPlace j.x .load (j.desc.src + BitVec.ofInt 64 o) with
      | .ok (_, m) => (winOf m).isSome
      | .error _ => false)
    | [] => false
  if win && (line i).isSome then
    ((List.range 15).map fun n => i + n - 7).filter fun n => decide (n < j.desc.parts) && line n == line i && !j.done.contains n && (tfind j.got n).isNone
  else [i]

/-- What the parts of a copy that are read together give, part by part (R119, R157, R158, R168). -/
def State.copyRead (s : State) (j : CopyJob) (l : List Nat) : Except EngErr (List (Nat × List (List Byte))) :=
  if j.desc.form = 6 then .ok (l.map fun i => (i, [(List.range 8).map fun b => Config.remoteByte (s.free + b)]))
  else
    let ps := l.map fun i => (i, (j.desc.part i).reads)
    match s.readPieces j.x j.desc.src (ps.map (·.2)).flatten with
    | .error e => .error e
    | .ok bs =>
      .ok (ps.foldl (fun (acc : List (Nat × List (List Byte)) × List (List Byte)) x =>
        (acc.1 ++ [(x.1, j.desc.output x.1 (acc.2.take x.2.length))], acc.2.drop x.2.length)) ([], bs)).1

/-- Piece b of part i is written: the part is done with its last one. -/
def State.copyWrote (s : State) (r k : Nat) (j : CopyJob) (i b : Nat) (sinks : List (Option CopySink)) : State :=
  let w := tget [] j.wrote i ++ [b]
  let whole := sinks.zipIdx.all fun x => x.1.isNone || w.contains (x.2 + 1)
  s.setCopy r k (if whole then { j with done := j.done ++ [i], got := tdel j.got i, wrote := tdel j.wrote i } else { j with wrote := tput j.wrote i w })

/-- Words of a part that a tagged port can take. -/
def State.tagRoom (s : State) (gk : Nat) (p : Port) : Nat :=
  match p.kind, s.group? gk with
  | .pool off size, some g => size / 4 - g.heldWords off p
  | _, _ => 0

/-- A part enters a tagged port's FIFO (R137, R138). -/
def State.tagWrite (s : State) (gk key : Nat) (ws : List W32) : State :=
  ws.foldl (init := s) fun st w =>
    match st.group? gk with
    | some g =>
      match tfind g.ports key with
      | some p => st.enqueueFifo gk g key p w
      | none => st
    | none => st

/-- A part reaches the FIFO that a tag names: in part order at each branch, and not while the FIFO has no room. A tag that no resident phase binds when the
first part arrives loses its branch (R138). Of a part whose length is no multiple of 4, the last bytes enter no word (log 126). -/
def State.tagSink (s : State) (r k : Nat) (j : CopyJob) (i b q : Nat) (bs : List Byte) (sinks : List (Option CopySink)) : State :=
  if i ≠ 0 ∧ !j.wroteAt (i - 1) b then s
  else
    match s.tagPort q j.desc.tag with
    | none => s.setCopy r k (CopyJob.fails { j with dead := j.dead ++ [q] } errTag)
    | some (gk, key, p) =>
      if s.tagRoom gk p < bs.length / 4 then s else (s.tagWrite gk key (wordsOf bs 0 (bs.length / 4))).copyWrote r k j i b sinks

/-- The places of a copy's piece lie in Basecamp banks that take no traffic now (R426). -/
def State.pieceGated (s : State) (c : XCtx) (a : Acc) (va : W64) (n : Nat) : Bool :=
  match s.spanPlaces c a va n with
  | .ok ps => ps.any fun p => s.railGated p.1
  | .error _ => false

/-- The places of a copy's piece lie in a window. -/
def State.pieceWin (s : State) (c : XCtx) (va : W64) (n : Nat) : Bool :=
  match s.spanPlaces c .store va n with
  | .ok ps => isWin (ps.map (·.2))
  | .error _ => false

/-- The pieces near part i that a copy writes in the line of an address, with their part and number, as far as they have been read; none while one of those
parts has not been read (R123). -/
def State.lineSinks (s : State) (r : Nat) (j : CopyJob) (i : Nat) (va : W64) : Option (List (Nat × Nat × W64 × List Byte)) :=
  let line (a : W64) : Bool := a.toNat / 64 == va.toNat / 64
  let near := ((List.range 15).map fun n => i + n - 7).filter fun n => decide (n < j.desc.parts) && !j.done.contains n
  let meets (n : Nat) : Bool := (j.desc.part n).writes.any fun w =>
    let a := j.desc.dst + BitVec.ofInt 64 w.1
    decide (a.toNat / 64 ≤ va.toNat / 64) && decide (va.toNat / 64 ≤ (a.toNat + w.2 - 1) / 64)
  let mine := (dedup near).filter meets
  if mine.any fun n => (tfind j.got n).isNone then none
  else some ((mine.map fun n => ((s.sinks r j n ((tfind j.got n).getD [])).zipIdx.filterMap fun x => match x.1 with
    | some (.mem a bs) => if line a ∧ !j.wroteAt n (x.2 + 1) then some (n, x.2 + 1, a, bs) else none
    | some (.bank _ _) => none
    | some (.port _ _) => none
    | none => none)).flatten)

/-- Piece b of part i is written to memory: in a window with the other pieces of its line, since a read of a line finds the whole of a write or nothing
(R123). -/
def State.copyPut (s : State) (r k : Nat) (j : CopyJob) (i b : Nat) (va : W64) (bs : List Byte) (l : List (Option CopySink)) : State :=
  if s.pieceWin j.x va bs.length then
    match s.lineSinks r j i va with
    | none => s
    | some w =>
      w.foldl (init := s) fun st p =>
        match (st.ring r).copies[k]? with
        | none => st
        | some c =>
          match st.engWrite c.x p.2.2.1 p.2.2.2 with
          | .error e => st.copyFail r k c true e
          | .ok s1 => s1.copyWrote r k c p.1 p.2.1 (s.sinks r j p.1 ((tfind j.got p.1).getD []))
  else
    match s.engWrite j.x va bs with
    | .error e => s.copyFail r k j true e
    | .ok s1 => s1.copyWrote r k j i b l

/-- A step of part i of copy k of ring r: with b = 0 its read, and else the write of piece or branch b - 1 (R105, R119, R157 to R159, R168). The other
parts of a copy that holds go on (R372), and a part waits for Basecamp banks that take no traffic (R426). -/
def State.copyPart (s : State) (r k i b : Nat) : State :=
  match (s.ring r).copies[k]? with
  | none => s
  | some j =>
    if j.fatal ∨ j.desc.parts ≤ i ∨ j.done.contains i ∨ s.unitOff r then s
    else
      match tfind j.got i with
      | none =>
        if b ≠ 0 ∨ (j.desc.form ≠ 6 ∧ ((j.desc.part i).reads.any fun p => s.pieceGated j.x .load (j.desc.src + BitVec.ofInt 64 p.1) p.2) = true) then s
        else
          (match s.copyRead j (s.lineMates j i) with
          | .error e => s.copyFail r k j false e
          | .ok l =>
            let next := l.foldl (fun (c : CopyJob) x =>
              if (s.sinks r c x.1 x.2).all Option.isNone then { c with done := c.done ++ [x.1] } else { c with got := tput c.got x.1 x.2 }) j
            let read := if j.desc.form = 6 then [] else (s.lineMates j i).flatMap fun n =>
              (j.desc.part n).reads.map fun p => (j.desc.src + BitVec.ofInt 64 p.1, p.2)
            (s.engLinked j.x read).setCopy r k next)
      | some out =>
        let l := s.sinks r j i out
        if l.all Option.isNone then s.setCopy r k { j with done := j.done ++ [i], got := tdel j.got i, wrote := tdel j.wrote i }
        else if j.wroteAt i b then s
        else
          match (if b = 0 then none else l[b - 1]?) with
          | some (some (.mem va bs)) =>
            if s.pieceGated j.x .store va bs.length then s else s.copyPut r k j i b va bs l
          | some (some (.bank keys bs)) =>
            if keys.any s.railGated then s
            else
              (match s.writeAt (.engines r) true [] (keys.map fun n => (n, .sram)) bs with
              | .error e => s.copyFail r k j true (.mem e)
              | .ok s1 => s1.copyWrote r k j i b l)
          | some (some (.port q bs)) => s.tagSink r k j i b q bs l
          | _ => s

/-- An operation of a ring completes, a release of what it has written and of what happened before its issue (R110, R119): a wait, a mask and a firing acquire
it. -/
def State.opDone (s : State) (r : Nat) (f : Front) : State :=
  s.updRing r fun x => { x with joined := (x.joined.sup f).acquire 0 { near := 0, wrote := [(Agent.code (.engines r), s.free)] } }

/-- The 8-byte parts of a crn.step's clearing of age bytes (R292). -/
def State.crnPart (s : State) (r k : Nat) : State :=
  match (s.ring r).crn[k]? with
  | none => s
  | some j =>
    if j.held ∨ s.unitOff r then s
    else
      let va := j.base + BitVec.ofNat 64 j.next
      let n := min (8 - va.toNat % 8) (j.total - j.next)
      let finish (st : State) (e : Option (BitVec 8)) : State :=
        ((st.opDone r j.x.front).updRing r fun x => { x with crn := x.crn.eraseIdx k }).endCopy r j.id (.rsq 0x30) j.set e
      match s.engWrite j.x va (List.replicate n 0xFF) with
      | .ok s1 =>
        if j.total ≤ j.next + n then finish s1 none
        else s1.updRing r fun x => { x with crn := x.crn.set k { j with next := j.next + n } }
      | .error (.acc (.xlat f)) =>
        (s.updRing r fun x => { x with crn := x.crn.set k { j with held := true } }).pageAsk
          { ring := r, fault := f, asid := j.x.asid, wr := true, rd := false, ul := j.x.lvl == .u, src := 1, south := false, ag := 0,
            waiter := .crn r j.id }
      | .error (.mem m) =>
        (match m with
          | .integrity pa => s.memFail r 3 (.integrity pa)
          | .machine pa => finish (s.memFail r 3 (.machine pa)) (some errMcheck)
          | .gated => s)
      | .error e => finish s (some e.code)

/-- A copy has nothing more to do. -/
def CopyJob.ended (j : CopyJob) : Bool := !j.held && (j.fatal || j.done.length == j.desc.parts)

/-- COPY_COMPLETE: a finished copy without error first enqueues its token, and waits while the queue is full; then it completes
(R162, R166). Its completion is a release of what it has written (R119). -/
def execCopyComplete (r k : Nat) (s : State) : Out :=
  match (s.ring r).copies[k]? with
  | none => .next s
  | some j =>
    if !j.ended ∨ s.unitOff r then .next s
    else
      let q := tget [] (s.ring r).tqs j.desc.tq
      if j.desc.tqen ∧ j.err.isNone ∧ 64 ≤ q.length then .next s
      else
        let s1 := (s.opDone r j.x.front).updRing r fun x => { x with copies := x.copies.eraseIdx k }
        let s2 := if j.desc.tqen ∧ j.err.isNone then s1.updRing r fun x => { x with tqs := tput x.tqs j.desc.tq (q ++ [j.desc.tok]) } else s1
        .next (s2.endCopy r j.id j.src j.set j.err)

/-- REMOTE_RETRY_EXHAUSTED: the copy fails and its queue pair enters its error state (R168). -/
def execRemoteRetryExhausted (r k : Nat) (s : State) : Out :=
  match (s.ring r).copies[k]? with
  | none => .next s
  | some j =>
    if !j.desc.remote then .next s
    else
      let v := s.vfNum r
      .next ((s.setCopy r k { j.fails errRemote with held := false }).updVf v fun f =>
        { f with qpErr := if f.qpErr.contains j.desc.qp then f.qpErr else j.desc.qp :: f.qpErr })

/-- A token sent to a queue of a ring: a clock-gated ring takes it at its edge FIFO and wakes; a queue or a FIFO that is full takes nothing
(R162, R426, R427). -/
def State.sendToken (s : State) (r q : Nat) (tok : W32) : Option State :=
  let x := s.ring r
  if 4 ≤ x.power then none
  else if x.power = 3 ∨ !x.edge.isEmpty then
    if x.edge.length < 16 then
      some (s.setRing r { x with edge := x.edge ++ [(q, tok)], powerNext := if x.power = 3 ∧ x.powerNext.isNone then some 2 else x.powerNext })
    else none
  else if (tget [] x.tqs q).length < 64 then some (s.setRing r { x with tqs := tput x.tqs q (tget [] x.tqs q ++ [tok]) })
  else none

/-- The lowest ring of a VF, by whose registers a remote access is made (log 20). -/
def State.ringOfVf (s : State) (v : Nat) : Option Nat := allRings.find? fun r => (s.ring r).vf == some v

/-- The ring by whose registers an arrival is answered at all, if its VF has rings, its queue pair lies below the count, and neither has stopped, nor the ring's
clock (R426; log 20). -/
def State.arrivalRing (s : State) (vf qp : Nat) : Option Nat :=
  if s.qpCount vf ≤ qp ∨ (s.vfOf vf).stopped ∨ (s.vfOf vf).qpErr.contains qp then none else (s.ringOfVf vf).filter fun r => !s.unitOff r

/-- An access that a peer makes through a queue pair: the entry is read, and then the access made. An error of memory is taken as of the VF's copy unit (R412,
R428). -/
def State.arrival (s : State) (vf qp : Nat) (k : State → Nat → List Byte → Except EngErr State) : State :=
  match s.arrivalRing vf qp with
  | none => s
  | some r =>
    let fail (e : EngErr) : State := match e with
      | .mem m => s.memFail r 3 m
      | .acc _ => s
    match s.qpEntry (s.issueCtx r .s) vf qp with
    | .error e => fail e
    | .ok none => s
    | .ok (some l) =>
      match k (s.engLinked (s.issueCtx r .s) [s.qpSpan vf qp]) r l with
      | .error e => fail e
      | .ok s1 => s1

/-- REMOTE_WRITE_IMMEDIATE_ARRIVAL: the data is placed, and then the immediate enters the entry's token queue; an entry without arrival
enable is answered with an error, and a full queue with receiver not ready (R162, R169, R421). The queue is that of the VF's lowest ring (log 20). -/
def execRemoteWriteImmediateArrival (vf qp : Nat) (addr : BitVec 64) (data : List (BitVec 8)) (imm : BitVec 32) (s : State) : Out :=
  .next (s.arrival vf qp fun s r l =>
    if field l 20 1 / 16 = 0 then .ok s
    else
      match s.engWrite (s.issueCtx r .s) addr data with
      | .error e => .error e
      | .ok s1 =>
        -- the copy that the immediate fires reads the data (R169)
        .ok (((s1.opDone r Front.zero).sendToken r (field l 20 1 % 16) imm).getD s))

/-- REMOTE_ACCESS_ARRIVAL: a peer's write or read of the VF's memory; a read gives its bytes to the peer (R167, R168). -/
def execRemoteAccessArrival (vf qp : Nat) (addr : BitVec 64) (wr : Option (List (BitVec 8))) (len : Nat) (s : State) : Out :=
  .next (s.arrival vf qp fun s r _ =>
    match wr with
    | some data => s.engWrite (s.issueCtx r .s) addr data
    | none =>
      match s.engRead (s.issueCtx r .s) addr len with
      | .error e => .error e
      | .ok _ => .ok (s.engLinked (s.issueCtx r .s) [(addr, len)]))

/-- Tokens leave a woken ring's edge FIFO in arrival order once st is 2 (R427). -/
def State.drainEdge (s : State) (r : Nat) : Nat → State
  | 0 => s
  | fuel + 1 =>
    let x := s.ring r
    match x.edge with
    | [] => s
    | (q, tok) :: rest =>
      if (tget [] x.tqs q).length < 64 then
        (s.setRing r { x with edge := rest, tqs := tput x.tqs q (tget [] x.tqs q ++ [tok]) }).drainEdge r fuel
      else s

/-- TOKEN_WAKE: a token reaches a clock-gated ring, waits in its edge FIFO, and restarts its clock (R426, R427). -/
def execTokenWake (r q : Nat) (tok : BitVec 32) (s : State) : Out :=
  match s.sendToken r (q % 16) tok with
  | none => .next s
  | some s1 => .next s1

/-- A copy of a queue pair that is reset from its error state ends in error (R421). -/
def CopyJob.reset (q : Nat) (j : CopyJob) : CopyJob :=
  if j.desc.remote && j.desc.qp == q then { j.fails errRemote with held := false } else j

/-- A cpy that has issued and not read its descriptor keeps which queue pairs have been reset since (R421). -/
def Async.noteReset (q : Nat) (a : Async) : Async := { a with reset := if a.reset.contains q then a.reset else q :: a.reset }

/-- QPSTAT_CLEAR: clearing err resets the selected queue pair; the copies on it that are in flight complete in error, and it affects only those issued
afterwards (R421; log 122). -/
def State.qpClear (s : State) (v : Nat) : State :=
  let q := fld (s.vcsr v 0x1042) 9 0
  let s1 := s.updVf v fun f => { f with qpErr := f.qpErr.filter (· != q) }
  if (s.vfOf v).qpErr.contains q then
    { s1 with rings := tmap (fun _ x => if x.vf = some v then
        { x with copies := x.copies.map (CopyJob.reset q), copyReady := x.copyReady.map (CopyJob.reset q),
                 asyncs := x.asyncs.map (Async.noteReset q) } else x) s1.rings }
  else s1

end Sys2Proof.Machine
end

