-- ==== Sys2Proof/Machine/Forms.lean ====
section
/-! DEFINITION. The engine forms: phases, waits, copies, billets, token queues, Cairn regions, constants and markers, windows, and the
start of an asynchronous operation's work (R268 to R295). -/

namespace Sys2Proof.Machine

/-- The word of an instruction, as the illegal-instruction trap reports it (R201). -/
def wordOf (i : Instr) : W64 :=
  match encode i with
  | some w => w.zeroExtend 64
  | none => 0

/-- A form of the RSQ: illegal on a management core (R319). -/
def onRing (i : Instr) (f : Nat → State → Out) (s : State) : Out :=
  match s.cur with
  | .ring r => f r s
  | .core _ => .next (s.trap 0x10 (wordOf i))

/-- The engine-operand trap (R274, R298). -/
def State.operand (s : State) (v : W64) : Out := .next (s.trap 5 v)

/-- The slot that a set field names (R195). -/
def setOf (w : BitVec 4) : Option Nat := if w.toNat < 8 then some w.toNat else none

/-- An asynchronous instruction cannot issue yet (R268, R270), or an acquire that orders it is outstanding (R116). -/
def State.issueHeld (s : State) (r : Nat) (set : Option Nat) : Bool :=
  (s.me.loads.any PendLoad.orders) || decide (32 ≤ ((s.ring r).asyncs.filter fun a => a.st == .mask).length) ||
    (match set with
      | some i => decide (127 ≤ (s.dep r i).out.length)
      | none => false)

/-- Issues an asynchronous operation: it takes copies of its context and awaits what was counted before it (R268, R269, R367). The store buffer merges no
store across it (R117). -/
def State.issue (s : State) (r : Nat) (op : AsyncOp) (i : Instr) (set : Option Nat) (mask : Nat) (rd : BitVec 5) : State :=
  let aw := s.awaits r mask
  let (id, s1) := s.newOp r set
  let a : Async := { id := id, op := op, word := BitVec.truncate 32 (wordOf i), set := set, await := aw, rd := rd,
                     x := s.issueCtx r (s.ring r).level, st := .mask, seq := s.me.nextSeq, grp := none, ticket := 0, reset := [], held := false }
  s1.updRing r fun x => { x with asyncs := x.asyncs ++ [a], seq := { x.seq with cut := x.seq.nextSeq } }

/-- Phases of a launch that have not retired (R277). -/
def Ring.unretired (x : Ring) : Nat := (x.recs.filter fun e => decide (e.2.state < 5)).length

/-- A pload waits: 16 phases have not retired, or the one whose entry it reuses has not (R277, R278; log 115). -/
def Ring.recsFull (x : Ring) : Bool :=
  decide (16 ≤ x.unretired) || (match tfind x.recs (x.serial + 1 - 16) with
    | some q => decide (16 ≤ x.serial) && decide (q.state < 5)
    | none => false)

/-- pload (R277). -/
def execPload (d a : BitVec 5) (s : BitVec 4) (w : BitVec 8) (st : State) : Out :=
  onRing (.pload d a s w) (fun r t =>
    if t.pendAny [d, a] || t.issueHeld r (setOf s) || (t.ring r).recsFull then .next t
    else
      let serial := (t.ring r).serial + 1
      let t1 := t.updRing r fun x => { x with serial := serial, recs := tput (tdel x.recs (serial - 16)) serial PhaseRec.reset }
      let t2 := t1.issue r (.pload (t.x a) (t.rcsr r 0x019) serial) (.pload d a s w) (setOf s) w.toNat d
      .next (t2.setX d (BitVec.ofNat 64 serial)).done) st

/-- cpy (R283). -/
def execCpy (d a : BitVec 5) (s : BitVec 4) (w : BitVec 8) (st : State) : Out :=
  onRing (.cpy d a s w) (fun r t =>
    if t.pendAny [d, a] || t.issueHeld r (setOf s) then .next t
    else .next (t.issue r (.cpy (t.x a)) (.cpy d a s w) (setOf s) w.toNat d).done) st

/-- cpy.b (R284). -/
def execCpyB (d a : BitVec 5) (s : BitVec 4) (w : BitVec 8) (st : State) : Out :=
  onRing (.cpyB d a s w) (fun r t =>
    if t.pendAny [d, a] then .next t
    else if fld (t.x a) 31 4 ≠ 0 then t.operand (t.x a)
    else if t.issueHeld r (setOf s) then .next t
    else .next (t.issue r (.cpyB (t.x a)) (.cpyB d a s w) (setOf s) w.toNat d).done) st

/-- A region of the issuing ring's VF. -/
def State.region? (s : State) (r n : Nat) : Option Region := tfind (s.vfOf (s.vfNum r)).regions n

/-- crn.step (R291, R292). -/
def execCrnStep (a : BitVec 5) (s : BitVec 4) (w : BitVec 8) (st : State) : Out :=
  onRing (.crnStep a s w) (fun r t =>
    if t.pendAny [a] then .next t
    else if fld (t.x a) 31 7 ≠ 0 ∨ (t.region? r (fld (t.x a) 5 0)).isNone then t.operand (t.x a)
    else if t.issueHeld r (setOf s) then .next t
    else .next (t.issue r (.crnStep (t.x a)) (.crnStep a s w) (setOf s) w.toNat 0).done) st

/-- Everything the thread did before the operation has performed, its accesses to windows aside (R112, R119, R122). -/
def State.issuedOver (s : State) (r : Nat) (a : Async) : Bool :=
  let q := (s.ring r).seq
  !(q.loads.any fun l => decide (l.seq < a.seq) && !isWin l.attrs) && !(q.stores.any fun b => decide (b.seq < a.seq) && !isWin b.attrs)

/-- The fields of an asynchronous copy's completion. -/
def Async.src (a : Async) : CopySrc :=
  match a.op with
  | .crnStep _ => .rsq 0x30
  | .pload _ _ _ => .rsq 0x28
  | .cpy _ => .rsq 0x2A
  | .cpyB _ => .rsq 0x2A

/-- A cpy, cpy.b or crn.step ends in error before its work has begun. -/
def State.refuseAsync (s : State) (r : Nat) (a : Async) (e : BitVec 8) : State :=
  (s.dropAsync r a.id).refuseCopy r a.id a.src a.set (match a.op with
    | .cpy _ => some a.rd
    | .cpyB _ => some a.rd
    | .pload _ _ _ => none
    | .crnStep _ => none) e

/-- A validated copy waits for the copy unit (R163, R283). -/
def State.readyCopy (s : State) (r : Nat) (a : Async) (d : CopyDesc) : State :=
  if d.ok (s.qpCount (s.vfNum r)) then
    let j := CopyJob.start a.id a.src d a.set (some a.rd) a.x (some a)
    let j1 := if d.remote && a.reset.contains d.qp then j.fails errRemote else j
    (s.dropAsync r a.id).updRing r fun x => { x with copyReady := x.copyReady ++ [j1] }
  else s.refuseAsync r a errDesc

/-- A cpy reads its descriptor (R283). -/
def State.startCpy (s : State) (r : Nat) (a : Async) (va : W64) : State :=
  if va.toNat % 8 ≠ 0 then s.refuseAsync r a errAddr
  else
    match s.engRead a.x va 64 with
    | .ok l => (s.engLinked a.x [(va, 64)]).readyCopy r a (copyDescOf l)
    | .error (.acc (.xlat f)) =>
      (s.setAsync r { a with held := true }).pageAsk
        { ring := r, fault := f, asid := a.x.asid, wr := false, rd := true, ul := a.x.lvl == .u, src := 1, south := false, ag := 0,
          waiter := .async r a.id }
    | .error (.mem (.integrity pa)) => s.memFail r 3 (.integrity pa)
    | .error (.mem (.machine pa)) => (s.memFail r 3 (.machine pa)).refuseAsync r a errMcheck
    | .error (.mem .gated) => s
    | .error e => s.refuseAsync r a e.code

/-- A crn.step acts on the region as it stands (R292). -/
def State.startCrn (s : State) (r : Nat) (a : Async) (sel : W64) : State :=
  let n := fld sel 5 0
  match s.region? r n with
  | none => s.refuseAsync r a errRegion
  | some rg =>
    if rg.bound then s.refuseAsync r a errRegion
    else
      let s1 := (s.dropAsync r a.id).updRegion (s.vfNum r) n fun q => { q with s := fld sel 63 32, force := false }
      if bit sel 6 ∧ rg.ntiles ≠ 0 then
        s1.updRing r fun x => { x with crn := x.crn ++ [{ id := a.id, region := n, next := 0, total := rg.ntiles, base := rg.ageAt 0,
                                                          set := a.set, x := a.x, held := false }] }
      else s1.endCopy r a.id a.src a.set none

/-- An asynchronous instruction starts its work: where its mask named a slot, its satisfaction acquires what the operations awaited have done (R112, R119,
R269). -/
def Async.begin (a : Async) (joined : Front) : Async :=
  { a with st := .group, x := if a.st = .mask ∧ !a.await.isEmpty then a.x.acquired joined else a.x }

/-- ASYNC_MASK_SATISFIED: the work of an asynchronous instruction starts once its mask is satisfied; an awaited slot with err set ends it
with DEP (R269, R270). A read that held for a page request starts again. -/
def execAsyncMaskSatisfied (r k : Nat) (s : State) : Out :=
  match (s.ring r).asyncs[k]? with
  | none => .next s
  | some a =>
    if a.held ∨ s.unitOff r ∨ (s.strip (s.ring r).sbase).capture then .next s
    else if a.st = .mask ∧ (!s.satisfied r a.await || !s.issuedOver r a) then .next s
    else
      match (if a.st = .mask then s.waitErr r a.await else none) with
      | some _ =>
        .next (match a.op with
          | .pload _ _ serial => s.refusePload r a serial errDep
          | .cpy _ => s.refuseAsync r a errDep
          | .cpyB _ => s.refuseAsync r a errDep
          | .crnStep _ => s.refuseAsync r a errDep)
      | none =>
        let a1 := a.begin (s.ring r).joined
        -- what happens before its issue becomes visible before its accesses do (R106, R112, R119)
        let u := s.force a1.x.front.wrote
        match a.op with
        | .pload _ _ serial =>
          if a.st = .mask then .next ((u.setAsync r a1).updRec r serial fun q => { q with state := 1 }) else .next s
        | .cpy va => .next ((u.setAsync r a1).startCpy r a1 va)
        | .cpyB sel =>
          match tfind (s.ring r).billets (fld sel 3 0) with
          | none => .next (s.refuseAsync r a errBillet)
          | some b => .next (u.readyCopy r a1 (b.fire (sextN (fld sel 63 32) 32)))
        | .crnStep sel => .next (u.startCrn r a1 sel)

/-- The wait of a slot mask is over, which acquires what the operations awaited have done: the lowest slot with err set raises the dependency-error trap
(R112, R119, R269, R288). -/
def State.waitOver (s : State) (r : Nat) (l : List (Nat × List Nat)) : State :=
  match s.waitErr r l with
  | some (i, c) => (s.acquireOwn r).trap 3 (BitVec.ofNat 64 (i + 256 * c.toNat))
  | none => (s.acquireOwn r).done

/-- What a waiting instruction awaits, settled at its first execution (R269). -/
def State.snap (s : State) (r mask : Nat) (sleep : Option W64) : WaitSnap :=
  match (s.ring r).wait with
  | some w => w
  | none => { slots := s.awaits r mask, sleep := sleep }

/-- The instruction goes on waiting. -/
def State.keepWait (s : State) (r : Nat) (w : WaitSnap) : State := s.updRing r fun x => { x with wait := some w }

/-- waitd (R288). -/
def execWaitd (w : BitVec 8) (st : State) : Out :=
  onRing (.waitd w) (fun r t =>
    let n := t.snap r w.toNat none
    if t.satisfied r n.slots then .next (t.waitOver r n.slots) else .next (t.keepWait r n)) st

/-- waitt (R289). -/
def execWaitt (a : BitVec 5) (s : BitVec 3) (st : State) : Out :=
  onRing (.waitt a s) (fun r t =>
    if t.pendAny [a] then .next t
    else
      let p := t.x a
      let n := t.snap r (2 ^ s.toNat) (if p = 0 then none else some p)
      if p ≠ 0 ∧ t.time.toNat < p.toNat then .next (t.keepWait r n)
      else if t.satisfied r n.slots then .next (t.waitOver r n.slots)
      else if p = 0 then .next (t.keepWait r n)
      else .next (t.trap 2 (s.zeroExtend 64))) st

/-- WAIT_SATISFIED: every operation that the waiting instruction awaits has completed, and it goes on (R269). -/
def execWaitSatisfied (s : State) : Out :=
  match s.cur with
  | .core _ => .next s
  | .ring r =>
    match (s.ring r).wait with
    | none => .next s
    | some w =>
      if w.sleep.isSome ∨ (s.ring r).run ≠ .run ∨ (s.ring r).halted ∨ !s.satisfied r w.slots then .next s
      else .next (s.waitOver r w.slots)

/-- A handle that pwait and pstat accept (R279). -/
def State.handleOk (s : State) (r : Nat) (v : W64) : Bool := fld v 63 32 == 0 && v ≠ 0 && decide (v.toNat ≤ (s.ring r).serial)

/-- pwait (R279): it acquires what the phase has done (R112). -/
def execPwait (a : BitVec 5) (st : State) : Out :=
  onRing (.pwait a) (fun r t =>
    if t.pendAny [a] then .next t
    else if !t.handleOk r (t.x a) then t.operand (t.x a)
    else
      match t.rec? r (t.x a).toNat with
      | none => .next (t.acquireOwn r).done
      | some q =>
        if q.state = 5 then .next (t.acquireOwn r).done
        else if q.state = 6 then .next ((t.acquireOwn r).trap 4 (BitVec.ofNat 64 ((t.x a).toNat + q.code.toNat * 2 ^ 32)))
        else .next t) st

/-- pstat (R280): a GONE handle returns state 7. -/
def execPstat (d a : BitVec 5) (st : State) : Out :=
  onRing (.pstat d a) (fun r t =>
    if t.pendAny [d, a] then .next t
    else if !t.handleOk r (t.x a) then t.operand (t.x a)
    else
      let v := match t.rec? r (t.x a).toNat with
        | none => 7
        | some q => (t.liveRec r (t.x a).toNat q).summary
      .next (t.setX d v).done) st

/-- The template and the arming fields of a record are good (R160, R285). -/
def State.armOk (s : State) (r n : Nat) (l : List Byte) : Bool :=
  let q := field l 72 1
  let bound := (s.ring r).billets.any fun e => e.1 != n && q / 16 % 2 == 1 && e.2.queue == some (q % 16)
  decide (q < 32) && decide (field l 73 1 < 9) && zeroBytes l 74 54 && (copyDescOf l).ok (s.qpCount (s.vfNum r)) && !bound

/-- The outcome of an arming of slot n (R285, R286). -/
def State.arm (s : State) (r n : Nat) (b : Option Billet) : State :=
  s.updRing r fun x =>
    match b with
    | some b => { x with billets := tput x.billets n b, aerr := x.aerr.filter (· != n) }
    | none => { x with billets := tdel x.billets n, aerr := if x.aerr.contains n then x.aerr else n :: x.aerr }

/-- billet.arm (R285). -/
def execBilletArm (d a : BitVec 5) (st : State) : Out :=
  onRing (.billetArm d a) (fun r t =>
    if t.pendAny [d, a] then .next t
    else if fld (t.x d) 63 4 ≠ 0 then t.operand (t.x d)
    else
      withRecord [a] (t.x a) 128 64 (fun l u =>
        let n := (t.x d).toNat
        let c := u.issueCtx r (u.ring r).level
        let b : Option Billet := if u.armOk r n l ∧ !u.spanExec c (t.x a) 128 then some { record := l, x := c } else none
        .next (u.arm r n b).done) t) st

/-- billet.disarm (R285). -/
def execBilletDisarm (d : BitVec 5) (st : State) : Out :=
  onRing (.billetDisarm d) (fun r t =>
    if t.pendAny [d] then .next t
    else if fld (t.x d) 63 4 ≠ 0 then t.operand (t.x d)
    else .next (t.updRing r fun x => { x with billets := tdel x.billets (t.x d).toNat }).done) st

/-- The billets that a queue's tokens fire observe what a thread has observed (R287). -/
def Ring.tellBillets (x : Ring) (q : Nat) : Ring :=
  { x with billets := tmap (fun _ b =>
      if b.queue = some q then { b with x := { b.x with front := b.x.front.sup x.seq.front } } else b) x.billets }

/-- tqpush (R287): what happens-before it happens before the copy that its token fires. -/
def execTqpush (a : BitVec 5) (n : BitVec 4) (st : State) : Out :=
  onRing (.tqpush a n) (fun r t =>
    if t.pendAny [a] || !t.quiet then .next t
    else
      let q := tget [] (t.ring r).tqs n.toNat
      if 64 ≤ q.length then .next t
      else .next (t.updRing r fun x => { x.tellBillets n.toNat with tqs := tput x.tqs n.toNat (q ++ [BitVec.truncate 32 (t.x a)]) }).done) st

/-- tqcnt (R287). -/
def execTqcnt (d : BitVec 5) (n : BitVec 4) (st : State) : Out :=
  onRing (.tqcnt d n) (fun r t =>
    regOp d [] (fun u => BitVec.ofNat 64 (tget [] (u.ring r).tqs n.toNat).length) t) st

/-- crn.def (R291). -/
def execCrnDef (d a : BitVec 5) (st : State) : Out :=
  onRing (.crnDef d a) (fun r t =>
    if t.pendAny [d, a] then .next t
    else
      let n := (t.x d).toNat
      let bound : Bool := match t.region? r n with
        | some g => g.bound
        | none => false
      if fld (t.x d) 63 6 ≠ 0 ∨ bound then t.operand (t.x d)
      else
        withRecord [a] (t.x a) 64 8 (fun l u =>
          if !regionOk l then u.operand (u.x a)
          else .next (u.updVf (u.vfNum r) fun v => { v with regions := tput v.regions n (regionOf l) }).done) t) st

/-- The region that a selector names, with its other bits zero (R291). -/
def State.selected (s : State) (r : Nat) (sel : W64) : Option Region := if fld sel 63 6 = 0 then s.region? r sel.toNat else none

/-- crn.undef (R291). -/
def execCrnUndef (a : BitVec 5) (st : State) : Out :=
  onRing (.crnUndef a) (fun r t =>
    if t.pendAny [a] then .next t
    else
      match t.selected r (t.x a) with
      | none => t.operand (t.x a)
      | some g =>
        if g.bound then t.operand (t.x a)
        else .next (t.updVf (t.vfNum r) fun v => { v with regions := tdel v.regions (t.x a).toNat }).done) st

/-- crn.force: waits until the region is unbound (R292). -/
def execCrnForce (a : BitVec 5) (st : State) : Out :=
  onRing (.crnForce a) (fun r t =>
    if t.pendAny [a] then .next t
    else
      match t.selected r (t.x a) with
      | none => t.operand (t.x a)
      | some g => if g.bound then .next t
          else .next (t.updRegion (t.vfNum r) (t.x a).toNat fun q => { q with force := true }).done) st

/-- crn.stat (R291). -/
def execCrnStat (d a : BitVec 5) (st : State) : Out :=
  onRing (.crnStat d a) (fun r t =>
    if t.pendAny [d, a] then .next t
    else if fld (t.x a) 63 6 ≠ 0 then t.operand (t.x a)
    else
      let v := match t.region? r (t.x a).toNat with
        | none => 0
        | some g => g.s % 2 ^ 32 + (if g.force then 2 ^ 32 else 0) + (if g.bound then 2 ^ 33 else 0) + 2 ^ 34
      .next (t.setX d (BitVec.ofNat 64 v)).done) st

/-- crn.map (R121, R293): the word is read as a relaxed ld.d. -/
def execCrnMap (d a : BitVec 5) (st : State) : Out :=
  onRing (.crnMap d a) (fun r t =>
    if t.pendAny [d, a] then .next t
    else
      let sel := t.x a
      let w := fld sel 31 8
      let step := fld sel 63 32
      match (if fld sel 7 6 = 0 then t.region? r (fld sel 5 0) else none) with
      | none => t.operand sel
      | some g =>
        if g.ntiles ≤ 64 * w ∨ step + g.nmaps ≤ g.s ∨ g.s < step ∨ (!g.bound ∧ g.s ≤ step) then t.operand sel
        else
          let va := g.mapAt step + BitVec.ofNat 64 (8 * w)
          match t.access .load va 8 none with
          | .error e => .next (t.accTrapTo d e)
          | .ok ps =>
            if t.acqHolds false ps then .next t
            else
              .next (t.issueLoad { seq := t.nextSeqNo, kind := .map, rd := d, nb := 8, acq := false, rel := false, scope := 2, va := va,
                                   locs := ps.map (·.1), attrs := ps.map (·.2), dep := t.depOf [a], got := [], took := Dep.zero }).done) st

/-- The current phase of an RSQ, for cset and mark (R281): none issued, running, retired, or neither. -/
inductive CurPhase where
  | none_
  | run (gk : Nat) (g : Group)
  | retired
  | waits
  deriving DecidableEq, Repr

/-- The state of the current phase (R281). -/
def State.curPhase (s : State) (r : Nat) : CurPhase :=
  let n := (s.ring r).serial
  if n = 0 then .none_
  else
    match s.rec? r n with
    | none => .retired
    | some q =>
      if 5 ≤ q.state then .retired
      else if q.state = 3 then
        match s.groupOf r n with
        | some (gk, g) => .run gk g
        | none => .waits
      else .waits

/-- cset (R281). Where no phase was issued, or every entry is unbound, UTVAL takes x[d] (log 129). -/
def execCset (d a : BitVec 5) (st : State) : Out :=
  onRing (.cset d a) (fun r t =>
    if t.pendAny [d, a] then .next t
    else
      match t.curPhase r with
      | .none_ => t.operand (t.x d)
      | .retired => .next t.done
      | .waits => .next t
      | .run gk g =>
        let pos := fld (t.x d) 20 16
        if fld (t.x d) 63 24 ≠ 0 ∨ isMe pos ∨ g.img.v ≤ fld (t.x d) 15 0 then t.operand (t.x d)
        else if 16 ≤ g.upds.length then
          if g.upds.all fun u => u.issuer == r && u.mark.isNone then t.operand (t.x d) else .next t
        else
          .next (t.setGroup gk { g with upds := g.upds ++ [{ issuer := r, target := BitVec.truncate 32 (t.x d),
                                                             val := BitVec.truncate 32 (t.x a), mark := none }] }).done) st

/-- The words ahead of a marker placed at a port now (R245): at a merge, those up to the end of the last record that has arrived, since the records before it
are delivered ahead of it. -/
def State.wordsAhead (s : State) (g : Group) (key : Nat) (p : Port) : Nat :=
  let last := (p.win.map fun x => (BitVec.ofNat 16 x.1 - p.head).toNat + 1).foldl max 0
  (s.inWords g key p).length + (p.recs.map fun x => x.2.length).sum + last * p.decl.w + (p.offer.getD []).length

/-- mark (R245, R282, R391). -/
def execMark (a : BitVec 5) (st : State) : Out :=
  onRing (.mark a) (fun r t =>
    if t.pendAny [a] then .next t
    else
      match t.curPhase r with
      | .none_ => t.operand (t.x a)
      | .retired => .next t.done
      | .waits => .next t
      | .run gk g =>
        let v := fld (t.x a) 15 0
        let p := fld (t.x a) 17 16
        match tfind g.ports (portKey v p) with
        | none => t.operand (t.x a)
        | some po =>
          if fld (t.x a) 63 18 ≠ 0 ∨ 2 ≤ p ∨ g.img.v ≤ v then t.operand (t.x a)
          else if 64 ≤ (g.ports.map fun e => e.2.marks.length).sum then .next t
          else
            let m := g.nextMark
            let upds := g.upds.map fun u => if u.issuer = r ∧ u.mark.isNone then { u with mark := some m } else u
            .next (t.setGroup gk { g with nextMark := m + 1, upds := upds,
                                          ports := tput g.ports (portKey v p) { po with marks := po.marks ++ [(m, t.wordsAhead g (portKey v p) po)] } }).done) st

/-- The window of a handle that the VF holds a mapping for (R416). -/
def State.mapped (s : State) (v : Nat) (h : W64) : Option Nat :=
  let n := fld h 5 0
  let w := s.window n
  if fld h 7 6 = 0 ∧ fld h 63 40 = 0 ∧ fld h 39 8 = w.gen.toNat ∧ w.valid ∧ w.members.getLsbD v then some n else none

/-- A window changes. -/
def State.updWindow (s : State) (n : Nat) (f : Window → Window) : State := { s with windows := tput s.windows n (f (s.window n)) }

/-- wopen (R294, R416): an acquire over the window (R122). -/
def execWopen (d a : BitVec 5) (st : State) : Out :=
  onRing (.wopen d a) (fun r t =>
    if t.pendAny [d, a] then .next t
    else
      let v := t.vfNum r
      match t.mapped v (t.x a) with
      | none => .next (t.trap 0x18 (t.x a))
      | some n =>
        if 2 ^ 31 ≤ ((t.window n).seq - BitVec.truncate 32 (t.x d)).toNat then .next t
        else
          .next ((t.updWindow n fun w => { w with opened := w.opened ||| (1#128 <<< v) }).updSeq t.cur fun q =>
            { q with front := { q.front with win := tput q.front.win n t.free } }).done) st

/-- A store of the thread to a window has not performed. -/
def Seq.sealing (q : Seq) : Bool := q.stores.any fun b => isWin b.attrs

/-- Every performed window write of a VF is visible at sys scope (R122). -/
def State.showWindows (s : State) (v : Nat) : State :=
  { s with past := s.past.map fun e =>
      match e.who.ring? with
      | some q => if e.win.isSome ∧ s.vfNum q = v then e.reached s.free else e
      | none => e }

/-- wseal (R122, R295, R416): it completes once the VF's performed window writes, those of the thread's earlier stores among them, are visible. -/
def execWseal (a : BitVec 5) (st : State) : Out :=
  onRing (.wseal a) (fun r t =>
    if t.pendAny [a] then .next t
    else
      let v := t.vfNum r
      match t.mapped v (t.x a) with
      | none => .next (t.trap 0x18 (t.x a))
      | some n =>
        let w := t.window n
        if !w.opened.getLsbD v ∨ !w.wv ∨ w.writer.toNat ≠ v then .next (t.trap 0x18 (t.x a))
        else if t.me.sealing then .next t
        else .next ((t.showWindows v).updWindow n fun w => { w with seq := w.seq + 1 }).done) st

/-- The context of an operation that an answer lets go on: the response is a release at dev scope, which its accesses acquire (R376). -/
def State.answered (s : State) (c : XCtx) : XCtx := { c with front := c.front.acquire 2 (s.ordered s.cur) }

/-- Every waiter of an answered page request translates again, or fails (R376). -/
def State.answer (s : State) (ok : Bool) : List (Waiter × W64) → State
  | [] => s
  | (w, addr) :: rest =>
    let s1 : State := match w with
      | .ag r n =>
        let a := s.ag r n
        let s2 := s.setAg r n { a with fault := none, again := ok, x := s.answered a.x }
        if ok then s2
        else
          match a.bound with
          | some (gk, _, _) => (s2.agFatal gk r n).phaseFault gk 8 FaultAt.zero addr
          | none => s2
      | .copy r id =>
        let next (j : CopyJob) : CopyJob :=
          if j.id = id then { (if ok then j else j.fails errXlat) with held := false, x := s.answered j.x } else j
        s.updRing r fun x => { x with copies := x.copies.map next, copyReady := x.copyReady.map next }
      | .async r id =>
        match (s.ring r).asyncs.find? fun a => a.id == id with
        | none => s
        | some a =>
          if ok then s.setAsync r { a with held := false, x := s.answered a.x }
          else
            match a.op with
            | .pload _ _ serial => s.xlatPload r a serial addr
            | .cpy _ => s.refuseAsync r a errXlat
            | .cpyB _ => s.refuseAsync r a errXlat
            | .crnStep _ => s.refuseAsync r a errXlat
      | .crn r id =>
        match (s.ring r).crn.find? fun j => j.id == id with
        | none => s
        | some j =>
          if ok then s.updRing r fun x => { x with crn := x.crn.map fun q => if q.id = id then { q with held := false, x := s.answered q.x } else q }
          else (s.updRing r fun x => { x with crn := x.crn.filter fun q => q.id != id }).endCopy r id (.rsq 0x30) j.set (some errXlat)
      | .cairn gk i =>
        match s.group? gk with
        | none => s
        | some g =>
          match g.cairns[i]? with
          | none => s
          | some c =>
            let s2 := s.setGroup gk { g.setCairn i { c with held := false } with x := s.answered g.x }
            if ok then s2 else s2.phaseFault gk 8 FaultAt.zero addr
    s1.answer ok rest

/-- Answers a pending entry of a die's queue and frees it (R374, R376). -/
def State.answerEntry (s : State) (d e : Nat) (ok : Bool) : State :=
  match tfind (s.die d).prq e with
  | none => s
  | some q => (s.updDie d fun x => { x with prq := tdel x.prq e }).answer ok q.waiters

end Sys2Proof.Machine
end

