-- ==== Sys2Proof/Machine/Launch.lean ====
section
/-! DEFINITION. Launches: the queue of a VF and its doorbells, the start and the end of a graph, completion entries, and launch packets
from the network (R296, R341 to R351, R420). -/

namespace Sys2Proof.Machine

/-- The exponent of a queue's size, where the queue is not disabled by it (R345). -/
def lqSize (ctl : W64) : Option Nat :=
  let sz := fld ctl 15 12
  if 4 ≤ sz ∧ sz ≤ 12 then some sz else none

/-- The queue of a VF is enabled: the exponent of its size (R296, R345). -/
def State.lqOpen (s : State) (v : Nat) : Option Nat := if bit (s.vcsr v 0x1011) 0 then lqSize (s.vcsr v 0x1011) else none

/-- Records pending (R346). -/
def State.lqCount (s : State) (v sz : Nat) : Nat := (fld (s.vcsr v 0x1013) 15 0 + 2 ^ 16 - fld (s.vcsr v 0x1012) 15 0) % 2 ^ sz

def State.lqFull (s : State) (v sz : Nat) : Bool := s.lqCount v sz == 2 ^ sz - 1

/-- A tail write (R346): one of 2^sz or above is ignored and counted. -/
def State.writeTail (s : State) (v : Nat) (x : W64) : State :=
  let n := fld x 15 0
  if n < 2 ^ fld (s.vcsr v 0x1011) 15 12 then s.setVcsr v 0x1013 (BitVec.ofNat 64 n)
  else s.setVcsr v 0x1015 (setFld (s.vcsr v 0x1015) 31 0 (sat32 (fld (s.vcsr v 0x1015) 31 0 + 1)))

/-- The lowest ring of the strip of which a VF is the assigned one or a tenant (R338, R353). -/
def State.homeOf (s : State) (v : Nat) : Option Nat :=
  match s.ringOfVf v with
  | some r => some (s.ring r).sbase
  | none => allRings.find? fun b => (s.ring b).vf.isSome && (s.ring b).sbase == b && s.isTenant b v

/-- SIP.door on the strip's lowest ring where LQCTL.note asks for it (R345); held for a switched-out tenant (R355). -/
def State.door (s : State) (v : Nat) : State :=
  if !bit (s.vcsr v 0x1011) 1 then s
  else
    match s.homeOf v with
    | none => s
    | some b =>
      if (s.ring b).vf = some v then s.setRcsr b 0x100A (s.rcsr b 0x100A ||| 4)
      else s.updRing b fun x => { x with tenantPend := tput x.tenantPend v (tget 0 x.tenantPend v ||| 4) }

/-- LQTAIL_WRITE: the effect of a csrw to LQTAIL on the queue of the running ring's VF (R346). -/
def execLqtailWrite (v : BitVec 64) (s : State) : Out :=
  match s.cur with
  | .ring r => .next (s.writeTail (s.vfNum r) v)
  | .core _ => .next s

/-- The doorbell region responds to the host (R420). -/
def State.doorOpen (s : State) : Bool := bit (s.dcsr 0 0x2067) 0 && s.hostUp

/-- The doorbell page, and the offset within it, that a host physical address names (R420). -/
def State.doorPage (s : State) (addr : Nat) : Option (Nat × Nat) :=
  let base := fld (s.dcsr 0 0x2067) 54 23 * 2 ^ 23
  if s.doorOpen ∧ base ≤ addr ∧ addr < base + 2 ^ 23 then some ((addr - base) / 65536, (addr - base) % 65536) else none

/-- What a host read of 8 bytes in the doorbell region returns (R420): it has no effect. -/
def State.doorRead (s : State) (addr : Nat) : W64 :=
  match s.doorPage addr with
  | some (v, 8) => s.vcsr v 0x1012
  | some _ => 0
  | none => 0

/-- DOORBELL_WRITE: a host write of 8 bytes at a host physical address; one to offset 0 of a VF's doorbell page writes its LQTAIL (R346, R420). -/
def execDoorbellWrite (addr : Nat) (v : BitVec 64) (s : State) : Out :=
  match s.doorPage addr with
  | some (vf, 0) => .next ((s.writeTail vf v).door vf)
  | some _ => .next s
  | none => .next s

/-- A launch record enters a queue at its tail (R346): by stage 2 of the ring whose registers `c` copies. -/
def State.enqueue (s : State) (c : XCtx) (v sz : Nat) (rec : List Byte) : Except EngErr State :=
  let tail := fld (s.vcsr v 0x1013) 15 0
  match s.engPut false c (s.vcsr v 0x1010 + BitVec.ofNat 64 (64 * tail)) rec with
  | .error e => .error e
  | .ok s1 => .ok (s1.setVcsr v 0x1013 (BitVec.ofNat 64 ((tail + 1) % 2 ^ sz)))

/-- launch (R296): hands a record to the queue of the issuing ring's VF, a release of all that its thread has done. -/
def execLaunch (a : BitVec 5) (s : State) : Out :=
  onRing (.launch a) (fun r t =>
    if t.pendAny [a] then .next t
    else
      withRecord [a] (t.x a) 64 64 (fun rec t1 =>
        let v := t1.vfNum r
        match t1.lqOpen v with
        | none => t1.operand (t1.x a)
        | some sz =>
          if t1.lqFull v sz || !t1.quiet then .next t1
          else
            match t1.enqueue (t1.ctxStage2 r) v sz rec with
            | .ok t2 => .next (t2.releaseAll r).done
            | .error (.acc e) => .next (t1.accTrap e)
            | .error (.mem (.integrity pa)) => .next (t1.memFail r 0 (.integrity pa))
            | .error (.mem (.machine pa)) => .next (t1.memFail r 0 (.machine pa)).done
            | .error (.mem .gated) => .next t1) t) s

/-- The fields of a launch record (R341). -/
structure LaunchRec where
  entry : W64
  ret : W64
  argbase : W64
  argstride : Nat
  rbase : Nat
  rcount : Nat
  mapped : Bool
  map : W64
  nmap : Nat
  tag : W64
  deriving DecidableEq, Repr

def launchRecOf (l : List Byte) : LaunchRec :=
  { entry := BitVec.ofNat 64 (field l 0 8), ret := BitVec.ofNat 64 (field l 8 8), argbase := BitVec.ofNat 64 (field l 16 8),
    argstride := field l 24 4, rbase := field l 28 1, rcount := field l 29 1, mapped := field l 30 1 % 2 == 1,
    map := BitVec.ofNat 64 (field l 32 8), nmap := field l 40 2, tag := BitVec.ofNat 64 (field l 48 8) }

/-- A record keeps the rules of R341 and its entry R202; the range of nmap belongs to the map (R351). -/
def launchOk (l : List Byte) (slen : Nat) : Bool :=
  let q := launchRecOf l
  !badTarget q.entry && aligned q.argstride 8 && decide (1 ≤ q.rcount) && decide (q.rbase + q.rcount ≤ slen) &&
    field l 30 2 / 2 == 0 && (if q.mapped then aligned q.map.toNat 16 else q.map == 0 && q.nmap == 0) &&
    zeroBytes l 42 6 && zeroBytes l 56 8

/-- The entries of a placement map (R351): address, length and ring; none if one breaks the rules. -/
def mapOf (slen : Nat) (l : List Byte) : Nat → Nat → Option (List (W64 × Nat × Nat))
  | 0, _ => some []
  | n + 1, o =>
    if slen ≤ field l (o + 12) 1 ∨ !zeroBytes l (o + 13) 3 then none
    else (mapOf slen l n (o + 16)).map fun t => (BitVec.ofNat 64 (field l o 8), field l (o + 8) 4, field l (o + 12) 1) :: t

/-- The completion entry of record i of a VF's queue, by the registers of ring r: a release at the widest scope of its space (R344). -/
def State.completion (s : State) (r v i : Nat) (tag : W64) (status code : Nat) : State :=
  let bs := leBytes 8 tag.toNat ++ leBytes 4 status ++ leBytes 4 code
  let lost (t : State) : State :=
    (t.setVcsr v 0x1015 (setFld (t.vcsr v 0x1015) 63 32 (sat32 (fld (t.vcsr v 0x1015) 63 32 + 1)))).post (dieOf r) 9 0 0 v
  match s.spanPlaces (s.ctxStage2 r) .store (s.vcsr v 0x1014 + BitVec.ofNat 64 (16 * i)) 16 with
  | .error (.mem e) => lost (s.memFail r 0 e)
  | .error _ => lost s
  | .ok ps =>
    match (s.releaseAll r).writeAt (.ring r) false [(3, s.releasedBy (allRings.filter fun q => (s.ring q).vf == some v))] ps bs with
    | .ok s1 => s1.door v
    | .error e => lost (s.memFail r 0 e)

/-- A ring starts a graph (R342): the U CSRs at their launch values, every slot empty, every billet disarmed. -/
def Ring.launch (x : Ring) (q : LaunchRec) (j : Nat) : Ring :=
  { x with seq := { Seq.reset with pc := q.entry,
                                   x := tset 0 (tset 0 [] 1 q.ret) 9 (q.argbase + BitVec.ofNat 64 (j * q.argstride)) },
           level := .u, run := .run, csr := x.csr.filter fun e => decide (0x1000 ≤ e.1), deps := [], asyncs := [], serial := 0,
           recs := [], wait := none, carvew := 0, billets := [], ferr := [], aerr := [], launchTag := q.tag }

/-- The rings that a record names (R341). -/
def LaunchRec.rings (q : LaunchRec) (sbase : Nat) : List Nat := runOf (sbase + q.rbase) q.rcount

/-- RSTAT is idle (R329). -/
def Ring.idle (x : Ring) : Bool := x.run == .idle && !x.halted && decide (x.power < 3)

/-- A launch starts (R342, R344). Its graph observes every write so far (R296, R346; log 116). -/
def State.startLaunch (s : State) (v i : Nat) (q : LaunchRec) (rings : List Nat) (map : List (W64 × Nat × Nat)) : State :=
  let s1 := rings.zipIdx.foldl (init := s) fun st x => st.updRing x.1 fun y =>
    let z := y.launch q x.2
    { z with seq := { z.seq with front := Front.zero.all s.free } }
  s1.updVf v fun f => { f with launches := f.launches ++ [{ index := i, tag := q.tag, rings := rings, left := rings, codes := [], map := map }] }

/-- LQHEAD passes a record (R347). -/
def State.headOn (s : State) (v sz : Nat) : State :=
  s.setVcsr v 0x1012 (BitVec.ofNat 64 ((fld (s.vcsr v 0x1012) 15 0 + 1) % 2 ^ sz))

/-- The rings of a validated record start, or its map fails (R347, R351). -/
def State.beginLaunch (s : State) (r v sz i : Nat) (q : LaunchRec) : State :=
  let x := s.ring r
  let rings := q.rings x.sbase
  if rings.any fun n => !(s.ring n).idle || !s.offered n then s
  else if !q.mapped then (s.headOn v sz).startLaunch v i q rings []
  else if q.nmap = 0 ∨ 64 < q.nmap then (s.headOn v sz).completion r v i q.tag 2 0
  else
    match s.engRead (s.ctxStage2 r) q.map (16 * q.nmap) with
    | .error (.acc _) => (s.headOn v sz).completion r v i q.tag 2 0
    | .error (.mem (.machine pa)) => ((s.memFail r 0 (.machine pa)).headOn v sz).completion r v i q.tag 2 0
    | .error (.mem (.integrity pa)) => s.memFail r 0 (.integrity pa)
    | .error (.mem .gated) => s
    | .ok l =>
      match mapOf x.slen l q.nmap 0 with
      | none => (s.headOn v sz).completion r v i q.tag 2 0
      | some m => ((s.engLinked (s.ctxStage2 r) [(q.map, 16 * q.nmap)]).headOn v sz).startLaunch v i q rings m

/-- LAUNCH_CONSUME: the dispatcher consumes the record at LQHEAD of a VF that holds its strip (R344, R347, R438). -/
def execLaunchConsume (vf : Nat) (s : State) : Out :=
  match s.ringOfVf vf, s.lqOpen vf with
  | some r, some sz =>
    if s.lqCount vf sz = 0 ∨ (s.vfOf vf).stopped ∨ (s.strip (s.ring r).sbase).capture then .next s
    else
      let i := fld (s.vcsr vf 0x1012) 15 0 % 2 ^ sz
      match s.engRead (s.ctxStage2 r) (s.vcsr vf 0x1010 + BitVec.ofNat 64 (64 * i)) 64 with
      | .error (.acc _) => .next ((s.headOn vf sz).completion r vf i 0 1 0)
      | .error (.mem (.machine pa)) => .next (((s.memFail r 0 (.machine pa)).headOn vf sz).completion r vf i 0 1 0)
      | .error (.mem (.integrity pa)) => .next (s.memFail r 0 (.integrity pa))
      | .error (.mem .gated) => .next s
      | .ok l =>
        let q := launchRecOf l
        let s1 := s.engLinked (s.ctxStage2 r) [(s.vcsr vf 0x1010 + BitVec.ofNat 64 (64 * i), 64)]
        if launchOk l (s.ring r).slen then .next (s1.beginLaunch r vf sz i q)
        else .next ((s1.headOn vf sz).completion r vf i q.tag 1 0)
  | _, _ => .next s

/-- What a csrw to LDONE waits for (R343): its phases retired, its slots drained, its copies gone, and its own accesses performed. -/
def State.graphOver (s : State) (r : Nat) : Bool :=
  let x := s.ring r
  x.unretired == 0 && (x.deps.all fun d => d.2.out.isEmpty) && x.asyncs.isEmpty && x.crn.isEmpty &&
    ((x.copyReady ++ x.copies).all fun c => match c.src with
      | .rsq _ => false
      | .firing _ _ => true) &&
    x.seq.loads.isEmpty && x.seq.stores.isEmpty

/-- The lowest-numbered ring of a launch whose code is not zero gives the entry's code (R344). -/
def Launched.code (l : Launched) : Nat :=
  match l.codes.find? fun c => c.2 != 0 with
  | some c => c.2.toNat
  | none => 0

/-- The graph ends on a ring, a release of all it has done; the last ring of a launch writes its completion entry (R343, R344). -/
def State.endGraph (s : State) (r : Nat) : State :=
  let v := s.vfNum r
  let code : W32 := BitVec.truncate 32 (s.rcsr r 0x030)
  let s1 := (s.flush r).updRing r fun x => { x with run := .idle, wait := none, launchTag := 0 }
  match (s.vfOf v).launches.reverse.find? fun l => l.left.contains r with
  | none => s1
  | some l =>
    let l1 := { l with left := l.left.filter (· != r), codes := tput l.codes r code }
    if l1.left.isEmpty then
      let s2 := s1.updVf v fun f => { f with launches := f.launches.filter fun m => m != l }
      s2.completion ((s.ringOfVf v).getD r) v l.index l.tag 0 l1.code
    else s1.updVf v fun f => { f with launches := f.launches.map fun m => if m = l then l1 else m }

/-- LDONE_WRITE: the effect of a csrw to LDONE: the code is stored, and once the launch's work on this ring is over, the graph ends (R343).
Until then the csrw waits, and it executes again. -/
def execLdoneWrite (v : BitVec 64) (s : State) : Out :=
  match s.cur with
  | .core _ => .next s
  | .ring r =>
    let s1 := s.setRcsr r 0x030 (BitVec.ofNat 64 (fld v 31 0))
    if s1.graphOver r then .next (s1.endGraph r) else .next s1

/-- An entry of a launch-packet table at reset (R349). -/
def LpEntry.reset : LpEntry := { ent := 0, tenant := 0, keys := [], stat := 0, bucket := 0 }

def Die.lpEntry (x : Die) (e : Nat) : LpEntry := tget LpEntry.reset x.lp e

def State.setLp (s : State) (d e : Nat) (p : LpEntry) : State := s.updDie d fun x => { x with lp := tput x.lp e p }

/-- The key bytes of an entry (R349). -/
def LpEntry.key (p : LpEntry) : List Byte := ((List.range 4).map fun n => leBytes 8 (tget 0 p.keys n).toNat).flatten

/-- The check of a packet (R348), in the order of the payload's bytes. -/
def packetCheck (key l : List Byte) : List Byte :=
  let iv := slice l 0 3 ++ List.replicate 5 0 ++ slice l 4 4
  (gcmTag key iv (slice l 0 8 ++ slice l 12 68) []).take 4

/-- A packet is rejected (R350): counted with its entry, and reported. -/
def State.rejectPacket (s : State) (d : Nat) (e : Option Nat) (reason : Nat) : State :=
  let s1 := match e with
    | some n =>
      let p := (s.die d).lpEntry n
      s.setLp d n { p with stat := setFld p.stat 63 32 (sat32 (fld p.stat 63 32 + 1)) }
    | none => s
  s1.post d 1 reason 0 (e.getD 0x7F)

/-- A packet's record is enqueued as a launch instruction would (R346, R350): under its own VF's stage 2, which a switched-out tenant's
copies hold (R355). -/
def State.packetEnqueue (s : State) (v sz : Nat) (rec : List Byte) : Except EngErr State :=
  match s.homeOf v with
  | none => .error (.acc (.addr 0))
  | some b =>
    let x := s.ring b
    if x.vf = some v then s.enqueue (s.ctxStage2 b) v sz rec
    else
      let i := ((List.range 8).find? fun i => bit (s.rcsr b (0x2111 + i)) 7 && fld (s.rcsr b (0x2111 + i)) 6 0 == v).getD 0
      let root := tget 0 (tget [] x.tenantCsr i) 0x2103
      let s1 := s.setRing b { x with vf := some v }
      match s1.enqueue { s1.ctxStage2 b with s2root := root } v sz rec with
      | .error e => .error e
      | .ok s2 => .ok (s2.updRing b fun y => { y with vf := x.vf })

/-- The checks of a packet that follow the choice of its entry (R350, checks 2 to 6). A write of the record that memory refuses acts on the VF as its other
accesses do (R412, R428). -/
def State.packetChecks (s : State) (d e : Nat) (p : LpEntry) (l : List Byte) : State :=
  let v := fld p.ent 6 0
  let seq := field l 4 4
  let diff := (seq + 2 ^ 32 - fld p.ent 39 8) % 2 ^ 32
  if !(zeroBytes l 3 1 && zeroBytes l 12 4) then s.rejectPacket d (some e) 1
  else if field l 2 1 ≠ v then s.rejectPacket d (some e) 2
  else if packetCheck p.key l ≠ slice l 8 4 then s.rejectPacket d (some e) 3
  else if diff = 0 ∨ 2 ^ 31 ≤ diff then s.rejectPacket d (some e) 4
  else
    let p1 := { p with ent := setFld p.ent 39 8 seq }
    if p1.bucket < 10 ^ 6 then (s.setLp d e p1).rejectPacket d (some e) 5
    else
      let p2 := { p1 with bucket := p1.bucket - 10 ^ 6 }
      let s1 := s.setLp d e p2
      match s1.lqOpen v with
      | none => s1.rejectPacket d (some e) 6
      | some sz =>
        if s1.lqFull v sz then s1.rejectPacket d (some e) 6
        else
          match s1.packetEnqueue v sz (slice l 16 64) with
          | .error (.mem (.integrity pa)) => (s1.integrityFault v d pa).rejectPacket d (some e) 6
          | .error (.mem (.machine pa)) => (s1.mcheck v pa 0).rejectPacket d (some e) 6
          | .error _ => s1.rejectPacket d (some e) 6
          | .ok s2 => s2.setLp d e { p2 with stat := setFld p2.stat 31 0 (sat32 (fld p2.stat 31 0 + 1)) }

/-- LAUNCH_PACKET: a frame that reaches a die's port (R348, R350). Of several entries that fit, the lowest judges it (log 131). -/
def execLaunchPacket (die : Nat) (etype : BitVec 16) (bytes : List (BitVec 8)) (s : State) : Out :=
  if etype.toNat ≠ fld (s.dcsr die 0x2020) 15 0 ∨ bytes.length < 80 then .next s
  else
    let x := s.die die
    match (List.range 64).find? fun e => bit (x.lpEntry e).ent 7 && (x.lpEntry e).tenant.toNat == field bytes 0 2 with
    | none => .next (s.rejectPacket die none 1)
    | some e => .next (s.packetChecks die e (x.lpEntry e) bytes)

end Sys2Proof.Machine
end

