-- ==== Sys2Proof/Machine/Context.lean ====
section
/-! DEFINITION. Context images: how a ring's state is laid out in them, section by section, and how they are checked and read back
(R388 to R393, R418). -/

namespace Sys2Proof.Machine

/-- The RW bits of a register that a write simply stores. -/
def rwMask (n : Nat) : W64 :=
  match n with
  | 0x019 => 0x17F7F
  | 0x028 => 0xFFFFFFFFFFFFFFFD
  | 0x029 => 0xFFFFFFFFFFFFFFFF
  | 0x02A => 0xFF
  | 0x02B => 0xFFFFFFFFFFFFFFFF
  | 0x02C => 1
  | 0x030 => 0xFFFFFFFF
  | 0x038 => 0xFFFFFFFF
  | 0x1001 => 0xF
  | 0x1002 => 0xFFFFFFFFFFFFFFFC
  | 0x1003 => 0xFFFFFFFFFFFFFFFF
  | 0x1004 => 0x80000000000000FF
  | 0x1005 => 0xFFFFFFFFFFFFFFFF
  | 0x1006 => 0xFFFFFFFFFFFFFFFF
  | 0x1007 => 0x3E
  | 0x1008 => 0xFFFF00FFFFFFFFFF
  | 0x1009 => 0x1F
  | 0x100B => 0xFFFFFFFFFFFFFFFF
  | 0x1010 => 0x007FFFFFFFFFFFC0
  | 0x1011 => 0xF003
  | 0x1014 => 0x007FFFFFFFFFFFF0
  | 0x1020 => 0x3FF
  | 0x1040 => 0x007FFFFFFFFFFFE0
  | 0x1041 => 0x7FF
  | 0x1042 => 0x3FF
  | 0x2000 => 0x7F
  | 0x2002 => 0xFFFFFFFFFFFFFFFC
  | 0x2003 => 0xFFFFFFFFFFFFFFFF
  | 0x2004 => 0x80000000000000FF
  | 0x2005 => 0xFFFFFFFFFFFFFFFF
  | 0x2007 => 0xFFFFFFFFFFFFFFFF
  | 0x2008 => 0xFFFFFFFFFFFFFFFF
  | 0x2009 => 0xFFFFFFFFFF
  | 0x2020 => 0xFFFF
  | 0x2021 => 0x3F
  | 0x2031 => 0x3FF
  | 0x2040 => 0xFF
  | 0x2043 => 0xFFFFFFFFFFFFFFFF
  | 0x2044 => 0xFFFFFFFFFFFFFFFF
  | 0x2045 => 0xFFFFFFFFFFFFFFFF
  | 0x2046 => 0xFFFFFFFFFFFFFFFF
  | 0x2048 => 0xFF
  | 0x2050 => 0x3F
  | 0x2068 => 0xFFFF
  | 0x2103 => 0xFFFFFFFFFF
  | 0x2104 => 0x17F
  | 0x2105 => 0xFFFFFFFF
  | 0x2106 => 0xFFFFFFFFFFFFFFFF
  | 0x2110 => 0xFFFFFFFF
  | 0x211A => 0xF
  | 0x2120 => 0x007FFFFFFFFFFFC0
  | _ => 0

/-- The BILLETS register (R286). -/
def Ring.billetsWord (x : Ring) : W64 :=
  BitVec.ofNat 64 (((List.range 16).map fun i =>
    16 ^ i * ((if x.ferr.contains i then 8 else 0) + (if x.aerr.contains i then 4 else 0) +
      (match tfind x.billets i with
        | some b => (if b.queue.isSome then 2 else 0) + 1
        | none => 0))).sum)

/-- A number in `n` zero bytes. -/
def zeros (n : Nat) : List Byte := List.replicate n 0

/-- 64-bit words, one after another. -/
def words64 (l : List W64) : List Byte := (l.map fun w => leBytes 8 w.toNat).flatten

/-- The handles whose records exist, oldest first (R278, R380). -/
def Ring.handles (x : Ring) : List Nat := (List.range (min 16 x.serial)).map fun i => x.serial - min 16 x.serial + 1 + i

/-- One entry of the pending list (R390). -/
def Async.entry (a : Async) : List Byte :=
  let (gsel, xa) : W64 × W64 := match a.op with
    | .pload desc g _ => (g, desc)
    | .cpy d => (0, d)
    | .cpyB v => (0, v)
    | .crnStep v => (0, v)
  leBytes 4 a.word.toNat ++ leBytes 4 (fld gsel 31 0) ++ leBytes 8 xa.toNat ++ leBytes 8 a.x.satp.toNat

/-- What RSTAT shows of a run state and a level (R329). -/
def runCode (st : RunState) (lvl : Level) : Nat :=
  match st with
  | .idle => 0
  | .parked => 3
  | .wfi => 5
  | .run => if lvl = .u then 1 else 2

/-- The SEQ section (R390), with the pc, the value of x[d] that isave changes, and the RSTAT it shows. -/
def State.seqSection (s : State) (r : Nat) (pc : W64) (rd : Option (Nat × W64)) (rstat : Nat) : List Byte :=
  let x := s.ring r
  let c (n : Nat) : W64 := s.rcsr r n
  let xs := (List.range 31).map fun i =>
    match rd with
    | some (n, v) => if n = i + 1 then v else tget 0 x.seq.x (i + 1)
    | none => tget 0 x.seq.x (i + 1)
  let deps := (List.range 8).map fun i =>
    let d := s.dep r i
    BitVec.ofNat 64 (d.out.length % 128 + (if d.err then 128 else 0) + d.code.toNat * 256)
  let recs := x.handles.map fun h =>
    let q := s.liveRec r h ((s.rec? r h).getD PhaseRec.reset)
    (List.range 8).map q.word
  words64 [pc] ++ [if x.level = .u then 0 else 1, BitVec.ofNat 8 rstat] ++ zeros 6 ++ words64 xs ++ words64 deps ++
    words64 [BitVec.ofNat 64 x.serial] ++
    words64 [x.seq.uscratch, x.seq.cycle, x.seq.instret, x.carvew, c 0x019, x.billetsWord, c 0x028, c 0x029, c 0x02A, c 0x02B, c 0x02C,
             c 0x030, c 0x038] ++
    words64 [c 0x1001, c 0x1002, c 0x1003, c 0x1004, c 0x1005, c 0x1006, c 0x1007, c 0x1008, c 0x1009, s.sip r, c 0x100B, c 0x100D] ++
    words64 [c 0x2107, c 0x2108, c 0x023] ++ zeros 16 ++
    slice ((x.asyncs.map Async.entry).flatten) 0 768 ++ zeros 192 ++ slice (recs.map words64).flatten 0 1024

/-- The items that a phase has admitted or been credited (R391). -/
def Group.items (g : Group) : Nat := g.admitted + g.credited

/-- A constant update in the layout of R391. -/
def updBytes (target : Nat) (v : W32) : List Byte := leBytes 4 target ++ leBytes 4 v.toNat

/-- The words of an AG's stream that its input port has passed on, dropped or been credited (R392). -/
def Port.passed (p : Port) : Nat := p.arrived - p.q.length + p.creditWords

/-- The stream of an input port has ended, and nothing of it is left (R391). -/
def State.portOver (s : State) (g : Group) (key : Nat) (p : Port) : Bool :=
  decide (key % 4 < 2) && s.eosMark g key p && (s.inWords g key p).isEmpty && (match g.cairnAt key with
    | some (_, c) => c.tiles.isEmpty
    | none => true)

/-- The words that a comparator has discarded at a port whose loader fetches them again after a restore, and which count as discarded then (R173, R392). -/
def State.refetched (s : State) (g : Group) (key : Nat) (p : Port) : Nat :=
  match g.cairnAt key with
  | some (_, c) => if s.portOver g key p then 0 else c.dropped
  | none => 0

/-- One port record of FAB: credited tiles and words count as delivered (R139, R391). -/
def State.portRecord (s : State) (g : Group) (key : Nat) (p : Port) : List Byte :=
  leBytes 4 p.tiles ++ leBytes 4 (if key % 4 < 2 then p.delivered + p.creditWords else p.written) ++ leBytes 4 (p.disc - s.refetched g key p) ++ leBytes 2 p.head.toNat ++
    leBytes 2 (if s.portOver g key p then 1 else 0)

/-- The keys of a phase's ports in declaration order. -/
def PhaseImg.portKeys (m : PhaseImg) : List Nat := m.decls.map fun d => portKey d.v d.p

/-- Unattached markers: their port record and words ahead, and the updates each binds (R391). -/
def Group.markList (g : Group) : List (Nat × Nat × Nat) :=
  (g.img.portKeys.zipIdx.map fun k =>
    match tfind g.ports k.1 with
    | some p => p.marks.map fun m => (k.2, m.2, ((g.upds.zipIdx.map fun u => if u.1.mark = some m.1 then 2 ^ u.2 else 0).sum))
    | none => []).flatten

/-- The stateful stripes of a resident phase with their records (R189, R391), none before it has admitted an item. -/
def State.fabRecords (s : State) (g : Group) : List (Nat × List Byte) :=
  if g.scrolls (s.plen g) ∨ g.admitted = 0 then []
  else
    (List.range g.img.v).filterMap fun v =>
      match g.stripe? v with
      | some im => if im.stateful then some (v, s.slotRecord g v im (if (s.slot g v).bank then 1 else 0)) else none
      | none => none

/-- The fields of FAB that name a phase: its mode, handle, issuer, ring group and descriptor (R391). -/
def Group.fabHead (g : Group) (base mode : Nat) : List Byte :=
  leBytes 4 mode ++ leBytes 4 g.serial ++ leBytes 1 (g.issuer - base) ++ leBytes 1 g.k ++ leBytes 1 (g.first - base) ++ zeros 5 ++ slice g.desc 0 32

/-- The FAB section of a ring of a strip (R391). `gone` are the phases that a capture discards: they restart from their descriptors (R50, R385). -/
def State.fabSection (s : State) (base r : Nat) (gone : List Group) : List Byte :=
  match gone.find? fun g => decide (g.first ≤ r) && decide (r < g.first + g.k) with
  | some g => if g.first = r then g.fabHead base 7 ++ zeros 16 else leBytes 4 5 ++ zeros 60
  | none =>
    match (s.ring r).group.bind s.group? with
    | none => zeros 64
    | some g =>
      if g.first ≠ r then leBytes 4 1 ++ zeros 60
      else
        let recs := s.fabRecords g
        let marks := g.markList
        g.fabHead base 3 ++ leBytes 4 (if g.scrolls (s.plen g) then (if g.closed then g.sweep + 1 else g.sweep) else g.sweepsDone) ++
          leBytes 4 g.items ++ leBytes 2 g.img.decls.length ++ leBytes 2 g.overlay.length ++ leBytes 1 g.upds.length ++
          leBytes 1 marks.length ++ leBytes 2 recs.length ++
          (g.img.portKeys.map fun k =>
            match tfind g.ports k with
            | some p => s.portRecord g k p
            | none => zeros 16).flatten ++
          (g.overlay.map fun o => updBytes o.1 o.2).flatten ++
          (g.upds.map fun u => updBytes u.target.toNat u.val).flatten ++
          (marks.map fun m => leBytes 2 m.1 ++ leBytes 4 m.2.1 ++ leBytes 2 m.2.2).flatten ++
          (recs.map fun q => leBytes 2 q.1 ++ zeros 6 ++ q.2).flatten

/-- The indices of element n of a pattern, innermost first (R149, R150). -/
def AgDesc.indices (d : AgDesc) (n : Nat) : List Nat :=
  let dims : List Nat := if d.mode = 1 then [d.cntAt 0, d.ff, d.ff, d.ex.toNat, d.ey.toNat] else (List.range d.nd).map d.cntAt
  slice5 ((dims.foldl (fun (acc : List Nat × Nat) c => if c = 0 then (acc.1 ++ [0], acc.2) else (acc.1 ++ [acc.2 % c], acc.2 / c)) ([], n)).1)
where
  /-- The first five of a list, zeros after its end. -/
  slice5 (l : List Nat) : List Nat := (List.range 5).map fun i => l.getD i 0

/-- The elements that a phase's AG at the head of a port has finished with (R392): a loader those that its port has passed on, a storer those that it has
stored or stepped past. -/
def State.mainPos (s : State) (g : Group) (r n : Nat) : Nat :=
  let a := s.ag r n
  match a.desc, a.bound with
  | some d, some (_, key, _) =>
    if d.store then a.total d d.walk
    else
      let e := ((tfind g.ports key).map fun p => p.passed * 4 / d.esz).getD 0
      if a.ended then min e a.delivered else e
  | _, _ => 0

/-- The elements that an AG has finished with: an index AG those whose walks are over (R392). -/
def State.agPos (s : State) (g : Group) (r n : Nat) : Nat :=
  match (s.ag r n).bound with
  | some (_, _, 0) => s.mainPos g r n
  | some _ => s.mainPos g r (pairOf n) / (((s.ag r (pairOf n)).desc.map AgDesc.walk).getD 1)
  | none => 0

/-- An AG has sent its end of stream, and nothing before it is left to fetch again (R392). -/
def State.agSent (s : State) (g : Group) (r n : Nat) : Bool :=
  let a := s.ag r n
  a.ended && (match a.desc, a.bound with
    | some d, some (_, key, 0) => d.store || ((tfind g.ports key).map fun p => s.portOver g key p).getD true
    | _, _ => decide (a.delivered ≤ s.agPos g r n))

/-- One AG record (R392). -/
def State.agRecord (s : State) (g : Group) (r n : Nat) : List Byte :=
  let a := s.ag r n
  match a.desc with
  | none => zeros 128
  | some d =>
    let e := s.agPos g r n
    slice d.raw 0 64 ++ ((d.indices (if d.mode = 2 then e % d.walk else e)).map fun i => leBytes 4 i).flatten ++
      leBytes 4 (if d.mode = 2 then e / d.walk else 0) ++ leBytes 8 e ++
      leBytes 4 ((if a.bound.isSome then 1 else 0) + (if s.agSent g r n then 2 else 0)) ++ zeros 28

def State.agSection (s : State) (r : Nat) : List Byte :=
  match (s.ring r).group.bind s.group? with
  | some g => ((List.range 8).map fun n => s.agRecord g r n).flatten
  | none => zeros 1024

/-- The BIL section (R392). -/
def State.bilSection (s : State) (r : Nat) : List Byte :=
  let x := s.ring r
  leBytes 8 x.billetsWord.toNat ++ zeros 56 ++
    ((List.range 16).map fun i =>
      match tfind x.billets i with
      | some b => slice b.record 0 128
      | none => zeros 128).flatten ++
    ((List.range 16).map fun q =>
      let l := tget [] x.tqs q
      leBytes 4 l.length ++ zeros 12 ++ slice (l.map fun w => leBytes 4 w.toNat).flatten 0 256).flatten

/-- A decided tile in the layout of R392. -/
def tileBytes (region step : Nat) (t : Nat × Bool) : List Byte :=
  leBytes 1 region ++ [1, if t.2 then 1 else 0, 0] ++ leBytes 4 t.1 ++ leBytes 4 step ++ zeros 4

/-- The decided tiles of a phase's Cairn work of which no item has been admitted (R179, R392): those staged, and those that it took from an image and has
not staged again. -/
def State.keptTiles (s : State) (g : Group) (c : Cairn) : List (Nat × Bool) :=
  (((c.tiles.filter (·.decided)).map fun t => (t.tile, t.skip)) ++ c.carried.filter fun t => decide (c.stagedTiles ≤ t.1)).filter fun t =>
    decide (g.items ≤ t.1 * s.cairnIpt g c)

/-- The decided tiles of the ports on a ring (R179, R392). -/
def State.ringTiles (s : State) (r : Nat) (gone : List Group) : List (List Byte) :=
  let here (g : Group) : List (List Byte) :=
    ((g.cairns.filter fun c => s.ringOfV g (c.inPort / 4) == r).map fun c => (s.keptTiles g c).map (tileBytes c.region c.step)).flatten
  let now := match (s.ring r).group.bind s.group? with
    | some g => [g]
    | none => []
  ((gone ++ now).map here).flatten

/-- The decided tiles of phases that wait to start again after a restore (R179). -/
def State.waitingTiles (s : State) (v : Nat) : List (List Byte) :=
  ((s.vfOf v).regions.map fun q => if q.2.bound then [] else q.2.carried.map (tileBytes q.1 q.2.s)).flatten

/-- The decided tiles that a ring's image carries, at most two (R392): those of the ports on the ring, and in places that these leave free, ring by ring
of the strip, those of phases that wait to start again. -/
def State.crnTiles (s : State) (base r : Nat) (gone : List Group) : List (List Byte) :=
  let taken := (List.range (r - base)).foldl (fun n i => n + (2 - (s.ringTiles (base + i) gone).length)) 0
  let mine := s.ringTiles r gone
  mine ++ ((s.waitingTiles (s.vfNum r)).drop taken).take (2 - mine.length)

/-- The CRN section (R392). -/
def State.crnSection (s : State) (base r : Nat) (gone : List Group) : List Byte :=
  let v := s.vfOf (s.vfNum r)
  let regions := (List.range 64).map fun n =>
    match tfind v.regions n with
    | some q => slice q.raw 0 64 ++ leBytes 4 q.s ++ leBytes 4 (1 + (if q.force then 2 else 0) + (if q.bound then 4 else 0)) ++ zeros 8
    | none => zeros 80
  slice (regions.flatten ++ slice (s.crnTiles base r gone).flatten 0 32) 0 5184

/-- The WIN section (R392): the handles of the windows of which the VF is a member. -/
def State.winSection (s : State) (r : Nat) : List Byte :=
  let v := s.vfNum r
  ((List.range 64).map fun n =>
    let w := s.window n
    if w.valid && w.members.getLsbD v then
      leBytes 8 (s.winHandle n).toNat ++ leBytes 8 ((if w.opened.getLsbD v then 1 else 0) + (if w.wv && w.writer.toNat == v then 2 else 0))
    else zeros 16).flatten

/-- The pool bytes that the carve fields name (R101, R389). -/
def carveBytes (w : W64) : Nat := 65536 * (carveScratch w + carveSpill w + carveWrap w + carveSave w + carveFifo w)

/-- The FAULT section of a dump (R392). -/
def State.faultSection (s : State) (r : Nat) : List Byte :=
  let x := s.ring r
  let q := match s.rec? r x.serial with
    | some q => s.liveRec r x.serial q
    | none => PhaseRec.reset
  let parked := x.run == .parked
  leBytes 1 (if parked then fld (s.rcsr r 0x2107) 7 0 else 0) ++ leBytes 1 q.kind ++ zeros 6 ++
    words64 [if parked then s.rcsr r 0x2106 else x.seq.pc, if parked then s.rcsr r 0x2108 else 0, s.time, BitVec.ofNat 64 x.serial] ++
    words64 (if x.serial = 0 then List.replicate 8 0 else (List.range 8).map q.word) ++ zeros 24

/-- The sections that a kind holds, in ascending type order (R389). -/
def kindSections (kind : Nat) : List Nat :=
  match kind with
  | 0 => [1, 2, 3, 4, 5, 6, 8, 9]
  | 1 => [1, 2, 3, 4, 5, 6, 7, 8, 9]
  | 2 => [1, 2, 3, 4, 5, 6, 8, 9, 10]
  | _ => [1, 4, 5, 6, 8]

/-- The plaintext of ROOT: the VF key and the root counters of the ring's two channels (R418). -/
def State.rootText (s : State) (r : Nat) : List Byte :=
  let root (south : Bool) (i : Nat) : List Byte := leBytes 8 (tget 0 s.roots (2 * ringChan r south + i)).toNat
  keyBytes ((tfind s.vfKeys (s.vfNum r)).getD 0) ++ root false 0 ++ root false 1 ++ root true 0 ++ root true 1

/-- ROOT, sealed under the migration key with the header as additional data (R418). -/
def sealRoot (key iv header text : List Byte) : List Byte :=
  let c := gcmText key iv text
  iv ++ zeros 4 ++ c ++ gcmTag key iv header c

/-- The header of an image (R388). -/
def State.imgHeader (s : State) (base r kind size nsec : Nat) : List Byte :=
  let x := s.ring r
  leBytes 4 0x4C474349 ++ leBytes 2 1 ++ leBytes 1 kind ++ leBytes 1 ((if x.run = .parked then 1 else 0) + (if x.halted then 2 else 0)) ++
    leBytes 8 size ++ leBytes 2 nsec ++ leBytes 1 (s.vfNum r) ++ leBytes 1 (r - base) ++ leBytes 1 r ++ leBytes 1 x.ringp ++
    leBytes 1 x.slen ++ zeros 1 ++ leBytes 8 s.time.toNat ++ leBytes 8 x.launchTag.toNat ++ zeros 24

/-- Rounds up to a multiple of 64. -/
def up64 (n : Nat) : Nat := 64 * ceilDiv n 64

/-- The section table and the body of an image: entries of type, length and offset, and the padded sections (R389). -/
def layout (secs : List (Nat × List Byte)) : List Byte × List Byte :=
  let start := up64 (64 + 16 * secs.length)
  let r := secs.foldl (fun (acc : List Byte × List Byte × Nat) x =>
    (acc.1 ++ leBytes 2 x.1 ++ zeros 2 ++ leBytes 4 x.2.length ++ leBytes 4 acc.2.2 ++ zeros 4,
     acc.2.1 ++ x.2 ++ zeros (up64 x.2.length - x.2.length), acc.2.2 + up64 x.2.length)) ([], [], start)
  (r.1 ++ zeros (start - 64 - 16 * secs.length), r.2.1)

/-- The whole image of a ring (R388, R389): `seq` is its SEQ section, and `gone` are the phases that the capture discards. -/
def State.imageBytes (s : State) (base r kind : Nat) (seq : List Byte) (gone : List Group) : List Byte :=
  let sec (t : Nat) : List Byte := match t with
    | 1 => seq
    | 2 => s.fabSection base r gone
    | 3 => s.agSection r
    | 4 => s.bilSection r
    | 5 => s.crnSection base r gone
    | 6 => s.winSection r
    | 7 => zeros 96
    | 8 => s.bytes (poolKey r 0) (carveBytes (s.ring r).carvew)
    | 9 => s.bytes (campKey r 0) 4194304
    | _ => s.faultSection r
  let types := kindSections kind
  let size := up64 (64 + 16 * types.length) + (types.map fun t => up64 (sec t).length).sum
  let header := s.imgHeader base r kind size types.length
  let root := match s.migKey with
    | some k => sealRoot (keyBytes k) (leBytes 12 (Config.drawnIv (s.free + r)).toNat) header (s.rootText r)
    | none => zeros 96
  let (table, body) := layout (types.map fun t => (t, if t = 7 then root else sec t))
  header ++ table ++ body

/-- The sections of an image by its table: type, length, offset. -/
def imgTable (l : List Byte) : List (Nat × Nat × Nat) :=
  (List.range (field l 16 2)).map fun i => (field l (64 + 16 * i) 2, field l (68 + 16 * i) 4, field l (72 + 16 * i) 4)

/-- The bytes of a section. -/
def imgSection (l : List Byte) (t : Nat) : List Byte :=
  match (imgTable l).find? fun e => e.1 == t with
  | some (_, n, o) => (l.drop o).take n
  | none => []

/-- The length that a type has, where it is fixed (R389). -/
def secLen (t : Nat) : Option Nat :=
  match t with
  | 1 => some 2560
  | 3 => some 1024
  | 4 => some 6464
  | 5 => some 5184
  | 6 => some 1024
  | 7 => some 96
  | 9 => some 4194304
  | 10 => some 128
  | _ => none

/-- Sections in ascending order without overlap, each at a multiple of 64 behind the table, as the kind has them (R389, R393). -/
def tableOk (l : List Byte) (kind : Nat) : Bool :=
  let t := imgTable l
  let start := up64 (64 + 16 * t.length)
  (t.map (·.1)) == kindSections kind &&
    ((List.range t.length).all fun i => zeroBytes l (66 + 16 * i) 2 && zeroBytes l (76 + 16 * i) 4) &&
    (t.all fun e => match secLen e.1 with
      | some n => e.2.1 == n
      | none => true) &&
    (t.foldl (fun (acc : Bool × Nat) e => (acc.1 && aligned e.2.2 64 && decide (acc.2 ≤ e.2.2), e.2.2 + up64 e.2.1)) (true, start)).1 &&
    field l 8 8 == (t.foldl (fun n e => max n (e.2.2 + up64 e.2.1)) start)

/-- The register of each word of SEQ that has reserved bits, with its offset (R390); for ASYNCERR see R275. -/
def seqCsrs : List (Nat × Nat) :=
  [(0x019, 368), (0x028, 384), (0x02A, 400), (0x02C, 416), (0x030, 424), (0x038, 432), (0x1001, 440), (0x1002, 448), (0x1004, 464), (0x1007, 488),
   (0x1008, 496), (0x1009, 504)]

/-- The reserved bits of SEQ's words are 0 (R4, R393). -/
def seqBitsOk (q : List Byte) : Bool :=
  let w (o : Nat) : W64 := BitVec.ofNat 64 (field q o 8)
  (seqCsrs.all fun e => w e.2 &&& ~~~(rwMask e.1) == 0) && field q 360 8 / 2 ^ 35 == 0 && field q 512 8 / 32 == 0 && zeroBytes q 537 7 &&
    fld (w 552) 62 48 == 0

/-- The reserved fields of an arming record are 0 (R156, R285). -/
def armResvOk (l : List Byte) : Bool :=
  let ctl := field l 0 4
  bitsOf ctl 15 9 == 0 && bitsOf ctl 31 29 == 0 && decide (field l 52 1 < 16) && zeroBytes l 53 1 && decide (field l 72 1 < 32) &&
    decide (field l 73 1 < 16) && zeroBytes l 74 54

/-- The reserved fields of a phase record are 0 (R280, R381). -/
def recResvOk (l : List Byte) : Bool := field l 0 2 / 1024 == 0 && field l 0 1 / 8 == 0 && field l 29 1 / 4 % 64 == 0 && zeroBytes l 56 8

/-- The reserved fields of a region's descriptor are 0, and its format is none that R170 reserves. -/
def regionResvOk (l : List Byte) : Bool := field l 0 1 / 4 == 0 && decide (field l 0 1 % 4 < 3) && zeroBytes l 22 2 && zeroBytes l 40 24

/-- The reserved fields of an AG's descriptor are 0, and its mode is none that R148 reserves. -/
def agResvOk (l : List Byte) : Bool :=
  field l 0 1 / 64 == 0 && field l 1 1 / 8 == 0 && zeroBytes l 2 2 &&
    (match field l 0 1 % 4 with
     | 0 => zeroBytes l 56 8
     | 1 => zeroBytes l 63 1
     | 2 => true
     | _ => false)

/-- No reserved field of a section is set (R390 to R393), those of FAB's stripe records aside, whose lengths the phase image tells. -/
def reservedOk (l : List Byte) : Bool :=
  let q := imgSection l 1
  let b := imgSection l 4
  let c := imgSection l 5
  let a := imgSection l 3
  let f := imgSection l 2
  zeroBytes l 23 1 && zeroBytes l 40 24 && field l 7 1 / 4 == 0 && zeroBytes q 10 6 && field q 8 1 / 2 == 0 &&
    ((List.range 8).all fun i => zeroBytes q (264 + 8 * i + 2) 6) && zeroBytes q 560 16 && zeroBytes q 1344 192 && seqBitsOk q &&
    ((List.range 32).all fun i => BitVec.ofNat 64 (field q (576 + 24 * i + 16) 8) &&& ~~~(rwMask 0x1008) == 0) &&
    ((List.range 16).all fun i => recResvOk (slice q (1536 + 64 * i) 64)) &&
    zeroBytes b 8 56 && ((List.range 16).all fun i => armResvOk (slice b (64 + 128 * i) 128)) &&
    ((List.range 16).all fun i => zeroBytes b (2112 + 272 * i + 4) 12 && decide (field b (2112 + 272 * i) 4 ≤ 64)) &&
    ((List.range 64).all fun i => regionResvOk (slice c (80 * i) 64) && zeroBytes c (80 * i + 72) 8 && field c (80 * i + 68) 4 / 8 == 0) &&
    ((List.range 64).all fun i => field (imgSection l 6) (16 * i + 8) 8 / 4 == 0) &&
    ((List.range 2).all fun i => zeroBytes c (5120 + 16 * i + 3) 1 && zeroBytes c (5120 + 16 * i + 12) 4) && zeroBytes c 5152 32 &&
    (a.isEmpty || (List.range 8).all fun i => agResvOk (slice a (128 * i) 64) && zeroBytes a (128 * i + 100) 28 && field a (128 * i + 96) 4 / 4 == 0) &&
    (f.isEmpty || (field f 0 4 / 16 == 0 && zeroBytes f 11 5 && field f 44 4 / 2 == 0 &&
      (List.range (field f 56 2)).all fun i => field f (64 + 16 * i + 14) 2 / 2 == 0))

/-- The checks of R393 that do not depend on the target: `l` is the whole image. -/
def imgOk (l : List Byte) (kinds : List Nat) : Bool :=
  let kind := field l 6 1
  field l 0 4 == 0x4C474349 && field l 4 2 == 1 && kinds.contains kind && aligned (field l 8 8) 64 && decide (field l 8 8 = l.length) &&
    tableOk l kind && reservedOk l &&
    ((imgSection l 8).length == carveBytes (BitVec.ofNat 64 (field (imgSection l 1) 360 8))) &&
    (kind == 3 || decide (64 ≤ (imgSection l 2).length))

end Sys2Proof.Machine
end

