-- ==== Sys2Proof/Machine/Preempt.lean ====
section
/-! DEFINITION. Pre-emption, capture and restoration of a strip, the tenant scheduler, and isave and irest (R50, R52, R336, R337, R353 to
R358, R383 to R387, R393). -/

namespace Sys2Proof.Machine

/-- The place of byte k of a ring's image at a channel offset: lines take the ring's two channels in turn (R384). -/
def imgPlace (r o k : Nat) : Nat :=
  let i := k / 64
  ringChan r (i % 2 == 1) * 2 ^ 31 + o + 64 * (i / 2) + k % 64

/-- The places of the first n bytes of a ring's image, under the key of the strip's VF. -/
def State.imgPlaces (s : State) (r o v n : Nat) : List (Nat × MemAttr) := (List.range n).map fun k => (imgPlace r o k, s.vfAttr v)

/-- The rings of the strip whose lowest ring is b (R398). -/
def State.stripRings (s : State) (b : Nat) : List Nat := runOf b (s.ring b).slen

/-- The groups of a strip. -/
def State.stripGroups (s : State) (b : Nat) : List (Nat × Group) :=
  s.groups.filter fun g => decide (b ≤ g.1) && decide (g.1 < b + (s.ring b).slen)

def State.updStrip (s : State) (b : Nat) (f : Strip → Strip) : State := s.setStrip b (f (s.strip b))

/-- A phase that has admitted and been credited nothing: a pre-emption discards what it loads, and it restarts from its descriptor (R50, R385). One that has
been credited tiles and admitted no item loses its loads too, but keeps its counts, as at a sweep boundary, since it would decide those tiles again otherwise
(R179; log 119). -/
def Group.unstarted (g : Group) : Bool := g.admitted == 0 && g.credited == 0 && !g.draining

/-- A pre-emption request reaches a group: a phase that has admitted nothing discards its loads at the end of its next cycle that is not frozen (R50). -/
def State.preemptGroup (s : State) (gk : Nat) (g : Group) : State := s.setGroup gk { g with preempt := true }

/-- A pre-emption request reaches a strip (R383): for RIMG, or to make way for a tenant. While a ring of the strip is halted it waits for the dret (R394). -/
def State.preempt (s : State) (b : Nat) (next : Option Nat) : State :=
  if (s.strip b).capture ∨ (s.ring b).vf.isNone then s
  else if (s.stripRings b).any s.powerGated then s.updStrip b fun t => { t with st := 5 }
  else if (s.stripRings b).any fun r => (s.ring r).halted then s.updStrip b fun t => { t with asked := some next }
  else
    (s.stripGroups b).foldl (init := s.updStrip b fun t => { t with st := 1, capture := true, next := next, asked := none }) fun st g =>
      st.preemptGroup g.1 g.2

/-- A request that a debug halt has held up acts after the dret (R394). -/
def State.askAgain (s : State) (b : Nat) : State :=
  match (s.strip b).asked with
  | some next => s.preempt b next
  | none => s

/-- Every item that a group has admitted has left it, with all its work (R52). -/
def Group.empty (g : Group) : Bool := g.exited == g.admitted && g.wq.isEmpty && g.blocks.isEmpty && g.wrap.isEmpty && g.cross.isEmpty

/-- An AG of a group holds nothing in flight: no page request, no request outstanding, and no whole element still to store (R384). -/
def State.agQuiet (s : State) (r n : Nat) : Bool :=
  let a := s.ag r n
  a.fault.isNone && a.units.all (·.done) && (match a.desc with
    | some d => !d.store || (a.units.isEmpty && (a.stepIndex d).isNone && decide (a.part.length < if d.zc then 128 * d.esz else d.esz))
    | none => true)

/-- A group stands at its pre-emption point: at a sweep boundary or before its first item, with no page request, no line request and no
undecided Cairn tile; after its last sweep it drains instead (R50, R52, R384). -/
def State.atPoint (s : State) (gk : Nat) (g : Group) : Bool :=
  !g.draining && g.mark.isNone && !(g.closed && g.final) &&
    (g.unstarted || ((g.closed || g.sweepItems == 0) && g.empty)) && ((List.range (s.plen g)).all fun gs => (s.slot g gs).st ≠ .load) &&
    ((s.agsOf gk g).all fun x => s.agQuiet x.1 x.2) && g.cairns.all fun c => !c.held && c.tiles.all (·.decided)

/-- An RSQ and its copy unit have stopped for a capture: no access is outstanding, and no accepted copy or crn.step is left (R384). -/
def Ring.settled (x : Ring) : Bool :=
  !x.halted && x.seq.loads.isEmpty && x.seq.stores.isEmpty && x.copies.isEmpty && x.crn.isEmpty && x.copyReady.all fun j => !j.held && j.orig.isSome

/-- A strip is ready for its capture (R384, R385). -/
def State.captureReady (s : State) (b : Nat) : Bool :=
  ((s.stripGroups b).all fun g => s.atPoint g.1 g.2) &&
    ((s.stripRings b).all fun r => (s.ring r).settled && !(s.vfOf (s.vfNum r)).stopped)

/-- An operation returns to the pending list, in its place (R385, R390). -/
def Ring.pendAgain (x : Ring) (a : Async) : Ring :=
  { x with asyncs := x.asyncs.filter (fun b => decide (b.id < a.id)) ++ [a] ++ x.asyncs.filter fun b => decide (a.id < b.id) }

/-- The next place in the order of the choices of group (R277). -/
def State.newTicket (s : State) : Nat := (s.tickets.map (·.1)).foldl max 0 + 1

/-- The phase of a pload that has admitted and been credited nothing is discarded: its pload goes back to the pending list, in state GROUP with the group
chosen (R50, R385). The decided tiles of its Cairn work stay with their regions (R179); its updates and markers are gone (log 132). -/
def State.unload (s : State) (gk : Nat) (g : Group) : State :=
  let a := { g.pload with st := .group, grp := some (g.first, g.k), ticket := s.newTicket, held := false }
  let s1 := (s.freeGroup gk g).updRing g.issuer fun x => x.pendAgain a
  let s2 := s1.updRec g.issuer g.serial fun _ => { PhaseRec.reset with state := 1 }
  g.cairns.foldl (init := s2) fun st c => st.updRegion (s.vfNum g.x.ring) c.region fun r => { r with bound := false, carried := s.keptTiles g c }

/-- A scrolling phase's stateful stripes that still stand in their slots are saved into their records (R49, R52). -/
def State.saveHeld (s : State) (g : Group) : State :=
  if !g.scrolls (s.plen g) then s
  else
    (List.range (s.plen g)).foldl (init := s) fun st gs =>
      let sl := st.slot g gs
      match sl.v, sl.v.bind g.stripe? with
      | some v, some im =>
        if im.stateful ∧ (sl.st = .run ∨ sl.st = .save) then
          st.putBytes (poolKey g.first (saveBase g.carve + g.recOff v)) (st.slotRecord g gs im (if sl.bank then 1 else 0))
        else st
      | _, _ => st

/-- Copies that have issued and that the copy unit has not accepted go back to the pending list (R384, R390). -/
def Ring.uncopied (x : Ring) : Ring :=
  (x.copyReady.filterMap (·.orig)).foldl (init := { x with copyReady := [] }) fun y a => y.pendAgain { a with st := .mask }

/-- The channel offset of an area address (R384). -/
def areaOffset (a : W64) : Nat := fld a 30 0 / 64 * 64

/-- The address of tenant t's save area: bits [63:16] of its TSENT entry (R353). -/
def State.saveArea (s : State) (b t : Nat) : W64 := BitVec.ofNat 64 (fld (s.rcsr b (0x2111 + t)) 63 16 * 2 ^ 16)

/-- The ring buffers and links of a strip. -/
def State.stripChans (s : State) (b : Nat) : Tab Chan :=
  s.chans.filter fun c =>
    let n := c.1 / 2 / 256
    let r := if c.1 % 2 = 1 then n / 2 else n
    decide (b ≤ r) && decide (r < b + (s.ring b).slen)

/-- The SEQ section of a capture: a parked RSQ's pc is RPC (R327, R385). -/
def State.captureSeq (s : State) (r : Nat) : List Byte :=
  let x := s.ring r
  s.seqSection r (if x.run = .parked then s.rcsr r 0x2106 else x.seq.pc) none (runCode x.run x.level)

/-- Writes the images of a strip's rings, if every one can be written (R384). -/
def State.writeImages (s : State) (v o : Nat) : List (Nat × List Byte) → Except MemErr State
  | [] => .ok s
  | (r, l) :: t =>
    match s.writeAt (.ring r) false [] (s.imgPlaces r o v l.length) l with
    | .error e => .error e
    | .ok s1 => s1.writeImages v o t

/-- A captured ring: RSTAT is 0, and its units hold nothing of the tenant's work (R384). -/
def Ring.emptied (x : Ring) : Ring :=
  { x with run := .idle, group := none, ags := [], slots := [], deps := [], asyncs := [], recs := [], copyReady := [], wait := none, billets := [],
           launchTag := 0 }

/-- What the images do not place is kept beside them (log 21). -/
def State.stashRing (s : State) (b r : Nat) : State :=
  let x := s.ring r
  let e : Stash := { ring := r, time := s.time,
                     group := (x.group.bind s.group?).bind fun g => if g.first = r then some g else none,
                     ags := x.ags, chans := if r = b then s.stripChans b else [] }
  { s with stash := e :: s.stash.filter fun q => !(q.ring == r && q.time == s.time) }

/-- The phases of a strip that a capture discards (R385). -/
def State.discarded (s : State) (b : Nat) : List Group := ((s.stripGroups b).filter fun g => g.2.unstarted).map (·.2)

/-- The phases that a strip's pre-emption has discarded are pending again. -/
def State.unloadAll (s : State) (b : Nat) : State :=
  ((s.stripGroups b).filter fun g => g.2.unstarted).foldl (fun st g => st.unload g.1 g.2) s

/-- A wfi completes (R331). -/
def Ring.wakeUp (x : Ring) : Ring :=
  if x.run = .wfi then { x with run := .run, seq := { x.seq with pc := x.seq.pc + 4, instret := x.seq.instret + 1 } } else x

/-- The rings of a strip that wait in wfi go on (R331). -/
def State.wakeStrip (s : State) (b : Nat) : State := (s.stripRings b).foldl (init := s) fun st r => st.updRing r Ring.wakeUp

/-- A capture ends in failure: the strip runs on, a wfi that the request has reached completes, and the phases whose loads it discarded restart (R50, R331,
R383, R384). -/
def State.captureFailed (s : State) (b : Nat) : State :=
  let s1 := (s.unloadAll b).wakeStrip b
  (s1.stripGroups b).foldl (init := s1.updStrip b fun t => { t with st := 5, capture := false, next := none }) fun st g =>
    let g1 := { g.2 with preempt := false }
    let st1 := st.setGroup g.1 g1
    if g1.admitted = 0 ∧ !g1.draining then st1.startSlots g1 else st1

/-- The images of a strip that has reached its points, by kind: none if a pending list does not fit its image (R384, R390). -/
def State.imagesOf (s : State) (b kind : Nat) (gone : List Group) : Option (List (Nat × List Byte)) :=
  if (s.stripRings b).any fun r => decide (32 < (s.ring r).asyncs.length) then none
  else some ((s.stripRings b).map fun r => (r, s.imageBytes b r kind (s.captureSeq r) gone))

/-- Writes the images of a strip. Those of a migration hold the root counters that stand once they have been written, so that the contents as the capture leaves
them verify under the roots that rest installs (R418): each line is written once more than before, whatever its bytes. -/
def State.writeRooted (s : State) (b v o kind : Nat) (gone : List Group) (imgs : List (Nat × List Byte)) : Except MemErr State :=
  match s.writeImages v o imgs with
  | .error e => .error e
  | .ok s1 => if kind = 1 then s.writeImages v o (({ s with roots := s1.roots }.imagesOf b kind gone).getD imgs) else .ok s1

/-- Tenants of a strip (R353, R418). -/
def State.tenants (s : State) (b : Nat) : Nat :=
  if (s.ring b).shared then ((List.range 8).filter fun i => bit (s.rcsr b (0x2111 + i)) 7).length else 1

/-- What a strip's agents have done so far can be observed by every agent, its copies not accepted are pending again, its discarded phases are too, and the
stateful stripes of the others are in their records (R384). -/
def State.captured (s : State) (b : Nat) : State :=
  let s1 := (s.stripRings b).foldl (init := s) fun st r => (st.flush r).updRing r Ring.uncopied
  let s2 := s1.unloadAll b
  (s2.stripGroups b).foldl (init := s2) fun st g => st.saveHeld g.2

/-- The capture of a strip at its points, into an area, as images of a kind (R384). -/
def State.capture (s0 : State) (b : Nat) (area : W64) (kind : Nat) : State :=
  let o := areaOffset area
  let v := s0.vfNum b
  let s := s0.captured b
  match (if treeBase < o + 6 * 2 ^ 20 ∨ (kind = 1 ∧ 1 < s.tenants b) then none else s.imagesOf b kind (s0.discarded b)) with
  | none => s0.captureFailed b
  | some imgs =>
    match s.writeRooted b v o kind (s0.discarded b) imgs with
    | .error e => (s0.captureFailed b).memFail b 0 e
    | .ok s1 =>
      let s2 := (s1.stripRings b).foldl (init := s1) fun st r => st.stashRing b r
      let s3 := (s2.stripGroups b).foldl (init := s2) fun st g => st.freeGroup g.1 g.2
      let s4 := (s3.stripRings b).foldl (init := s3) fun st r => st.updRing r Ring.emptied
      let s5 := { s4 with chans := s4.chans.filter fun c => !(s1.stripChans b).any fun d => d.1 == c.1 }
      (s5.updStrip b fun t => { t with st := 2, size := (imgs.map fun i => i.2.length).sum % 2 ^ 32, capture := false, next := none }).post
        (dieOf b) 3 0 0 b

/-- The record of R381 from its words. -/
def recOf (l : List Byte) : PhaseRec :=
  let w (n : Nat) : W64 := BitVec.ofNat 64 (field l (8 * n) 8)
  let st := fld (w 0) 2 0
  { state := st, items := fld (w 0) 63 32, csets := fld (w 0) 31 24, code := BitVec.ofNat 8 (fld (w 0) 23 16), void := bit (w 0) 9,
    zip := bit (w 0) 8, oor := fld (w 1) 63 32, disc := fld (w 1) 31 0, cred := fld (w 2) 63 32, tiles := fld (w 2) 31 0,
    kind := fld (w 3) 63 56, check := fld (w 3) 55 48, ctx := fld (w 3) 41 37, pos := fld (w 3) 36 32, vs := fld (w 3) 31 16,
    gslot := fld (w 3) 15 0, fval := w 4,
    fvoid := if st = 0 ∨ fld (w 5) 63 32 = 2 ^ 32 - 1 then none else some (fld (w 5) 63 32), sweeps := fld (w 5) 31 0, tret := w 6 }

/-- The handles of an image's records, oldest first (R390). -/
def seqHandles (q : List Byte) : List Nat :=
  let serial := field q 328 8
  (List.range (min 16 serial)).map fun i => serial - min 16 serial + 1 + i

/-- A reader that must observe every write so far, through windows too: a restored ring's (log 116). -/
def State.frontNow (s : State) : Front := { Front.zero.all s.free with win := (List.range 64).map fun n => (n, s.free) }

/-- The state of one ring's RSQ, billets and queues as an image holds them (R390, R392). -/
def State.loadSeq (s : State) (r : Nat) (l : List Byte) : State :=
  let q := imgSection l 1
  let b := imgSection l 4
  let w (o : Nat) : W64 := BitVec.ofNat 64 (field q o 8)
  let lvl : Level := if field q 8 1 = 0 then .u else .s
  let bw := field b 0 8
  let nib (i : Nat) : Nat := bw / 16 ^ i % 16
  let ucsr : List (Nat × W64) := [(0x019, w 368), (0x023, w 552), (0x028, w 384), (0x029, w 392), (0x02A, w 400), (0x02B, w 408),
    (0x02C, w 416), (0x030, w 424), (0x038, w 432), (0x1001, w 440), (0x1002, w 448), (0x1003, w 456), (0x1004, w 464), (0x1005, w 472),
    (0x1006, w 480), (0x1007, w 488), (0x1008, w 496), (0x1009, w 504), (0x100A, w 512), (0x100B, w 520), (0x100D, w 528),
    (0x2107, w 536), (0x2108, w 544)]
  let s1 := s.updRing r fun x =>
    { x with seq := { Seq.reset with pc := w 0, x := (List.range 31).foldl (fun t i => tset 0 t (i + 1) (w (16 + 8 * i))) [],
                                     uscratch := w 336, cycle := w 344, instret := w 352, front := s.frontNow },
             level := lvl, run := if field q 9 1 = 0 then .idle else .run, carvew := w 360,
             csr := ucsr.foldl (fun t e => tput t e.1 e.2) (x.csr.filter fun e => decide (0x1000 ≤ e.1)),
             deps := (List.range 8).foldl (fun t i =>
               let d := field q (264 + 8 * i) 8
               if d / 128 % 2 = 1 then tput t i { out := [], err := true, code := BitVec.ofNat 8 (d / 256) } else t) [],
             serial := field q 328 8, asyncs := [], copyReady := [], wait := none,
             recs := (seqHandles q).zipIdx.foldl (fun t h => tput t h.1 (recOf (slice q (1536 + 64 * h.2) 64))) [],
             ferr := (List.range 16).filter fun i => nib i / 8 == 1, aerr := (List.range 16).filter fun i => nib i / 4 % 2 == 1,
             tqs := (List.range 16).foldl (fun t i =>
               let o := 2112 + 272 * i
               tset [] t i (wordsOf b (o + 16) (min 64 (field b o 4)))) [],
             launchTag := BitVec.ofNat 64 (field l 32 8) }
  s1.updRing r fun x =>
    { x with billets := (List.range 16).foldl (fun t i =>
        if nib i % 2 = 1 then tput t i { record := slice b (64 + 128 * i) 128, x := s1.issueCtx r lvl } else t) [] }

/-- The region state and the window handles of an image (R392). -/
def State.loadShared (s : State) (v : Nat) (l : List Byte) : State :=
  let c := imgSection l 5
  let w := imgSection l 6
  let s1 := s.updVf v fun f =>
    { f with regions := (List.range 64).foldl (fun t i =>
        let fl := field c (80 * i + 68) 4
        if fl % 2 = 1 then
          tput t i { regionOf (slice c (80 * i) 64) with s := field c (80 * i + 64) 4, force := fl / 2 % 2 == 1, bound := fl / 4 % 2 == 1 }
        else t) [] }
  (List.range 64).foldl (init := s1) fun st n =>
    let opened := field w (16 * n) 8 == (st.winHandle n).toNat && field w (16 * n + 8) 8 % 2 == 1
    st.updWindow n fun x =>
      { x with opened := if opened && x.members.getLsbD v then x.opened ||| (1#128 <<< v) else x.opened &&& ~~~(1#128 <<< v) }

/-- The decided tiles that an image carries belong to their regions until their phase resumes or restarts (R179, R392). -/
def State.loadTiles (s : State) (v : Nat) (l : List Byte) : State :=
  let c := imgSection l 5
  (List.range 2).foldl (init := s) fun st i =>
    let o := 5120 + 16 * i
    if field c (o + 1) 1 % 2 = 1 then
      st.updRegion v (field c o 1) fun r => { r with carried := r.carried ++ [(field c (o + 4) 4, field c (o + 2) 1 % 2 == 1)] }
    else st

/-- Bytes of on-chip memory are set from outside the machine's own writes: nothing older is left to observe there. -/
def State.fillBytes (s : State) (k : Nat) (bs : List Byte) : State :=
  { s.putBytes k bs with past := s.past.filter fun e => !(decide (k ≤ e.key) && decide (e.key < k + bs.length)) }

/-- The bytes of the on-chip memories that an image holds (R389). -/
def State.loadBanks (s : State) (r : Nat) (l : List Byte) : State :=
  (s.fillBytes (poolKey r 0) (imgSection l 8)).fillBytes (campKey r 0) (imgSection l 9)

/-- The buffered words kept beside an image (log 21). -/
def State.stashOf (s : State) (l : List Byte) : Option Stash :=
  s.stash.find? fun q => q.ring == field l 20 1 && q.time == BitVec.ofNat 64 (field l 24 8)

/-- A saved operation issues again (R385, R387). `grp` is the ring group of a pload that restarts from its descriptor. -/
def State.reissue (s : State) (r : Nat) (e : List Byte) (serial : Nat) (grp : Option (Nat × Nat)) : State :=
  let word := BitVec.ofNat 32 (field e 0 4)
  let xa := BitVec.ofNat 64 (field e 8 8)
  let put (op : AsyncOp) (sf : BitVec 4) (m : BitVec 8) (rd : BitVec 5) : State :=
    let set := setOf sf
    let aw := s.awaits r m.toNat
    let (id, s1) := s.newOp r set
    let a : Async := { id := id, op := op, word := word, set := set, await := aw, rd := rd,
                       x := { s.issueCtx r (s.ring r).level with satp := BitVec.ofNat 64 (field e 16 8) },
                       st := if grp.isSome then .group else .mask, seq := 0, grp := grp, ticket := s.newTicket, reset := [], held := false }
    s1.updRing r fun x => { x with asyncs := x.asyncs ++ [a] }
  match decodeSeq word with
  | .ok (.pload d _ sf m) =>
    (put (.pload xa (BitVec.ofNat 64 (field e 4 4)) serial) sf m d).updRec r serial fun _ =>
      { PhaseRec.reset with state := if grp.isSome then 1 else 0 }
  | .ok (.cpy d _ sf m) => put (.cpy xa) sf m d
  | .ok (.cpyB d _ sf m) => put (.cpyB xa) sf m d
  | .ok (.crnStep _ sf m) => put (.crnStep xa) sf m 0
  | _ => s

/-- A pending entry of an image is a pload's. -/
def isPload (e : List Byte) : Bool := field e 3 1 / 4 == 0x28

/-- The pending operations of a ring issue again in their saved order; the ploads take the handles not yet resident, in order (R387). `restart` tells
which of them restart on a ring group. -/
def State.reissueAll (s : State) (r : Nat) (q : List Byte) (restart : Nat → Option (Nat × Nat)) : State :=
  let waiting := (seqHandles q).zipIdx.filterMap fun h => if field q (1536 + 64 * h.2) 1 % 8 ≤ 2 then some h.1 else none
  let es := (List.range 32).filterMap fun i =>
    let e := slice q (576 + 24 * i) 24
    if field e 0 4 = 0 then none else some e
  (es.foldl (fun (acc : State × List Nat) e =>
    if isPload e then (acc.1.reissue r e (acc.2.headD 0) (restart (acc.2.headD 0)), acc.2.drop 1)
    else (acc.1.reissue r e 0 none, acc.2)) (s, waiting)).1

/-- A port as an image saves it (R391) over what the ring's units kept of it (log 21). An input port that an AG feeds holds nothing: its AG fetches again
from word `at_` of its stream (R392). -/
def Port.resumed (p : Port) (kept : Option Port) (l : List Byte) (isIn : Bool) (at_ : Option Nat) : Port :=
  let words := field l 4 4
  let eos := field l 14 2 % 2 == 1
  let p1 := match at_, kept with
    | none, some k => { k with decl := p.decl, kind := p.kind, region := p.region, eos := k.eos || eos }
    | n, _ =>
      { p with arrived := if isIn then n.getD words else 0, delivered := if isIn then words else 0, written := if isIn then 0 else words,
               credTiles := field l 0 4 - words / (if p.decl.t = 0 then 1 else p.decl.t), eos := eos }
  { p1 with disc := field l 8 4, head := BitVec.ofNat 16 (field l 12 2), marks := [] }

/-- The word of its stream that a loader's port stands at, from its saved element and the words its port has had (R391, R392). -/
def streamWord (esz elems had : Nat) : Nat :=
  let n := elems * esz / 4
  if esz = 8 ∧ had = n + 1 then n + 1 else n

/-- An AG at its saved position, with nothing fetched (R392): in indirect mode at the index whose walk it was in, and a zero-compressed loader at the start of
its group. A storer keeps what it had been given beyond its last whole element (log 21). -/
def Ag.resumed (a : Ag) (kept : Option Ag) (l : List Byte) : Ag :=
  let n := field l 88 8
  let a1 := { a with ended := field l 96 4 / 2 % 2 == 1 }
  match a.desc with
  | none => a1
  | some d =>
    let held := (kept.map (·.skips)).getD []
    if d.mode = 2 then
      let q := n / d.walk
      { a1 with idxTaken := q, issued := if q = 0 then 0 else d.walk, delivered := if d.store then n else q * d.walk,
                part := if d.store then (kept.map (·.part)).getD [] else [],
                skips := if d.store then (if n % d.walk = 0 then [] else [(q * d.walk, n % d.walk)]) ++ held else [] }
    else if d.store then { a1 with issued := n, delivered := n, part := (kept.map (·.part)).getD [], skips := held }
    else
      let m := if d.zc then n / 128 * 128 else n
      { a1 with issued := m, delivered := m }

/-- The Cairn work of a resumed phase: its loader fetches from word `at_` on, and the tiles that have begun to be admitted, like those that its image
carries, are not decided again (R179). -/
def Cairn.resumed (c : Cairn) (at_ t ipt counted : Nat) (ended : Bool) : Cairn :=
  let n := if t = 0 then 0 else at_ / t
  let begun := (List.range (ceilDiv counted (if ipt = 0 then 1 else ipt) - n)).map fun i => (n + i, false)
  { c with stagedTiles := n, decidedTiles := n, staged := List.replicate (if t = 0 then 0 else at_ % t) 0, mapBits := List.replicate n false,
           carried := c.carried ++ begun, ended := ended }

/-- The words that a plain FIFO of a phase held, as the fifo carve's bytes show them (R104, R389): where nothing else kept them. -/
def State.refill (s : State) (g : Group) : Tab Port :=
  tmap (fun k p => match p.kind with
    | .pool off size =>
      let outs := g.ports.filter fun e => decide (2 ≤ e.1 % 4) && (match e.2.kind with
        | .pool o _ => o == off
        | .ag _ _ => false
        | .camp _ _ _ => false
        | .chain _ _ => false
        | .token _ => false)
      if 2 ≤ k % 4 ∨ p.decl.tagged ∨ outs.any (fun e => g.feedKind e.1 e.2 ≠ .words) then p
      else
        let n := (outs.map (·.2.written)).sum
        let base := poolKey (s.ringOfV g (k / 4)) (fifoBase g.carve + off)
        { p with arrived := n,
                 q := (List.range (n - p.delivered)).map fun j =>
                   BitVec.ofNat 32 (s.num (base + 4 * (p.delivered + j) % (if size = 0 then 4 else size)) 4) }
    | .ag _ _ => p
    | .camp _ _ _ => p
    | .chain _ _ => p
    | .token _ => p) g.ports

/-- The records of stateful stripes at the end of a FAB section. -/
def fabRecs (f : List Byte) (m : PhaseImg) : Nat → Nat → List (Nat × List Byte)
  | 0, _ => []
  | n + 1, o =>
    let v := field f o 2
    let len := match m.stripes[v]? with
      | some im => 64 * im.z
      | none => 0
    (v, slice f (o + 8) len) :: fabRecs f m n (o + 8 + len)

/-- The markers and updates that an image holds return to a group (R391). -/
def Group.withUpdates (g : Group) (f : List Byte) : Group :=
  let npd := field f 56 2
  let nover := field f 58 2
  let nupd := field f 60 1
  let nmark := field f 61 1
  let oOver := 64 + 16 * npd
  let oUpd := oOver + 8 * nover
  let oMark := oUpd + 8 * nupd
  let marks := (List.range nmark).map fun i => (i, field f (oMark + 8 * i) 2, field f (oMark + 8 * i + 2) 4, field f (oMark + 8 * i + 6) 2)
  let keys := g.img.portKeys
  { g with overlay := (List.range nover).foldl (fun t i => tput t (field f (oOver + 8 * i) 4) (BitVec.ofNat 32 (field f (oOver + 8 * i + 4) 4))) [],
           upds := (List.range nupd).map fun i =>
             { issuer := g.issuer, target := BitVec.ofNat 32 (field f (oUpd + 8 * i) 4), val := BitVec.ofNat 32 (field f (oUpd + 8 * i + 4) 4),
               mark := (marks.find? fun m => m.2.2.2 / 2 ^ i % 2 == 1).map (·.1) },
           nextMark := nmark,
           ports := marks.foldl (fun t m =>
             match keys[m.2.1]? with
             | some k => (match tfind t k with
               | some p => tput t k { p with marks := p.marks ++ [(m.1, m.2.2.1)] }
               | none => t)
             | none => t) g.ports }

/-- The slot that a restored phase counts into, where nothing kept says: the lowest that its image counts more operations in than it lists
(log 22). -/
def slotLeft (s : State) (r : Nat) (q : List Byte) : Option Nat :=
  (List.range 8).find? fun i =>
    let pending := ((List.range 32).filter fun k =>
      let w := field q (576 + 24 * k) 4
      w ≠ 0 && bitsOf w 15 12 == i).length
    decide (pending + (s.dep r i).out.length < field q (264 + 8 * i) 1 % 128)

/-- A resumed phase that fails its checks retires in error (R387). -/
def State.resumeFail (s : State) (r : Nat) (a : Async) (serial : Nat) (e : LoadErr) : State :=
  match e with
  | .eng (.acc (.xlat f)) => s.xlatPload r a serial f.addr
  | e => s.ploadFail r a serial e

/-- The phase descriptor of a resumed phase: read afresh where its pload's address is known, and else as FAB saves it (R387; log 21). -/
def State.descAgain (s : State) (x : XCtx) (kept : Option Group) (f : List Byte) : Except LoadErr (List Byte) :=
  match kept.map fun g => g.pload.op with
  | some (AsyncOp.pload desc _ _) => s.readPdesc x desc
  | _ => .ok (slice f 16 32)

/-- The context in which a phase resumes: the copy of SATP taken at issue (log 22), and every write so far. -/
def State.resumeCtx (s : State) (r : Nat) (kept : Option Group) : XCtx :=
  let x := { s.issueCtx r (s.ring r).level with front := s.frontNow }
  match kept with
  | some g => { x with satp := g.x.satp, lvl := g.x.lvl }
  | none => x

/-- The saved record of AG i of ring n, from the images of the strip whose lowest ring is b. -/
def agSaved (b : Nat) (imgs : List (List Byte)) (n i : Nat) : List Byte := slice (imgSection (imgs.getD (n - b) []) 3) (128 * i) 128

/-- The AGs of a resumed phase's binding, by the descriptors that the images hold (R387, R392). -/
def savedAgs (b first : Nat) (counts : List Nat) (imgs : List (List Byte)) (e : BindEnt) : Option (Option AgPair) :=
  if e.kind ≠ 1 then some none
  else
    let n := first + ringIdx counts e.v
    let i := agIdx e.south e.agNum
    let d := agDescOf (slice (agSaved b imgs n i) 0 64)
    some (some { main := d, index := if d.mode = 2 then some (agDescOf (slice (agSaved b imgs n (pairOf i)) 0 64)) else none })

/-- A group at its saved sweep boundary: its ports, Cairn work, counts, updates and records from FAB and the AG records (R179, R387, R391). -/
def State.resumeGroup (s : State) (b : Nat) (imgs : List (List Byte)) (f : List Byte) (kept : Option Group) (g0 : Group) : Group :=
  let items := field f 52 4
  -- every sweep that has ended held N admitted items (R36), and the others were credited (R176)
  let adm := min items (field f 48 4 * g0.img.n)
  let agRec (key : Nat) : Option (List Byte × Nat) :=
    match (tfind g0.ports key).map Port.kind with
    | some (PortKind.ag south n) =>
      let l := agSaved b imgs (s.ringOfV g0 (key / 4)) (agIdx south n)
      some (l, (agDescOf (slice l 0 64)).esz)
    | _ => none
  let rec_ (i : Nat) : List Byte := slice f (64 + 16 * i) 16
  let at_ (key : Nat) (l : List Byte) : Option Nat :=
    if 2 ≤ key % 4 then none else (agRec key).map fun x => streamWord x.2 (field x.1 88 8) (field l 4 4 + field l 8 4)
  let ports := g0.img.portKeys.zipIdx.foldl (fun t e =>
    match tfind t e.1 with
    | some p => tput t e.1 (p.resumed (kept.bind fun g => tfind g.ports e.1) (rec_ e.2) (e.1 % 4 < 2) (at_ e.1 (rec_ e.2)))
    | none => t) g0.ports
  let g1 := ({ g0 with ports := ports, sweep := field f 48 4, admitted := adm, credited := items - adm, exited := adm,
                       draining := false } : Group).withUpdates f
  let cairns := g1.cairns.map fun c =>
    match tfind g1.ports c.inPort with
    | some p => c.resumed p.arrived p.decl.t (s.cairnIpt g1 c) items (((agRec c.inPort).map fun x => field x.1 96 4 / 2 % 2 == 1).getD false)
    | none => c
  let g2 := { g1 with cairns := cairns, ports := if kept.isSome then g1.ports else s.refill g1 }
  if g2.scrolls (s.plen g2) then g2
  else
    { g2 with kept := (fabRecs f g2.img (field f 62 2) (64 + 16 * field f 56 2 + 8 * field f 58 2 + 8 * field f 60 1 + 8 * field f 61 1)).foldl
                (fun t q => tput t q.1 q.2) [] }

/-- The phase of a FAB section that was at a sweep boundary resumes there: its slots load again from IDLE (R50, R387). `imgs` are the images of the strip's
rings. -/
def State.resumePhase (s : State) (b : Nat) (imgs : List (List Byte)) (l : List Byte) : State :=
  let f := imgSection l 2
  if field f 0 4 % 16 ≠ 3 then s
  else
    let r := b + field f 8 1
    let k := field f 9 1
    let first := b + field f 10 1
    let serial := field f 4 4
    let kept := (s.stashOf l).bind (·.group)
    let set := match kept with
      | some g => g.set
      | none => slotLeft s r (imgSection (imgs.getD (r - b) []) 1)
    let (id, s1) := s.newOp r set
    let x := s1.resumeCtx r kept
    let a : Async := { id := id, op := match kept with
                                       | some g => g.pload.op
                                       | none => .pload 0 0 serial,
                       word := (kept.map (·.pload.word)).getD 0, set := set, await := [], rd := 0, x := x, st := .group, seq := 0,
                       grp := none, ticket := 0, reset := [], held := false }
    let counts := (runOf first k).map fun n => (s.ring n).ringp
    match s1.descAgain x kept f with
    | .error e => s1.resumeFail r a serial e
    | .ok desc =>
      match s1.loadPhase x none desc first counts (savedAgs b first counts imgs) true with
      | .error e => s1.resumeFail r a serial e
      | .ok ld =>
        let g := s1.resumeGroup b imgs f kept (Group.start first k r serial a ld (s1.bindCairns (s.vfNum r) ld))
        let s2 := s1.acceptPhase g ld
        (s2.agsOf first g).foldl (init := s2) fun st n =>
          st.setAg n.1 n.2 ((st.ag n.1 n.2).resumed ((s.stashOf (imgs.getD (n.1 - b) [])).bind fun h => tfind h.ags n.2) (agSaved b imgs n.1 n.2))

/-- The reserved bytes of FAB's stripe records are 0, as far as the phase image can be read to find them (R391, R393). -/
def State.fabOk (s : State) (b : Nat) (imgs : List (List Byte)) (l : List Byte) : Bool :=
  let f := imgSection l 2
  let r := b + field f 8 1
  let q := imgSection (imgs.getD (r - b) []) 1
  if field f 0 4 % 16 ≠ 3 ∨ field f 62 2 = 0 then true
  else
    match s.plImage { s.resumeCtx r none with satp := BitVec.ofNat 64 (field q 496 8) } (BitVec.ofNat 64 (field f 16 8)) with
    | .error _ => true
    | .ok i => recsOk (imageOf i) f (field f 62 2) (64 + 16 * field f 56 2 + 8 * field f 58 2 + 8 * field f 60 1 + 8 * field f 61 1)
where
  /-- The reserved bytes of `n` records from an offset on. -/
  recsOk (m : PhaseImg) (f : List Byte) : Nat → Nat → Bool
    | 0, _ => true
    | n + 1, o =>
      zeroBytes f (o + 2) 6 && recsOk m f n (o + 8 + (match m.stripes[field f o 2]? with
        | some im => 64 * im.z
        | none => 0))

/-- What a strip reads of memory for a restore: every write so far. -/
def State.imgReader (s : State) (r : Nat) : Reader := { me := .engines r, front := s.frontNow }

/-- The bytes of a span of an image. -/
def State.imgBytes (s : State) (r : Nat) (ps : List (Nat × MemAttr)) : Except MemErr (List Byte) := (s.readAt (s.imgReader r) ps).map fun l => l.map (·.1)

/-- The root section of a migration image unwraps under the migration key (R393, R418). -/
def State.rootOk (s : State) (l : List Byte) : Bool :=
  field l 6 1 ≠ 1 || (match s.migKey with
    | some k =>
      let q := imgSection l 7
      zeroBytes q 12 4 && gcmTag (keyBytes k) (slice q 0 12) (slice l 0 64) (slice q 16 64) == slice q 80 16
    | none => false)

/-- Reads the images of a strip's rings from an area, each checked under R393 for the strip (R387). -/
def State.readImages (s : State) (v o slen : Nat) : List Nat → Except (Option MemErr) (List (List Byte))
  | [] => .ok []
  | r :: t =>
    match s.imgBytes r (s.imgPlaces r o v 64) with
    | .error e => .error (some e)
    | .ok h =>
      let n := field h 8 8
      if field h 0 4 ≠ 0x4C474349 ∨ 12 * 2 ^ 20 < n then .error none
      else
        match s.imgBytes r (s.imgPlaces r o v n) with
        | .error e => .error (some e)
        | .ok l =>
          if imgOk l [0, 1, 3] && field l 18 1 == v && field l 22 1 == slen && s.rootOk l then
            match s.readImages v o slen t with
            | .error e => .error e
            | .ok ls => .ok (l :: ls)
          else .error none

/-- The VF key and the root counters of a migration image are installed; what lies under a counter of 0 is fresh, whatever the channel held (R407, R410, R418). -/
def State.loadRoot (s : State) (r v : Nat) (l : List Byte) : State :=
  match field l 6 1, s.migKey with
  | 1, some k =>
    let q := imgSection l 7
    let p := gcmText (keyBytes k) (slice q 0 12) (slice q 16 64)
    let put (st : State) (i : Nat) (south : Bool) (j : Nat) : State :=
      let root : W64 := BitVec.ofNat 64 (field p (32 + 8 * i) 8)
      let st1 := if root = 0 then st.freshHalf (ringChan r south) j else st
      { st1 with roots := tput st1.roots (2 * ringChan r south + j) root }
    put (put (put (put { s with vfKeys := tput s.vfKeys v (BitVec.ofNat 256 (field p 0 32)) } 0 false 0) 1 false 1) 2 true 0) 3 true 1
  | _, _ => s

/-- The links and ring buffers of a restored strip, under its new ring numbers. -/
def moveChan (delta : Int) (k : Nat) : Nat :=
  let n := k / 2 / 256
  let m := k / 2 % 256
  if k % 2 = 1 then 2 * (256 * (2 * ((n / 2 : Nat) + delta).toNat + n % 2) + m) + 1 else 2 * (256 * ((n : Nat) + delta).toNat + m)

/-- The ring group on which a pload of ring r that a capture discarded restarts, by its handle (R50, R391). -/
def restartOf (b r : Nat) (imgs : List (List Byte)) (serial : Nat) : Option (Nat × Nat) :=
  imgs.findSome? fun l =>
    let f := imgSection l 2
    if field f 0 4 % 16 = 7 ∧ b + field f 8 1 = r ∧ field f 4 4 = serial then some (b + field f 10 1, field f 9 1) else none

/-- The regions of a VF that a resident phase uses are bound, and no others (R172, R391). -/
def State.boundRegions (s : State) (v : Nat) : State :=
  let used (n : Nat) : Bool := s.groups.any fun g => s.vfNum g.2.x.ring == v && g.2.cairns.any fun c => c.region == n
  s.updVf v fun f => { f with regions := tmap (fun n r => { r with bound := used n }) f.regions }

/-- The launches of a restored VF stand on its present rings. -/
def Launched.moved (l : Launched) (delta : Int) : Launched :=
  let mv (n : Nat) : Nat := ((n : Int) + delta).toNat
  { l with rings := l.rings.map mv, left := l.left.map mv, codes := l.codes.map fun c => (mv c.1, c.2) }

/-- The sections of every ring's image are loaded, and the phases and pending operations resume (R387). -/
def State.loadStrip (s : State) (b v : Nat) (imgs : List (List Byte)) : State :=
  let rings := (List.range imgs.length).zip imgs
  let s1 := rings.foldl (init := s) fun st x => (((st.loadRoot (b + x.1) v x.2).loadBanks (b + x.1) x.2).loadShared v x.2).loadSeq (b + x.1) x.2
  let s1 := imgs.foldl (fun st l => st.loadTiles v l) s1
  let delta : Int := match imgs with
    | l :: _ => (b : Int) - field l 20 1
    | [] => 0
  let s2 := imgs.foldl (init := s1) fun st l =>
    match st.stashOf l with
    | some h => { st with chans := h.chans.foldl (fun t c => tput t (moveChan delta c.1) c.2) st.chans }
    | none => st
  let s3 := (imgs.foldl (init := s2) fun st l => st.resumePhase b imgs l).boundRegions v
  let s4 := rings.foldl (init := s3) fun st x => st.reissueAll (b + x.1) (imgSection x.2 1) (restartOf b (b + x.1) imgs)
  let s5 := s4.updVf v fun f => { f with launches := f.launches.map fun l => l.moved delta }
  rings.foldl (init := s5) fun st x =>
    let q := imgSection x.2 1
    if field q 9 1 = 3 then st.park (b + x.1) (BitVec.ofNat 64 (field q 0 8)) (field q 536 1) (BitVec.ofNat 64 (field q 544 8)) else st

/-- A restore of a strip from an area: every image is checked before anything changes (R387). -/
def State.restore (s : State) (b : Nat) (area : W64) : State :=
  let o := areaOffset area
  let v := s.vfNum b
  let rings := s.stripRings b
  let fit := o + 6 * 2 ^ 20 ≤ treeBase ∧ (s.ring b).vf.isSome ∧
    rings.all (fun r => (s.ring r).idle && (s.ring r).group.isNone && s.offered r) = true
  let failed := s.updStrip b fun t => { t with st := 5 }
  if ¬ fit then failed
  else
    match s.readImages v o (s.ring b).slen rings with
    | .error none => failed
    | .error (some e) => failed.memFail b 0 e
    | .ok imgs =>
      if imgs.all (s.fabOk b imgs) then
        (s.loadStrip b v imgs).updStrip b fun t => { t with st := 4, size := (imgs.map (·.length)).sum % 2 ^ 32 }
      else failed

/-- The running ring is in a strip whose lowest ring H's window names (R386). -/
def State.stripSel (s : State) (r : Nat) : Bool := (s.ring r).vf.isSome && (s.ring r).sbase == r

/-- The ring that a core's RSEL names (R328). -/
def State.rsel (s : State) : Nat :=
  match s.cur with
  | .core d => fld (s.dcsr d 0x2000) 6 0
  | .ring r => r

/-- RCTL_PREQ: a write of RCTL.preq to a ring requests the pre-emption of its strip (R383). -/
def execRctlPreq (s : State) : Out := .next (if (s.ring s.rsel).vf.isSome then s.preempt (s.ring s.rsel).sbase none else s)

/-- RIMGCTL_REST (R387). -/
def execRimgctlRest (s : State) : Out :=
  let r := s.rsel
  if s.stripSel r ∧ !(s.strip r).capture then .next (s.restore r (s.rcsr r 0x2120)) else .next s

/-- RIMGCTL_DUMP: fault dumps of a strip whose rings are all halted or parked (R386). -/
def execRimgctlDump (s : State) : Out :=
  let r := s.rsel
  if !s.stripSel r ∨ (s.strip r).capture then .next s
  else
    let o := areaOffset (s.rcsr r 0x2120)
    let ok := (s.stripRings r).all (fun n => (s.ring n).halted || (s.ring n).run == .parked) && decide (o + 6 * 2 ^ 20 ≤ treeBase)
    match (if ok then s.imagesOf r 2 [] else none) with
    | none => .next (s.updStrip r fun t => { t with st := 5 })
    | some imgs =>
      match s.writeImages (s.vfNum r) o imgs with
      | .error e => .next ((s.updStrip r fun t => { t with st := 5 }).memFail r 0 e)
      | .ok s1 =>
        .next ((s1.updStrip r fun t => { t with st := 2, size := (imgs.map fun i => i.2.length).sum % 2 ^ 32 }).post (dieOf r) 3 0 0 r)

/-- The S CSRs of R322 at their reset values, and the U CSRs of a ring that holds no launch. -/
def Ring.freshCsrs (x : Ring) : Ring :=
  { x with csr := x.csr.filter fun e => decide (0x2000 ≤ e.1), seq := Seq.reset, level := .u, run := .idle, carvew := 0, deps := [],
           serial := 0, recs := [], asyncs := [], wait := none, billets := [], ferr := [], aerr := [], tqs := [], launchTag := 0 }

/-- Zeroes every byte of a ring's pool and Basecamp banks, whose words are all written afresh; an error met in doing so is no VF's (R340, R355, R428). -/
def State.wipe (s : State) (r : Nat) (pool camp : Bool) : State :=
  let inside (k : Nat) : Bool :=
    (pool && decide (poolKey r 0 ≤ k) && decide (k < poolKey r (48 * 131072))) || (camp && decide (campKey r 0 ≤ k) && decide (k < campKey r (4 * 2 ^ 20)))
  let s1 := if s.bad.any fun l => inside (4 * l) then s.post (dieOf r) 6 0 0 r else s
  { s1 with mem := s.mem.filter (fun c => !inside c.1), past := s.past.filter (fun e => !inside e.key), bad := s.bad.filter fun l => !inside (4 * l) }

/-- The registers of the window that a tenant has its own copy of: S2ROOT, HDELEG and SWEEPMAX (R355). -/
def tenantRegs : List Nat := [0x2103, 0x2104, 0x2105]

/-- One ring of a strip passes from one tenant to another (R355). -/
def State.switchRing (s : State) (r old new vf : Nat) : State :=
  let s1 := s.updRing r fun x =>
    let mine := tenantRegs.foldl (fun t n => tput t n (tget 0 x.csr n)) []
    let theirs := tget [] x.tenantCsr new
    let y := x.freshCsrs
    { y with vf := some vf, rvf := vf, tenantCsr := tput x.tenantCsr old mine, csr := tenantRegs.foldl (fun t n => tput t n (tget 0 theirs n)) y.csr }
  s1.wipe r true true

/-- SIP bits that were held for a tenant are set when it is switched in, and it takes the note that H has left for it (R355). -/
def State.giveHeld (s : State) (r vf : Nat) : State :=
  let x := s.ring r
  let s1 := match tfind x.tenantNote vf with
    | some n => s.setRcsr r 0x100D n
    | none => s
  (s1.setRcsr r 0x100A (s1.rcsr r 0x100A ||| tget 0 x.tenantPend vf)).updRing r fun y =>
    { y with tenantPend := tdel y.tenantPend vf, tenantNote := tdel y.tenantNote vf }

/-- A captured strip passes to tenant t: its registers, its images or a first start, and its held interrupts (R354, R355). -/
def State.switchTo (s : State) (b t : Nat) : State :=
  let e := s.rcsr b (0x2111 + t)
  let vf := fld e 6 0
  let old := (s.strip b).cur
  let rings := s.stripRings b
  let s1 := rings.foldl (init := s) fun st r => st.switchRing r old t vf
  let had := (s.strip b).imaged.contains t
  let s2 := s1.updStrip b fun x => { x with cur := t, imaged := old :: x.imaged.filter fun n => n ≠ old && n ≠ t }
  let s3 := if had then s2.restore b (s2.saveArea b t) else s2
  rings.foldl (init := s3) fun st r => st.giveHeld r vf

/-- PREEMPTION_CAPTURE: once a strip's groups stand at their points and its RSQs and copy units have stopped, its images are written, and
the scheduler's next tenant takes the strip (R354, R384). -/
def execPreemptionCapture (r : Nat) (s : State) : Out :=
  let b := (s.ring r).sbase
  let t := s.strip b
  if !t.capture ∨ !s.captureReady b then .next s
  else
    match t.next with
    | none => .next (s.capture b (s.rcsr b 0x2120) (if bit (s.rcsr b 0x2121) 3 then 1 else 0))
    | some n =>
      let s1 := s.capture b (s.saveArea b t.cur) 0
      if (s1.strip b).st = 2 then .next (s1.switchTo b n) else .next s1

/-- The limit of a group's sweep counter (R357). -/
def State.sweepLimit (s : State) (g : Group) : Option Nat :=
  let l := (runOf g.first g.k).filterMap fun r =>
    let m := fld (s.rcsr r 0x2105) 31 0
    if m ≠ 0 then some m else if (s.ring r).shared then some (2 ^ 32 - 1) else none
  l.foldl (fun (acc : Option Nat) m => match acc with
    | none => some m
    | some n => some (min n m)) none

/-- SWEEPMAX_OVERRUN: the issuing RSQ parks with the handle, and the strip's next sweep boundaries become pre-emption points (R357). An RSQ
that is already parked is not parked again, and a halted one parks after its dret (R394). -/
def execSweepmaxOverrun (g : Nat) (s : State) : Out :=
  match s.group? g with
  | none => .next s
  | some x =>
    match s.sweepLimit x with
    | none => .next s
    | some m =>
      let i := s.ring x.issuer
      if x.overrun ∨ x.draining ∨ x.sweepCtr < m then .next s
      else .next (((s.setGroup g { x with overrun := true }).overran x.issuer x.serial).preempt i.sbase none)

/-- A tenant of a strip has work: a record in its queue, enabled or not, or a graph that has not ended (R353). -/
def State.hasWork (s : State) (b t : Nat) : Bool :=
  let v := fld (s.rcsr b (0x2111 + t)) 6 0
  !(s.vfOf v).launches.isEmpty || (match lqSize (s.vcsr v 0x1011) with
    | some sz => s.lqCount v sz ≠ 0
    | none => false)

/-- The tenants that may hold the strip next: valid, with a weight and with work (R354). -/
def State.runnable (s : State) (b t : Nat) : Bool :=
  let e := s.rcsr b (0x2111 + t)
  bit e 7 && fld e 15 8 ≠ 0 && s.hasWork b t

/-- The deficit of a tenant. -/
def Strip.deficit (x : Strip) (t : Nat) : Int := x.deficits.getD t 0

def Strip.setDeficit (x : Strip) (t : Nat) (d : Int) : Strip :=
  { x with deficits := (List.range 8).map fun i => if i = t then d else x.deficit i }

/-- TENANT_SWITCH: a turn of the scheduler of a time-shared strip ends once its tenant has no work or no deficit left, and the next one
begins (R354). -/
def execTenantSwitch (r : Nat) (s : State) : Out :=
  let b := (s.ring r).sbase
  let x := s.strip b
  if !(s.ring b).shared ∨ (s.ring b).vf.isNone ∨ x.capture then .next s
  else if s.hasWork b x.cur ∧ 0 < x.deficit x.cur then .next s
  else
    match ((List.range 8).map fun i => (x.cur + 1 + i) % 8).find? (s.runnable b) with
    | none => .next s
    | some t =>
      let q : Int := ((fld (s.rcsr b (0x2111 + t)) 15 8 * fld (s.rcsr b 0x2110) 31 0 * (s.ring b).slen : Nat) : Int)
      let s1 := s.updStrip b fun y => y.setDeficit t (min (y.deficit t + q) q)
      if t = x.cur then .next s1 else .next (s1.preempt b (some t))

/-- A form that S may execute: illegal on a core, privileged at U (R319, R330). -/
def atS (i : Instr) (f : Nat → State → Out) (s : State) : Out :=
  match s.cur with
  | .core _ => .next (s.trap 0x10 (wordOf i))
  | .ring r => if (s.ring r).level = .u then .next (s.trap 0x11 (wordOf i)) else f r s

/-- What isave and irest wait for (R336). -/
def State.atRest (s : State) (r : Nat) : Bool :=
  let x := s.ring r
  s.graphOver r && x.copies.isEmpty && x.copyReady.isEmpty

/-- A span for the running ring, with an alignment, in the order of R252. -/
def State.spanFor (s : State) (r : Nat) (a : Acc) (va : W64) (n al : Nat) : Except AccErr (List (Nat × MemAttr)) :=
  match s.spanPlaces (s.ctxOf r (s.ring r).level) a va n with
  | .error e => if va.toNat % al ≠ 0 ∧ 3 < e.order then .error (.align va) else .error e
  | .ok ps => if va.toNat % al ≠ 0 then .error (.align va) else .ok ps

/-- What the RSQ of a ring reads of an image in its own address space (R337). -/
def State.ownBytes (s : State) (r : Nat) (ps : List (Nat × MemAttr)) : Except MemErr (List Byte) :=
  (s.readAt (s.ctxOf r (s.ring r).level).reader ps).map fun l => l.map (·.1)

/-- A status word of an op 0x38 form (R330). -/
def statusWord (code n : Nat) : W64 := BitVec.ofNat 64 (code + n * 2 ^ 32)

/-- isave (R336). -/
def execIsave (d a b : BitVec 5) (s : State) : Out :=
  atS (.isave d a b) (fun r t =>
    if t.pendAny [d, a, b] then .next t
    else
      match t.spanFor r .store (t.x a) (t.x b).toNat 64 with
      | .error e => .next (t.accTrap e)
      | .ok ps =>
        if !t.atRest r then .next t
        else
          let size := (t.imageBytes (t.ring r).sbase r 3 (t.seqSection r (t.pc + 4) none 2) []).length
          if (t.x b).toNat < size then .next (t.setX d (statusWord 6 size)).done
          else
            let seq := t.seqSection r (t.pc + 4) (if d = 0 then none else some (d.toNat, statusWord 0x80 size)) 2
            match t.writeAt (.ring r) false [] (ps.take size) (t.imageBytes (t.ring r).sbase r 3 seq []) with
            | .error (.integrity pa) => .next (t.memFail r 0 (.integrity pa))
            | .error (.machine pa) => .next ((t.memFail r 0 (.machine pa)).setX d (statusWord 0 size)).done
            | .error .gated => .next t
            | .ok t1 => .next (t1.setX d (statusWord 0 size)).done) s

/-- irest (R337). -/
def execIrest (d a : BitVec 5) (s : State) : Out :=
  atS (.irest d a) (fun r t =>
    if t.pendAny [d, a] then .next t
    else
      let bad (u : State) : Out := .next (u.setX d (statusWord 7 0)).done
      let fail (e : MemErr) : Out := match e with
        | .integrity pa => .next (t.memFail r 0 (.integrity pa))
        | .machine pa => bad (t.memFail r 0 (.machine pa))
        | .gated => .next t
      match t.spanFor r .load (t.x a) 64 64 with
      | .error e => .next (t.accTrap e)
      | .ok ps =>
        if !t.atRest r then .next t
        else
          match t.ownBytes r ps with
          | .error e => fail e
          | .ok h =>
            let n := field h 8 8
            if field h 0 4 ≠ 0x4C474349 ∨ field h 6 1 ≠ 3 ∨ 12 * 2 ^ 20 < n then bad t
            else
              match t.spanFor r .load (t.x a) n 64 with
              | .error e => .next (t.accTrap e)
              | .ok qs =>
                match t.ownBytes r qs with
                | .error e => fail e
                | .ok l =>
                  let t := (t.transfers ps).transfers qs
                  if imgOk l [3] && field l 18 1 == t.vfNum r then
                    let tag := (t.ring r).launchTag
                    let v := t.vfNum r
                    let u := (((((t.loadBanks r l).loadShared v l).loadTiles v l).boundRegions v).loadSeq r l).updRing r fun x =>
                      { x with level := .s, run := .run, launchTag := tag }
                    .next (u.reissueAll r (imgSection l 1) fun _ => none)
                  else bad t) s

end Sys2Proof.Machine
end

