-- ==== Sys2Proof/Machine/Sys.lean ====
section
/-! DEFINITION. What H and the world outside do to the device: events and notes, page-request answers, keys, channels and windows, power,
clocks, links and starts (R7, R24, R327 to R329, R374 to R376, R405, R406, R412, R413, R415, R417, R419 to R430, R437). -/

namespace Sys2Proof.Machine

/-- The die whose management core runs. -/
def State.myDie (s : State) : Nat :=
  match s.cur with
  | .core d => d
  | .ring r => dieOf r

/-- SUPERVISOR_TIMER: SIP.tmr follows the compare (R322). -/
def execSupervisorTimer (r : Nat) (s : State) : Out := .next (s.setRcsr r 0x100A (s.sip r))

/-- HYPERVISOR_TIMER: HSTATUS.tmrp follows the compare (R328). -/
def execHypervisorTimer (die : Nat) (s : State) : Out := .next (s.setDcsr die 0x2006 (s.hstatus die))

/-- The lowest ring of a time-shared strip (R353). -/
def State.tsSel (s : State) (r : Nat) : Bool := s.stripSel r && (s.ring r).shared

/-- The switched-out tenant whose copy the window's per-tenant registers act on, if TSHSEL names one (R353, R355). -/
def State.tenantSel (s : State) (r : Nat) : Option Nat :=
  let b := (s.ring r).sbase
  let h := s.rcsr b 0x211A
  if s.tsSel b && (s.ring r).vf.isSome && bit h 3 && fld h 2 0 != (s.strip b).cur then some (fld h 2 0) else none

/-- RNOTE_WRITE: sets the selected ring's HNOTE and SIP.hnote, or those that are held for the switched-out tenant that TSHSEL names (R329, R355). -/
def execRnoteWrite (v : BitVec 64) (s : State) : Out :=
  let r := s.rsel
  match s.tenantSel r with
  | none => .next ((s.setRcsr r 0x100D v).setRcsr r 0x100A (s.rcsr r 0x100A ||| 2))
  | some t =>
    let vf := fld (s.rcsr (s.ring r).sbase (0x2111 + t)) 6 0
    .next (s.updRing r fun x =>
      { x with tenantNote := tput x.tenantNote vf v, tenantPend := tput x.tenantPend vf (tget 0 x.tenantPend vf ||| 2) })

/-- HEVT_READ: the oldest event is read and leaves the queue; an empty queue reads 0 (R328). -/
def execHevtRead (rd : BitVec 5) (s : State) : Out :=
  .next ((s.setX rd ((s.die s.myDie).hevt.headD 0)).updDie s.myDie fun x => { x with hevt := x.hevt.drop 1 })

/-- The oldest NEW entry of a die's page-request queue (R374). -/
def State.oldestNew (s : State) (d : Nat) : Option Nat :=
  (((s.die d).prq.filter fun e => e.2.st == .new).foldl (fun (m : Option (Nat × Nat)) e =>
    match m with
    | none => some (e.1, e.2.stamp)
    | some (k, st) => if e.2.stamp < st then some (e.1, e.2.stamp) else some (k, st)) none).map (·.1)

/-- An entry of a die's queue takes a state. -/
def State.setPrqSt (s : State) (d e : Nat) (st : PrqSt) : State :=
  s.updDie d fun x => { x with prq := match tfind x.prq e with
    | some q => tput x.prq e { q with st := st }
    | none => x.prq }

/-- PRQPOP_READ: the oldest NEW entry is read and becomes TAKEN (R374). -/
def execPrqpopRead (rd : BitVec 5) (s : State) : Out :=
  match s.oldestNew s.myDie with
  | some e => .next ((s.setX rd (BitVec.ofNat 64 (2 ^ 63 + e))).setPrqSt s.myDie e .taken)
  | none => .next (s.setX rd 0)

/-- The entry that HPRQSEL names. -/
def State.hprqSel (s : State) : Nat := fld (s.dcsr s.myDie 0x2031) 9 0

/-- PRQ_RETRY (R374, R376). -/
def execPrqRetry (s : State) : Out := .next (s.answerEntry s.myDie s.hprqSel true)

/-- PRQ_FAIL (R374, R376). -/
def execPrqFail (s : State) : Out := .next (s.answerEntry s.myDie s.hprqSel false)

/-- PRQ_FORWARD: a stage-1 entry becomes FORWARDED; ignored for a stage-2 entry (R374). -/
def execPrqForward (s : State) : Out :=
  match tfind (s.die s.myDie).prq s.hprqSel with
  | some q => if q.stage2 then .next s else .next (s.setPrqSt s.myDie s.hprqSel .forwarded)
  | none => .next s

/-- The entry that a ring's SPRQSEL names, if it is a forwarded one of the ring's own VF (R374). -/
def State.sprqEntry (s : State) (r : Nat) : Option (Nat × PrqReq) :=
  let e := fld (s.vcsr (s.vfNum r) 0x1020) 9 0
  match tfind (s.die (dieOf r)).prq e with
  | some q => if q.st = .forwarded ∧ q.vf = s.vfNum r then some (e, q) else none
  | none => none

/-- A supervisor's answer (R374). -/
def State.sprqAnswer (s : State) (r : Nat) (ok : Bool) : State :=
  match s.sprqEntry r with
  | some (e, _) => s.answerEntry (dieOf r) e ok
  | none => s

/-- SPRQ_RETRY (R374, R376). -/
def execSprqRetry (s : State) : Out :=
  match s.cur with
  | .ring r => .next (s.sprqAnswer r true)
  | .core _ => .next s

/-- SPRQ_FAIL (R374, R376). -/
def execSprqFail (s : State) : Out :=
  match s.cur with
  | .ring r => .next (s.sprqAnswer r false)
  | .core _ => .next s

/-- QPSTAT_CLEAR (R421). -/
def execQpstatClear (s : State) : Out :=
  match s.cur with
  | .ring r => .next (s.qpClear (s.vfNum r))
  | .core _ => .next s

/-- RCTL_RESUME: a parked RSQ continues at RPC, at the level it parked from (R329). -/
def execRctlResume (s : State) : Out :=
  let r := s.rsel
  if (s.ring r).run = .parked then
    .next (s.updRing r fun x => { x with run := .run, seq := { x.seq with pc := s.rcsr r 0x2106 } })
  else .next s

/-- RCTL_RESUME_INJECT: RCAUSE and RTVAL are delivered to S by the S branch of R325, with RPC as the trapping address (R329). -/
def execRctlResumeInject (s : State) : Out :=
  let r := s.rsel
  if (s.ring r).run = .parked then .next (s.sBranch r (s.rcsr r 0x2106) (s.rcsr r 0x2107) (s.rcsr r 0x2108)) else .next s

/-- A device-wide H register (R405, R413, R415). -/
def State.hcsr (s : State) (n : Nat) : W64 := tget 0 s.csr n

def State.setHcsr (s : State) (n : Nat) (v : W64) : State := { s with csr := tput s.csr n v }

/-- The key that KDATA0 to KDATA3 hold (R405). -/
def State.kdata (s : State) : BitVec 256 :=
  BitVec.ofNat 256 (((List.range 4).map fun i => (s.hcsr (0x2043 + i)).toNat * 2 ^ (64 * i)).sum)

/-- KSEL names a window slot above 63 (R405). -/
def State.kselBad (s : State) : Bool := bit (s.hcsr 0x2040) 7 && decide (64 ≤ fld (s.hcsr 0x2040) 6 0)

/-- An operation of the key engine ends: KDATA is cleared, and err says whether the op named a window slot above 63 (R405). -/
def State.keyDone (s : State) (err : Bool) : State :=
  { s with csr := (tdel (tdel (tdel (tdel s.csr 0x2043) 0x2044) 0x2045) 0x2046) }.setHcsr 0x2042 (if err then 4 else 0)

/-- An operation on the selected slot. -/
def State.keyOp (s : State) (f : Tab (BitVec 256) → Nat → Tab (BitVec 256)) : State :=
  if s.kselBad then s.keyDone true
  else
    let i := fld (s.hcsr 0x2040) 6 0
    let s1 := if bit (s.hcsr 0x2040) 7 then { s with winKeys := f s.winKeys i } else { s with vfKeys := f s.vfKeys i }
    s1.keyDone false

/-- KCTL_LOAD (R405). -/
def execKctlLoad (s : State) : Out := .next (s.keyOp fun t i => tput t i s.kdata)

/-- KCTL_DRAW: a random key (R405). -/
def execKctlDraw (s : State) : Out := .next (s.keyOp fun t i => tput t i (Config.drawnKey s.free))

/-- KCTL_DESTROY (R405). -/
def execKctlDestroy (s : State) : Out := .next (s.keyOp fun t i => tdel t i)

/-- KCTL_LOAD_MIGRATION (R405). -/
def execKctlLoadMigration (s : State) : Out := .next (({ s with migKey := some s.kdata }).keyDone false)

/-- A phase of a stopped VF retires in error with MCHECK, recorded as fault kind 13 (R412). -/
def State.endPhase (s : State) (gk : Nat) (g : Group) : State :=
  let at_ := if fld (s.rcsr g.issuer 0x2107) 7 0 = 0x1A then s.rcsr g.issuer 0x2108 else 0
  let q0 := s.liveRec g.issuer g.serial ((s.rec? g.issuer g.serial).getD PhaseRec.reset)
  let s1 := (s.publish g).updRec g.issuer g.serial fun _ => { q0 with kind := 13, fval := at_, state := 6, code := errMcheck, tret := s.time }
  let s2 := g.cairns.foldl (init := s1) fun st c => st.updRegion (s.vfNum g.x.ring) c.region fun r => { r with bound := false }
  ((s2.closeChans g).freeGroup gk g).endOp g.issuer g.opId g.set (some errMcheck)

/-- A ring of a stopped VF: its operations complete in error with MCHECK, and it becomes idle (R412). -/
def State.endRing (s : State) (r : Nat) : State :=
  let x := s.ring r
  let s1 := x.asyncs.foldl (init := s) fun st a =>
    match a.op with
    | .pload _ _ serial => st.refusePload r a serial errMcheck
    | .cpy _ => st.refuseAsync r a errMcheck
    | .cpyB _ => st.refuseAsync r a errMcheck
    | .crnStep _ => st.refuseAsync r a errMcheck
  let s2 := (x.copyReady ++ x.copies).foldl (init := s1) fun st j => st.endCopy r j.id j.src j.set (some errMcheck)
  let s3 := x.crn.foldl (init := s2) fun st j => st.endCopy r j.id (.rsq 0x30) j.set (some errMcheck)
  s3.updRing r fun y =>
    { y with run := .idle, wait := none, launchTag := 0, copyReady := [], copies := [], crn := [],
             seq := { y.seq with loads := [], stores := [] } }

/-- The work of a VF ends without completion entries, every ring of it becomes idle, and its queue is closed (R412). -/
def State.endVf (s : State) (v : Nat) : State :=
  let s1 := (s.groups.filter fun g => (s.ring g.2.issuer).vf == some v).foldl (init := s) fun st g => st.endPhase g.1 g.2
  let s2 := (allRings.filter fun r => (s1.ring r).vf == some v).foldl (init := s1) fun st r => st.endRing r
  let s3 := (s2.updVf v fun f => { f with launches := [], stopped := false }).setVcsr v 0x1011 (setFld (s2.vcsr v 0x1011) 0 0 0)
  match s3.ringOfVf v, s3.homeOf v with
  | none, some b =>
    s3.updStrip b fun t => { t with imaged := t.imaged.filter fun i => fld (s3.rcsr b (0x2111 + i)) 6 0 ≠ v }
  | _, _ => s3

/-- KCTL_STOP_VF: op 5 on the selected VF (R405, R412). -/
def execKctlStopVf (s : State) : Out :=
  if s.kselBad then .next (s.keyDone true)
  else if bit (s.hcsr 0x2040) 7 then .next (s.keyDone false)
  else
    let v := fld (s.hcsr 0x2040) 6 0
    let s1 := if (s.vfOf v).stopped then s else s.stopVf v 0
    .next ((s1.endVf v).keyDone false)

/-- Every node and line of a channel becomes fresh (R407, R410, R413). -/
def State.freshChannel (s : State) (g : Nat) : State := (s.freshHalf g 0).freshHalf g 1

/-- KINITCTL_GO: one channel at a time, whose ring is idle or unassigned (R413). -/
def execKinitctlGo (s : State) : Out :=
  let g := fld (s.hcsr 0x2048) 7 0
  let x := s.ring (ringOfChan g)
  if bit (s.hcsr 0x2049) 1 ∨ !(x.vf.isNone || x.idle) then .next (s.setHcsr 0x2049 (setFld (s.hcsr 0x2049) 2 2 1))
  else .next ((s.freshChannel g).setHcsr 0x2049 2)

/-- CHANNEL_INIT_COMPLETE: busy is cleared (R413). -/
def execChannelInitComplete (s : State) : Out := .next (s.setHcsr 0x2049 (setFld (s.hcsr 0x2049) 1 1 0))

/-- The window that WSEL names (R415). -/
def State.wsel (s : State) : Nat := fld (s.hcsr 0x2050) 5 0

/-- WVALID_SET (R415). -/
def execWvalidSet (s : State) : Out :=
  .next (s.updWindow s.wsel fun w => if w.valid then w else { w with valid := true, gen := w.gen + 1, seq := 0, opened := 0 })

/-- WVALID_CLEAR (R415). -/
def execWvalidClear (s : State) : Out := .next (s.updWindow s.wsel fun w => { w with valid := false, opened := 0 })

/-- WMEM_WRITE: half 0 holds VFs 0 to 63; a VF whose bit is cleared loses its opened record at once (R415, R417). -/
def execWmemWrite (half : Nat) (v : BitVec 64) (s : State) : Out :=
  .next (s.updWindow s.wsel fun w =>
    let lo : BitVec 64 := if half = 0 then v else BitVec.truncate 64 w.members
    let hi : BitVec 64 := if half = 0 then BitVec.truncate 64 (w.members >>> 64) else v
    let m : BitVec 128 := (hi.zeroExtend 128 <<< 64) ||| lo.zeroExtend 128
    { w with members := m, opened := w.opened &&& m })

/-- A power request: it starts its transition where it fits, and otherwise sets err (R426, R437). -/
def State.powerReq (s : State) (r : Nat) (next : Option Nat) : State :=
  match (s.ring r).powerNext, next with
  | none, some n => s.updRing r fun x => { x with powerNext := some n }
  | _, _ => s.setRcsr r 0x2141 (setFld (s.rcsr r 0x2141) 8 8 1)

/-- RPWR_QUIESCE (R426). -/
def execRpwrQuiesce (s : State) : Out :=
  let r := s.rsel
  let x := s.ring r
  .next (s.powerReq r (if x.power = 0 ∧ x.idle ∧ x.group.isNone then some 1 else none))

/-- RPWR_SAVE (R426). -/
def execRpwrSave (s : State) : Out := .next (s.powerReq s.rsel (if (s.ring s.rsel).power = 1 then some 2 else none))

/-- RPWR_GATE_CLOCK (R426). -/
def execRpwrGateClock (s : State) : Out := .next (s.powerReq s.rsel (if (s.ring s.rsel).power = 2 then some 3 else none))

/-- RPWR_GATE_RAIL (R426). -/
def execRpwrGateRail (s : State) : Out := .next (s.powerReq s.rsel (if (s.ring s.rsel).power = 3 then some 4 else none))

/-- RPWR_WAKE (R426). -/
def execRpwrWake (s : State) : Out :=
  let p := (s.ring s.rsel).power
  .next (s.powerReq s.rsel (if p = 1 ∨ p = 2 then some 0 else if p = 3 ∨ p = 4 then some 2 else none))

/-- The S CSRs and the translation registers, which retention SRAM holds (R426). -/
def retained (csr : Tab W64) : Tab W64 := csr.filter fun e => (decide (0x1000 ≤ e.1) && decide (e.1 < 0x2000)) || e.1 == 0x2103

/-- The retention state returns; SIP bits that arose meanwhile stay. -/
def Ring.restoreRail (x : Ring) : Ring :=
  { x with csr := x.saved.foldl (fun t e => tput t e.1 (if e.1 = 0x100A then e.2 ||| tget 0 x.csr 0x100A else e.2)) x.csr }

/-- POWER_TRANSITION_COMPLETE: the work of the transition is done, busy is cleared, and an event is posted (R426, R427). -/
def execPowerTransitionComplete (r : Nat) (s : State) : Out :=
  let x := s.ring r
  match x.powerNext with
  | none => .next s
  | some n =>
    let y : Ring :=
      if n = 2 ∧ x.power = 1 then { x with saved := retained x.csr }
      else if n = 4 then { x with csr := x.csr.filter fun e => !(decide (0x1000 ≤ e.1) && decide (e.1 < 0x2000)) }
      else if n = 2 ∧ x.power = 4 then x.restoreRail
      else x
    let s1 := (s.setRing r { y with power := n, powerNext := none }).post (dieOf r) 8 0 0 r
    .next (if n = 2 then s1.drainEdge r 16 else s1)

/-- DROOP_TRIP: m falls to 8 on the clock set, and the trip is counted (R424, R429). -/
def execDroopTrip (die : Nat) (s : State) : Out :=
  let w := s.dcsr die 0x2064
  .next (((s.setM (s.clockSet die) 8).setDcsr die 0x2064 (setFld w 63 32 (sat32 (fld w 63 32 + 1)))).countLife (64 + die))

/-- FCLK_RAISE: 1,024 ticks after the last change, m rises by 1 towards the target on every die of the set (R424). -/
def execFclkRaise (die : Nat) (s : State) : Out :=
  let set := s.clockSet die
  let m := (set.map fun d => (s.die d).m).foldl min 16
  let target := (set.map fun d => (s.die d).target).foldl min 16
  if m < target ∧ (set.all fun d => decide (1024 ≤ (s.time - (s.die d).stretched).toNat)) = true then .next (s.setM set (m + 1)) else .next s

/-- CLOCK_STRETCH: the power controller sets a die's target, and m falls to it where it lies above (R424). -/
def execClockStretch (die m : Nat) (s : State) : Out :=
  if m < 8 ∨ 16 < m then .next s
  else
    let s1 := s.updDie die fun x => { x with target := m }
    let set := s.clockSet die
    if (set.map fun d => (s1.die d).m).foldl min 16 ≤ m then .next s1 else .next (s1.setM set m)

/-- A die's link register: 0 CLSTAT, 1 ETHSTAT, 2 CHSTAT (R419). -/
def State.link (s : State) (d n : Nat) : W64 := tget 0 (s.die d).links n

def State.setLink (s : State) (d n : Nat) (v : W64) : State := s.updDie d fun x => { x with links := tput x.links n v }

/-- LINK_STATE_CHANGE: link 0 is Certia Link on die 0, 1 and 2 are the die's two ports, 3 is its east boundary (R419). -/
def execLinkStateChange (die link : Nat) (up : Bool) (s : State) : Out :=
  let v := if up then 1 else 0
  let ok := match link with
    | 0 => die == 0
    | 1 => decide (die < 4)
    | 2 => decide (die < 4)
    | 3 => decide (die < 3)
    | _ => false
  if !ok then .next s
  else
    let (n, b) := if link = 0 then (0, 0) else if link = 3 then (2, 0) else (1, link - 1)
    let w := s.link die n
    let w1 := setFld w b b v
    let w2 := if link = 0 then setFld w1 7 4 (if up then 4 else 0) else w1
    if bit w b == up then .next s else .next ((s.setLink die n w2).post die 7 0 0 die)

/-- LANE_REPAIR: the boundary east of a die repairs a lane (R419). -/
def execLaneRepair (die : Nat) (s : State) : Out :=
  if die < 3 then .next (s.setLink die 2 (setFld (s.link die 2) 63 32 (sat32 (fld (s.link die 2) 63 32 + 1)))) else .next s

/-- HOST_ACCESS: the host reads or writes a device page over Certia Link, under the key of the VF whose strip owns the channel (R107, R405,
R420), or its own memory. A write of a host processor is a release at sys scope (log 117). -/
def execHostAccess (pa : Nat) (wr : Option (List (BitVec 8))) (s : State) : Out :=
  let r := ringOfChan (chanOf pa)
  let sync : Tab Dep := [(3, { near := s.free, wrote := [(Agent.code .host, s.free)] })]
  if isHostPa pa then
    match wr with
    | none => .next s
    | some bs =>
      let ps := ((List.range bs.length).map fun i => (pa + i, MemAttr.host none none)).filter fun p => isHostPa p.1
      .next (s.putSeen .host false sync ps bs)
  else if !s.hostUp ∨ !isHbm pa ∨ treeBase ≤ pa % 2 ^ 31 then .next s
  else
    match (s.ring r).vf, wr with
    | none, _ => .next s
    | some v, some bs =>
      match s.writeAt .host false sync ((List.range bs.length).map fun i => (pa + i, s.vfAttr v)) bs with
      | .ok s1 => .next s1
      | .error e => .next (s.memFail r 0 e)
    | some v, none =>
      match s.placeErr (pa, s.vfAttr v) with
      | some e => .next (s.memFail r 0 e)
      | none => .next s

/-- The kinds of start: 0 cold, 1 warm, 2 safe (R423). -/
def startKind (failed want : Nat) : Nat := if 3 ≤ failed then 2 else want

/-- A start (R422, R423): fuses, host memory and the non-volatile store survive, everything else takes its reset value, and the engine draws a
tree key. A start that fails leaves the cores stopped (log 23). -/
def State.start (s : State) (want failStep : Nat) : State :=
  let kind := startKind s.nv.failed want
  let f := if failStep = 0 ∨ 6 < failStep ∨ (kind = 1 ∧ failStep = 2) then 0 else failStep
  let failed := if f ≠ 0 then s.nv.failed + 1 else if kind = 2 then s.nv.failed else 0
  let t := State.reset
  { t with rings := tmap (fun _ x => { Ring.reset with ringp := x.ringp }) s.rings,
           dies := if f = 0 then [] else (List.range 4).map fun d => (d, { Die.reset with stopped := true }),
           mem := s.mem.filter fun c => decide (2 ^ 54 ≤ c.1) && decide (c.1 < 2 ^ 55),
           treeKey := Config.drawnKey s.free, nv := { s.nv with failed := failed }, life := s.life, bootKind := kind, bootStep := f,
           step := s.step, tap := s.tap, agenda := s.agenda, cur := s.cur, free := s.free }

/-- BOOTCTL_COLD: the count is cleared, and the start is cold (R423). -/
def execBootctlCold (failStep : Nat) (s : State) : Out := .next (({ s with nv := { s.nv with failed := 0 } }).start 0 failStep)

/-- BOOTCTL_WARM (R422). -/
def execBootctlWarm (failStep : Nat) (s : State) : Out := .next (s.start 1 failStep)

/-- I3C_START_REQUEST: a cold or a warm start (R422, R423, R430). -/
def execI3cStartRequest (cold : Bool) (failStep : Nat) (s : State) : Out :=
  if cold then execBootctlCold failStep s else execBootctlWarm failStep s

/-- POWER_ON_START: the counts are those of the last store write, and the start is cold unless three starts have failed (R423, R429). -/
def execPowerOnStart (failStep : Nat) (s : State) : Out := .next (({ s with life := s.nv.life }).start 0 failStep)

/-- The lifetime store's content at an index (R429). -/
def State.lifeAt (s : State) (i : Nat) : W64 := if i ≤ 6996 then tget 0 s.life i else 0

/-- BOOTSTAT (R422, R423). -/
def State.bootStat (s : State) : W64 := BitVec.ofNat 64 (min 255 s.nv.failed * 256 + s.bootStep % 16 * 16 + s.bootKind % 4)

/-- PWRSTAT of a die (R424). -/
def State.pwrStat (s : State) (d : Nat) : W64 :=
  BitVec.ofNat 64 (fld (s.dcsr d 0x2064) 63 32 * 2 ^ 32 + (s.die d).target % 32 * 256 + (s.die d).m % 32)

/-- What the I3C target returns for a read: of an index of the lifetime store, or beyond its 16 bits of index BOOTSTAT and a die's PWRSTAT (R429, R430; log 125). -/
def State.i3cData (s : State) (i : Nat) : W64 :=
  if i < 2 ^ 16 then s.lifeAt i else if i = 2 ^ 16 then s.bootStat else s.pwrStat ((i - 2 ^ 16 - 1) % 4)

/-- I3C_READ: the I3C target returns what the controller reads, and changes nothing else (R430). -/
def execI3cRead (idx : Nat) (s : State) : Out := .next { s with i3cGave := s.i3cData idx }

/-- LIFETIME_STORE_WRITE: the counts enter the non-volatile store (R429). -/
def execLifetimeStoreWrite (s : State) : Out := .next { s with nv := { s.nv with life := s.life } }

/-- ORDERLY_POWER_DOWN: the counts are stored, and the supply goes (R429). -/
def execOrderlyPowerDown (s : State) : Out := .next { s with nv := { s.nv with life := s.life }, powered := false }

/-- POWER_FAILURE: the device stops, and the counts since the last store write are lost (R429). -/
def execPowerFailure (s : State) : Out := .next { s with life := s.nv.life, powered := false }

/-- TEST_ACCESS_PORT_INSTRUCTION: the port takes a mandatory instruction; it reaches no key, SRAM or ring state (R430). -/
def execTestAccessPortInstruction (ir : TapInstr) (s : State) : Out := .next { s with tap := ir }

end Sys2Proof.Machine
end

