-- ==== Sys2Proof/Machine/Csr.lean ====
section
/-! DEFINITION. The control and status registers: which numbers an agent has, what each reads, what a write changes, the state a debugger
reaches, and csrr and csrw (R7, R261 to R263, R272, R275, R276, R286, R299, R320 to R322, R328, R329, R343, R345, R349, R353, R355, R368,
R374, R375, R380, R386, R395, R402, R403, R405, R413, R415, R419 to R425, R428, R429, R437). -/

namespace Sys2Proof.Machine

/-- What software may do with a register (R7): `ro` has no field that a write changes. -/
inductive CsrKind where
  | none
  | ro
  | rw
  deriving DecidableEq, Repr

/-- The U and S registers of a ring's RSQ (R320). -/
def ringCsrKind (n : Nat) : CsrKind :=
  if n ∈ [0x000, 0x001, 0x002, 0x010, 0x011, 0x018, 0x021, 0x040, 0x041, 0x042, 0x043, 0x044, 0x045, 0x046, 0x047] then .ro
  else if n ∈ [0x003, 0x019, 0x020, 0x022, 0x023, 0x028, 0x029, 0x02A, 0x02B, 0x02C, 0x030, 0x038] then .rw
  else if n ∈ [0x1000, 0x100C, 0x100D, 0x1012, 0x1015, 0x1021, 0x1022, 0x1030, 0x1031, 0x1050] then .ro
  else if (decide (0x1001 ≤ n) && decide (n ≤ 0x100B)) ||
      n ∈ [0x1010, 0x1011, 0x1013, 0x1014, 0x1020, 0x1023, 0x1040, 0x1041, 0x1042, 0x1043, 0x1051] then .rw
  else .none

/-- The registers of a management core, with the window on the ring that RSEL names (R320). -/
def coreCsrKind (n : Nat) : CsrKind :=
  if n ∈ [0x000, 0x001, 0x002] then .ro
  else if n = 0x003 then .rw
  else if n ∈ [0x2001, 0x2010, 0x2030, 0x2032, 0x2033, 0x2042, 0x2054, 0x2060, 0x2061, 0x2062, 0x2063, 0x2064, 0x2069] then .ro
  else if (decide (0x2000 ≤ n) && decide (n ≤ 0x2009)) || (decide (0x2020 ≤ n) && decide (n ≤ 0x2028)) ||
      n ∈ [0x2031, 0x2034, 0x2040, 0x2041, 0x2043, 0x2044, 0x2045, 0x2046, 0x2048, 0x2049, 0x2050, 0x2051, 0x2052, 0x2053, 0x2055, 0x2056,
           0x2057, 0x2065, 0x2066, 0x2067, 0x2068] then .rw
  else if n ∈ [0x2101, 0x2102, 0x2107, 0x2108, 0x2119, 0x2130, 0x2131, 0x2132] then .ro
  else if (decide (0x2100 ≤ n) && decide (n ≤ 0x2109)) || (decide (0x2110 ≤ n) && decide (n ≤ 0x211A)) ||
      n ∈ [0x2120, 0x2121, 0x2122, 0x2123, 0x2140, 0x2141] then .rw
  else .none

/-- IDENT (R321). -/
def State.ident (s : State) : W64 := BitVec.ofNat 64 (s.step.toNat * 2 ^ 32 + 4 * 2 ^ 16 + 0x5302)

/-- RINGINFO (R262). -/
def State.ringInfo (s : State) (r : Nat) : W64 :=
  let x := s.ring r
  BitVec.ofNat 64 (x.slen % 256 * 2 ^ 32 + x.sbase % 128 * 2 ^ 24 + x.ringp % 64 * 2 ^ 16 + dieOf r % 4 * 2 ^ 7 + r % 128)

/-- DSTAT and DERR (R272). -/
def State.dstat (s : State) (r : Nat) : W64 :=
  BitVec.ofNat 64 (((List.range 8).map fun i =>
    256 ^ i * ((s.dep r i).out.length % 128 + (if (s.dep r i).err then 128 else 0))).sum)

def State.derr (s : State) (r : Nat) : W64 := BitVec.ofNat 64 (((List.range 8).map fun i => 256 ^ i * (s.dep r i).code.toNat).sum)

/-- A W1C write of DSTAT: a set bit 8i + 7 clears err and code of slot i (R272). -/
def State.clearDeps (s : State) (r : Nat) (v : W64) : State :=
  (List.range 8).foldl (init := s) fun st i =>
    if bit v (8 * i + 7) then st.updRing r fun x => { x with deps := tput x.deps i { st.dep r i with err := false, code := 0 } } else st

/-- A W1C write of BILLETS (R286). -/
def Ring.clearBillets (x : Ring) (v : W64) : Ring :=
  { x with ferr := x.ferr.filter fun i => !bit v (4 * i + 3), aerr := x.aerr.filter fun i => !bit v (4 * i + 2) }

/-- PSREC: word n of the record that PSSEL names (R380). -/
def State.psrec (s : State) (r n : Nat) : W64 :=
  let h := fld (s.rcsr r 0x038) 31 0
  match s.rec? r h with
  | some q => if (s.ring r).handles.contains h then (s.liveRec r h q).word n else 0
  | none => 0

/-- The first-offender record as a supervisor sees it (R403). -/
def State.sgoff (s : State) (r n : Nat) : W64 :=
  let b := (s.ring r).sbase
  let g := s.rcsr b 0x2131
  if bit g 63 && (s.ring r).vf == some (fld g 54 48) then s.rcsr b n else 0

/-- HPRQINFO (R375). -/
def PrqReq.info (q : PrqReq) : W64 :=
  BitVec.ofNat 64 ((if q.stage2 then 0 else q.asid.toNat) * 2 ^ 48 + 2 ^ 47 + (if q.ul then 2 ^ 46 else 0) + q.vf % 128 * 2 ^ 39 +
    (if q.stage2 then 2 ^ 38 else 0) + q.reason % 16 * 2 ^ 34 + (if q.wr then 2 ^ 33 else 0) + (if q.rd then 2 ^ 32 else 0) +
    min 255 q.waiters.length * 2 ^ 24 + (if 4 ≤ q.reason then 0 else q.level % 4) * 2 ^ 22 + q.src % 4 * 2 ^ 20 +
    (if q.src = 0 ∧ q.south then 2 ^ 19 else 0) + (if q.src = 0 then q.ag % 4 else 0) * 2 ^ 17 + q.ring % 128 * 2 ^ 10)

/-- The registers that a VF holds (R345, R355, R374, R421, R428). -/
def vfCsr (n : Nat) : Bool := (decide (0x1010 ≤ n) && decide (n ≤ 0x1015)) || n == 0x1020 || (decide (0x1040 ≤ n) && decide (n ≤ 0x1051))

/-- RVF and VFINFO: the VF of the ring's strip, whose number a release leaves (R329, R338). -/
def Ring.vfInfo (x : Ring) : W64 :=
  match x.vf with
  | some v => BitVec.ofNat 64 (128 + v % 128)
  | none => BitVec.ofNat 64 (x.rvf % 128)

/-- What a U or S register of a ring reads. -/
def State.ringRead (s : State) (r n : Nat) : W64 :=
  let x := s.ring r
  match n with
  | 0x000 => s.time
  | 0x001 => x.seq.cycle
  | 0x002 => x.seq.instret
  | 0x003 => x.seq.uscratch
  | 0x010 => s.ringInfo r
  | 0x011 => BitVec.ofNat 64 (s.die (dieOf r)).m
  | 0x018 => x.carvew
  | 0x020 => s.dstat r
  | 0x021 => s.derr r
  | 0x022 => x.billetsWord
  | 0x1000 => s.ident
  | 0x100A => s.sip r
  | 0x100C => x.vfInfo
  | 0x1021 => match s.sprqEntry r with
    | some (_, q) => q.addr
    | none => 0
  | 0x1022 => match s.sprqEntry r with
    | some (_, q) => q.info
    | none => 0
  | 0x1023 => 0
  | 0x1030 => s.sgoff r 0x2131
  | 0x1031 => s.sgoff r 0x2132
  | 0x1043 => if (s.vfOf (s.vfNum r)).qpErr.contains (fld (s.vcsr (s.vfNum r) 0x1042) 9 0) then 1 else 0
  | _ =>
    if 0x040 ≤ n ∧ n ≤ 0x047 then s.psrec r (n - 0x040)
    else if vfCsr n then s.vcsr (s.vfNum r) n
    else s.rcsr r n

/-- A write to a U or S register of a ring: its RW fields are stored, its W1C fields cleared where the value has a one, and its WO fields act
(R7). -/
def State.ringWrite (s : State) (r n : Nat) (v : W64) : State :=
  let vf := s.vfNum r
  match n with
  | 0x003 => s.updRing r fun x => { x with seq := { x.seq with uscratch := v } }
  | 0x020 => s.clearDeps r v
  | 0x022 => s.updRing r fun x => x.clearBillets v
  | 0x023 => if bit v 63 then s.setRcsr r 0x023 0 else s
  | 0x100A => s.setRcsr r 0x100A (s.rcsr r 0x100A &&& ~~~(v &&& 0x1E))
  | 0x1013 => s.writeTail vf v
  | 0x1023 => if fld v 1 0 = 1 then s.sprqAnswer r true else if fld v 1 0 = 2 then s.sprqAnswer r false else s
  | 0x1041 => s.setVcsr vf 0x1041 (BitVec.ofNat 64 (min 1024 (fld v 10 0)))
  | 0x1043 => if bit v 0 then s.qpClear vf else s
  | 0x1051 => if bit v 0 then (s.setVcsr vf 0x1051 0).setVcsr vf 0x1050 0 else s
  | _ =>
    if ringCsrKind n ≠ .rw then s
    else if vfCsr n then s.setVcsr vf n (v &&& rwMask n)
    else s.setRcsr r n (v &&& rwMask n)

/-- RSTAT (R329): gated before halted, halted before the RSQ's own state. -/
def State.rstat (s : State) (r : Nat) : Nat :=
  let x := s.ring r
  if 3 ≤ x.power then 6 else if x.halted then 4 else runCode x.run x.level

/-- The element that RDBGA names. -/
structure DbgAddr where
  unit : Nat
  slot : Nat
  pos : Nat
  idx : Nat
  deriving DecidableEq, Repr

def dbgAddr (a : W64) : DbgAddr := { unit := fld a 35 32, slot := fld a 29 24, pos := fld a 20 16, idx := fld a 15 0 }

/-- Word i of a block of bytes, and the block with it replaced. -/
def byteWord (l : List Byte) (i : Nat) : W32 := BitVec.ofNat 32 (field l (4 * i) 4)

def putWord (l : List Byte) (n i : Nat) (v : W32) : List Byte :=
  slice (slice l 0 (4 * i) ++ leBytes 4 v.toNat ++ slice l (4 * i + 4) (4 * n - (4 * i + 4))) 0 (4 * n)

/-- An element register by its index (R395); `bank` is the active bank. -/
def Elem.dbgRead (e : Elem) (me : Bool) (bank i : Nat) : Option W32 :=
  if i = 32 then some e.y
  else if i = 33 then some e.pass
  else if me then
    if 40 ≤ i ∧ i < 44 then some (byteWord e.ya (i - 40))
    else if 44 ≤ i ∧ i < 52 then some (byteWord e.yb (i - 44))
    else none
  else if i < 16 then some (tget 0 e.k i)
  else if i < 24 then some (tget 0 e.c (8 * bank + (i - 16)))
  else if i < 32 then some (tget 0 e.c (8 * (1 - bank) + (i - 24)))
  else if i = 34 then some (BitVec.ofNat 32 (e.q.toNat + 16 * e.base.toNat))
  else if i = 35 then some (e.afcA.zeroExtend 32)
  else if i = 36 then some (e.afcI.zeroExtend 32)
  else if i = 37 then some e.lfsr
  else none

def Elem.dbgWrite (e : Elem) (me : Bool) (bank i : Nat) (v : W32) : Elem :=
  if i = 32 then { e with y := v }
  else if i = 33 then { e with pass := v }
  else if me then
    if i < 44 then { e with ya := putWord (slice e.ya 0 24) 6 (i - 40) v } else { e with yb := putWord (slice e.yb 0 32) 8 (i - 44) v }
  else if i < 16 then { e with k := tset 0 e.k i v }
  else if i < 24 then { e with c := tset 0 e.c (8 * bank + (i - 16)) v }
  else if i < 32 then { e with c := tset 0 e.c (8 * (1 - bank) + (i - 24)) v }
  else if i = 34 then { e with q := BitVec.truncate 4 v, base := BitVec.truncate 4 (v >>> 4) }
  else if i = 35 then { e with afcA := BitVec.truncate 24 v }
  else if i = 36 then { e with afcI := BitVec.truncate 16 v }
  else { e with lfsr := v }

def State.elemOf (s : State) (r : Nat) (a : DbgAddr) : Elem := tget Elem.reset (s.ring r).elems (32 * a.slot + a.pos)

def State.setElemOf (s : State) (r : Nat) (a : DbgAddr) (e : Elem) : State :=
  s.updRing r fun x => { x with elems := tput x.elems (32 * a.slot + a.pos) e }

def State.slotOf (s : State) (r : Nat) (a : DbgAddr) : Slot := tget Slot.reset (s.ring r).slots a.slot

/-- A slot's scroll state as unit 5 codes it (R395). -/
def ScrollSt.code : ScrollSt → Nat
  | .idle => 0
  | .load => 1
  | .run => 2
  | .save => 3
  | .restore => 4
  | .after => 5

/-- The value that an address of a halted ring names, if it names one (R395). -/
def State.dbgValue (s : State) (r : Nat) (a : DbgAddr) : Option W64 :=
  let x := s.ring r
  let sl := s.slotOf r a
  let e := s.elemOf r a
  if a.unit < 3 ∧ x.ringp ≤ a.slot then none
  else
    match a.unit with
    | 0 => (e.dbgRead (isMe a.pos) (if sl.bank then 1 else 0) a.idx).map fun w => w.zeroExtend 64
    | 1 => if a.idx < 32 then some ((tget 0 e.ctx a.idx).zeroExtend 64) else none
    | 2 => if isMe a.pos ∧ a.idx < 256 then some ((tget 0 e.acc a.idx).zeroExtend 64) else none
    | 3 =>
      if a.idx = 0 then some x.seq.pc
      else if a.idx < 32 then some (tget 0 x.seq.x a.idx)
      else if a.idx = 32 then some (if x.level = .u then 0 else 1)
      else none
    | 4 => if ringCsrKind a.idx = .none then none else some (s.ringRead r a.idx)
    | 5 =>
      if a.idx = 0 then some (match x.group.bind fun g => s.group? g with
        | some g => BitVec.ofNat 64 g.t
        | none => 0)
      else if x.ringp ≤ a.slot then none
      else if a.idx = 1 then some (BitVec.ofNat 64 (sl.v.getD 0xFFFF))
      else if a.idx = 2 then some (BitVec.ofNat 64 sl.st.code)
      else if a.idx = 3 then some (if sl.bank then 1 else 0)
      else if a.idx = 4 then sl.item.map fun i => match i.tag with
        | some t => BitVec.ofNat 64 (65536 + t.toNat)
        | none => 0
      else none
    | _ => none

/-- Stores a value at an address that names one; none where the address is read-only (R395). -/
def State.dbgStore (s : State) (r : Nat) (a : DbgAddr) (v : W64) : Option State :=
  let sl := s.slotOf r a
  let e := s.elemOf r a
  let w : W32 := BitVec.truncate 32 v
  match a.unit with
  | 0 => some (s.setElemOf r a (e.dbgWrite (isMe a.pos) (if sl.bank then 1 else 0) a.idx w))
  | 1 => some (s.setElemOf r a { e with ctx := tset 0 e.ctx a.idx w })
  | 2 => some (s.setElemOf r a { e with acc := tset 0 e.acc a.idx w })
  | 3 =>
    if a.idx = 0 then some (s.updRing r fun x => { x with wait := none, seq := { x.seq with pc := v } })
    else if a.idx < 32 then some (s.updRing r fun x => { x with seq := { x.seq with x := tput x.seq.x a.idx v } })
    else if v.toNat < 2 then some (s.updRing r fun x => { x with level := if v = 0 then .u else .s })
    else none
  | 4 => some (s.ringWrite r a.idx v)
  | _ =>
    if a.idx < 4 then none
    else
      let tag : Option (BitVec 16) := if bit v 16 then some (BitVec.truncate 16 v) else none
      some (s.updRing r fun x => { x with slots := tput x.slots a.slot { sl with item := sl.item.map fun i => { i with tag := tag } } })

/-- The last access through RDBGD failed, or did not. -/
def State.dbgErr (s : State) (r : Nat) (err : Bool) : State := s.setRcsr r 0x2122 (setFld (s.rcsr r 0x2122) 63 63 (if err then 1 else 0))

/-- RDBGD_READ: the value that RDBGA addresses, or 0 with err (R395). -/
def execRdbgdRead (rd : BitVec 5) (s : State) : Out :=
  let r := s.rsel
  match (if (s.ring r).halted then s.dbgValue r (dbgAddr (s.rcsr r 0x2122)) else none) with
  | some v => .next ((s.setX rd v).dbgErr r false)
  | none => .next ((s.setX rd 0).dbgErr r true)

/-- RDBGD_WRITE (R395). -/
def execRdbgdWrite (v : BitVec 64) (s : State) : Out :=
  let r := s.rsel
  let a := dbgAddr (s.rcsr r 0x2122)
  if !(s.ring r).halted ∨ (s.dbgValue r a).isNone then .next (s.dbgErr r true)
  else
    match s.dbgStore r a v with
    | some s1 => .next (s1.dbgErr r false)
    | none => .next (s.dbgErr r true)

/-- TSENT_ENABLE: a write of a TSENT entry; one that makes it valid makes its VF a tenant and resets the VF's registers (R355). -/
def execTsentEnable (idx : Nat) (v : BitVec 64) (s : State) : Out :=
  let r := s.rsel
  if !s.tsSel r ∨ 8 ≤ idx then .next s
  else
    let s1 := s.setRcsr r (0x2111 + idx) v
    if bit v 7 ∧ !bit (s.rcsr r (0x2111 + idx)) 7 then
      .next ((s1.updVf (fld v 6 0) fun f => { f with csr := [], qpErr := [] }).updStrip r fun t =>
        { t with imaged := t.imaged.filter (· != idx) })
    else .next s1

/-- The state after a meaning that answers one. -/
def outState (s : State) : Out → State
  | .next t => t
  | .fault _ => s
  | .refused _ => s

/-- The entry that LPTSEL names (R349). -/
def State.lpSel (s : State) (d : Nat) : Nat := fld (s.dcsr d 0x2021) 5 0

/-- What a register of the window reads, for the ring that RSEL names (R329, R353, R386, R395, R402, R425). -/
def State.windowRead (s : State) (r n : Nat) : W64 :=
  let x := s.ring r
  if n ∈ tenantRegs then
    match s.tenantSel r with
    | some t => tget 0 (tget [] x.tenantCsr t) n
    | none => s.rcsr r n
  else if 0x2110 ≤ n ∧ n ≤ 0x211A then
    if !s.tsSel r then 0 else if n = 0x2119 then BitVec.ofNat 64 (s.strip r).cur else s.rcsr r n
  else
    match n with
    | 0x2100 => 0
    | 0x2101 => BitVec.ofNat 64 (s.rstat r)
    | 0x2102 => x.vfInfo
    | 0x2109 => 0
    | 0x2120 => if s.stripSel r then s.rcsr r n else 0
    | 0x2121 =>
      if s.stripSel r then
        BitVec.ofNat 64 ((s.strip r).size % 2 ^ 32 * 2 ^ 32 + (s.strip r).st % 16 * 256 + fld (s.rcsr r 0x2121) 3 3 * 8)
      else 0
    | 0x2130 => if s.stripSel r then s.rcsr r n else 0
    | 0x2131 => if s.stripSel r then s.rcsr r n else 0
    | 0x2132 => if s.stripSel r then s.rcsr r n else 0
    | 0x2140 => 0
    | 0x2141 => BitVec.ofNat 64 (fld (s.rcsr r 0x2141) 8 8 * 256 + (if x.powerNext.isSome then 8 else 0) + x.power % 8)
    | _ => s.rcsr r n

/-- A write to a register of the window. -/
def State.windowWrite (s : State) (r n : Nat) (v : W64) : State :=
  let act (f : State → Out) (t : State) : State := outState t (f t)
  if n ∈ tenantRegs then
    match s.tenantSel r with
    | some t => s.updRing r fun x => { x with tenantCsr := tput x.tenantCsr t (tput (tget [] x.tenantCsr t) n (v &&& rwMask n)) }
    | none => s.setRcsr r n (v &&& rwMask n)
  else if 0x2111 ≤ n ∧ n ≤ 0x2118 then act (execTsentEnable (n - 0x2111) v) s
  else
    match n with
    | 0x2100 =>
      let s1 := if bit v 0 then (if bit v 1 then act execRctlResumeInject s else act execRctlResume s) else s
      if bit v 3 then act execRctlPreq s1 else s1
    | 0x2106 => if (s.ring r).run = .parked then s.setRcsr r n v else s
    | 0x2109 => act (execRnoteWrite v) s
    | 0x2110 => if s.tsSel r then s.setRcsr r n (v &&& rwMask n) else s
    | 0x211A => if s.tsSel r then s.setRcsr r n (v &&& rwMask n) else s
    | 0x2120 => if s.stripSel r then s.setRcsr r n (v &&& rwMask n) else s
    | 0x2121 =>
      if s.stripSel r then
        let s1 := s.setRcsr r n (v &&& 8)
        let s2 := if bit v 2 then act execRimgctlDump s1 else s1
        if bit v 1 then act execRimgctlRest s2 else s2
      else s
    | 0x2122 => s.setRcsr r n ((v &&& 0xF3F1FFFFF) ||| (s.rcsr r n &&& 0x8000000000000000))
    | 0x2123 => act (execRdbgdWrite v) s
    | 0x2140 =>
      match fld v 2 0 with
      | 1 => act execRpwrQuiesce s
      | 2 => act execRpwrSave s
      | 3 => act execRpwrGateClock s
      | 4 => act execRpwrGateRail s
      | 5 => act execRpwrWake s
      | _ => s
    | 0x2141 => if bit v 8 then s.setRcsr r n (setFld (s.rcsr r n) 8 8 0) else s
    | _ => s

/-- The selected slot of the key engine holds a key (R405). -/
def State.keyHeld (s : State) : Bool :=
  let i := fld (s.hcsr 0x2040) 6 0
  if bit (s.hcsr 0x2040) 7 then (tfind s.winKeys i).isSome else (tfind s.vfKeys i).isSome

/-- What a register of a management core reads; HEVT, PRQPOP and RDBGD are read through their rows. -/
def State.coreRead (s : State) (d n : Nat) : W64 :=
  let x := s.die d
  let w := s.window s.wsel
  if 0x2100 ≤ n then s.windowRead s.rsel n
  else
    match n with
    | 0x000 => s.time
    | 0x001 => x.core.cycle
    | 0x002 => x.core.instret
    | 0x003 => x.core.uscratch
    | 0x2006 => s.hstatus d
    | 0x2010 => s.ident
    | 0x2022 => (x.lpEntry (s.lpSel d)).ent
    | 0x2023 => (x.lpEntry (s.lpSel d)).tenant.zeroExtend 64
    | 0x2028 => (x.lpEntry (s.lpSel d)).stat
    | 0x2032 => match tfind x.prq (fld (s.dcsr d 0x2031) 9 0) with
      | some q => q.addr
      | none => 0
    | 0x2033 => match tfind x.prq (fld (s.dcsr d 0x2031) 9 0) with
      | some q => q.info
      | none => 0
    | 0x2040 => s.hcsr n
    | 0x2042 => BitVec.ofNat 64 (fld (s.hcsr n) 2 2 * 4 + (if s.keyHeld then 1 else 0))
    | 0x2048 => s.hcsr n
    | 0x2049 => s.hcsr n &&& 6
    | 0x2050 => s.hcsr n
    | 0x2051 => BitVec.ofNat 64 (w.gen.toNat * 2 ^ 32 + (if w.wv then 256 else 0) + w.writer.toNat)
    | 0x2052 => w.base
    | 0x2053 => w.size.zeroExtend 64
    | 0x2054 => w.seq.zeroExtend 64
    | 0x2055 => BitVec.truncate 64 w.members
    | 0x2056 => BitVec.truncate 64 (w.members >>> 64)
    | 0x2057 => if w.valid then 1 else 0
    | 0x2060 => if d = 0 then s.link d 0 else 0
    | 0x2061 => s.link d 1
    | 0x2062 => if d < 3 then s.link d 2 else 0
    | 0x2063 => s.bootStat
    | 0x2064 => s.pwrStat d
    | 0x2065 => tget 2000 s.csr 0x2065
    | 0x2067 => if d = 0 then s.dcsr d n else 0
    | 0x2069 => s.lifeAt (fld (s.dcsr d 0x2068) 15 0)
    | _ =>
      -- write-only registers read 0 (R7)
      if n = 0x2034 ∨ n = 0x2041 ∨ n = 0x2066 ∨ (0x2024 ≤ n ∧ n ≤ 0x2027) ∨ (0x2043 ≤ n ∧ n ≤ 0x2046) then 0 else s.dcsr d n

/-- An LPTENT write fills the token bucket to its burst (R350). -/
def LpEntry.setEnt (p : LpEntry) (v : W64) : LpEntry := { p with ent := v, bucket := fld v 63 56 * 10 ^ 6 }

/-- A write to a register of a management core. A write of BOOTCTL is no matter of this function: it starts the device. -/
def State.coreWrite (s : State) (d n : Nat) (v : W64) : State :=
  let act (f : State → Out) (t : State) : State := outState t (f t)
  let x := s.die d
  let e := s.lpSel d
  if 0x2100 ≤ n then s.windowWrite s.rsel n v
  else
    match n with
    | 0x003 => s.updDie d fun y => { y with core := { y.core with uscratch := v } }
    | 0x2006 =>
      let keep := s.dcsr d 0x2006 &&& ~~~(0x33 ||| (v &&& 0x400))
      s.setDcsr d 0x2006 (keep ||| (v &&& 0x33))
    | 0x2022 => s.setLp d e ((x.lpEntry e).setEnt v)
    | 0x2023 => s.setLp d e { x.lpEntry e with tenant := BitVec.truncate 16 v }
    | 0x2024 => s.setLp d e { x.lpEntry e with keys := tput (x.lpEntry e).keys 0 v }
    | 0x2025 => s.setLp d e { x.lpEntry e with keys := tput (x.lpEntry e).keys 1 v }
    | 0x2026 => s.setLp d e { x.lpEntry e with keys := tput (x.lpEntry e).keys 2 v }
    | 0x2027 => s.setLp d e { x.lpEntry e with keys := tput (x.lpEntry e).keys 3 v }
    | 0x2028 => s.setLp d e { x.lpEntry e with stat := (x.lpEntry e).stat &&& ~~~v }
    | 0x2034 =>
      match fld v 1 0 with
      | 1 => act execPrqRetry s
      | 2 => act execPrqFail s
      | 3 => act execPrqForward s
      | _ => s
    | 0x2041 =>
      match fld v 2 0 with
      | 1 => act execKctlLoad s
      | 2 => act execKctlDraw s
      | 3 => act execKctlDestroy s
      | 4 => act execKctlLoadMigration s
      | 5 => act execKctlStopVf s
      | _ => s
    | 0x2049 => if bit v 0 then act execKinitctlGo s else s
    | 0x2051 => s.updWindow s.wsel fun w => { w with wv := bit v 8, writer := BitVec.truncate 7 v }
    | 0x2052 => s.updWindow s.wsel fun w => { w with base := v &&& 0x007FFFFFFFFF0000 }
    | 0x2053 => s.updWindow s.wsel fun w => { w with size := BitVec.truncate 32 v }
    | 0x2055 => act (execWmemWrite 0 v) s
    | 0x2056 => act (execWmemWrite 1 v) s
    | 0x2057 => if bit v 0 then act execWvalidSet s else act execWvalidClear s
    | 0x2065 => s.setHcsr n (BitVec.ofNat 64 (min 2000 (max 500 (fld v 15 0))))
    | 0x2067 => if d = 0 then s.setDcsr d n (v &&& 0x007FFFFFFF800001) else s
    | _ =>
      if coreCsrKind n ≠ .rw then s
      else if n ∈ [0x2040, 0x2043, 0x2044, 0x2045, 0x2046, 0x2048, 0x2050] then s.setHcsr n (v &&& rwMask n)
      else s.setDcsr d n (v &&& rwMask n)

/-- REGISTER_WRITE: a write of a register of the running agent acts by its access type (R7). -/
def execRegisterWrite (n : Nat) (v : BitVec 64) (s : State) : Out :=
  match s.cur with
  | .ring r => .next (s.ringWrite r n v)
  | .core d => .next (s.coreWrite d n v)

/-- The kind of a register for the running agent. -/
def State.csrKind (s : State) (n : Nat) : CsrKind :=
  match s.cur with
  | .ring _ => ringCsrKind n
  | .core _ => coreCsrKind n

/-- The checks of an access to a register, in their order (R261, R320): the cause of the trap, if there is one. -/
def State.csrTrap (s : State) (n : Nat) (wr : Bool) : Option Nat :=
  let high : Bool := match s.cur with
    | .ring r => decide (0x2000 ≤ n) || (decide (0x1000 ≤ n) && (s.ring r).level == .u)
    | .core _ => false
  if 0x3000 ≤ n then some 0x10
  else if high then some 0x11
  else if s.csrKind n = .none ∨ (wr ∧ s.csrKind n = .ro) then some 0x10
  else none

/-- The counters, a read of which is ordered as a load is: after an acquire (R116, R263). -/
def counterCsr (n : Nat) : Bool := decide (n ≤ 2)

/-- The registers whose write is a release: a queue's tail (R346), and an answer to a page request (R376). -/
def releaseCsr (n : Nat) : Bool := n == 0x1013 || n == 0x1023 || n == 0x2034

/-- A release of what the running thread, and on a ring its engines, have written (R110). -/
def State.releaseMine (s : State) : State := s.releaseBy s.cur 3

/-- A counter read waits like any read: for an acquire, and for a FENCE before it (R116, R118, R263). -/
def State.counterWaits (s : State) : Bool := s.me.loads.any PendLoad.orders || s.me.ranges.any fun f => f.full && f.done.isNone

/-- csrr (R261, R263). -/
def execCsrr (d : BitVec 5) (n : BitVec 14) (s : State) : Out :=
  let k := n.toNat
  match s.csrTrap k false with
  | some c => .next (s.trap c (wordOf (.csrr d n)))
  | none =>
    if s.pendAny [d] ∨ (counterCsr k ∧ s.counterWaits) then .next s
    else
      match s.cur with
      | .ring r => .next (s.setX d (s.ringRead r k)).done
      | .core c =>
        match k with
        | 0x2001 => .next (outState s (execHevtRead d s)).done
        | 0x2030 => .next (outState s (execPrqpopRead d s)).done
        | 0x2123 => .next (outState s (execRdbgdRead d s)).done
        | _ => .next (s.setX d (s.coreRead c k)).done

/-- csrw (R261): a write of a register whose write is a release waits for the thread's earlier accesses (R346, R376), a write of LDONE waits and ends the graph (R343), and one of BOOTCTL that requests a start makes it (R422, R423). -/
def execCsrw (a : BitVec 5) (n : BitVec 14) (s : State) : Out :=
  let k := n.toNat
  match s.csrTrap k true with
  | some c => .next (s.trap c (wordOf (.csrw a n)))
  | none =>
    if s.pendAny [a] ∨ (releaseCsr k ∧ s.me.busy) then .next s
    else
      let v := s.x a
      match s.cur with
      | .ring r =>
        if releaseCsr k then .next (s.releaseMine.ringWrite r k v).done
        else if k = 0x030 then
          let s1 := s.ringWrite r k v
          if s1.graphOver r then .next (s1.done.endGraph r) else .next s1
        else .next (s.ringWrite r k v).done
      | .core d =>
        if k = 0x2066 ∧ fld v 1 0 ≠ 0 then
          if bit v 1 then execBootctlCold (Config.startFails s.free % 7) s else execBootctlWarm (Config.startFails s.free % 7) s
        else .next (s.coreWrite d k v).done

end Sys2Proof.Machine
end

