-- ==== Sys2Proof/Machine/Scalar.lean ====
section
/-! DEFINITION. Integer, memory and control instructions of a sequencer (R249 to R260). -/

namespace Sys2Proof.Machine

/-- A form of R249 with two sources. -/
def aluOp (d a b : BitVec 5) (f : W64 → W64 → W64) (s : State) : Out := regOp d [a, b] (fun st => f (st.x a) (st.x b)) s

/-- A form with one source (R249, R250). -/
def unOp (d a : BitVec 5) (f : W64 → W64) (s : State) : Out := regOp d [a] (fun st => f (st.x a)) s

/-- 1 or 0. -/
def flag64 (b : Bool) : W64 := if b then 1 else 0

/-- A shift amount (R249). -/
def shAmt (y : W64) : Nat := y.toNat % 64

/-- div of R249. -/
def divS (x y : W64) : W64 := if y = 0 then w64 (-1) else w64 (truncDiv x.toInt y.toInt)

/-- divn of R249. -/
def divU (x y : W64) : W64 := if y = 0 then w64 (-1) else BitVec.ofNat 64 (x.toNat / y.toNat)

/-- rem of R249. -/
def remS (x y : W64) : W64 := if y = 0 then x else w64 (x.toInt - y.toInt * truncDiv x.toInt y.toInt)

/-- remn of R249. -/
def remU (x y : W64) : W64 := if y = 0 then x else BitVec.ofNat 64 (x.toNat % y.toNat)

/-- ZEXT and SEXT of an immediate (R250). -/
def zimm (i : BitVec 16) : W64 := i.zeroExtend 64
def simm (i : BitVec 16) : W64 := i.signExtend 64

/-- add (R249). -/
def execAdd (d a b : BitVec 5) (s : State) : Out := aluOp d a b (fun x y => x + y) s

/-- sub (R249). -/
def execSub (d a b : BitVec 5) (s : State) : Out := aluOp d a b (fun x y => x - y) s

/-- and (R249). -/
def execAnd (d a b : BitVec 5) (s : State) : Out := aluOp d a b (fun x y => x &&& y) s

/-- or (R249). -/
def execOr (d a b : BitVec 5) (s : State) : Out := aluOp d a b (fun x y => x ||| y) s

/-- xor (R249). -/
def execXor (d a b : BitVec 5) (s : State) : Out := aluOp d a b (fun x y => x ^^^ y) s

/-- andn (R249). -/
def execAndn (d a b : BitVec 5) (s : State) : Out := aluOp d a b (fun x y => x &&& ~~~y) s

/-- sll (R249). -/
def execSll (d a b : BitVec 5) (s : State) : Out := aluOp d a b (fun x y => x <<< shAmt y) s

/-- srl (R249). -/
def execSrl (d a b : BitVec 5) (s : State) : Out := aluOp d a b (fun x y => x >>> shAmt y) s

/-- sra (R249). -/
def execSra (d a b : BitVec 5) (s : State) : Out := aluOp d a b (fun x y => x.sshiftRight (shAmt y)) s

/-- slt (R249). -/
def execSlt (d a b : BitVec 5) (s : State) : Out := aluOp d a b (fun x y => flag64 (decide (x.toInt < y.toInt))) s

/-- sltn (R249). -/
def execSltn (d a b : BitVec 5) (s : State) : Out := aluOp d a b (fun x y => flag64 (decide (x.toNat < y.toNat))) s

/-- min (R249). -/
def execMin (d a b : BitVec 5) (s : State) : Out := aluOp d a b (fun x y => if y.toInt < x.toInt then y else x) s

/-- max (R249). -/
def execMax (d a b : BitVec 5) (s : State) : Out := aluOp d a b (fun x y => if x.toInt < y.toInt then y else x) s

/-- minn (R249). -/
def execMinn (d a b : BitVec 5) (s : State) : Out := aluOp d a b (fun x y => if y.toNat < x.toNat then y else x) s

/-- maxn (R249). -/
def execMaxn (d a b : BitVec 5) (s : State) : Out := aluOp d a b (fun x y => if x.toNat < y.toNat then y else x) s

/-- mul (R249). -/
def execMul (d a b : BitVec 5) (s : State) : Out := aluOp d a b (fun x y => w64 (x.toInt * y.toInt)) s

/-- mulh (R249). -/
def execMulh (d a b : BitVec 5) (s : State) : Out := aluOp d a b (fun x y => w64 (floorDiv (x.toInt * y.toInt) (2 ^ 64))) s

/-- mulhn (R249). -/
def execMulhn (d a b : BitVec 5) (s : State) : Out := aluOp d a b (fun x y => BitVec.ofNat 64 (x.toNat * y.toNat / 2 ^ 64)) s

/-- div (R249). -/
def execDiv (d a b : BitVec 5) (s : State) : Out := aluOp d a b (fun x y => divS x y) s

/-- divn (R249). -/
def execDivn (d a b : BitVec 5) (s : State) : Out := aluOp d a b (fun x y => divU x y) s

/-- rem (R249). -/
def execRem (d a b : BitVec 5) (s : State) : Out := aluOp d a b (fun x y => remS x y) s

/-- remn (R249). -/
def execRemn (d a b : BitVec 5) (s : State) : Out := aluOp d a b (fun x y => remU x y) s

/-- addw (R249). -/
def execAddw (d a b : BitVec 5) (s : State) : Out := aluOp d a b (fun x y => (BitVec.truncate 32 (x + y)).signExtend 64) s

/-- clz (R249). -/
def execClz (d a : BitVec 5) (s : State) : Out := unOp d a (fun x => BitVec.ofNat 64 (leadZeros 64 x.toNat)) s

/-- ctz (R249). -/
def execCtz (d a : BitVec 5) (s : State) : Out := unOp d a (fun x => BitVec.ofNat 64 (trailZeros 64 x.toNat)) s

/-- popc (R249). -/
def execPopc (d a : BitVec 5) (s : State) : Out := unOp d a (fun x => BitVec.ofNat 64 (popCount 64 x.toNat)) s

/-- sext.w (R249). -/
def execSextW (d a : BitVec 5) (s : State) : Out := unOp d a (fun x => (BitVec.truncate 32 x).signExtend 64) s

/-- zext.w (R249). -/
def execZextW (d a : BitVec 5) (s : State) : Out := unOp d a (fun x => (BitVec.truncate 32 x).zeroExtend 64) s

/-- addi (R250). -/
def execAddi (d a : BitVec 5) (i : BitVec 16) (s : State) : Out := unOp d a (fun x => x + simm i) s

/-- andi (R250). -/
def execAndi (d a : BitVec 5) (i : BitVec 16) (s : State) : Out := unOp d a (fun x => x &&& zimm i) s

/-- ori (R250). -/
def execOri (d a : BitVec 5) (i : BitVec 16) (s : State) : Out := unOp d a (fun x => x ||| zimm i) s

/-- xori (R250). -/
def execXori (d a : BitVec 5) (i : BitVec 16) (s : State) : Out := unOp d a (fun x => x ^^^ zimm i) s

/-- slti (R250). -/
def execSlti (d a : BitVec 5) (i : BitVec 16) (s : State) : Out := unOp d a (fun x => flag64 (decide (x.toInt < (simm i).toInt))) s

/-- sltni (R250). -/
def execSltni (d a : BitVec 5) (i : BitVec 16) (s : State) : Out := unOp d a (fun x => flag64 (decide (x.toNat < (simm i).toNat))) s

/-- sll by an immediate amount (R250). -/
def execShiSll (d a : BitVec 5) (h : BitVec 6) (s : State) : Out := unOp d a (fun x => x <<< h.toNat) s

/-- srl by an immediate amount (R250). -/
def execShiSrl (d a : BitVec 5) (h : BitVec 6) (s : State) : Out := unOp d a (fun x => x >>> h.toNat) s

/-- sra by an immediate amount (R250). -/
def execShiSra (d a : BitVec 5) (h : BitVec 6) (s : State) : Out := unOp d a (fun x => x.sshiftRight h.toNat) s

/-- lui (R250). -/
def execLui (d : BitVec 5) (i : BitVec 16) (s : State) : Out := regOp d [] (fun _ => zimm i <<< 16) s

/-- auipc: the address of the auipc plus imm·2^16 (R250). -/
def execAuipc (d : BitVec 5) (i : BitVec 16) (s : State) : Out := regOp d [] (fun st => st.pc + (zimm i <<< 16)) s

/-- ld (R251). -/
def execLd (d b : BitVec 5) (z o c : BitVec 2) (i : BitVec 10) (s : State) : Out := loadOp true d b z o c i s

/-- ldn (R251). -/
def execLdn (d b : BitVec 5) (z o c : BitVec 2) (i : BitVec 10) (s : State) : Out := loadOp false d b z o c i s

/-- st (R251). -/
def execSt (d b : BitVec 5) (z o c : BitVec 2) (i : BitVec 10) (s : State) : Out := storeOp d b z o c i s

/-- amo.add (R256). -/
def execAmoAdd (d a b : BitVec 5) (c o : BitVec 2) (z : BitVec 1) (s : State) : Out := amoOp 0 d a b c o z s

/-- amo.and (R256). -/
def execAmoAnd (d a b : BitVec 5) (c o : BitVec 2) (z : BitVec 1) (s : State) : Out := amoOp 1 d a b c o z s

/-- amo.or (R256). -/
def execAmoOr (d a b : BitVec 5) (c o : BitVec 2) (z : BitVec 1) (s : State) : Out := amoOp 2 d a b c o z s

/-- amo.xor (R256). -/
def execAmoXor (d a b : BitVec 5) (c o : BitVec 2) (z : BitVec 1) (s : State) : Out := amoOp 3 d a b c o z s

/-- amo.min (R256). -/
def execAmoMin (d a b : BitVec 5) (c o : BitVec 2) (z : BitVec 1) (s : State) : Out := amoOp 4 d a b c o z s

/-- amo.max (R256). -/
def execAmoMax (d a b : BitVec 5) (c o : BitVec 2) (z : BitVec 1) (s : State) : Out := amoOp 5 d a b c o z s

/-- amo.minn (R256). -/
def execAmoMinn (d a b : BitVec 5) (c o : BitVec 2) (z : BitVec 1) (s : State) : Out := amoOp 6 d a b c o z s

/-- amo.maxn (R256). -/
def execAmoMaxn (d a b : BitVec 5) (c o : BitVec 2) (z : BitVec 1) (s : State) : Out := amoOp 7 d a b c o z s

/-- amo.swap (R256). -/
def execAmoSwap (d a b : BitVec 5) (c o : BitVec 2) (z : BitVec 1) (s : State) : Out := amoOp 8 d a b c o z s

/-- amo.cas (R256). -/
def execAmoCas (d a b : BitVec 5) (c o : BitVec 2) (z : BitVec 1) (s : State) : Out := amoOp 9 d a b c o z s

/-- A jump to a target, with a link register or none: the target is checked by R202 before anything is written (R257, R258). -/
def jumpTo (target : W64) (link : Option (BitVec 5)) (s : State) : Out :=
  if badTarget target then .next (s.trap 0x12 target)
  else
    match link with
    | some d => .next ((s.setX d (s.pc + 4)).goto target)
    | none => .next (s.goto target)

/-- A conditional branch (R257): the target is checked only when the branch is taken. -/
def branchOp (a b : BitVec 5) (i : BitVec 16) (taken : W64 → W64 → Bool) (s : State) : Out :=
  if s.pendAny [a, b] then .next s
  else if taken (s.x a) (s.x b) then jumpTo (s.pc + BitVec.ofInt 64 (4 * i.toInt)) none s
  else .next s.done

/-- beq (R257). -/
def execBeq (a b : BitVec 5) (i : BitVec 16) (s : State) : Out := branchOp a b i (fun x y => x == y) s

/-- bne (R257). -/
def execBne (a b : BitVec 5) (i : BitVec 16) (s : State) : Out := branchOp a b i (fun x y => x != y) s

/-- blt (R257). -/
def execBlt (a b : BitVec 5) (i : BitVec 16) (s : State) : Out := branchOp a b i (fun x y => decide (x.toInt < y.toInt)) s

/-- bge (R257). -/
def execBge (a b : BitVec 5) (i : BitVec 16) (s : State) : Out := branchOp a b i (fun x y => decide (y.toInt ≤ x.toInt)) s

/-- bltn (R257). -/
def execBltn (a b : BitVec 5) (i : BitVec 16) (s : State) : Out := branchOp a b i (fun x y => decide (x.toNat < y.toNat)) s

/-- bgen (R257). -/
def execBgen (a b : BitVec 5) (i : BitVec 16) (s : State) : Out := branchOp a b i (fun x y => decide (y.toNat ≤ x.toNat)) s

/-- j (R258). -/
def execJ (i : BitVec 26) (s : State) : Out := jumpTo (s.pc + BitVec.ofInt 64 (4 * i.toInt)) none s

/-- jal: links into x1 (R258). -/
def execJal (i : BitVec 26) (s : State) : Out :=
  if s.pendAny [1] then .next s else jumpTo (s.pc + BitVec.ofInt 64 (4 * i.toInt)) (some 1) s

/-- jalr: the target is computed before the link is written (R258). -/
def execJalr (d a : BitVec 5) (i : BitVec 16) (s : State) : Out :=
  if s.pendAny [d, a] then .next s else jumpTo (s.x a + simm i) (some d) s

/-- jtab (R259): every trap is taken at the jtab. -/
def execJtab (d a : BitVec 5) (i : BitVec 16) (s : State) : Out :=
  if s.pendAny [d, a] then .next s
  else if i.toNat ≤ (s.x a).toNat then .next s.done
  else
    let ta := s.x d
    let ea := ta + 4 * s.x a
    withRecord [d, a] ea 4 4 (fun bs st =>
      let target := ta + w64 (sextN (leNat bs) 32)
      if badTarget target then .next (st.trap 0x12 target)
      else .next ((st.goto target).updSeq st.cur fun q => { q with nextSeq := q.nextSeq + 1 })) s

/-- A fence takes its place in the program order (R118, R260): it stands in the way of the later accesses in its range until the earlier ones have performed,
and of no other. The store buffer merges nothing across it (R117). -/
def State.addFence (s : State) (base len : Nat) (c : BitVec 2) : State :=
  let f : RangeFence := { seq := s.nextSeqNo, base := base, len := len, scope := c.toNat, done := none, gave := Dep.zero }
  (s.updSeq s.cur fun q => { q with ranges := q.ranges ++ [f], nextSeq := q.nextSeq + 1, cut := q.nextSeq + 1 }).settleRanges s.cur

/-- fence (R118, R122, R260): it orders every access but those to windows, which pass it. -/
def execFence (c : BitVec 2) (s : State) : Out := .next (s.addFence 0 (2 ^ 64) c).done

/-- fence.rg (R118, R260): only the accesses that name a byte of the range are ordered, and all others pass it. -/
def execFenceRg (a b : BitVec 5) (c : BitVec 2) (s : State) : Out :=
  if s.pendAny [a, b] then .next s else .next (s.addFence (s.x a).toNat (s.x b).toNat c).done

/-- trap (R264, R319): raises the user trap with its code; an RSQ routes it by R300, the core takes it in its own handler. -/
def execTrap (i : BitVec 16) (s : State) : Out := .next (s.trap 1 (zimm i))

/-- ILLEGAL_INSTRUCTION (R201): the trap, with the word as its value. -/
def execIllegalInstruction (w : BitVec 32) (s : State) : Out := .next (s.trap 0x10 (w.zeroExtend 64))

/-- INSTRUCTION_FETCH_FAULT (R203, R371): the trap of a fetch that fails, at the address fetched. -/
def execInstructionFetchFault (s : State) : Out :=
  match s.fetchErr s.cur (s.levelOf s.cur) s.pc with
  | some (.mem m) =>
    -- a machine check on the walk leaves no word to execute (R364, R428; log 16)
    let u := s.threadFail s.cur m
    .next (if u.stoppedNow then u else u.trap 0x10 0)
  | some e => .next (s.accTrap e)
  | none => .next s

/-- INTERRUPT (R323): the lowest pending enabled SIP bit is delivered to S; an instruction that waits is abandoned (R290). -/
def execInterrupt (s : State) : Out :=
  match s.cur with
  | .ring r =>
    match s.ringInt r with
    | some n => .next (s.sBranch r (s.ring r).seq.pc (BitVec.ofNat 64 (2 ^ 63 + n)) (Config.intValue s.free))
    | none => .next s
  | .core _ => .next s

/-- MANAGEMENT_CORE_INTERRUPT (R328). -/
def execManagementCoreInterrupt (s : State) : Out :=
  match s.cur with
  | .core d =>
    match s.coreInt d with
    | some n => .next (s.coreTrap d (BitVec.ofNat 64 (2 ^ 63 + n)) (Config.intValue s.free))
    | none => .next s
  | .ring _ => .next s

/-- sret (R326): privileged at U; illegal on a management core (R319). -/
def execSret (s : State) : Out :=
  match s.cur with
  | .core _ => .next (s.trap 0x10 0xE0000000)
  | .ring r =>
    if (s.ring r).level = .u then .next (s.trap 0x11 0xE0000000)
    else
      let target := s.rcsr r 0x1003
      if badTarget target then .next (s.trap 0x12 target)
      else
        let st := s.rcsr r 0x1001
        let s1 := (s.setRcsr r 0x1001 (setFld (setFld st 0 0 (fld st 1 1)) 1 1 1)).setRcsr r 0x02C (BitVec.ofNat 64 (fld st 3 3))
        .next ((s1.goto target).updRing r fun x => { x with level := if bit st 2 then .s else .u })

/-- hret (R328): as sret, with HEPC and pie; privileged on a ring's RSQ. -/
def execHret (s : State) : Out :=
  match s.cur with
  | .ring _ => .next (s.trap 0x11 0xE0000001)
  | .core d =>
    let target := s.dcsr d 0x2003
    if badTarget target then .next (s.trap 0x12 target)
    else
      let st := s.dcsr d 0x2006
      .next ((s.setDcsr d 0x2006 (setFld (setFld st 0 0 (fld st 1 1)) 1 1 1)).goto target)

end Sys2Proof.Machine
end

