-- ==== Sys2Proof/Machine/SysInstr.lean ====
section
/-! DEFINITION. The forms of op 0x38 beside sret, hret, isave and irest: waiting for an interrupt, debug halts, invalidating translations,
strips, guards and scrubbing (R330 to R335, R338 to R340, R394, R404, R419, R423, R438). -/

namespace Sys2Proof.Machine

/-- A form that H alone executes: privileged on a ring's RSQ (R330). -/
def atH (i : Instr) (f : Nat → State → Out) (s : State) : Out :=
  match s.cur with
  | .ring _ => .next (s.trap 0x11 (wordOf i))
  | .core d => f d s

/-- The form ends with a status code in x[d] (R330, R340). -/
def State.status (s : State) (d : BitVec 5) (code : Nat) : Out := .next (s.setX d (statusWord code 0)).done

/-- A ring's wfi is satisfied: an enabled bit of SIP is set, or a pre-emption or a halt has reached the ring (R331). -/
def State.ringWakes (s : State) (r : Nat) : Bool :=
  fld (s.sip r &&& s.rcsr r 0x1009) 4 0 ≠ 0 || (s.strip (s.ring r).sbase).capture

/-- wfi (R331). -/
def execWfi (s : State) : Out :=
  match s.cur with
  | .ring r =>
    if (s.ring r).level = .u then .next (s.trap 0x11 (wordOf .wfi))
    else if s.ringWakes r then .next (s.updRing r fun x => { x with run := .run }).done
    else .next (s.updRing r fun x => { x with run := .wfi })
  | .core d =>
    if s.coreWake d then .next (s.updDie d fun x => { x with waiting := false }).done
    else .next (s.updDie d fun x => { x with waiting := true })

/-- The rings that a halt of ring r stops: its ring group, or itself (R332). -/
def State.haltRings (s : State) (r : Nat) : List Nat :=
  match (s.ring r).group.bind s.group? with
  | some g => runOf g.first g.k
  | none => [r]

/-- A group stands at a cycle boundary (R394). -/
def Group.atBoundary (g : Group) : Bool :=
  match g.stage with
  | .entry => true
  | .check => false
  | .elems => false
  | .loads => false
  | .blocks => false
  | .drains _ => false
  | .commit => false
  | .scr _ => false
  | .boundary => false
  | .switch _ => false

/-- A debug halt can take effect: the group stands at a cycle boundary, and no access of its RSQs is outstanding (R394). -/
def State.haltable (s : State) (r : Nat) : Bool :=
  (match (s.ring r).group.bind s.group? with
    | some g => g.draining || g.atBoundary
    | none => true) &&
  (s.haltRings r).all fun q => (s.ring q).seq.loads.isEmpty && (s.ring q).seq.stores.isEmpty

/-- A ring enters a debug halt; a wfi completes (R331, R394). -/
def Ring.halt (x : Ring) : Ring := { x.wakeUp with halted := true }

/-- halt (R332, R394). -/
def execHalt (d a : BitVec 5) (s : State) : Out :=
  atH (.halt d a) (fun _ t =>
    if t.pendAny [d, a] then .next t
    else
      let r := fld (t.x a) 6 0
      if fld (t.x a) 63 7 ≠ 0 then t.status d 1
      else if 3 ≤ (t.ring r).power then t.status d 4
      else if (t.ring r).halted then t.status d 0
      else if !t.haltable r then .next t
      else ((t.haltRings r).foldl (init := t) fun st q => st.updRing q Ring.halt).status d 0) s

/-- A ring leaves its debug halt, and parks if a sweep overran meanwhile (R357, R394). -/
def State.unhalt (s : State) (r : Nat) : State :=
  let s1 := s.updRing r fun x => { x with halted := false, due := none }
  match (s.ring r).due with
  | some serial => s1.overran r serial
  | none => s1

/-- dret: the debug halt of the whole group ends, and a pre-emption request that waited for it acts (R332, R394, R396). -/
def execDret (d a : BitVec 5) (s : State) : Out :=
  atH (.dret d a) (fun _ t =>
    if t.pendAny [d, a] then .next t
    else
      let r := fld (t.x a) 6 0
      if fld (t.x a) 63 7 ≠ 0 then t.status d 1
      else if 3 ≤ (t.ring r).power then t.status d 4
      else if !(t.ring r).halted then t.status d 2
      else
        (((t.haltRings r).foldl (init := t) State.unhalt).askAgain (t.ring r).sbase).status d 0) s

/-- No access of a ring that was translated earlier is still to perform: those of its RSQ, and the requests of its AGs (R334). -/
def Ring.drained (x : Ring) : Bool :=
  x.seq.loads.isEmpty && x.seq.stores.isEmpty && x.ags.all fun a => a.2.units.all (·.done)

/-- The rings of a VF have nothing outstanding. -/
def State.vfDrained (s : State) (v : Nat) : Bool := allRings.all fun r => (s.ring r).vf != some v || (s.ring r).drained

/-- Every agent of the device has nothing outstanding. -/
def State.allDrained (s : State) : Bool :=
  (allRings.all fun r => (s.ring r).drained) &&
    (List.range 4).all fun d => (s.die d).core.loads.isEmpty && (s.die d).core.stores.isEmpty

/-- The entries of a VF that predicates select leave every TLB and walk cache (R333). -/
def State.dropTlb (s : State) (v : Nat) (p : TlbEntry → Bool) (q : WalkEntry → Bool) : State :=
  { s with tlb := s.tlb.filter (fun e => !(e.owner == some v && p e)), walks := s.walks.filter fun w => !(w.owner == v && q w) }

/-- A tlbi of a ring's thread removes entries: what happens after it translates afresh, and an access that it does not happen before may still have been
translated through one of them (R334, R335). -/
def State.shedTlb (s : State) (r : Nat) (p : TlbEntry → Bool) (q : WalkEntry → Bool) : State :=
  let v := s.vfNum r
  let gone := s.tlb.filter fun e => e.owner == some v && p e
  (s.dropTlb v p q).updRing r fun x =>
    { x with shed := gone.map (fun e => (e, s.free)) ++ x.shed,
             seq := { x.seq with front := x.seq.front.acquire 0 { near := 0, wrote := [(Agent.code (.ring r), s.free)] } } }

/-- A table descriptor in a walk cache that tlbi.va removes (R333): one on the way to the page under the ASID, or one of stage 2, any of which may have been
combined with it (log 14). -/
def WalkEntry.onWay (w : WalkEntry) (asid : BitVec 16) (va : Nat) : Bool := w.stage == 2 || (w.asid == some asid && w.pre == walkPre w.level va)

/-- tlbi.va (R333, R334). -/
def execTlbiVa (a b : BitVec 5) (s : State) : Out :=
  atS (.tlbiVa a b) (fun r t =>
    if t.pendAny [a, b] then .next t
    else if !t.quiet || !t.vfDrained (t.vfNum r) then .next t
    else
      let va := (t.x a).toNat
      let lo := va / 65536 * 65536
      let asid : BitVec 16 := BitVec.truncate 16 (t.x b)
      .next (t.shedTlb r (fun e =>
        (e.asid == none || e.asid == some asid) && decide (e.page < lo + 65536) && decide (lo < e.page + e.size)) (fun w => w.onWay asid va)).done) s

/-- tlbi.asid: global entries stay (R333, R334). -/
def execTlbiAsid (a : BitVec 5) (s : State) : Out :=
  atS (.tlbiAsid a) (fun r t =>
    if t.pendAny [a] then .next t
    else if !t.quiet || !t.vfDrained (t.vfNum r) then .next t
    else
      let asid : BitVec 16 := BitVec.truncate 16 (t.x a)
      .next (t.shedTlb r (fun e => e.asid == some asid) (fun w => w.asid == some asid)).done) s

/-- tlbi.vf (R333, R334). -/
def execTlbiVf (a : BitVec 5) (s : State) : Out :=
  atH (.tlbiVf a) (fun _ t =>
    if t.pendAny [a] then .next t
    else
      let v := fld (t.x a) 6 0
      if !t.quiet || !t.vfDrained v then .next t else .next (t.dropTlb v (fun _ => true) (fun _ => true)).done) s

/-- tlbi.all (R333, R334). -/
def execTlbiAll (s : State) : Out :=
  atH .tlbiAll (fun _ t => if !t.quiet || !t.allDrained then .next t else .next { t with tlb := [], walks := [] }.done) s

/-- A strip record (R338). -/
structure StripRec where
  base : Nat
  len : Nat
  vf : Nat
  ts : Bool
  deriving DecidableEq, Repr

def stripRecOf (l : List Byte) : StripRec := { base := field l 0 1, len := field l 1 1, vf := field l 2 1, ts := field l 3 1 % 2 == 1 }

/-- The ranges and reserved fields of a strip record (R338). -/
def stripRecOk (l : List Byte) : Bool :=
  let q := stripRecOf l
  decide (q.base < 128) && decide (1 ≤ q.len) && decide (q.base + q.len ≤ 128) && (decide (q.vf < 128) || q.vf == 0xFF) &&
    decide (field l 3 1 < 2) && zeroBytes l 4 12

/-- A ring that ccfg may assign or release: RSTAT idle, and on (R338, R438). -/
def State.configurable (s : State) (r : Nat) : Bool := (s.ring r).idle && s.offered r

/-- The state in which rings may be assigned (R338, R419, R423). -/
def State.assignable (s : State) (q : StripRec) : Bool :=
  ((runOf q.base q.len).all fun r => (s.ring r).vf.isNone && s.configurable r && (s.bootKind != 2 || r % 32 == 0)) &&
    (List.range 3).all fun d =>
      !(decide (q.base ≤ 32 * d + 31) && decide (32 * d + 32 ≤ q.base + q.len - 1)) || bit (s.link d 2) 0

/-- A ring as ccfg assigns it (R338): billets disarmed, token queues empty, the S CSRs and the scheduler's registers at their reset values (R322,
R353). -/
def Ring.assign (x : Ring) (q : StripRec) : Ring :=
  { x with sbase := q.base, slen := q.len, vf := some q.vf, rvf := q.vf, owner := some q.vf, cleanPool := false, cleanCamp := false, shared := q.ts,
           csr := x.csr.filter fun e => decide (e.1 < 0x1000) || (decide (0x2000 ≤ e.1) && !(decide (0x2110 ≤ e.1) && decide (e.1 ≤ 0x211A))), billets := [], ferr := [], aerr := [], tqs := [],
           edge := [], tenantCsr := [], tenantPend := [], tenantNote := [] }

/-- Assigning a strip (R338): its rings, its guards, the VF's registers, and on a time-shared strip its first tenant (R353). -/
def State.assign (s : State) (q : StripRec) : State :=
  let s1 := (runOf q.base q.len).foldl (init := s) fun st r => st.updRing r fun x => x.assign q
  let s2 := s1.updVf q.vf fun f => { f with csr := [], qpErr := [] }
  let s3 := (((s2.setStrip q.base Strip.reset).setRcsr q.base 0x2130 0).setRcsr q.base 0x2131 0).setRcsr q.base 0x2132 0
  if q.ts then s3.setRcsr q.base 0x2111 (BitVec.ofNat 64 (128 + q.vf)) else s3

/-- The state in which a strip may be released (R338): not while a capture of it is asked for (log 94). -/
def State.releasable (s : State) (q : StripRec) : Bool :=
  (s.ring q.base).vf.isSome && (s.ring q.base).sbase == q.base && (s.ring q.base).slen == q.len &&
    (runOf q.base q.len).all s.configurable && !(s.strip q.base).capture

/-- ccfg (R338). -/
def execCcfg (d a : BitVec 5) (s : State) : Out :=
  atH (.ccfg d a) (fun _ u =>
    if u.pendAny [d, a] then .next u
    else
      withRecord [a] (u.x a) 16 16 (fun l t =>
        let q := stripRecOf l
        if !stripRecOk l then t.status d 5
        else if q.vf = 0xFF then
          if t.releasable q then ((runOf q.base q.len).foldl (init := t) fun st r => st.updRing r fun x => { x with vf := none }).status d 0
          else t.status d 2
        else if !t.assignable q then t.status d 2
        else if (runOf q.base q.len).any fun r => (t.ring r).owner.any (· != q.vf) then t.status d 3
        else (t.assign q).status d 0) u) s

/-- gcfg (R339). -/
def execGcfg (d a : BitVec 5) (s : State) : Out :=
  atH (.gcfg d a) (fun _ u =>
    if u.pendAny [d, a] then .next u
    else
      withRecord [a] (u.x a) 16 16 (fun l t =>
        let b := field l 0 1
        let flags := field l 1 1
        if 4 ≤ flags ∨ !zeroBytes l 4 12 then t.status d 5
        else if 128 ≤ b ∨ !t.stripSel b then t.status d 2
        else
          let clr := flags % 2 == 1
          let t1 := t.updStrip b fun x => { x with mute := flags / 2 == 1, gap := field l 2 2, muted := x.muted && !clr }
          (if clr then ((t1.setRcsr b 0x2130 0).setRcsr b 0x2131 0).setRcsr b 0x2132 0 else t1).status d 0) u) s

/-- A ring is idle and no phase holds it (R340). -/
def State.atEase (s : State) (r : Nat) : Bool := (s.ring r).idle && (s.ring r).group.isNone

/-- The owner tag goes once both sets of banks are clean (R340). -/
def Ring.scrubbed (x : Ring) (pool camp : Bool) : Ring :=
  if x.vf.isSome then x
  else
    let p := x.cleanPool || pool
    let c := x.cleanCamp || camp
    { x with cleanPool := p, cleanCamp := c, owner := if p && c then none else x.owner }

/-- scrub (R340, R438). -/
def execScrub (d a : BitVec 5) (s : State) : Out :=
  atH (.scrub d a) (fun _ t =>
    if t.pendAny [d, a] then .next t
    else
      let v := t.x a
      let r := fld v 6 0
      let pool := bit v 8
      let camp := bit v 9
      if bit v 7 ∨ fld v 63 10 ≠ 0 then t.status d 1
      else if 3 ≤ (t.ring r).power then t.status d 4
      else if !t.atEase r ∨
          (camp ∧ (t.ring r).vf.isSome ∧ ((t.stripRings (t.ring r).sbase).any fun q => !t.atEase q) = true) then t.status d 2
      else ((t.wipe r pool camp).updRing r fun x => x.scrubbed pool camp).status d 0) s

end Sys2Proof.Machine
end

