-- ==== Sys2Proof/Machine/VeInt.lean ====
section
/-! DEFINITION. The integer, shift, logic and move words of a VE (R214 to R216). -/

namespace Sys2Proof.Machine

/-- nop reads nothing and writes nothing (R210). -/
def execNop (s : State) : Host.Outcome State Fault Refusal := .next s

/-- mov gives A (R216). -/
def execMov (a _b d : BitVec 5) (g : BitVec 2) (s : State) : Host.Outcome State Fault Refusal :=
  .next (veOp1 g a d (fun _ x => x) s)

/-- An integer form with lane function f (R213). -/
def veIntOp (t : BitVec 4) (a b d : BitVec 5) (g : BitVec 2) (sat : BitVec 1) (f : Int → Int → Int → Int) (s : State) : State :=
  veOp2 g a b d (fun _ x z w => intLanes t.toNat (sat == 1#1) f x z w) s

/-- The same with one operand. -/
def veIntOp1 (t : BitVec 4) (a d : BitVec 5) (g : BitVec 2) (sat : BitVec 1) (f : Int → Int) (s : State) : State :=
  veOp1 g a d (fun _ x => intLanes t.toNat (sat == 1#1) (fun v _ _ => f v) x 0 0) s

/-- add: x + z (R214). -/
def execVeAdd (t : BitVec 4) (a b d : BitVec 5) (g : BitVec 2) (s : BitVec 1) (st : State) : Host.Outcome State Fault Refusal :=
  .next (veIntOp t a b d g s (fun x z _ => x + z) st)

/-- sub: x - z (R214). -/
def execVeSub (t : BitVec 4) (a b d : BitVec 5) (g : BitVec 2) (s : BitVec 1) (st : State) : Host.Outcome State Fault Refusal :=
  .next (veIntOp t a b d g s (fun x z _ => x - z) st)

/-- mul: x · z (R214). -/
def execVeMul (t : BitVec 4) (a b d : BitVec 5) (g : BitVec 2) (s : BitVec 1) (st : State) : Host.Outcome State Fault Refusal :=
  .next (veIntOp t a b d g s (fun x z _ => x * z) st)

/-- mulh: the high half of the product (R214). -/
def execVeMulh (t : BitVec 4) (a b d : BitVec 5) (g : BitVec 2) (st : State) : Host.Outcome State Fault Refusal :=
  .next (veIntOp t a b d g 0 (fun x z _ => floorDiv (x * z) ((2 ^ laneW t.toNat : Nat) : Int)) st)

/-- mad: x · z + w, rounded nowhere (R214). -/
def execMad (t : BitVec 4) (a b d : BitVec 5) (g : BitVec 2) (s : BitVec 1) (st : State) : Host.Outcome State Fault Refusal :=
  .next (veIntOp t a b d g s (fun x z w => x * z + w) st)

/-- min (R214). -/
def execVeMin (t : BitVec 4) (a b d : BitVec 5) (g : BitVec 2) (st : State) : Host.Outcome State Fault Refusal :=
  .next (veIntOp t a b d g 0 (fun x z _ => min x z) st)

/-- max (R214). -/
def execVeMax (t : BitVec 4) (a b d : BitVec 5) (g : BitVec 2) (st : State) : Host.Outcome State Fault Refusal :=
  .next (veIntOp t a b d g 0 (fun x z _ => max x z) st)

/-- abs (R214). -/
def execAbs (t : BitVec 4) (a _b d : BitVec 5) (g : BitVec 2) (s : BitVec 1) (st : State) : Host.Outcome State Fault Refusal :=
  .next (veIntOp1 t a d g s (fun x => (x.natAbs : Int)) st)

/-- neg (R214). -/
def execNeg (t : BitVec 4) (a _b d : BitVec 5) (g : BitVec 2) (s : BitVec 1) (st : State) : Host.Outcome State Fault Refusal :=
  .next (veIntOp1 t a d g s (fun x => -x) st)

/-- and, on the whole word (R216). -/
def execVeAnd (a b d : BitVec 5) (g : BitVec 2) (s : State) : Host.Outcome State Fault Refusal :=
  .next (veOp2 g a b d (fun _ x z _ => x &&& z) s)

/-- or (R216). -/
def execVeOr (a b d : BitVec 5) (g : BitVec 2) (s : State) : Host.Outcome State Fault Refusal :=
  .next (veOp2 g a b d (fun _ x z _ => x ||| z) s)

/-- xor (R216). -/
def execVeXor (a b d : BitVec 5) (g : BitVec 2) (s : State) : Host.Outcome State Fault Refusal :=
  .next (veOp2 g a b d (fun _ x z _ => x ^^^ z) s)

/-- andn: A and not B (R216). -/
def execVeAndn (a b d : BitVec 5) (g : BitVec 2) (s : State) : Host.Outcome State Fault Refusal :=
  .next (veOp2 g a b d (fun _ x z _ => x &&& ~~~z) s)

/-- not (R216). -/
def execNot (a _b d : BitVec 5) (g : BitVec 2) (s : State) : Host.Outcome State Fault Refusal :=
  .next (veOp1 g a d (fun _ x => ~~~x) s)

/-- A shift form: the lane of A and the amount z mod W, the lane of B taken unsigned (R215). -/
def veShift (t : BitVec 4) (a b d : BitVec 5) (g : BitVec 2) (sat : Bool) (f : Int → Nat → Int) (s : State) : State :=
  veOp2 g a b d (fun _ x z _ => mapLanes t.toNat fun i =>
    let r := f (laneInt t.toNat x i) (laneBits t.toNat z i % laneW t.toNat)
    zextI (if sat then satInt (tySigned t.toNat) (laneW t.toNat) r else r) (laneW t.toNat)) s

/-- shl: x · 2^s, wrapped or saturated (R215). -/
def execShl (t : BitVec 4) (a b d : BitVec 5) (g : BitVec 2) (s : BitVec 1) (st : State) : Host.Outcome State Fault Refusal :=
  .next (veShift t a b d g (s == 1#1) (fun x n => x * ((2 ^ n : Nat) : Int)) st)

/-- shr: floor(x / 2^s) (R215). -/
def execShr (t : BitVec 4) (a b d : BitVec 5) (g : BitVec 2) (st : State) : Host.Outcome State Fault Refusal :=
  .next (veShift t a b d g false (fun x n => floorDiv x ((2 ^ n : Nat) : Int)) st)

/-- rol: the lane's bits rotated left by s (R215). -/
def execRol (t : BitVec 4) (a b d : BitVec 5) (g : BitVec 2) (st : State) : Host.Outcome State Fault Refusal :=
  .next (veShift t a b d g false (fun x n =>
    let u := zextI x (laneW t.toNat)
    ((u * 2 ^ n + u / 2 ^ (laneW t.toNat - n) : Nat) : Int)) st)

/-- clz: leading zero bits of each lane (R215). -/
def execVeClz (t : BitVec 4) (a _b d : BitVec 5) (g : BitVec 2) (st : State) : Host.Outcome State Fault Refusal :=
  .next (veOp1 g a d (fun _ x => mapLanes t.toNat fun i => leadZeros (laneW t.toNat) (laneBits t.toNat x i)) st)

/-- popc: one bits of each lane (R215). -/
def execVePopc (t : BitVec 4) (a _b d : BitVec 5) (g : BitVec 2) (st : State) : Host.Outcome State Fault Refusal :=
  .next (veOp1 g a d (fun _ x => mapLanes t.toNat fun i => popCount (laneW t.toNat) (laneBits t.toNat x i)) st)

/-- avg: floor((x + z + 1) / 2) (R214). -/
def execAvg (t : BitVec 4) (a b d : BitVec 5) (g : BitVec 2) (st : State) : Host.Outcome State Fault Refusal :=
  .next (veIntOp t a b d g 0 (fun x z _ => floorDiv (x + z + 1) 2) st)

/-- addi: A + SEXT(imm, 11) (R216). -/
def execVeAddi (_t : BitVec 1) (a : BitVec 5) (i : BitVec 11) (d : BitVec 5) (st : State) : Host.Outcome State Fault Refusal :=
  .next (veImm [a] (fun o s => o.w.writeDest false 0 d (o.get a + i.signExtend 32) s) st)

/-- movi: SEXT(imm, 11) (R216). -/
def execMovi (_a : BitVec 5) (i : BitVec 11) (d : BitVec 5) (st : State) : Host.Outcome State Fault Refusal :=
  .next (veImm [] (fun o s => o.w.writeDest false 0 d (i.signExtend 32) s) st)

end Sys2Proof.Machine
end

