-- ==== Sys2Proof/Machine/Dispatch.lean ====
section
/-! DEFINITION. The dispatcher: one arm per row of the opcode table, each a direct call of that row's meaning. -/

namespace Sys2Proof.Machine

/-- The effect of an instruction or event on the device. -/
def exec (i : Instr) (s : State) : Host.Outcome State Fault Refusal :=
  match i with
  | .itemTimeBoundary g => Sys2Proof.Machine.execItemTimeBoundary g s
  | .itemAdmission g => Sys2Proof.Machine.execItemAdmission g s
  | .slotSwitch r => Sys2Proof.Machine.execSlotSwitch r s
  | .scrJobStep r => Sys2Proof.Machine.execScrJobStep r s
  | .phaseRetirement g => Sys2Proof.Machine.execPhaseRetirement g s
  | .mergeDeadlock g => Sys2Proof.Machine.execMergeDeadlock g s
  | .agLineRequest r ag => Sys2Proof.Machine.execAgLineRequest r ag s
  | .agLineCompletion r ag k => Sys2Proof.Machine.execAgLineCompletion r ag k s
  | .prqHeldPlacement die => Sys2Proof.Machine.execPrqHeldPlacement die s
  | .bankLoadWriteback g => Sys2Proof.Machine.execBankLoadWriteback g s
  | .accDrain g blk => Sys2Proof.Machine.execAccDrain g blk s
  | .tileDecision g => Sys2Proof.Machine.execTileDecision g s
  | .copyAccept r => Sys2Proof.Machine.execCopyAccept r s
  | .billetFire r => Sys2Proof.Machine.execBilletFire r s
  | .copyComplete r k => Sys2Proof.Machine.execCopyComplete r k s
  | .remoteWriteImmediateArrival vf qp addr data imm => Sys2Proof.Machine.execRemoteWriteImmediateArrival vf qp addr data imm s
  | .remoteRetryExhausted r k => Sys2Proof.Machine.execRemoteRetryExhausted r k s
  | .asyncMaskSatisfied r k => Sys2Proof.Machine.execAsyncMaskSatisfied r k s
  | .ploadAccept r k => Sys2Proof.Machine.execPloadAccept r k s
  | .loadWriteback th k part => Sys2Proof.Machine.execLoadWriteback th k part s
  | .storePerform th k => Sys2Proof.Machine.execStorePerform th k s
  | .supervisorTimer r => Sys2Proof.Machine.execSupervisorTimer r s
  | .hypervisorTimer die => Sys2Proof.Machine.execHypervisorTimer die s
  | .sweepmaxOverrun g => Sys2Proof.Machine.execSweepmaxOverrun g s
  | .preemptionCapture r => Sys2Proof.Machine.execPreemptionCapture r s
  | .tenantSwitch r => Sys2Proof.Machine.execTenantSwitch r s
  | .tsentEnable idx v => Sys2Proof.Machine.execTsentEnable idx v s
  | .rnoteWrite v => Sys2Proof.Machine.execRnoteWrite v s
  | .hevtRead rd => Sys2Proof.Machine.execHevtRead rd s
  | .prqpopRead rd => Sys2Proof.Machine.execPrqpopRead rd s
  | .wmemWrite half v => Sys2Proof.Machine.execWmemWrite half v s
  | .powerTransitionComplete r => Sys2Proof.Machine.execPowerTransitionComplete r s
  | .tokenWake r q tok => Sys2Proof.Machine.execTokenWake r q tok s
  | .powerOnStart failStep => Sys2Proof.Machine.execPowerOnStart failStep s
  | .bootctlCold failStep => Sys2Proof.Machine.execBootctlCold failStep s
  | .bootctlWarm failStep => Sys2Proof.Machine.execBootctlWarm failStep s
  | .i3cStartRequest cold failStep => Sys2Proof.Machine.execI3cStartRequest cold failStep s
  | .i3cRead idx => Sys2Proof.Machine.execI3cRead idx s
  | .droopTrip die => Sys2Proof.Machine.execDroopTrip die s
  | .fclkRaise die => Sys2Proof.Machine.execFclkRaise die s
  | .linkStateChange die link up => Sys2Proof.Machine.execLinkStateChange die link up s
  | .lqtailWrite v => Sys2Proof.Machine.execLqtailWrite v s
  | .doorbellWrite addr v => Sys2Proof.Machine.execDoorbellWrite addr v s
  | .launchConsume vf => Sys2Proof.Machine.execLaunchConsume vf s
  | .ldoneWrite v => Sys2Proof.Machine.execLdoneWrite v s
  | .launchPacket die etype bytes => Sys2Proof.Machine.execLaunchPacket die etype bytes s
  | .rdbgdRead rd => Sys2Proof.Machine.execRdbgdRead rd s
  | .rdbgdWrite v => Sys2Proof.Machine.execRdbgdWrite v s
  | .registerWrite n v => Sys2Proof.Machine.execRegisterWrite n v s
  | .mov a b d g => Sys2Proof.Machine.execMov a b d g s
  | .veAdd t a b d g sf => Sys2Proof.Machine.execVeAdd t a b d g sf s
  | .veSub t a b d g sf => Sys2Proof.Machine.execVeSub t a b d g sf s
  | .veMul t a b d g sf => Sys2Proof.Machine.execVeMul t a b d g sf s
  | .veMulh t a b d g => Sys2Proof.Machine.execVeMulh t a b d g s
  | .mad t a b d g sf => Sys2Proof.Machine.execMad t a b d g sf s
  | .veMin t a b d g => Sys2Proof.Machine.execVeMin t a b d g s
  | .veMax t a b d g => Sys2Proof.Machine.execVeMax t a b d g s
  | .abs t a b d g sf => Sys2Proof.Machine.execAbs t a b d g sf s
  | .neg t a b d g sf => Sys2Proof.Machine.execNeg t a b d g sf s
  | .veAnd a b d g => Sys2Proof.Machine.execVeAnd a b d g s
  | .veOr a b d g => Sys2Proof.Machine.execVeOr a b d g s
  | .veXor a b d g => Sys2Proof.Machine.execVeXor a b d g s
  | .veAndn a b d g => Sys2Proof.Machine.execVeAndn a b d g s
  | .not a b d g => Sys2Proof.Machine.execNot a b d g s
  | .shl t a b d g sf => Sys2Proof.Machine.execShl t a b d g sf s
  | .shr t a b d g => Sys2Proof.Machine.execShr t a b d g s
  | .rol t a b d g => Sys2Proof.Machine.execRol t a b d g s
  | .veClz t a b d g => Sys2Proof.Machine.execVeClz t a b d g s
  | .vePopc t a b d g => Sys2Proof.Machine.execVePopc t a b d g s
  | .avg t a b d g => Sys2Proof.Machine.execAvg t a b d g s
  | .veAddi t a im d => Sys2Proof.Machine.execVeAddi t a im d s
  | .movi a im d => Sys2Proof.Machine.execMovi a im d s
  | .cmpEq t a b q g => Sys2Proof.Machine.execCmpEq t a b q g s
  | .cmpNe t a b q g => Sys2Proof.Machine.execCmpNe t a b q g s
  | .cmpLt t a b q g => Sys2Proof.Machine.execCmpLt t a b q g s
  | .cmpLe t a b q g => Sys2Proof.Machine.execCmpLe t a b q g s
  | .cmpGt t a b q g => Sys2Proof.Machine.execCmpGt t a b q g s
  | .cmpGe t a b q g => Sys2Proof.Machine.execCmpGe t a b q g s
  | .cmpUn t a b q g => Sys2Proof.Machine.execCmpUn t a b q g s
  | .plog f a b q g => Sys2Proof.Machine.execPlog f a b q g s
  | .sel p a b d g => Sys2Proof.Machine.execSel p a b d g s
  | .clamp t a b d g => Sys2Proof.Machine.execClamp t a b d g s
  | .gate q g => Sys2Proof.Machine.execGate q g s
  | .steer a q => Sys2Proof.Machine.execSteer a q s
  | .fadd t a b d g sf r => Sys2Proof.Machine.execFadd t a b d g sf r s
  | .fsub t a b d g sf r => Sys2Proof.Machine.execFsub t a b d g sf r s
  | .fmul t a b d g sf r => Sys2Proof.Machine.execFmul t a b d g sf r s
  | .fma t a b d g sf r => Sys2Proof.Machine.execFma t a b d g sf r s
  | .fms t a b d g sf r => Sys2Proof.Machine.execFms t a b d g sf r s
  | .fmin t a b d g => Sys2Proof.Machine.execFmin t a b d g s
  | .fmax t a b d g => Sys2Proof.Machine.execFmax t a b d g s
  | .fabs t a b d g => Sys2Proof.Machine.execFabs t a b d g s
  | .fneg t a b d g => Sys2Proof.Machine.execFneg t a b d g s
  | .frnd t a b d g r => Sys2Proof.Machine.execFrnd t a b d g r s
  | .fclamp t a b d g => Sys2Proof.Machine.execFclamp t a b d g s
  | .cvt t a c d g sf r x => Sys2Proof.Machine.execCvt t a c d g sf r x s
  | .pack t a b d g sf r x => Sys2Proof.Machine.execPack t a b d g sf r x s
  | .unpklo t a b d g => Sys2Proof.Machine.execUnpklo t a b d g s
  | .unpkhi t a b d g => Sys2Proof.Machine.execUnpkhi t a b d g s
  | .exp2 a b d g r => Sys2Proof.Machine.execExp2 a b d g r s
  | .log2 a b d g r => Sys2Proof.Machine.execLog2 a b d g r s
  | .rcp a b d g r => Sys2Proof.Machine.execRcp a b d g r s
  | .rsq a b d g r => Sys2Proof.Machine.execRsq a b d g r s
  | .tanh a b d g r => Sys2Proof.Machine.execTanh a b d g r s
  | .dot t a b d g sf r => Sys2Proof.Machine.execDot t a b d g sf r s
  | .dotx a b d g sf => Sys2Proof.Machine.execDotx a b d g sf s
  | .ldb a b d g => Sys2Proof.Machine.execLdb a b d g s
  | .stb a b d g => Sys2Proof.Machine.execStb a b d g s
  | .ldbi a im d => Sys2Proof.Machine.execLdbi a im d s
  | .stbi a im d => Sys2Proof.Machine.execStbi a im d s
  | .atadd a b d g => Sys2Proof.Machine.execAtadd a b d g s
  | .atmin t a b d g => Sys2Proof.Machine.execAtmin t a b d g s
  | .atmax t a b d g => Sys2Proof.Machine.execAtmax t a b d g s
  | .atxchg a b d g => Sys2Proof.Machine.execAtxchg a b d g s
  | .atcas a b d g => Sys2Proof.Machine.execAtcas a b d g s
  | .ldt a b d g => Sys2Proof.Machine.execLdt a b d g s
  | .stt a b d g => Sys2Proof.Machine.execStt a b d g s
  | .emit a b d g => Sys2Proof.Machine.execEmit a b d g s
  | .dropw a b d g => Sys2Proof.Machine.execDropw a b d g s
  | .pcnt a b d g => Sys2Proof.Machine.execPcnt a b d g s
  | .eos a b q g => Sys2Proof.Machine.execEos a b q g s
  | .mma f k a b o l e d sf => Sys2Proof.Machine.execMma f k a b o l e d sf s
  | .mmx f k a b o l e d sf => Sys2Proof.Machine.execMmx f k a b o l e d sf s
  | .azero k => Sys2Proof.Machine.execAzero k s
  | .adrain k d sf => Sys2Proof.Machine.execAdrain k d sf s
  | .aload k => Sys2Proof.Machine.execAload k s
  | .ascale k im => Sys2Proof.Machine.execAscale k im s
  | .add d a b => Sys2Proof.Machine.execAdd d a b s
  | .sub d a b => Sys2Proof.Machine.execSub d a b s
  | .and d a b => Sys2Proof.Machine.execAnd d a b s
  | .or d a b => Sys2Proof.Machine.execOr d a b s
  | .xor d a b => Sys2Proof.Machine.execXor d a b s
  | .andn d a b => Sys2Proof.Machine.execAndn d a b s
  | .sll d a b => Sys2Proof.Machine.execSll d a b s
  | .srl d a b => Sys2Proof.Machine.execSrl d a b s
  | .sra d a b => Sys2Proof.Machine.execSra d a b s
  | .slt d a b => Sys2Proof.Machine.execSlt d a b s
  | .sltn d a b => Sys2Proof.Machine.execSltn d a b s
  | .min d a b => Sys2Proof.Machine.execMin d a b s
  | .max d a b => Sys2Proof.Machine.execMax d a b s
  | .minn d a b => Sys2Proof.Machine.execMinn d a b s
  | .maxn d a b => Sys2Proof.Machine.execMaxn d a b s
  | .mul d a b => Sys2Proof.Machine.execMul d a b s
  | .mulh d a b => Sys2Proof.Machine.execMulh d a b s
  | .mulhn d a b => Sys2Proof.Machine.execMulhn d a b s
  | .div d a b => Sys2Proof.Machine.execDiv d a b s
  | .divn d a b => Sys2Proof.Machine.execDivn d a b s
  | .rem d a b => Sys2Proof.Machine.execRem d a b s
  | .remn d a b => Sys2Proof.Machine.execRemn d a b s
  | .clz d a => Sys2Proof.Machine.execClz d a s
  | .ctz d a => Sys2Proof.Machine.execCtz d a s
  | .popc d a => Sys2Proof.Machine.execPopc d a s
  | .sextW d a => Sys2Proof.Machine.execSextW d a s
  | .zextW d a => Sys2Proof.Machine.execZextW d a s
  | .addw d a b => Sys2Proof.Machine.execAddw d a b s
  | .addi d a im => Sys2Proof.Machine.execAddi d a im s
  | .andi d a im => Sys2Proof.Machine.execAndi d a im s
  | .ori d a im => Sys2Proof.Machine.execOri d a im s
  | .xori d a im => Sys2Proof.Machine.execXori d a im s
  | .slti d a im => Sys2Proof.Machine.execSlti d a im s
  | .sltni d a im => Sys2Proof.Machine.execSltni d a im s
  | .shiSll d a h => Sys2Proof.Machine.execShiSll d a h s
  | .shiSrl d a h => Sys2Proof.Machine.execShiSrl d a h s
  | .shiSra d a h => Sys2Proof.Machine.execShiSra d a h s
  | .lui d im => Sys2Proof.Machine.execLui d im s
  | .auipc d im => Sys2Proof.Machine.execAuipc d im s
  | .ld d b z o c im => Sys2Proof.Machine.execLd d b z o c im s
  | .ldn d b z o c im => Sys2Proof.Machine.execLdn d b z o c im s
  | .st d b z o c im => Sys2Proof.Machine.execSt d b z o c im s
  | .amoAdd d a b c o z => Sys2Proof.Machine.execAmoAdd d a b c o z s
  | .amoAnd d a b c o z => Sys2Proof.Machine.execAmoAnd d a b c o z s
  | .amoOr d a b c o z => Sys2Proof.Machine.execAmoOr d a b c o z s
  | .amoXor d a b c o z => Sys2Proof.Machine.execAmoXor d a b c o z s
  | .amoMin d a b c o z => Sys2Proof.Machine.execAmoMin d a b c o z s
  | .amoMax d a b c o z => Sys2Proof.Machine.execAmoMax d a b c o z s
  | .amoMinn d a b c o z => Sys2Proof.Machine.execAmoMinn d a b c o z s
  | .amoMaxn d a b c o z => Sys2Proof.Machine.execAmoMaxn d a b c o z s
  | .amoSwap d a b c o z => Sys2Proof.Machine.execAmoSwap d a b c o z s
  | .amoCas d a b c o z => Sys2Proof.Machine.execAmoCas d a b c o z s
  | .beq a b im => Sys2Proof.Machine.execBeq a b im s
  | .bne a b im => Sys2Proof.Machine.execBne a b im s
  | .blt a b im => Sys2Proof.Machine.execBlt a b im s
  | .bge a b im => Sys2Proof.Machine.execBge a b im s
  | .bltn a b im => Sys2Proof.Machine.execBltn a b im s
  | .bgen a b im => Sys2Proof.Machine.execBgen a b im s
  | .j im => Sys2Proof.Machine.execJ im s
  | .jal im => Sys2Proof.Machine.execJal im s
  | .jalr d a im => Sys2Proof.Machine.execJalr d a im s
  | .jtab d a im => Sys2Proof.Machine.execJtab d a im s
  | .fence c => Sys2Proof.Machine.execFence c s
  | .fenceRg a b c => Sys2Proof.Machine.execFenceRg a b c s
  | .csrr d n => Sys2Proof.Machine.execCsrr d n s
  | .csrw a n => Sys2Proof.Machine.execCsrw a n s
  | .trap im => Sys2Proof.Machine.execTrap im s
  | .pload d a sf w => Sys2Proof.Machine.execPload d a sf w s
  | .pwait a => Sys2Proof.Machine.execPwait a s
  | .cpy d a sf w => Sys2Proof.Machine.execCpy d a sf w s
  | .cpyB d a sf w => Sys2Proof.Machine.execCpyB d a sf w s
  | .billetArm d a => Sys2Proof.Machine.execBilletArm d a s
  | .billetDisarm d => Sys2Proof.Machine.execBilletDisarm d s
  | .tqpush a n => Sys2Proof.Machine.execTqpush a n s
  | .tqcnt d n => Sys2Proof.Machine.execTqcnt d n s
  | .waitd w => Sys2Proof.Machine.execWaitd w s
  | .waitt a sf => Sys2Proof.Machine.execWaitt a sf s
  | .crnDef d a => Sys2Proof.Machine.execCrnDef d a s
  | .crnStep a sf w => Sys2Proof.Machine.execCrnStep a sf w s
  | .crnForce a => Sys2Proof.Machine.execCrnForce a s
  | .crnMap d a => Sys2Proof.Machine.execCrnMap d a s
  | .crnUndef a => Sys2Proof.Machine.execCrnUndef a s
  | .crnStat d a => Sys2Proof.Machine.execCrnStat d a s
  | .cset d a => Sys2Proof.Machine.execCset d a s
  | .mark a => Sys2Proof.Machine.execMark a s
  | .wopen d a => Sys2Proof.Machine.execWopen d a s
  | .wseal a => Sys2Proof.Machine.execWseal a s
  | .launch a => Sys2Proof.Machine.execLaunch a s
  | .pstat d a => Sys2Proof.Machine.execPstat d a s
  | .halt d a => Sys2Proof.Machine.execHalt d a s
  | .tlbiVa a b => Sys2Proof.Machine.execTlbiVa a b s
  | .tlbiAsid a => Sys2Proof.Machine.execTlbiAsid a s
  | .tlbiVf a => Sys2Proof.Machine.execTlbiVf a s
  | .isave d a b => Sys2Proof.Machine.execIsave d a b s
  | .irest d a => Sys2Proof.Machine.execIrest d a s
  | .gcfg d a => Sys2Proof.Machine.execGcfg d a s
  | .ccfg d a => Sys2Proof.Machine.execCcfg d a s
  | .scrub d a => Sys2Proof.Machine.execScrub d a s
  | .dret d a => Sys2Proof.Machine.execDret d a s
  | .illegalInstruction w => Sys2Proof.Machine.execIllegalInstruction w s
  | .clockStretch die m => Sys2Proof.Machine.execClockStretch die m s
  | .hostAccess pa wr => Sys2Proof.Machine.execHostAccess pa wr s
  | .remoteAccessArrival vf qp addr wr len => Sys2Proof.Machine.execRemoteAccessArrival vf qp addr wr len s
  | .laneRepair die => Sys2Proof.Machine.execLaneRepair die s
  | .testAccessPortInstruction ir => Sys2Proof.Machine.execTestAccessPortInstruction ir s
  | .waitSatisfied => Sys2Proof.Machine.execWaitSatisfied s
  | .interrupt => Sys2Proof.Machine.execInterrupt s
  | .rctlPreq => Sys2Proof.Machine.execRctlPreq s
  | .rctlResume => Sys2Proof.Machine.execRctlResume s
  | .rctlResumeInject => Sys2Proof.Machine.execRctlResumeInject s
  | .prqRetry => Sys2Proof.Machine.execPrqRetry s
  | .prqFail => Sys2Proof.Machine.execPrqFail s
  | .prqForward => Sys2Proof.Machine.execPrqForward s
  | .sprqRetry => Sys2Proof.Machine.execSprqRetry s
  | .sprqFail => Sys2Proof.Machine.execSprqFail s
  | .kctlLoad => Sys2Proof.Machine.execKctlLoad s
  | .kctlDraw => Sys2Proof.Machine.execKctlDraw s
  | .kctlDestroy => Sys2Proof.Machine.execKctlDestroy s
  | .kctlLoadMigration => Sys2Proof.Machine.execKctlLoadMigration s
  | .kctlStopVf => Sys2Proof.Machine.execKctlStopVf s
  | .kinitctlGo => Sys2Proof.Machine.execKinitctlGo s
  | .wvalidSet => Sys2Proof.Machine.execWvalidSet s
  | .wvalidClear => Sys2Proof.Machine.execWvalidClear s
  | .rimgctlDump => Sys2Proof.Machine.execRimgctlDump s
  | .rimgctlRest => Sys2Proof.Machine.execRimgctlRest s
  | .rpwrQuiesce => Sys2Proof.Machine.execRpwrQuiesce s
  | .rpwrSave => Sys2Proof.Machine.execRpwrSave s
  | .rpwrGateClock => Sys2Proof.Machine.execRpwrGateClock s
  | .rpwrGateRail => Sys2Proof.Machine.execRpwrGateRail s
  | .rpwrWake => Sys2Proof.Machine.execRpwrWake s
  | .lifetimeStoreWrite => Sys2Proof.Machine.execLifetimeStoreWrite s
  | .orderlyPowerDown => Sys2Proof.Machine.execOrderlyPowerDown s
  | .qpstatClear => Sys2Proof.Machine.execQpstatClear s
  | .nop => Sys2Proof.Machine.execNop s
  | .mpass => Sys2Proof.Machine.execMpass s
  | .sret => Sys2Proof.Machine.execSret s
  | .hret => Sys2Proof.Machine.execHret s
  | .wfi => Sys2Proof.Machine.execWfi s
  | .tlbiAll => Sys2Proof.Machine.execTlbiAll s
  | .instructionFetchFault => Sys2Proof.Machine.execInstructionFetchFault s
  | .managementCoreInterrupt => Sys2Proof.Machine.execManagementCoreInterrupt s
  | .channelInitComplete => Sys2Proof.Machine.execChannelInitComplete s
  | .powerFailure => Sys2Proof.Machine.execPowerFailure s

end Sys2Proof.Machine
end

