-- ==== Sys2Proof/Machine/Cycle.lean ====
section
/-! DEFINITION. What a ring group does next within its cycle: the parts of a cycle in order, one instruction or event at a time (R37,
R46, R53, R54, R62). -/

namespace Sys2Proof.Machine

/-- A group moves to another part of its cycle. -/
def State.toStage (s : State) (gk : Nat) (st : Stage) : State :=
  match s.group? gk with
  | some g => s.setGroup gk { g with stage := st, cursor := 0 }
  | none => s

/-- A freeze has ended: the lifetime store counts its duration (R429). -/
def State.endFreeze (s : State) (g : Group) : State :=
  if g.frozenFor = 0 ∨ 2 ^ 16 ≤ g.frozenFor then s else s.countLife (6980 + g.frozenFor.log2)

/-- The first access of a ring's RSQ that could perform but for the banks in use: the bank, and the event by which it performs (R254). -/
def State.rsqAccess (s : State) (g : Group) (r : Nat) : Option (Nat × Instr) :=
  let q := s.seqOf (.ring r)
  let bank (locs : List Nat) : Option Nat := (locs.find? fun k => isPool k && g.banks.contains (bankNo k)).map bankNo
  let load (x : PendLoad × Nat) : Option (Nat × Instr) :=
    if loadReady q x.1 then
      (bank x.1.locs).map fun b => (b, .loadWriteback r x.2 (((List.range x.1.nb).find? fun i => (tfind x.1.got i).isNone).getD 0))
    else none
  let store (x : BufStore × Nat) : Option (Nat × Instr) :=
    if s.storeReady (.ring r) x.2 x.1 then (bank x.1.locs).map fun b => (b, .storePerform r x.2) else none
  match q.loads.zipIdx.findSome? load with
  | some x => some x
  | none => q.stores.zipIdx.findSome? store

/-- The RSQs of a group whose access has met a busy bank count another cycle (R254). -/
def State.rsqTick (s : State) (g : Group) : Group :=
  { g with rsqWait := (List.range g.k).foldl (init := []) fun t i =>
      match s.rsqAccess g (g.first + i) with
      | some _ => tput t (g.first + i) (min 65 (tget 0 g.rsqWait (g.first + i) + 1))
      | none => t }

/-- The access of an RSQ that has waited 64 cycles for its bank, and now takes part in a bank conflict (R54, R254). -/
def State.rsqForced (s : State) (g : Group) : Option (Nat × Nat × Instr) :=
  (List.range g.k).findSome? fun i =>
    if 64 < tget 0 g.rsqWait (g.first + i) then (s.rsqAccess g (g.first + i)).map fun x => (g.first + i, x) else none

/-- That access is served: its bank is free for it. -/
def Group.serveRsq (g : Group) (r bank : Nat) : Group :=
  { g with banks := g.banks.filter (· ≠ bank), rsqWait := tdel g.rsqWait r }

/-- The banks of all accesses of the cycle that begins, with those of the item that it would admit (R43, R54). -/
def State.nextBanks (s : State) (gk : Nat) : List Nat :=
  let u := s.itemAdmission gk
  match u.group? gk with
  | some g => u.cycleBanks gk g
  | none => []

/-- The start of a cycle: is it frozen, and why (R53, R54)? A bank conflict of a accesses freezes a - 1 cycles, and is then served. An item is admitted in no
frozen cycle: the cycle in which it would make its first accesses and is held for them is not yet its own (R43, R54; log 13). -/
def State.checkFreeze (s : State) (gk : Nat) : Option Instr × State :=
  match s.group? gk with
  | none => (none, s)
  | some g0 =>
    let g := s.rsqTick (if 0 < g0.hold then g0 else { g0 with banks := s.nextBanks gk })
    let cs := s.cycleCauses gk
    if 0 < g.hold then (none, s.setGroup gk { g with hold := g.hold - 1, frozen := true, frozenFor := g.frozenFor + 1, deadCycles := 0 })
    else if cs ≠ [] then
      let only := cs.all fun c => match c with
        | .merge _ => true
        | .deliver => false
        | .accept => false
        | .agFault => false
        | .bank => false
      let n := if only then g.deadCycles + 1 else 0
      let g1 := { g with frozen := true, frozenFor := g.frozenFor + 1, deadCycles := n, stage := .entry }
      if 1024 ≤ n then (some (.mergeDeadlock gk), s.setGroup gk g1)
      else
        match s.rsqForced g with
        | some (r, b, i) => (some i, s.setGroup gk (g1.serveRsq r b))
        | none => (none, s.setGroup gk g1)
    else
      let forced := match s.rsqForced g with
        | some (_, b, _) => [b]
        | none => []
      let a := busiest (g.banks ++ forced)
      if 1 < a ∧ !g.served then
        (none, s.setGroup gk { g with hold := a - 2, served := true, frozen := true, frozenFor := g.frozenFor + 1, deadCycles := 0 })
      else
        let g1 := { g with frozen := false, frozenFor := 0, deadCycles := 0, served := false, stage := .check, cursor := 0 }
        (some (.itemAdmission gk), (s.endFreeze g).setGroup gk g1)

/-- The next element of the cycle (R54): index 33 of a slot stands after its position 12, for the A feed of its stripe. -/
def State.elemMove (s : State) (gk : Nat) (g : Group) : Option Instr × State :=
  let p := s.plen g
  if !g.started ∨ 33 * p ≤ g.cursor then
    match s.rsqForced g with
    | some (r, b, i) => (some i, s.setGroup gk (g.serveRsq r b))
    | none => (none, s.toStage gk .loads)
  else
    let gs := g.cursor / 33
    let j := g.cursor % 33
    let s1 := s.setGroup gk { g with cursor := g.cursor + 1 }
    if j = 13 then (none, s1.feedA gk gs)
    else if (s.slot g gs).item.isNone then (none, s1)
    else
      let pos := if j < 13 then j else j - 1
      (some (s.wordAt g gs pos), { s1 with ep := { g := gk, slot := gs, pos := pos } })

/-- What is left of a group's cycle from a stage on, as far as it can meet a phase fault: results that land, rows that drain, records that close. -/
def State.cycleRest (s : State) (gk : Nat) (st : Stage) : State :=
  let drainAll (s : State) : State :=
    match s.group? gk with
    | none => s
    | some g => (List.range g.blocks.length).foldl (fun u i => u.drainRow gk i) s
  let close (s : State) : State :=
    match s.group? gk with
    | none => s
    | some g => if g.started ∧ g.img.ii ≠ 0 ∧ (g.t + 1) % g.img.ii = 0 then s.itemBoundary gk else s
  let land (s : State) : State := close ((s.commit gk).settleRecs gk)
  match st with
  | .entry => s
  | .check => s
  | .elems => land (drainAll (s.landLoads gk))
  | .loads => land (drainAll (s.landLoads gk))
  | .blocks => land (drainAll s)
  | .drains i => land (if i = 0 then drainAll s else s)
  | .commit => land s
  | .scr _ => close s
  | .boundary => close s
  | .switch _ => s.settleRecs gk

/-- The end of a cycle in which a phase fault was detected: the record is the one of the lowest slot and position that the cycle meets, and then the items go
and the phase drains (R379). -/
def State.endFault (s : State) (gk : Nat) : State :=
  match s.group? gk with
  | none => s
  | some g =>
    let u := (s.setGroup gk { g with mark := none }).cycleRest gk g.stage
    let q := tget PhaseRec.reset (s.ring g.issuer).recs g.serial
    let w := tget PhaseRec.reset (u.ring g.issuer).recs g.serial
    let s1 := match (u.group? gk).bind (·.mark) with
      | none => s
      | some m =>
        if w.gslot < q.gslot ∨ (w.gslot = q.gslot ∧ w.pos < q.pos) then
          (s.updRec g.issuer g.serial fun x =>
            { x with kind := w.kind, ctx := w.ctx, pos := w.pos, vs := w.vs, gslot := w.gslot, fval := w.fval }).setGroup gk { g with mark := some m }
        else s
    s1.dropItems gk

/-- The next part of a group's cycle: an instruction or event to execute, or a part that is none. A held group does nothing; a draining one
waits for its retirement (R278, R394). -/
def State.fabricMove (s : State) (gk : Nat) : Option Instr × State :=
  match s.group? gk with
  | none => (none, s)
  | some g =>
    if s.groupHeld g then (none, s)
    else if g.draining then (some (.phaseRetirement gk), s)
    else if g.mark.isSome then (none, s.endFault gk)
    else
      match g.stage with
      | .entry => s.checkFreeze gk
      | .check => (none, ((s.snapPorts gk).voidReads gk).toStage gk .elems)
      | .elems => s.elemMove gk g
      | .loads => (some (.bankLoadWriteback gk), s.toStage gk .blocks)
      | .blocks => (none, (s.blockCycle gk).toStage gk (.drains 0))
      | .drains i =>
        if i < g.blocks.length then (some (.accDrain gk i), s.toStage gk (.drains (i + 1))) else (none, s.toStage gk .commit)
      | .commit =>
        let s1 := (s.commit gk).settleRecs gk
        let s2 := match s1.group? gk with
          | some g1 => (s1.setGroup gk g1.blockTick).crossTick gk
          | none => s1
        if (s2.group? gk).any fun g1 => g1.mark.isSome then (none, s2) else (none, (s2.applyMarks gk).toStage gk (.scr 0))
      | .scr i =>
        if i < g.k then (some (.scrJobStep (g.first + i)), s.toStage gk (.scr (i + 1)))
        else
          -- a trailhead's AGs run on as far as they can in a cycle that is not frozen (R30, R54, R152; log 19)
          match ((List.range (9 * g.k)).drop i).find? fun j => (s.agTry (g.first + (j - g.k) / 8) ((j - g.k) % 8)).isSome with
          | some j => (some (.agLineRequest (g.first + (j - g.k) / 8) ((j - g.k) % 8)), s.toStage gk (.scr j))
          | none => (none, s.toStage gk .boundary)
      | .boundary =>
        if !g.started then (none, (s.settle gk).toStage gk (.switch 0))
        else
          let s1 := s.setGroup gk { g with t := g.t + 1, stage := .switch 0 }
          if g.img.ii ≠ 0 ∧ (g.t + 1) % g.img.ii = 0 then (some (.itemTimeBoundary gk), s1) else (none, s1)
      | .switch i =>
        let s1 := if i = 0 then ((s.settleRecs gk).applyMarks gk).settle gk else s
        if i < g.k then (some (.slotSwitch (g.first + i)), s1.toStage gk (.switch (i + 1))) else (none, s1.toStage gk .entry)

end Sys2Proof.Machine
end

