-- ==== Sys2Proof/Machine/Fetch.lean ====
section
/-! DEFINITION. What happens next: the agents of the device and the order of their moves, a thread's fetch and its interrupts, the clock,
and the placing of an instruction where the next step executes it (R24, R29, R203, R248, R262, R290, R323, R331, R350, R354, R357, R429). -/

namespace Sys2Proof.Machine

/-- A move of the device: an instruction or event to execute, or work that no row of the opcode table names, or none at all. -/
inductive Move where
  | run (i : Instr) (s : State)
  | idle (s : State)
  | stop (f : Fault)

/-- Where the four bytes of a thread's next word lie (R203). -/
def State.fetchPlaces (s : State) (t : Thread) : List (Nat × MemAttr) :=
  (List.range 4).filterMap fun i =>
    match s.threadPlace t (s.levelOf t) .fetch ((s.seqOf t).pc + BitVec.ofNat 64 i) with
    | .ok p => some p
    | .error _ => none

/-- The word that a thread fetches (R203): little-endian, each byte as an access of its own. Data that never came reads 0 (log 16). -/
def State.fetchWord (s : State) (t : Thread) : Nat × State :=
  let ps := s.fetchPlaces t
  -- the newest bytes: an RSQ never executes a stale word (R204)
  let val := leNat (ps.map fun p => s.byte p.1)
  match s.placesErr ps with
  | some e => (0, s.threadFail t e)
  | none => (val, s.transfers ps)

/-- The instruction of a thread, or the event that stands in its place (R201, R203); a word in gated banks is waited for (R426). -/
def State.fetchMove (s : State) (t : Thread) : Move :=
  match s.fetchErr t (s.levelOf t) (s.seqOf t).pc with
  | some _ => .run .instructionFetchFault s
  | none =>
    let (w, s1) := s.fetchWord t
    if s1.stoppedNow ∨ (s.fetchPlaces t).any (fun p => s.railGated p.1) = true then .idle s1
    else
      match decodeSeq (BitVec.ofNat 32 w) with
      | .ok i => .run i s1
      | .error _ => .run (.illegalInstruction (BitVec.ofNat 32 w)) s1

/-- A ring's RSQ does nothing: idle, parked, halted, gated, or stopped with its VF (R327, R394, R412, R426). -/
def State.ringStill (s : State) (r : Nat) : Bool :=
  let x := s.ring r
  x.run == .idle || x.run == .parked || x.halted || decide (3 ≤ x.power) || (s.vfOf (s.vfNum r)).stopped

/-- A move of a thread: an interrupt comes before the instruction, which is then not fetched (R323, R328); a waiting instruction executes
again until it completes (R290). -/
def State.threadMove (s0 : State) (t : Thread) : Move :=
  let s : State := { s0 with cur := t }
  match t with
  | .ring r =>
    -- a wfi that a capture meets is saved, and executes again (R385)
    if s.ringStill r ∨ (s.strip (s.ring r).sbase).capture then .idle s
    else if (s.ring r).run = .wfi then .run .wfi s
    else if (s.ringInt r).isSome then .run .interrupt s
    else s.fetchMove t
  | .core d =>
    if 4 ≤ d ∨ (s.die d).stopped then .idle s
    else if (s.die d).waiting then .run .wfi s
    else if (s.coreInt d).isSome then .run .managementCoreInterrupt s
    else s.fetchMove t

/-- A ring in an FCLK cycle: CYCLE counts while a launch holds it, and the backlogs of its copy unit shrink (R164, R262, R394). -/
def Ring.cycleEdge (x : Ring) : Ring :=
  let held := x.run != .idle && !x.halted && decide (x.power < 3)
  { x with seq := { x.seq with cycle := if held then x.seq.cycle + 1 else x.seq.cycle }, backlog := tmap (fun _ n => n - 1) x.backlog }

/-- A group in an FCLK cycle: until its sweep ends, its sweep counter counts, but for cycles with an AG fault and cycles of a debug halt (R357, R394). -/
def State.sweepEdge (s : State) (g : Group) : Group :=
  if 0 < g.sweepItems ∧ !g.swept ∧ !s.agHeld g ∧ !s.groupHalted g ∧ !g.draining then { g with sweepCtr := g.sweepCtr + 1 } else g

/-- The scheduler of a time-shared strip in a cycle: the holder is charged, and a tenant with no work keeps no credit (R354). -/
def State.chargeStrip (s : State) (b : Nat) : State :=
  let x := s.strip b
  let paid := x.setDeficit x.cur (x.deficit x.cur - ((s.ring b).slen : Int))
  s.setStrip b { paid with deficits := (List.range 8).map fun t => if s.hasWork b t then paid.deficit t else min (paid.deficit t) 0 }

/-- A group's sweep has reached its limit, and its issuer has yet to park for it (R357). -/
def State.overdue (s : State) (g : Group) : Bool :=
  !g.overrun && !g.draining && (s.sweepLimit g).any fun m => decide (m ≤ g.sweepCtr)

/-- The rings, groups and strips of a die in an FCLK cycle; a sweep that reaches its limit parks its issuer before anything else happens (R357). -/
def State.dieEdge (s : State) (d : Nat) : State :=
  let s1 := { s with rings := tmap (fun r x => if dieOf r = d then x.cycleEdge else x) s.rings,
                     groups := tmap (fun k g => if dieOf k = d then s.sweepEdge g else g) s.groups }
  let shared := (s1.rings.filter fun e => dieOf e.1 == d && e.2.shared && e.2.vf.isSome && e.2.sbase == e.1).map (·.1)
  let due := s1.groups.filter fun g => dieOf g.1 == d && s1.overdue g.2
  let s2 := shared.foldl State.chargeStrip s1
  { s2 with agenda := s2.agenda ++ due.map fun g => .event (.ring g.2.issuer) (.sweepmaxOverrun g.1) }

/-- A die in a tick: its core's cycle, its token buckets, and an FCLK cycle every 20/m ticks (R24, R350). -/
def State.dieTick (s : State) (d : Nat) : State :=
  let x := s.die d
  let p := x.phase + x.m
  let y : Die :=
    { x with core := { x.core with cycle := x.core.cycle + 1 }, phase := p % 20,
             lp := tmap (fun _ e => { e with bucket := min (e.bucket + fld e.ent 55 40) (fld e.ent 63 56 * 10 ^ 6) }) x.lp }
  let s1 := s.setDie d y
  if 20 ≤ p then s1.dieEdge d else s1

/-- A tick that each die spends in a temperature bin (R429; log 88). -/
def State.warm (s : State) : State := (List.range 4).foldl (fun st d => st.countLife (16 * d + Config.tempBin s.free d % 16)) s

/-- TIME advances by a tick (R24); tokens in the edge FIFO of a ring that is on again move into their queues (R427). -/
def State.tick (s : State) : State :=
  let s1 := ((List.range 4).foldl State.dieTick { s with time := s.time + 1 }).warm
  (s1.rings.filter fun e => decide (e.2.power < 3) && !e.2.edge.isEmpty).foldl (fun st e => st.drainEdge e.1 16) s1

/-- The number of a line of HBM or of a word of on-chip memory (R428). -/
def isDataUnit (n : Nat) : Bool := isHbm (64 * n) || (sramRing (4 * n)).isSome

/-- The data of a unit of memory becomes uncorrectable. In a bank of a ring that no VF owns no VF's access can meet it, and its event is posted (R428; log 91). -/
def State.decay (s : State) (n : Nat) : State :=
  if !isDataUnit n || s.bad.contains n then s
  else
    let s1 := { s with bad := n :: s.bad }
    match sramRing (4 * n) with
    | some r => if (s.ring r).vf.isNone then s1.post (dieOf r) 6 0 0 r else s1
    | none => s1

/-- Certia Link, which ends on die 0, replays a transfer: CLSTAT counts it (R419). -/
def State.linkReplay (s : State) (d : Nat) : State :=
  if d = 0 then s.setLink 0 0 (setFld (s.link 0 0) 63 32 (sat32 (fld (s.link 0 0) 63 32 + 1))) else s

/-- The events that occur on their own, on a ring or die that the device has (R13, R14): the others are parts of a thread's move, of a group's cycle, or of a register access. -/
def freeEvent : Instr → Bool
  | .agLineRequest _ _ => true
  | .agLineCompletion _ _ _ => true
  | .prqHeldPlacement n => decide (n < 4)
  | .tileDecision _ => true
  | .copyAccept _ => true
  | .billetFire _ => true
  | .copyComplete _ _ => true
  | .remoteWriteImmediateArrival _ _ _ _ _ => true
  | .remoteRetryExhausted _ _ => true
  | .remoteAccessArrival _ _ _ _ _ => true
  | .asyncMaskSatisfied _ _ => true
  | .ploadAccept _ _ => true
  | .waitSatisfied => true
  | .loadWriteback _ _ _ => true
  | .storePerform _ _ => true
  | .supervisorTimer n => decide (n < 128)
  | .hypervisorTimer n => decide (n < 4)
  | .sweepmaxOverrun _ => true
  | .preemptionCapture _ => true
  | .tenantSwitch _ => true
  | .powerTransitionComplete _ => true
  | .i3cStartRequest _ _ => true
  | .i3cRead _ => true
  | .droopTrip n => decide (n < 4)
  | .fclkRaise n => decide (n < 4)
  | .clockStretch n _ => decide (n < 4)
  | .orderlyPowerDown => true
  | .powerFailure => true
  | .linkStateChange _ _ _ => true
  | .laneRepair _ => true
  | .doorbellWrite _ _ => true
  | .hostAccess _ _ => true
  | .launchConsume _ => true
  | .launchPacket n _ _ => decide (n < 4)
  | .channelInitComplete => true
  | .testAccessPortInstruction _ => true
  | _ => false

/-- The move of an agent. A thread's waitSatisfied belongs to a thread whose instruction waits. -/
def State.actMove (s : State) : Act → Move
  | .thread t => s.threadMove t
  | .fabric g =>
    match s.fabricMove g with
    | (some i, s1) => .run i s1
    | (none, s1) => .idle s1
  | .clock =>
    let s1 := s.tick
    if s1.time.toNat % 2 ^ 36 = 0 then .run .lifetimeStoreWrite s1 else .idle s1
  | .copyPart r k j b => .idle (if k < 64 then s.copyPart r k j b else s.crnPart r (k - 64))
  | .spread n => .idle (s.spread n)
  | .tlbFill t va n => .idle (s.cacheXlate t va n)
  | .walkFill r stage level a => .idle (if r < 128 then s.cacheWalk r stage level a else s)
  | .decay n => .idle (s.decay n)
  | .corrected i => .idle (if 68 ≤ i ∧ i < 6980 then s.countLife i else s)
  | .replay d => .idle (s.linkReplay d)
  | .event t i => if freeEvent i then .run i { s with cur := t } else .idle s

/-- The next agent to move: the first of the agenda, or one that the spec leaves open (log 1). -/
def State.nextAct (s : State) : Act × State :=
  match s.agenda with
  | a :: rest => (a, { s with agenda := rest, free := s.free + 1 })
  | [] => (Config.nextAct s.free, { s with free := s.free + 1 })

/-- What the device does next. Without its supply it only starts (R429). -/
def choose (s : State) : Move :=
  let (a, s1) := s.nextAct
  if s.powered then s1.actMove a
  else
    match a with
    | .event t (.powerOnStart f) => .run (.powerOnStart f) { s1 with cur := t }
    | _ => .stop .supplyLost

/-- A form that only a management core executes with effect: an H form, or an access to an H register (R261, R330). -/
def coreForm : Instr → Bool
  | .hret => true
  | .halt _ _ => true
  | .dret _ _ => true
  | .tlbiVf _ => true
  | .tlbiAll => true
  | .gcfg _ _ => true
  | .ccfg _ _ => true
  | .scrub _ _ => true
  | .csrr _ n => decide (0x2000 ≤ n.toNat)
  | .csrw _ n => decide (0x2000 ≤ n.toNat)
  | _ => false

/-- A word that only an ME executes (R186). -/
def meForm : Instr → Bool
  | .mma _ _ _ _ _ _ _ _ _ => true
  | .mmx _ _ _ _ _ _ _ _ _ => true
  | .azero _ => true
  | .adrain _ _ _ => true
  | .aload _ => true
  | .ascale _ _ => true
  | .mpass => true
  | _ => false

/-- An act comes first on the agenda, on a device that has its supply. -/
def State.first (s : State) (a : Act) : State := { s with powered := true, agenda := a :: s.agenda }

/-- Bytes stand in channel 0 as if they had always been there: its lines count as fresh, so that none of them fails to verify, and no older byte is left to
observe (R407, R411). -/
def State.place (s : State) (pa : Nat) (bs : List Byte) : State :=
  { s.putBytes pa bs with roots := tdel (tdel s.roots 0) 1, past := [], bad := s.bad.filter fun l => decide (2 ^ 25 ≤ l) }

/-- The place at which a placed word is fetched by ring 0: IPA and PA alike, in a block that ring 0 may execute. -/
def placedAt : Nat := 0x20000000

/-- Ring 0 belongs to VF 0, which has a key, and runs at S; stage 2 maps the first gigabyte of channel 0 onto itself, its lower half for
reading and writing and its upper half for reading and execution. -/
def State.ringReady (s : State) : State :=
  let key := (tfind s.vfKeys 0).getD 0
  let s1 : State := { s with vfKeys := tput s.vfKeys 0 key, tlb := [], walks := [] }
  let s2 := (s1.place 0x7C000000 (leBytes 8 0x7C010003)).place 0x7C010000 (leBytes 8 0x0000000D ++ leBytes 8 0x20000015)
  let s3 := (s2.updVf 0 fun f => { f with stopped := false }).updStrip 0 fun t => { t with capture := false }
  (((s3.setRcsr 0 0x2103 (BitVec.ofNat 64 (2 ^ 39 + 0x7C00))).setRcsr 0 0x1008 0).setRcsr 0 0x1009 0).updRing 0 fun x =>
    { x with vf := some 0, sbase := 0, slen := max 1 x.slen, level := .s, run := .run, halted := false, power := 0 }

/-- A word where ring 0 fetches next. -/
def State.ringWord (s : State) (w : W32) : State :=
  let s1 := s.ringReady.place placedAt (leBytes 4 w.toNat)
  (s1.updRing 0 fun x => { x with seq := { x.seq with pc := BitVec.ofNat 64 placedAt } }).first (.thread (.ring 0))

/-- The VF of ring 0, if it has one, has a key (log 7). -/
def State.keyed (s : State) : State :=
  match (s.ring 0).vf with
  | some v => { s with vfKeys := tput s.vfKeys v ((tfind s.vfKeys v).getD 0) }
  | none => s

/-- A word where the management core of die 0 fetches next: at address 0, without a table. -/
def State.coreWord (s : State) (w : W32) : State :=
  let s1 := ((s.keyed.place 0 (leBytes 4 w.toNat)).setDcsr 0 0x2009 0).setDcsr 0 0x2006 (setFld (s.dcsr 0 0x2006) 0 0 0)
  ({ s1.updDie 0 fun x => { x with waiting := false, stopped := false, core := { x.core with pc := 0 } } with tlb := [], walks := [] }).first (.thread (.core 0))

/-- A phase of one virtual stripe whose one context word stands at a position. -/
def oneWordImg (pos : Nat) (w : W32) : PhaseImg :=
  { v := 1, ii := 1, ftz := false, zipt := false, n := 1, count := 1, seed := 0, decls := [],
    stripes := [{ off := 0, ii := 1, stateful := false, bmode := 0, z := 0, pmode := 0, posmask := BitVec.ofNat 32 (2 ^ pos), smap := 0,
                  gmap := 0, nblk := 1,
                  pos := [(pos, { words := [w], wordsAt := 0, consts := none, constsAt := 0, afc := none, afcAt := 0, inp := 15, outp := 15 })] }] }

/-- A word that an element of ring 0 executes next: a resident phase whose item stands in slot 0. -/
def State.elemWord (s : State) (pos : Nat) (w : W32) : State :=
  let s1 := s.ringReady
  let a : Async := { id := 0, op := .pload 0 0 1, word := 0, set := none, await := [], rd := 0, x := s1.issueCtx 0 .s, st := .group, seq := 0,
                     grp := some (0, 1), ticket := 0, reset := [], held := false }
  let l : Loaded := { desc := [], img := oneWordImg pos w, carve := 0, ents := [], ags := [], count := 1 }
  let g := { Group.start 0 1 0 1 a l [] with started := true, stage := .elems, cursor := pos, admitted := 1, sweepItems := 1, passItems := 1 }
  let item : Item := { n := 0, pass := 0, tag := none, void := false, marks := [], bnd := [] }
  let s2 := s1.updRing 0 fun x =>
    { x with group := some 0, serial := max 1 x.serial, recs := tput x.recs 1 { PhaseRec.reset with state := 3 },
             slots := tput x.slots 0 { Slot.reset with v := some 0, st := .run, restored := true, item := some item },
             elems := tput x.elems pos { Elem.reset with ctx := tset 0 [] 0 w } }
  (s2.setGroup 0 g).first (.fabric 0)

/-- The state with a word placed where its reader takes it next: an element for a context word, the management core for a form that needs
H, and the RSQ of ring 0 for every other (log 4). -/
def State.placeWord (s : State) (w : W32) : State :=
  match decodeElem w with
  | .ok i => s.elemWord (if meForm i then 12 else 0) w
  | .error _ =>
    match decodeSeq w with
    | .ok i => if coreForm i then s.coreWord w else s.ringWord w
    | .error _ => s.ringWord w

end Sys2Proof.Machine
end

