-- ==== Sys2Proof/Machine/Step.lean ====
section
/-! DEFINITION. One step of the device: the next move is chosen, and an instruction or event is executed. -/

namespace Sys2Proof.Machine

/-- One step. -/
def step (s : State) : Host.Outcome State Fault Refusal :=
  match choose s with
  | .run i s1 => exec i s1
  | .idle s1 => .next s1
  | .stop f => .fault f

/-- The state with an instruction of the opcode table placed where the next step executes it (log 4). -/
def State.withFetchWord (s : State) (nbits w : Nat) : State := s.placeWord (BitVec.ofNat 32 (w % 2 ^ nbits))

end Sys2Proof.Machine
end

