-- ==== Sys2Proof/Safety.lean ====
section
/-! DEFINITION. What counts as a well-formed state and a safe step, and the tables of results in which the statements speak: the values
of R213 to R222 and R249 to R257 written out as the spec writes them. -/

namespace Sys2Proof.Machine

/-- Memory is in canonical form: addresses rising, and no byte listed that reads as an unlisted one (R407, R422). -/
def MemOk (s : State) : Prop := memWf s.mem = true

/-- A step goes on: neither a fault nor a refusal. -/
def Runs (s : State) : Prop := ∃ t, step s = .next t

/-- The device has its supply (R429). -/
def HasSupply (s : State) : Prop := s.powered = true

/-- The running thread is ring r's RSQ. -/
def RunsRing (s : State) (r : Nat) : Prop := s.cur = .ring r

/-- The running thread is die d's management core. -/
def RunsCore (s : State) (d : Nat) : Prop := s.cur = .core d

/-- A value taken to 64 bits (R8). -/
def u64 (v : Int) : W64 := BitVec.ofInt 64 v

/-- The register that a form of R249 or R250 writes, the registers it names, and the value: f of the tables there, over Xn, Yn, Xs and
Ys. -/
def scalarResult (i : Instr) (s : State) : Option (BitVec 5 × List (BitVec 5) × W64) :=
  let n (r : BitVec 5) : Int := (s.x r).toNat
  let g (r : BitVec 5) : Int := (s.x r).toInt
  let sh (r : BitVec 5) : Nat := (s.x r).toNat % 64
  let imm (v : BitVec 16) : Int := v.toInt
  match i with
  | .add d a b => some (d, [d, a, b], u64 (n a + n b))
  | .sub d a b => some (d, [d, a, b], u64 (n a - n b))
  | .and d a b => some (d, [d, a, b], s.x a &&& s.x b)
  | .or d a b => some (d, [d, a, b], s.x a ||| s.x b)
  | .xor d a b => some (d, [d, a, b], s.x a ^^^ s.x b)
  | .andn d a b => some (d, [d, a, b], s.x a &&& ~~~(s.x b))
  | .sll d a b => some (d, [d, a, b], u64 (n a * 2 ^ sh b))
  | .srl d a b => some (d, [d, a, b], u64 (n a / 2 ^ sh b))
  | .sra d a b => some (d, [d, a, b], u64 (g a / 2 ^ sh b))
  | .slt d a b => some (d, [d, a, b], if g a < g b then 1 else 0)
  | .sltn d a b => some (d, [d, a, b], if n a < n b then 1 else 0)
  | .min d a b => some (d, [d, a, b], u64 (Min.min (g a) (g b)))
  | .max d a b => some (d, [d, a, b], u64 (Max.max (g a) (g b)))
  | .minn d a b => some (d, [d, a, b], u64 (Min.min (n a) (n b)))
  | .maxn d a b => some (d, [d, a, b], u64 (Max.max (n a) (n b)))
  | .mul d a b => some (d, [d, a, b], u64 (g a * g b))
  | .mulh d a b => some (d, [d, a, b], u64 (g a * g b / 2 ^ 64))
  | .mulhn d a b => some (d, [d, a, b], u64 (n a * n b / 2 ^ 64))
  | .div d a b => some (d, [d, a, b], if g b = 0 then u64 (-1) else u64 ((g a).tdiv (g b)))
  | .divn d a b => some (d, [d, a, b], if n b = 0 then u64 (2 ^ 64 - 1) else u64 (n a / n b))
  | .rem d a b => some (d, [d, a, b], if g b = 0 then u64 (g a) else u64 (g a - g b * (g a).tdiv (g b)))
  | .remn d a b => some (d, [d, a, b], if n b = 0 then u64 (n a) else u64 (n a % n b))
  | .clz d a => some (d, [d, a], BitVec.ofNat 64 (leadZeros 64 (s.x a).toNat))
  | .ctz d a => some (d, [d, a], BitVec.ofNat 64 (trailZeros 64 (s.x a).toNat))
  | .popc d a => some (d, [d, a], BitVec.ofNat 64 (popCount 64 (s.x a).toNat))
  | .sextW d a => some (d, [d, a], ((s.x a).truncate 32).signExtend 64)
  | .zextW d a => some (d, [d, a], u64 (n a % 2 ^ 32))
  | .addw d a b => some (d, [d, a, b], ((s.x a + s.x b).truncate 32).signExtend 64)
  | .addi d a v => some (d, [d, a], u64 (n a + imm v))
  | .andi d a v => some (d, [d, a], s.x a &&& v.zeroExtend 64)
  | .ori d a v => some (d, [d, a], s.x a ||| v.zeroExtend 64)
  | .xori d a v => some (d, [d, a], s.x a ^^^ v.zeroExtend 64)
  | .slti d a v => some (d, [d, a], if g a < imm v then 1 else 0)
  | .sltni d a v => some (d, [d, a], if n a < (v.signExtend 64).toNat then 1 else 0)
  | .shiSll d a h => some (d, [d, a], u64 (n a * 2 ^ h.toNat))
  | .shiSrl d a h => some (d, [d, a], u64 (n a / 2 ^ h.toNat))
  | .shiSra d a h => some (d, [d, a], u64 (g a / 2 ^ h.toNat))
  | .lui d v => some (d, [d], u64 (v.toNat * 2 ^ 16))
  | .auipc d v => some (d, [d], u64 (s.pc.toNat + v.toNat * 2 ^ 16))
  | _ => none

/-- A branch's operands, the displacement of its target, and whether it is taken (R257). -/
def branchResult (i : Instr) (s : State) : Option (List (BitVec 5) × Int × Bool) :=
  let n (r : BitVec 5) : Nat := (s.x r).toNat
  let g (r : BitVec 5) : Int := (s.x r).toInt
  match i with
  | .beq a b v => some ([a, b], 4 * v.toInt, decide (n a = n b))
  | .bne a b v => some ([a, b], 4 * v.toInt, decide (n a ≠ n b))
  | .blt a b v => some ([a, b], 4 * v.toInt, decide (g a < g b))
  | .bge a b v => some ([a, b], 4 * v.toInt, decide (g b ≤ g a))
  | .bltn a b v => some ([a, b], 4 * v.toInt, decide (n a < n b))
  | .bgen a b v => some ([a, b], 4 * v.toInt, decide (n b ≤ n a))
  | _ => none

/-- The integer lane function of an element word of R214: gate, sources, d, type, saturation, and f of the lanes of A, B and the old d. -/
structure IntForm where
  g : BitVec 2
  a : BitVec 5
  b : BitVec 5
  d : BitVec 5
  t : BitVec 4
  sat : Bool
  f : Int → Int → Int → Int

/-- The two-source integer words of R214. -/
def intForm : Instr → Option IntForm
  | .veAdd t a b d g s => some ⟨g, a, b, d, t, s == 1#1, fun x z _ => x + z⟩
  | .veSub t a b d g s => some ⟨g, a, b, d, t, s == 1#1, fun x z _ => x - z⟩
  | .veMul t a b d g s => some ⟨g, a, b, d, t, s == 1#1, fun x z _ => x * z⟩
  | .veMulh t a b d g => some ⟨g, a, b, d, t, false, fun x z _ => x * z / 2 ^ laneW t.toNat⟩
  | .mad t a b d g s => some ⟨g, a, b, d, t, s == 1#1, fun x z w => x * z + w⟩
  | .veMin t a b d g => some ⟨g, a, b, d, t, false, fun x z _ => min x z⟩
  | .veMax t a b d g => some ⟨g, a, b, d, t, false, fun x z _ => max x z⟩
  | .avg t a b d g => some ⟨g, a, b, d, t, false, fun x z _ => (x + z + 1) / 2⟩
  | .clamp t a b d g => some ⟨g, a, b, d, t, false, fun x z w => min (max x z) w⟩
  | _ => none

/-- What an element word of two sources computes of the word of A, of B and of the old d: gate, a, b, d, and the function. -/
structure WordForm where
  g : BitVec 2
  srcs : List (BitVec 5)
  d : BitVec 5
  f : (BitVec 5 → W32) → W32

/-- The words of R214 to R216 that work on one lane list or on the whole word. -/
def wordForm : Instr → Option WordForm
  | .mov a _ d g => some ⟨g, [a], d, fun o => o a⟩
  | .abs t a _ d g s => some ⟨g, [a], d, fun o => intLanes t.toNat (s == 1#1) (fun x _ _ => (x.natAbs : Int)) (o a) 0 0⟩
  | .neg t a _ d g s => some ⟨g, [a], d, fun o => intLanes t.toNat (s == 1#1) (fun x _ _ => -x) (o a) 0 0⟩
  | .veAnd a b d g => some ⟨g, [a, b], d, fun o => o a &&& o b⟩
  | .veOr a b d g => some ⟨g, [a, b], d, fun o => o a ||| o b⟩
  | .veXor a b d g => some ⟨g, [a, b], d, fun o => o a ^^^ o b⟩
  | .veAndn a b d g => some ⟨g, [a, b], d, fun o => o a &&& ~~~(o b)⟩
  | .not a _ d g => some ⟨g, [a], d, fun o => ~~~(o a)⟩
  | .veClz t a _ d g => some ⟨g, [a], d, fun o => mapLanes t.toNat fun i => leadZeros (laneW t.toNat) (laneBits t.toNat (o a) i)⟩
  | .vePopc t a _ d g => some ⟨g, [a], d, fun o => mapLanes t.toNat fun i => popCount (laneW t.toNat) (laneBits t.toNat (o a) i)⟩
  | .shl t a b d g s => some ⟨g, [a, b], d, fun o => mapLanes t.toNat fun i =>
      let r := laneInt t.toNat (o a) i * 2 ^ (laneBits t.toNat (o b) i % laneW t.toNat)
      zextI (if s == 1#1 then satInt (tySigned t.toNat) (laneW t.toNat) r else r) (laneW t.toNat)⟩
  | .shr t a b d g => some ⟨g, [a, b], d, fun o => mapLanes t.toNat fun i =>
      zextI (laneInt t.toNat (o a) i / 2 ^ (laneBits t.toNat (o b) i % laneW t.toNat)) (laneW t.toNat)⟩
  | .rol t a b d g => some ⟨g, [a, b], d, fun o => mapLanes t.toNat fun i =>
      let w := laneW t.toNat
      let u := zextI (laneInt t.toNat (o a) i) w
      let n := laneBits t.toNat (o b) i % w
      zextI ((u * 2 ^ n + u / 2 ^ (w - n) : Nat) : Int) w⟩
  | _ => none

/-- The relation of a compare, with its gate, sources, type and flag (R217). -/
def compareForm : Instr → Option (Rel × BitVec 4 × BitVec 5 × BitVec 5 × BitVec 2 × BitVec 2)
  | .cmpEq t a b q g => some (.eq, t, a, b, q, g)
  | .cmpNe t a b q g => some (.ne, t, a, b, q, g)
  | .cmpLt t a b q g => some (.lt, t, a, b, q, g)
  | .cmpLe t a b q g => some (.le, t, a, b, q, g)
  | .cmpGt t a b q g => some (.gt, t, a, b, q, g)
  | .cmpGe t a b q g => some (.ge, t, a, b, q, g)
  | .cmpUn t a b q g => some (.un, t, a, b, q, g)
  | _ => none

/-- A rounded floating word of R220 and R221: gate, a, b, d, type, saturation, direction, and the exact function of the lanes. -/
structure FloatForm where
  g : BitVec 2
  a : BitVec 5
  b : BitVec 5
  d : BitVec 5
  t : BitVec 4
  sat : Bool
  mode : Rnd
  f : FVal → FVal → FVal → FVal

/-- The words of R220 and R221 that name two sources. -/
def floatForm : Instr → Option FloatForm
  | .fadd t a b d g s r => some ⟨g, a, b, d, t, s == 1#1, rndOf r, fun x z _ => faddV (rndOf r) x z⟩
  | .fsub t a b d g s r => some ⟨g, a, b, d, t, s == 1#1, rndOf r, fun x z _ => faddV (rndOf r) x (fnegV z)⟩
  | .fmul t a b d g s r => some ⟨g, a, b, d, t, s == 1#1, rndOf r, fun x z _ => fmulV x z⟩
  | .fma t a b d g s r => some ⟨g, a, b, d, t, s == 1#1, rndOf r, fun x z w => faddV (rndOf r) (fmulV x z) w⟩
  | .fms t a b d g s r => some ⟨g, a, b, d, t, s == 1#1, rndOf r, fun x z w => faddV (rndOf r) (fmulV x z) (fnegV w)⟩
  | .fmin t a b d g => some ⟨g, a, b, d, t, false, .rne, fun x z _ => fminV x z⟩
  | .fmax t a b d g => some ⟨g, a, b, d, t, false, .rne, fun x z _ => fmaxV x z⟩
  | .fclamp t a b d g => some ⟨g, a, b, d, t, false, .rne, fun x z w => fminV (fmaxV x z) w⟩
  | _ => none

/-- A load of R251: signedness, d, b, size, order, scope and displacement. -/
def loadForm : Instr → Option (Bool × BitVec 5 × BitVec 5 × BitVec 2 × BitVec 2 × BitVec 2 × BitVec 10)
  | .ld d b z o c v => some (true, d, b, z, o, c, v)
  | .ldn d b z o c v => some (false, d, b, z, o, c, v)
  | _ => none

/-- An atomic of R256: its function, d, a, b, scope, order and size. -/
def amoForm : Instr → Option (BitVec 5 × BitVec 5 × BitVec 5 × BitVec 5 × BitVec 2 × BitVec 2 × BitVec 1)
  | .amoAdd d a b c o z => some (0, d, a, b, c, o, z)
  | .amoAnd d a b c o z => some (1, d, a, b, c, o, z)
  | .amoOr d a b c o z => some (2, d, a, b, c, o, z)
  | .amoXor d a b c o z => some (3, d, a, b, c, o, z)
  | .amoMin d a b c o z => some (4, d, a, b, c, o, z)
  | .amoMax d a b c o z => some (5, d, a, b, c, o, z)
  | .amoMinn d a b c o z => some (6, d, a, b, c, o, z)
  | .amoMaxn d a b c o z => some (7, d, a, b, c, o, z)
  | .amoSwap d a b c o z => some (8, d, a, b, c, o, z)
  | .amoCas d a b c o z => some (9, d, a, b, c, o, z)
  | _ => none

/-- The alignment that a load or store of an order demands (R251, R252): a relaxed one demands none. -/
def alignOf (o z : BitVec 2) : Option Nat := if o = 0 then none else some (2 ^ z.toNat)

/-- A special function word of R224: gate, a, d and the function of the binary32 value. -/
def specialForm : Instr → Option (BitVec 2 × BitVec 5 × BitVec 5 × (FVal → Nat))
  | .exp2 a _ d g r => some (g, a, d, exp2F (rndOf r))
  | .log2 a _ d g r => some (g, a, d, log2F (rndOf r))
  | .rcp a _ d g r => some (g, a, d, rcpF (rndOf r))
  | .rsq a _ d g r => some (g, a, d, rsqF (rndOf r))
  | .tanh a _ d g r => some (g, a, d, tanhF (rndOf r))
  | _ => none

/-- A one-source word of R221 on each lane: gate, a, d, type, direction and function. -/
def floatForm1 : Instr → Option (BitVec 2 × BitVec 5 × BitVec 5 × BitVec 4 × Rnd × (FVal → FVal))
  | .fabs t a _ d g => some (g, a, d, t, .rne, fun v => match v with
      | .nan => .nan
      | .inf _ => .inf false
      | .fin _ m e => .fin false m e)
  | .fneg t a _ d g => some (g, a, d, t, .rne, fnegV)
  | .frnd t a _ d g r => some (g, a, d, t, rndOf r, frndV (rndOf r))
  | _ => none

/-- A bank load of R228: whether its gate lets it execute, its sources and its d, and the offset of its access. -/
def bankLoadForm : Instr → Option (BitVec 2 × List (BitVec 5) × BitVec 5 × (Ops → Nat))
  | .ldb a _ d g => some (g, [a], d, fun o => o.w.offA (o.get a))
  | .ldt a _ d g => some (g, [a], d, fun o => o.w.offT (o.get a))
  | .ldbi _ i d => some (0, [], d, fun o => o.w.offI i)
  | _ => none

/-- A bank store of R228: gate, sources, offset and value. -/
def bankStoreForm : Instr → Option (BitVec 2 × List (BitVec 5) × (Ops → Nat) × (Ops → W32))
  | .stb a b _ g => some (g, [a, b], fun o => o.w.offA (o.get a), fun o => o.get b)
  | .stt a b _ g => some (g, [a, b], fun o => o.w.offT (o.get a), fun o => o.get b)
  | .stbi a i _ => some (0, [a], fun o => o.w.offI i, fun o => o.get a)
  | _ => none

/-- A bank atomic of R228: gate, a, b, d, and the new word from the operands and the old word. -/
def bankAtomicForm : Instr → Option (BitVec 2 × BitVec 5 × BitVec 5 × BitVec 5 × (Ops → W32 → W32))
  | .atadd a b d g => some (g, a, b, d, fun o m => m + o.get b)
  | .atmin t a b d g => some (g, a, b, d, fun o m =>
      if t = 0 then (if (o.get b).toInt ≤ m.toInt then o.get b else m) else (if (o.get b).toNat ≤ m.toNat then o.get b else m))
  | .atmax t a b d g => some (g, a, b, d, fun o m =>
      if t = 0 then (if m.toInt ≤ (o.get b).toInt then o.get b else m) else (if m.toNat ≤ (o.get b).toNat then o.get b else m))
  | .atxchg a b d g => some (g, a, b, d, fun o _ => o.get b)
  | .atcas a b d g => some (g, a, b, d, fun o m => if m = o.get d then o.get b else m)
  | _ => none

/-- A word of R231 to R239 that issues to a matrix block, as it stands before its issue. -/
def blockForm : Instr → Option BlockRun
  | .mma f k _ _ o l e d s => some { BlockRun.blank with op := 0, fmt := f.toNat, acc := k.toNat, len := 256 / 2 ^ l.toNat, done := e == 1#1,
                                                         bout := o == 1#1, dfmt := d.toNat, sat := s == 1#1 }
  | .mmx f k _ _ o l e d s => some { BlockRun.blank with op := 1, fmt := f.toNat, acc := k.toNat, len := 256 / 2 ^ l.toNat, done := e == 1#1,
                                                         bout := o == 1#1, dfmt := d.toNat, sat := s == 1#1 }
  | .azero k => some { BlockRun.blank with op := 2, acc := k.toNat }
  | .adrain k d s => some { BlockRun.blank with op := 3, acc := k.toNat, dfmt := d.toNat, sat := s == 1#1 }
  | .aload k => some { BlockRun.blank with op := 4, acc := k.toNat }
  | .ascale k v => some { BlockRun.blank with op := 5, acc := k.toNat, imm := v }
  | _ => none

/-- An element word that `s.ep`'s element executes runs its body: the element holds an item and its gate is true (R38, R63, R210). -/
def Executes (s : State) (w : View) (g : BitVec 2) : Prop := s.view = some w ∧ gateOpen w.el.q g = true

/-- The state in which a thread moves that stands first on the agenda. -/
def State.turnOf (s : State) (t : Thread) : State := { s with agenda := s.agenda.tail, free := s.free + 1, cur := t }

/-- A thread takes its next instruction now: it is neither still nor waiting, and no interrupt is taken first (R323, R328, R331). -/
def State.takesNext (s : State) : Thread → Prop
  | .ring r => s.ringStill r = false ∧ (s.ring r).run ≠ .wfi ∧ (s.strip (s.ring r).sbase).capture = false ∧ s.ringInt r = none
  | .core d => d < 4 ∧ (s.die d).stopped = false ∧ (s.die d).waiting = false ∧ s.coreInt d = none

/-- Everything but ring r is as it was. -/
def OnlyRing (r : Nat) (s t : State) : Prop := t = s.setRing r (t.ring r)

/-- Everything but die d is as it was. -/
def OnlyDie (d : Nat) (s t : State) : Prop := t = s.setDie d (t.die d)

/-- Everything but group g is as it was. -/
def OnlyGroup (g : Nat) (s t : State) : Prop := ∃ x, t = s.setGroup g x

/-- An instruction that completes changes of its thread the registers with what they depend on (R255), the pc and INSTRET, ends its wait, and leaves
everything else. -/
def OnlySeqRegs (s t : State) : Prop :=
  ∃ x deps pc, t = (s.endWait s.cur).updSeq s.cur fun q => { q with x := x, deps := deps, pc := pc, instret := q.instret + 1 }

/-- An access of a thread that reads and performs changes of the device its thread's registers and outstanding accesses, what the thread's operations and
later readers must observe, and the number of link transfers. -/
def OnlyAccess (th : Thread) (s t : State) : Prop :=
  ∃ (q : Seq) (asyncs : List Async) (past : List Past) (linkSeq : W64), t = { (match th with
    | .ring r => s.updRing r fun x => { x with seq := q, asyncs := asyncs }
    | .core d => s.updDie d fun x => { x with core := q }) with past := past, linkSeq := linkSeq }

/-- What becomes of an access that fails a check, whose form writes register d: the trap of R252, or the error of a descriptor's read, of which a machine check
leaves 0 in d (R364, R412, R428). -/
def State.failed (s : State) (d : Option (BitVec 5)) (e : AccErr) : State :=
  match e with
  | .mem m =>
    let u := (match d, m with
      | some r, .machine _ => s.setX r 0
      | _, _ => s).threadFail s.cur m
    if u.stoppedNow then u else u.done
  | e => s.trap e.cause.1 e.cause.2

/-- The writes that a value for d queues: y always, and the register that d names under the rotation, or the bound output port (R73, R227). -/
def View.destWrites (w : View) (late : Bool) (due : Nat) (d : BitVec 5) (v : W32) : List Wr :=
  let e (k : WrKind) : Wr := { late := late, due := due, slot := w.gs, pos := w.pos, ctx := w.at_.ctx, item := w.item.n, tag := w.item.tag, kind := k }
  e (.y v) :: (if d.toNat < 16 then [e (.k (physReg w.el.base d.toNat) v)]
    else if d.toNat = 17 then
      match w.outKey with
      | some key => [e (.out key v)]
      | none => []
    else [])

/-- The item that leaves a running group slot at an item-time boundary, with the boundary it carries on: y of every position (R38, R61). -/
def State.leaving (s : State) (g : Group) (gs : Nat) : Option Item :=
  if (s.slot g gs).st = .run then (s.slot g gs).item.map fun it => { it with bnd := (List.range 32).map fun p => (s.elem g gs p).y } else none

end Sys2Proof.Machine
end

