-- ==== Sys2Proof/Certificates/Slice0/Obligations.lean ====
section
/-! DEFINITION. The statements for the provers, one definition each; OBLIGATIONS.json lists them. -/

open Sys2Proof Sys2Proof.Machine

/-- After a cold start every ring is unassigned and idle, holds no launch and no phase, and its CSRs read as R262, R272, R322 and R329 give them
(0, but GROUPSEL 0x10100 and STIMECMP all ones); a management core's read 0 but HTIMECMP, LPTYPE and PWRCAP; every SRAM bank and every
fresh HBM line reads zeros; no VF, window or migration key is loaded and no window is valid (R422). Each die's clock setting is the nominal 16
(R24). The pc of a management core and the bytes of HOST that nothing has written are the model's choice (logs 2 and 9). -/
def Obligations.ResetState : Prop :=
  (∀ r, (State.reset.ring r).vf = none ∧ (State.reset.ring r).owner = none ∧ (State.reset.ring r).run = .idle ∧
    (State.reset.ring r).halted = false ∧ (State.reset.ring r).group = none ∧ (State.reset.ring r).power = 0) ∧
  (∀ r n, n ≠ 0x019 → n ≠ 0x100B → State.reset.rcsr r n = 0) ∧
  (∀ r, State.reset.rcsr r 0x019 = 0x10100 ∧ State.reset.rcsr r 0x100B = 0xFFFFFFFFFFFFFFFF) ∧
  (∀ d n, n ≠ 0x2008 → n ≠ 0x2020 → n ≠ 0x2065 → State.reset.dcsr d n = 0) ∧
  (∀ d, State.reset.dcsr d 0x2008 = 0xFFFFFFFFFFFFFFFF ∧ State.reset.dcsr d 0x2020 = 0x88B5 ∧ State.reset.dcsr d 0x2065 = 2000 ∧
    (State.reset.die d).m = 16) ∧
  (∀ k, State.reset.byte k = 0) ∧
  (∀ v, tfind State.reset.vfKeys v = none ∧ tfind State.reset.winKeys v = none ∧ (State.reset.window v).valid = false) ∧
  State.reset.migKey = none ∧ State.reset.time = 0

/-- The memory of the reset state is in canonical form: the invariant of MemoryFormKept holds there. -/
def Obligations.MemoryFormAtReset : Prop := MemOk State.reset

/-- Whatever the device does next, memory stays in canonical form: addresses strictly rising, and no byte listed that reads as an unlisted byte
does. So two memories that read alike are equal data, and an erased byte (R104, R340) is the same as one never written. -/
def Obligations.MemoryFormKept : Prop := ∀ s t : State, MemOk s → step s = .next t → MemOk t

/-- Words that the spec writes out bit by bit: sext.w x5, x5 is 0x00A5_0019; the return jalr x0, x1, 0 is 0x8001_0000; fence.strip is
0x8800_0001 and fence.rg.strip x4, x5 is 0x8804_2805; trap 0x21 is 0x9400_0021; dret and halt of R330; the pload, waitd and launch of R273; and
of the element words cmp.lt.f32 q1, in, c0 (0x351E_8040) and sel.q1 k3, k0, c1 (0x4020_88C0). -/
def Obligations.WordsDecode : Prop :=
  decodeSeq 0x00A50019 = .ok (.sextW 5 5) ∧ decodeSeq 0x80010000 = .ok (.jalr 0 1 0) ∧ decodeSeq 0x88000001 = .ok (.fence 1) ∧
  decodeSeq 0x88042805 = .ok (.fenceRg 4 5 1) ∧ decodeSeq 0x94000021 = .ok (.trap 0x21) ∧ decodeSeq 0xE0650003 = .ok (.halt 3 5) ∧
  decodeSeq 0xE065000D = .ok (.dret 3 5) ∧ decodeSeq 0xE0000000 = .ok .sret ∧ decodeSeq 0xA0898000 = .ok (.pload 4 9 8 0) ∧
  decodeSeq 0xB8008060 = .ok (.waitd 6) ∧ decodeSeq 0xD4098000 = .ok (.launch 9) ∧
  decodeElem 0x351E8040 = .ok (.cmpLt 8 30 16 1 0) ∧ decodeElem 0x402088C0 = .ok (.sel 1 0 17 3 0)

/-- A word that a sequencer or an element accepts is the encoding of the instruction it is read as, and that instruction's fields are ones the
spec accepts: a reserved field, an unassigned function and a field value that R86, R186 or R201 rejects never decode, and no bit is ignored. -/
def Obligations.DecodeSound : Prop :=
  (∀ w i, decodeSeq w = .ok i → i.wf = true ∧ i.isElem = false ∧ encode i = some w) ∧
  (∀ w i, decodeElem w = .ok i → i.wf = true ∧ i.isElem = true ∧ encode i = some w)

/-- For every instruction word of the device, with every operand at every value its encoding admits, decoding the encoding gives the
instruction back. -/
def Obligations.EncodeDecode : Prop :=
  ∀ i w, i.wf = true → encode i = some w → (if i.isElem then decodeElem w else decodeSeq w) = .ok i

/-- Where a thread stands first on the agenda, is neither still nor waiting, takes no interrupt first, and can fetch the four bytes at its pc, the
step is exec of the instruction that those bytes, little-endian, decode to, on the state with that thread taken off the agenda and the transfers
counted that the fetch makes over Certia Link; where they decode to none, it is the illegal-instruction event with the word. Where a ring group that has started stands first on the agenda, neither held nor draining nor faulted, in the part of its cycle that executes context words,
and the element whose turn it is is in a slot that holds an item, the step executes that element's word of the cycle's context at its place (position 13
of the count is the A feed of the slot's stripe, and runs no word). In every other part of its cycle the step is the event, if any, that fabricMove names. -/
def Obligations.StepRunsDecoded : Prop :=
  (∀ (s : State) (th : Thread) (rest : List Act) (w : W32),
    s.powered = true → s.agenda = .thread th :: rest →
    (s.turnOf th).takesNext th →
    (s.turnOf th).fetchErr th ((s.turnOf th).levelOf th) ((s.turnOf th).seqOf th).pc = none →
    (s.turnOf th).placesErr ((s.turnOf th).fetchPlaces th) = none →
    w = BitVec.ofNat 32 (leNat (((s.turnOf th).fetchPlaces th).map fun p => (s.turnOf th).byte p.1)) →
    (s.turnOf th).stoppedNow = false →
    let u := (s.turnOf th).transfers ((s.turnOf th).fetchPlaces th)
    (∀ i, decodeSeq w = .ok i → step s = exec i u) ∧ (∀ e, decodeSeq w = .error e → step s = exec (.illegalInstruction w) u)) ∧
  (∀ (s : State) (gk : Nat) (rest : List Act) (g : Group), s.powered = true → s.agenda = .fabric gk :: rest → s.group? gk = some g →
    let u : State := { s with agenda := rest, free := s.free + 1 }
    let j := g.cursor % 33
    let pos := if j < 13 then j else j - 1
    g.stage = .elems → g.started = true → g.draining = false → g.mark = none → u.groupHeld g = false → g.cursor < 33 * u.plen g → j ≠ 13 →
    (u.slot g (g.cursor / 33)).item.isSome = true →
    step s = exec (u.wordAt g (g.cursor / 33) pos)
      { u.setGroup gk { g with cursor := g.cursor + 1 } with ep := { g := gk, slot := g.cursor / 33, pos := pos } }) ∧
  (∀ (s : State) (gk : Nat) (rest : List Act), s.powered = true → s.agenda = .fabric gk :: rest →
    let u : State := { s with agenda := rest, free := s.free + 1 }
    (∀ i u', u.fabricMove gk = (some i, u') → step s = exec i u') ∧
    (∀ u', u.fabricMove gk = (none, u') → step s = .next u'))

/-- The other moves: a ring, outside a capture, or a core in wfi executes wfi again; a pending enabled interrupt is taken before the instruction; a fetch that fails is
the fetch-fault event; and a free event that stands first on the agenda is executed for its thread. -/
def Obligations.StepTakesEvents : Prop :=
  (∀ (s : State) (r : Nat) (rest : List Act), s.powered = true → s.agenda = .thread (.ring r) :: rest → (s.turnOf (.ring r)).ringStill r = false →
    ((s.turnOf (.ring r)).strip (s.ring r).sbase).capture = false →
    (((s.turnOf (.ring r)).ring r).run = .wfi → step s = exec .wfi (s.turnOf (.ring r))) ∧
    (((s.turnOf (.ring r)).ring r).run ≠ .wfi → ((s.turnOf (.ring r)).ringInt r).isSome = true → step s = exec .interrupt (s.turnOf (.ring r)))) ∧
  (∀ (s : State) (d : Nat) (rest : List Act), d < 4 → s.powered = true → s.agenda = .thread (.core d) :: rest → (s.die d).stopped = false →
    ((s.die d).waiting = true → step s = exec .wfi (s.turnOf (.core d))) ∧
    ((s.die d).waiting = false → ((s.turnOf (.core d)).coreInt d).isSome = true →
      step s = exec .managementCoreInterrupt (s.turnOf (.core d)))) ∧
  (∀ (s : State) (th : Thread) (rest : List Act), s.powered = true → s.agenda = .thread th :: rest → (s.turnOf th).takesNext th →
    ((s.turnOf th).fetchErr th ((s.turnOf th).levelOf th) ((s.turnOf th).seqOf th).pc).isSome = true →
    step s = exec .instructionFetchFault (s.turnOf th)) ∧
  (∀ (s : State) (th : Thread) (i : Instr) (rest : List Act), s.powered = true → s.agenda = .event th i :: rest → freeEvent i = true →
    step s = exec i (s.turnOf th))

/-- Every instruction and every event, on every operand and in every state, ends in a next state: a failed check is a trap, a fault of a phase or a
status code, and none of them stops the device. A device without its supply does nothing but start. -/
def Obligations.StepGoesOn : Prop :=
  (∀ i s, ∃ t, exec i s = .next t) ∧ (∀ s, HasSupply s → Runs s) ∧
  (∀ s, s.powered = false → (∀ th f, s.nextAct.1 ≠ .event th (.powerOnStart f)) → step s = .fault .supplyLost)

/-- Each form of R249 and R250, once no register that it names awaits a result, writes its value (the tables of R249 and R250, as scalarResult of
Safety.lean writes them out) to its destination, unless that is x0, and continues at pc + 4. Every other register, every CSR, all of memory and
everything else in the device are as before, but INSTRET. -/
def Obligations.ScalarResults : Prop :=
  ∀ i s d regs v, scalarResult i s = some (d, regs, v) → s.pendAny regs = false →
    ∃ t, exec i s = .next t ∧ OnlySeqRegs s t ∧ t.x d = (if d = 0 then 0 else v) ∧ (∀ r, r ≠ d → t.x r = s.x r) ∧
      t.pc = s.pc + 4 ∧ ∀ k, t.byte k = s.byte k

/-- An instruction that reads or writes a register whose load, atomic or promise has not yet come does nothing, and is executed again: the forms of
R249 and R250, the branches, fence.rg, and the loads, stores and atomics. These, where they are not to a window, also wait while an acquiring access is outstanding
(a store only where the acquire's scope has another agent at work, the model's choice: log 112); a window access never does. fence and fence.rg complete at once, and change no register and no byte: each takes its place in the program order, and while
an older access in its range, those to windows aside, has not performed, no later access in the range does. A fence with nothing outstanding before it takes effect at once. -/
def Obligations.WaitsForPending : Prop :=
  (∀ i s d regs v, scalarResult i s = some (d, regs, v) → s.pendAny regs = true → exec i s = .next s) ∧
  (∀ i s regs off b, branchResult i s = some (regs, off, b) → s.pendAny regs = true → exec i s = .next s) ∧
  (∀ i s g d b z o c v, loadForm i = some (g, d, b, z, o, c, v) →
    (s.pendAny [d, b] = true → exec i s = .next s) ∧
    (∀ ps, s.access .load (s.x b + BitVec.ofInt 64 (v.toInt * 2 ^ z.toNat)) (2 ^ z.toNat) (alignOf o z) = .ok ps → isWin (ps.map (·.2)) = false →
      (∃ l ∈ s.me.loads, l.orders = true) → exec i s = .next s)) ∧
  (∀ s d b z o c v,
    (s.pendAny [d, b] = true → exec (.st d b z o c v) s = .next s) ∧
    (∀ ps, s.access .store (s.x b + BitVec.ofInt 64 (v.toInt * 2 ^ z.toNat)) (2 ^ z.toNat) (alignOf o z) = .ok ps → isWin (ps.map (·.2)) = false →
      (∃ l ∈ s.me.loads, l.orders = true ∧ s.noPeer s.cur l.scope.toNat = false) → exec (.st d b z o c v) s = .next s)) ∧
  (∀ i s k d a b c o z, amoForm i = some (k, d, a, b, c, o, z) →
    (s.pendAny [d, a, b] = true → exec i s = .next s) ∧
    (∀ ps, s.access .amo (s.x a) (4 * 2 ^ z.toNat) (some (4 * 2 ^ z.toNat)) = .ok ps → isWin (ps.map (·.2)) = false →
      (∃ l ∈ s.me.loads, l.orders = true) → exec i s = .next s)) ∧
  (∀ s c, ∃ t, exec (.fence c) s = .next t ∧ t.me.x = s.me.x ∧ t.pc = s.pc + 4 ∧ (∀ k, t.byte k = s.byte k) ∧ t.me.loads = s.me.loads ∧
    t.me.stores = s.me.stores ∧ t.me.nextSeq = s.me.nextSeq + 1 ∧
    (s.me.busy = false → ∀ f ∈ t.me.ranges, f.seq ≠ s.me.nextSeq) ∧
    ((∀ r ∈ s.me.ranges, r.done.isSome = true) → ((∃ l ∈ s.me.loads, l.seq < s.me.nextSeq ∧ isWin l.attrs = false ∧ 0 < l.nb) ∨
        ∃ b ∈ s.me.stores, b.seq < s.me.nextSeq ∧ isWin b.attrs = false ∧ b.locs ≠ []) →
      ∃ f ∈ t.me.ranges, f.seq = s.me.nextSeq ∧ f.base = 0 ∧ f.len = 2 ^ 64 ∧ f.scope = c.toNat ∧ f.done = none)) ∧
  (∀ s a b c, s.pendAny [a, b] = true → exec (.fenceRg a b c) s = .next s) ∧
  (∀ s a b c, s.pendAny [a, b] = false →
    ∃ t, exec (.fenceRg a b c) s = .next t ∧ t.me.x = s.me.x ∧ t.pc = s.pc + 4 ∧ (∀ k, t.byte k = s.byte k) ∧
      t.me.loads = s.me.loads ∧ t.me.stores = s.me.stores ∧
      ((∀ r ∈ s.me.ranges, r.done.isSome = true) →
        ∃ f ∈ t.me.ranges, f.seq = s.me.nextSeq ∧ f.base = (s.x a).toNat ∧ f.len = (s.x b).toNat ∧ f.scope = c.toNat ∧
          (f.done = none ↔ s.me.within f = true))) ∧
  (∀ (s : State) t k (f : RangeFence), f ∈ (s.seqOf t).ranges → f.done = none →
    (∀ l : PendLoad, f.seq < l.seq → isWin l.attrs = false → inRange f.base f.len l.va l.nb = true → loadReady (s.seqOf t) l = false) ∧
    (∀ b : BufStore, f.seq < b.seq → isWin b.attrs = false → inRange f.base f.len b.va b.locs.length = true → s.storeReady t k b = false))

/-- The six branches are op 0x18 to 0x1D. A branch that is not taken continues at pc + 4 and its target is never checked; a taken one, by the condition
of R257 on Xs, Ys or Xn, Yn, continues at pc + 4·SEXT(off16), which lies within −131,072 to +131,068 bytes, unless that fails R202, which traps
with cause 0x12 and the target and has no other effect. It writes no register and no memory. -/
def Obligations.Branches : Prop :=
  (∀ a b v, ([Instr.beq a b v, .bne a b v, .blt a b v, .bge a b v, .bltn a b v, .bgen a b v].map fun i => (encode i).map fun w => w.toNat / 2 ^ 26) =
    [some 0x18, some 0x19, some 0x1A, some 0x1B, some 0x1C, some 0x1D]) ∧
  (∀ a b v s, branchResult (.beq a b v) s = some ([a, b], 4 * v.toInt, decide (s.x a = s.x b)) ∧
    branchResult (.bne a b v) s = some ([a, b], 4 * v.toInt, decide (s.x a ≠ s.x b)) ∧
    branchResult (.blt a b v) s = some ([a, b], 4 * v.toInt, (s.x a).slt (s.x b)) ∧
    branchResult (.bge a b v) s = some ([a, b], 4 * v.toInt, (s.x b).sle (s.x a)) ∧
    branchResult (.bltn a b v) s = some ([a, b], 4 * v.toInt, (s.x a).ult (s.x b)) ∧
    branchResult (.bgen a b v) s = some ([a, b], 4 * v.toInt, (s.x b).ule (s.x a))) ∧
  ∀ i s regs off taken, branchResult i s = some (regs, off, taken) → s.pendAny regs = false →
    let target := s.pc + BitVec.ofInt 64 off
    (-131072 ≤ off ∧ off ≤ 131068) ∧
    (taken = false → ∃ t, exec i s = .next t ∧ OnlySeqRegs s t ∧ t.me.x = s.me.x ∧ t.pc = s.pc + 4 ∧ ∀ k, t.byte k = s.byte k) ∧
    (taken = true → target.toNat % 4 = 0 → target.toNat < 2 ^ 54 →
      ∃ t, exec i s = .next t ∧ OnlySeqRegs s t ∧ t.me.x = s.me.x ∧ t.pc = target ∧ ∀ k, t.byte k = s.byte k) ∧
    (taken = true → (target.toNat % 4 ≠ 0 ∨ 2 ^ 54 ≤ target.toNat) → exec i s = .next (s.trap 0x12 target))

/-- j and jal continue at pc + 4·SEXT(off26), within 128 MiB either way, and jalr (op 0x20) at x[a] + SEXT(imm16), with x[a] as it stood before; jal
writes pc + 4 to x1 and jalr to its d (a link to x0 is discarded). A target that fails R202 traps before the link is written. 0x8001_0000 is
jalr x0, x1, 0, which returns to where a jal came from. -/
def Obligations.Jumps : Prop :=
  (∀ s off, let target := s.pc + BitVec.ofInt 64 (4 * off.toInt)
    (-(2 ^ 27) ≤ 4 * off.toInt ∧ 4 * off.toInt < 2 ^ 27) ∧
    (target.toNat % 4 = 0 → target.toNat < 2 ^ 54 →
      ∃ t, exec (.j off) s = .next t ∧ OnlySeqRegs s t ∧ t.me.x = s.me.x ∧ t.pc = target ∧ ∀ k, t.byte k = s.byte k) ∧
    ((target.toNat % 4 ≠ 0 ∨ 2 ^ 54 ≤ target.toNat) → exec (.j off) s = .next (s.trap 0x12 target))) ∧
  (∀ s off, s.pendAny [1] = false → let target := s.pc + BitVec.ofInt 64 (4 * off.toInt)
    (target.toNat % 4 = 0 → target.toNat < 2 ^ 54 →
      ∃ t, exec (.jal off) s = .next t ∧ OnlySeqRegs s t ∧ t.x 1 = s.pc + 4 ∧ (∀ r, r ≠ 1 → t.x r = s.x r) ∧ t.pc = target ∧
        ∀ k, t.byte k = s.byte k) ∧
    ((target.toNat % 4 ≠ 0 ∨ 2 ^ 54 ≤ target.toNat) → exec (.jal off) s = .next (s.trap 0x12 target))) ∧
  (∀ s d a imm, s.pendAny [d, a] = false → let target := s.x a + imm.signExtend 64
    (target.toNat % 4 = 0 → target.toNat < 2 ^ 54 →
      ∃ t, exec (.jalr d a imm) s = .next t ∧ OnlySeqRegs s t ∧ t.x d = (if d = 0 then 0 else s.pc + 4) ∧
        (∀ r, r ≠ d → t.x r = s.x r) ∧ t.pc = target ∧ ∀ k, t.byte k = s.byte k) ∧
    ((target.toNat % 4 ≠ 0 ∨ 2 ^ 54 ≤ target.toNat) → exec (.jalr d a imm) s = .next (s.trap 0x12 target))) ∧
  (∀ d a imm, (encode (.jalr d a imm)).map (fun w => w.toNat / 2 ^ 26) = some 0x20) ∧ encode (.jalr 0 1 0) = some 0x80010000

/-- An index at or past len falls through to pc + 4 with no access; any other reads the entry at x[d] + 4·x[a] (checked by R252) and continues at
x[d] + SEXT(entry, 32), unless that fails R202. No register and no memory is written. -/
def Obligations.Jtab : Prop :=
  (∀ s d a imm, s.pendAny [d, a] = false → imm.toNat ≤ (s.x a).toNat → exec (.jtab d a imm) s = .next s.done) ∧
  (∀ s u d a imm ps bs, s.pendAny [d, a] = false → (s.x a).toNat < imm.toNat → s.access .load (s.x d + 4 * s.x a) 4 (some 4) = .ok ps →
    s.readNow [d, a] (s.x d + 4 * s.x a) ps = some (bs, u) → u.stoppedNow = false →
    let target := s.x d + (BitVec.ofNat 32 (leNat bs)).signExtend 64
    (target.toNat % 4 = 0 → target.toNat < 2 ^ 54 →
      ∃ t, exec (.jtab d a imm) s = .next t ∧ t.me.x = s.me.x ∧ t.pc = target ∧ t.me.instret = s.me.instret + 1 ∧ ∀ k, t.byte k = s.byte k) ∧
    ((target.toNat % 4 ≠ 0 ∨ 2 ^ 54 ≤ target.toNat) → exec (.jtab d a imm) s = .next (u.trap 0x12 target))) ∧
  (∀ s d a imm e, s.pendAny [d, a] = false → (s.x a).toNat < imm.toNat → s.access .load (s.x d + 4 * s.x a) 4 (some 4) = .error e →
    exec (.jtab d a imm) s = .next (s.accTrap e))

/-- ld, ldn and st at x[base] + SEXT(disp)·2^size and an atomic at x[a] complete once every check of R252 has passed: a load or atomic becomes
outstanding with its destination, bytes and order and leaves every register as it was, a store goes into the store buffer with the low bytes of its
source. No byte of memory changes at issue. (No acquire that holds it may be outstanding: R116, and log 112 for which.) -/
def Obligations.MemoryIssue : Prop :=
  (∀ i s g d b z o c v ps, loadForm i = some (g, d, b, z, o, c, v) → s.pendAny [d, b] = false →
    let va := s.x b + BitVec.ofInt 64 (v.toInt * 2 ^ z.toNat)
    s.access .load va (2 ^ z.toNat) (alignOf o z) = .ok ps → s.acqHolds false ps = false →
    ∃ t l, exec i s = .next t ∧ t.me.loads = s.me.loads ++ [l] ∧ t.me.stores = s.me.stores ∧ t.me.x = s.me.x ∧ t.pc = s.pc + 4 ∧
      (∀ k, t.byte k = s.byte k) ∧ l.kind = .load g ∧ l.rd = d ∧ l.nb = 2 ^ z.toNat ∧ l.va = va ∧ l.scope = c ∧ l.rel = false ∧
      l.acq = o.getLsbD 0 ∧ l.locs = ps.map (·.1)) ∧
  (∀ s d b z o c v ps, s.pendAny [d, b] = false →
    let va := s.x b + BitVec.ofInt 64 (v.toInt * 2 ^ z.toNat)
    s.access .store va (2 ^ z.toNat) (alignOf o z) = .ok ps → s.acqHolds true ps = false →
    ∃ t, exec (.st d b z o c v) s = .next t ∧ t.me.loads = s.me.loads ∧ t.me.x = s.me.x ∧ t.pc = s.pc + 4 ∧ (∀ k, t.byte k = s.byte k) ∧
      (va.toNat % 2 ^ z.toNat = 0 → ∃ p, t.me.stores.getLast? = some p ∧ p.locs = ps.map (·.1) ∧ p.data = leBytes (2 ^ z.toNat) (s.x d).toNat)) ∧
  (∀ i s k d a b c o z ps, amoForm i = some (k, d, a, b, c, o, z) → s.pendAny [d, a, b] = false →
    s.access .amo (s.x a) (4 * 2 ^ z.toNat) (some (4 * 2 ^ z.toNat)) = .ok ps → s.acqHolds false ps = false →
    ∃ t l, exec i s = .next t ∧ t.me.loads = s.me.loads ++ [l] ∧ t.me.stores = s.me.stores ∧ t.me.x = s.me.x ∧ t.pc = s.pc + 4 ∧
      (∀ q, t.byte q = s.byte q) ∧ l.kind = .amo k (s.x b) (s.x d) ∧ l.rd = d ∧ l.nb = 4 * 2 ^ z.toNat ∧ l.va = s.x a ∧ l.scope = c ∧
      l.acq = o.getLsbD 0 ∧ l.rel = o.getLsbD 1 ∧ l.locs = ps.map (·.1))

/-- An aligned load that may perform writes its destination with the little-endian value of the bytes that it reads, each from the thread's own newest
older buffered store or else as it observes memory, sign-extended for ld and zero-extended for ldn. The other registers, the other outstanding accesses
and all of memory are as before; of the rest of the device only what reads and operations must observe, and the number of link transfers, can change. -/
def Obligations.LoadReturns : Prop :=
  ∀ s th k part l g got, (s.seqOf (threadOf th)).loads[k]? = some l → loadReady (s.seqOf (threadOf th)) l = true →
    s.bankBusy (threadOf th) l.locs = false → l.kind = .load g → l.va.toNat % l.nb = 0 → 0 < l.nb → l.nb ≤ 8 →
    s.readFor (threadOf th) l.seq l.dep l.va (l.locs.zip l.attrs) = .ok got → got.bytes.length = l.nb →
    ∃ t, exec (.loadWriteback th k part) s = .next t ∧ OnlyAccess (threadOf th) s t ∧
      (t.seqOf (threadOf th)).loads = (s.seqOf (threadOf th)).loads.eraseIdx k ∧
      (t.seqOf (threadOf th)).stores = (s.seqOf (threadOf th)).stores ∧ (t.seqOf (threadOf th)).pc = (s.seqOf (threadOf th)).pc ∧
      (l.rd ≠ 0 → tget 0 (t.seqOf (threadOf th)).x l.rd.toNat =
        if g then BitVec.ofInt 64 (BitVec.ofNat (8 * l.nb) (leNat got.bytes)).toInt else BitVec.ofNat 64 (leNat got.bytes)) ∧
      (∀ n, (l.rd = 0 ∨ n ≠ l.rd.toNat) → tget 0 (t.seqOf (threadOf th)).x n = tget 0 (s.seqOf (threadOf th)).x n) ∧
      (∀ a, t.byte a = s.byte a)

/-- A buffered store that no older access to its bytes, no fence before it and no release of its own holds back leaves the store buffer and writes its
bytes: each of its places (no two of them alike) reads the byte stored, and every other byte of memory reads as before. No register changes. -/
def Obligations.StorePerforms : Prop :=
  ∀ s th k b v, (s.seqOf (threadOf th)).stores[k]? = some b →
    olderLoad (s.seqOf (threadOf th)) b.seq b.locs = false →
    (((s.seqOf (threadOf th)).stores.take k).any fun o => overlap o.locs b.locs) = false →
    (isWin b.attrs = false → (s.seqOf (threadOf th)).barred b.seq b.va b.locs.length = false ∧
      (b.rel = true → s.relWaits (threadOf th) b.seq b.scope = false)) →
    s.bankBusy (threadOf th) b.locs = false →
    (s.updSeq (threadOf th) fun q => { q with stores := q.stores.eraseIdx k }).writeFor (threadOf th) b.rel b.scope b.seq b.va []
      (b.locs.zip b.attrs) b.data = .ok v →
    ∃ t, exec (.storePerform th k) s = .next t ∧ (t.seqOf (threadOf th)).x = (s.seqOf (threadOf th)).x ∧
      (t.seqOf (threadOf th)).pc = (s.seqOf (threadOf th)).pc ∧
      (t.seqOf (threadOf th)).stores = (s.seqOf (threadOf th)).stores.eraseIdx k ∧
      (b.locs.Nodup → b.attrs.length = b.locs.length → b.data.length = b.locs.length →
        (∀ n, n < b.locs.length → t.byte (b.locs.getD n 0) = b.data.getD n 0) ∧ (∀ a, a ∉ b.locs → t.byte a = s.byte a))

/-- An atomic that may perform writes SEXT of the value it reads to its destination, and the value of its function of R256 to the place it names: the
table of R256 stands here, and a compare-and-swap whose comparison fails writes nothing, and waits for no release of its own. Every byte outside the place reads as before. -/
def Obligations.AmoPerforms : Prop :=
  ∀ s th k part l kind z c, (s.seqOf (threadOf th)).loads[k]? = some l → loadReady (s.seqOf (threadOf th)) l = true →
    s.bankBusy (threadOf th) l.locs = false → l.kind = .amo kind z c → l.nb = 4 ∨ l.nb = 8 →
    l.locs.length = l.nb → l.attrs.length = l.nb → l.locs.Nodup →
    s.placesErr (l.locs.zip l.attrs) = none → (∀ p ∈ l.locs, isHbm p = true → s.treeFull p = false) →
    let n := l.nb
    let m := leNat ((s.amoSees (threadOf th) l).map (·.1))
    let zn := z.toNat % 2 ^ (8 * n)
    let cn := c.toNat % 2 ^ (8 * n)
    let sg (v : Nat) : Int := (BitVec.ofNat (8 * n) v).toInt
    let new : Option Nat :=
      if kind = 0 then some ((m + zn) % 2 ^ (8 * n)) else if kind = 1 then some (m &&& zn) else if kind = 2 then some (m ||| zn)
      else if kind = 3 then some (m ^^^ zn) else if kind = 4 then some (if sg zn < sg m then zn else m)
      else if kind = 5 then some (if sg m < sg zn then zn else m) else if kind = 6 then some (min m zn)
      else if kind = 7 then some (max m zn) else if kind = 8 then some zn
      else if kind = 9 then (if m = cn then some zn else none) else none
    (new.isSome = true → l.rel = true → s.relWaits (threadOf th) l.seq l.scope = false) →
    ∃ t, exec (.loadWriteback th k part) s = .next t ∧
      (t.seqOf (threadOf th)).loads = (s.seqOf (threadOf th)).loads.eraseIdx k ∧
      (t.seqOf (threadOf th)).stores = (s.seqOf (threadOf th)).stores ∧
      (l.rd ≠ 0 → tget 0 (t.seqOf (threadOf th)).x l.rd.toNat = BitVec.ofInt 64 (sg m)) ∧
      (∀ i, (l.rd = 0 ∨ i ≠ l.rd.toNat) → tget 0 (t.seqOf (threadOf th)).x i = tget 0 (s.seqOf (threadOf th)).x i) ∧
      (∀ a, a ∉ l.locs → t.byte a = s.byte a) ∧
      (∀ i, i < n → t.byte (l.locs.getD i 0) = match new with
        | some v => (leBytes n v).getD i 0
        | none => s.byte (l.locs.getD i 0))

/-- Where a check of R252 fails, a load, store or atomic takes the trap of that check (0x12 an address fault, 0x13 alignment, 0x14 bounds, 0x15 to
0x17 a translation fault, 0x18 a window) at its own pc, and none of its bytes is accessed. Where a descriptor of its translation does not come, the access
ends as a machine check instead (R364): its register takes 0, and the thread goes on (R428); or, where it fails to verify, with the VF stopped (R412; on a management core log 7). -/
def Obligations.BadAccessTraps : Prop :=
  (∀ i s g d b z o c v e, loadForm i = some (g, d, b, z, o, c, v) → s.pendAny [d, b] = false →
    s.access .load (s.x b + BitVec.ofInt 64 (v.toInt * 2 ^ z.toNat)) (2 ^ z.toNat) (alignOf o z) = .error e →
    exec i s = .next (s.failed (some d) e)) ∧
  (∀ s d b z o c v e, s.pendAny [d, b] = false →
    s.access .store (s.x b + BitVec.ofInt 64 (v.toInt * 2 ^ z.toNat)) (2 ^ z.toNat) (alignOf o z) = .error e →
    exec (.st d b z o c v) s = .next (s.failed none e)) ∧
  (∀ i s k d a b c o z e, amoForm i = some (k, d, a, b, c, o, z) → s.pendAny [d, a, b] = false →
    s.access .amo (s.x a) (4 * 2 ^ z.toNat) (some (4 * 2 ^ z.toNat)) = .error e → exec i s = .next (s.failed (some d) e)) ∧
  (∀ va, AccErr.cause (.addr va) = (0x12, va) ∧ AccErr.cause (.align va) = (0x13, va) ∧ AccErr.cause (.bounds va) = (0x14, va) ∧
    AccErr.cause (.window va) = (0x18, va)) ∧
  (∀ f, (AccErr.cause (.xlat f)).1 ∈ [0x15, 0x16, 0x17])

/-- Where the checks of R261 and R320 let it, csrr writes to its destination what the register reads: on a ring ringRead (TIME and FCLKM among
them, and for a register of plain storage its last value); on a management core coreRead, and for HEVT, PRQPOP and RDBGD what the event of its row answers
(the oldest event; the oldest NEW entry, which becomes TAKEN; the value that RDBGA names). A read of TIME, CYCLE or INSTRET waits while an acquiring access or a
FENCE of its thread is outstanding (R116, R263: State.counterWaits). Nothing else of a ring changes, but pc and INSTRET. -/
def Obligations.CsrReads : Prop :=
  (∀ s r d n, s.cur = .ring r → s.csrTrap n.toNat false = none → s.pendAny [d] = false → (n.toNat ≤ 2 → s.counterWaits = false) →
    ∃ t, exec (.csrr d n) s = .next t ∧ OnlySeqRegs s t ∧ t.x d = (if d = 0 then 0 else s.ringRead r n.toNat) ∧
      (∀ q, q ≠ d → t.x q = s.x q) ∧ t.pc = s.pc + 4 ∧ ∀ k, t.byte k = s.byte k) ∧
  (∀ s c d n, s.cur = .core c → s.csrTrap n.toNat false = none → s.pendAny [d] = false → n ≠ 0x2001 → n ≠ 0x2030 → n ≠ 0x2123 →
    (n.toNat ≤ 2 → s.counterWaits = false) →
    ∃ t, exec (.csrr d n) s = .next t ∧ OnlySeqRegs s t ∧ t.x d = (if d = 0 then 0 else s.coreRead c n.toNat) ∧
      (∀ q, q ≠ d → t.x q = s.x q) ∧ t.pc = s.pc + 4 ∧ ∀ k, t.byte k = s.byte k) ∧
  (∀ s c d, s.cur = .core c → s.pendAny [d] = false →
    ∃ t u v, exec (.csrr d 0x2001) s = .next t ∧ exec (.hevtRead d) s = .next u ∧ t = u.done ∧ u = (s.setX d v).updDie c (fun x => { x with hevt := x.hevt.drop 1 }) ∧
      v = (s.die c).hevt.headD 0) ∧
  (∀ s c d, s.cur = .core c → s.pendAny [d] = false →
    (∀ e, s.oldestNew c = some e → ∃ u, exec (.prqpopRead d) s = .next u ∧ u = (s.setX d (BitVec.ofNat 64 (2 ^ 63 + e))).setPrqSt c e .taken ∧
      exec (.csrr d 0x2030) s = .next u.done) ∧
    (s.oldestNew c = none → exec (.csrr d 0x2030) s = .next (s.setX d 0).done) ∧
    ∃ u, exec (.rdbgdRead d) s = .next u ∧ exec (.csrr d 0x2123) s = .next u.done ∧
      ∀ v, (s.ring s.rsel).halted = true → s.dbgValue s.rsel (dbgAddr (s.rcsr s.rsel 0x2122)) = some v → u = (s.setX d v).dbgErr s.rsel false) ∧
  (∀ s d n, s.csrTrap n.toNat false = none → n.toNat ≤ 2 → s.counterWaits = true → exec (.csrr d n) s = .next s) ∧
  (∀ s : State, s.counterWaits = true ↔ (∃ l ∈ s.me.loads, l.orders = true) ∨ ∃ f ∈ s.me.ranges, f.full = true ∧ f.done = none) ∧
  (∀ (s : State) r, s.ringRead r 0x000 = s.time ∧ s.ringRead r 0x011 = BitVec.ofNat 64 (s.die (dieOf r)).m ∧
    s.ringRead r 0x002 = (s.ring r).seq.instret ∧ ∀ n ∈ [0x1001, 0x1002, 0x1003, 0x1004, 0x1005, 0x1006, 0x1008, 0x100B], s.ringRead r n = s.rcsr r n)

/-- Where the checks of R261 and R320 let it, csrw writes x[a] as REGISTER_WRITE does and completes (but for LDONE and a BOOTCTL that requests a
start). A write of LQTAIL or SPRQRESP, and of HPRQRESP on a management core, is a release (R346, R376); that it first waits for every outstanding access of the
thread is the model's choice (log 55). A plain register then reads the value with its reserved bits 0, SIP loses the bits that the value sets, and every other register of plain
storage, every general register and all of memory are unchanged. -/
def Obligations.CsrWrites : Prop :=
  (∀ s r a n, s.cur = .ring r → s.csrTrap n.toNat true = none → s.pendAny [a] = false → n ≠ 0x030 → n ≠ 0x1013 → n ≠ 0x1023 →
    ∃ u, exec (.registerWrite n.toNat (s.x a)) s = .next u ∧ exec (.csrw a n) s = .next u.done) ∧
  (∀ s r a n, s.cur = .ring r → s.csrTrap n.toNat true = none → s.pendAny [a] = false → n = 0x1013 ∨ n = 0x1023 →
    (s.me.busy = true → exec (.csrw a n) s = .next s) ∧
    (s.me.busy = false → ∃ u, exec (.registerWrite n.toNat (s.x a)) (s.releaseAll r) = .next u ∧ exec (.csrw a n) s = .next u.done)) ∧
  (∀ s c a n, s.cur = .core c → s.csrTrap n.toNat true = none → s.pendAny [a] = false → n ≠ 0x2066 → (n = 0x2034 → s.me.busy = false) →
    ∃ u, exec (.registerWrite n.toNat (s.x a)) s = .next u ∧ exec (.csrw a n) s = .next u.done) ∧
  (∀ s r n m v, s.cur = .ring r →
    (n, m) ∈ [(0x028, 0xFFFFFFFFFFFFFFFD), (0x029, 0xFFFFFFFFFFFFFFFF), (0x02A, 0xFF), (0x02B, 0xFFFFFFFFFFFFFFFF), (0x02C, 1),
      (0x1001, 0xF), (0x1002, 0xFFFFFFFFFFFFFFFC), (0x1003, 0xFFFFFFFFFFFFFFFF), (0x1004, 0x80000000000000FF), (0x1005, 0xFFFFFFFFFFFFFFFF),
      (0x1006, 0xFFFFFFFFFFFFFFFF), (0x1007, 0x3E), (0x1008, 0xFFFF00FFFFFFFFFF), (0x1009, 0x1F), ((0x100B : Nat), (0xFFFFFFFFFFFFFFFF : W64))] →
    ∃ t, exec (.registerWrite n v) s = .next t ∧ t.rcsr r n = v &&& m ∧ (∀ k, k ≠ n → t.rcsr r k = s.rcsr r k) ∧ t.me = s.me ∧ t.mem = s.mem) ∧
  (∀ s r v, s.cur = .ring r →
    ∃ t, exec (.registerWrite 0x100A v) s = .next t ∧ t.rcsr r 0x100A = s.rcsr r 0x100A &&& ~~~(v &&& 0x1E) ∧
      (∀ k, k ≠ 0x100A → t.rcsr r k = s.rcsr r k) ∧ t.me = s.me ∧ t.mem = s.mem) ∧
  (∀ s c n v, s.cur = .core c → n ∈ [0x2002, 0x2003, 0x2007, (0x2008 : Nat)] →
    ∃ t, exec (.registerWrite n v) s = .next t ∧ t.dcsr c n = v &&& (if n = 0x2002 then 0xFFFFFFFFFFFFFFFC else 0xFFFFFFFFFFFFFFFF) ∧
      (∀ k, k ≠ n → t.dcsr c k = s.dcsr c k) ∧ t.me = s.me ∧ t.mem = s.mem)

/-- trap imm at U, with UTVEC.en set, no handler active and cause 1 not withheld by SDELEG, writes UTEPC with its own pc, UTCAUSE with 1, UTVAL with the
code, UTSTAT.active with 1 and x31 with pc + 4, and goes to UTVEC's address at U. No other register of the RSQ, no S register and no byte of memory
changes, and INSTRET does not count it. -/
def Obligations.UserTrapEntry : Prop :=
  ∀ s r imm, s.cur = .ring r → (s.ring r).level = .u → bit (s.rcsr r 0x028) 0 = true → bit (s.rcsr r 0x02C) 0 = false →
    bit (s.rcsr r 0x1007) 1 = false → (s.utvec r).toNat < 2 ^ 54 → s.pend (.ring r) 31 = false →
    ∃ t, exec (.trap imm) s = .next t ∧ OnlyRing r s t ∧ t.rcsr r 0x029 = s.pc ∧ t.rcsr r 0x02A = 1 ∧ t.rcsr r 0x02B = imm.zeroExtend 64 ∧
      t.rcsr r 0x02C = 1 ∧ t.pc = s.rcsr r 0x028 &&& 0xFFFFFFFFFFFFFFFC ∧ t.x 31 = s.pc + 4 ∧ (∀ q, q ≠ 31 → t.x q = s.x q) ∧
      (t.ring r).level = .u ∧ t.me.instret = s.me.instret ∧ (∀ n, n ∉ [0x029, 0x02A, 0x02B, 0x02C] → t.rcsr r n = s.rcsr r n) ∧
      ∀ k, t.byte k = s.byte k

/-- A trap that the graph's handler does not take (the RSQ is at S, or its handler is disabled, active or withheld) goes to S: SEPC takes the pc,
SCAUSE the cause, STVAL the value; SSTATUS takes sie 0, spie the old sie, spl the old level and sua the handler's activity; the level is S and
the pc is STVEC's address. The general registers, INSTRET and memory are unchanged. So for trap (cause 1), for an illegal instruction that HDELEG
delegates (0x10), and for a fetch fault. -/
def Obligations.SupervisorTrapEntry : Prop :=
  let entry (s t : State) (r : Nat) (cause value : W64) : Prop :=
    OnlyRing r s t ∧ t.rcsr r 0x1003 = s.pc ∧ t.rcsr r 0x1004 = cause ∧ t.rcsr r 0x1005 = value ∧
      t.rcsr r 0x1001 = BitVec.ofNat 64 ((if bit (s.rcsr r 0x1001) 0 then 2 else 0) + (if (s.ring r).level = .u then 0 else 4) +
        (if bit (s.rcsr r 0x02C) 0 then 8 else 0)) ∧
      (t.ring r).level = .s ∧ t.pc = s.rcsr r 0x1002 &&& 0xFFFFFFFFFFFFFFFC ∧ t.me.x = s.me.x ∧ t.me.instret = s.me.instret ∧
      (∀ n, n ∉ [0x1001, 0x1003, 0x1004, 0x1005] → t.rcsr r n = s.rcsr r n) ∧ ∀ k, t.byte k = s.byte k
  (∀ s r imm, s.cur = .ring r → s.userTaken r 1 = false → s.badHandler r = false →
    ∃ t, exec (.trap imm) s = .next t ∧ entry s t r 1 (imm.zeroExtend 64)) ∧
  (∀ s r w, s.cur = .ring r → bit (s.rcsr r 0x2104) 0 = true → s.badHandler r = false →
    ∃ t, exec (.illegalInstruction w) s = .next t ∧ entry s t r 0x10 (w.zeroExtend 64)) ∧
  (∀ s r e, s.cur = .ring r → s.fetchErr (.ring r) (s.ring r).level s.pc = some e → (∀ m, e ≠ .mem m) → s.hOnly r e.cause.1 = false →
    s.badHandler r = false →
    ∃ t, exec .instructionFetchFault s = .next t ∧ entry s t r (BitVec.ofNat 64 e.cause.1) e.cause.2)

/-- A cause that HDELEG withholds from S parks the RSQ: RPC takes the pc, RCAUSE the cause and RTVAL the value, an event is posted to the die (R328; behind 256 others too: log 124, the model's choice), and no
general register, S register or byte of memory changes; where STVEC cannot be entered the RSQ parks with 0x1B and the cause as its value. A management
core takes its own traps: HEPC, HCAUSE and HTVAL are written, HSTATUS.pie takes ie and ie becomes 0, and the pc is HTVEC's address; where that fails
R202, the core stops and reports over I3C. -/
def Obligations.ParkAndCoreTraps : Prop :=
  (∀ s r w, s.cur = .ring r → bit (s.rcsr r 0x2104) 0 = false →
    ∃ t, exec (.illegalInstruction w) s = .next t ∧ (t.ring r).run = .parked ∧ t.rcsr r 0x2106 = s.pc ∧ t.rcsr r 0x2107 = 0x10 ∧
      t.rcsr r 0x2108 = w.zeroExtend 64 ∧ (t.ring r).seq = (s.ring r).seq ∧ (t.ring r).level = (s.ring r).level ∧
      (t.die (dieOf r)).hevt = (s.die (dieOf r)).hevt ++ [eventWord 0 0x10 0 r] ∧
      (∀ n, n ∉ [0x2106, 0x2107, 0x2108] → t.rcsr r n = s.rcsr r n) ∧ ∀ k, t.byte k = s.byte k) ∧
  (∀ s r imm, s.cur = .ring r → s.userTaken r 1 = false → s.badHandler r = true →
    ∃ t, exec (.trap imm) s = .next t ∧ (t.ring r).run = .parked ∧ t.rcsr r 0x2106 = s.pc ∧ t.rcsr r 0x2107 = 0x1B ∧ t.rcsr r 0x2108 = 1 ∧
      (t.ring r).seq = (s.ring r).seq ∧ ∀ k, t.byte k = s.byte k) ∧
  (∀ s d imm, s.cur = .core d → (s.dcsr d 0x2002 &&& 0xFFFFFFFFFFFFFFFC).toNat < 2 ^ 54 →
    ∃ t, exec (.trap imm) s = .next t ∧ OnlyDie d s t ∧ t.dcsr d 0x2003 = s.pc ∧ t.dcsr d 0x2004 = 1 ∧ t.dcsr d 0x2005 = imm.zeroExtend 64 ∧
      fld (t.dcsr d 0x2006) 0 0 = 0 ∧ fld (t.dcsr d 0x2006) 1 1 = fld (s.dcsr d 0x2006) 0 0 ∧
      t.pc = s.dcsr d 0x2002 &&& 0xFFFFFFFFFFFFFFFC ∧ t.me.x = s.me.x ∧
      (∀ n, n ∉ [0x2003, 0x2004, 0x2005, 0x2006] → t.dcsr d n = s.dcsr d n) ∧ ∀ k, t.byte k = s.byte k) ∧
  (∀ s d imm, s.cur = .core d → 2 ^ 54 ≤ (s.dcsr d 0x2002 &&& 0xFFFFFFFFFFFFFFFC).toNat →
    ∃ t, exec (.trap imm) s = .next t ∧ (t.die d).stopped = true ∧ t.i3c = some 1 ∧ t.me = s.me)

/-- INTERRUPT delivers the lowest pending enabled bit of SIP to S as R325 does: SCAUSE holds bit 63 and the index, SEPC the pc that was not executed, and
the RSQ runs at S at STVEC's address. MANAGEMENT_CORE_INTERRUPT delivers 8 for an event and 9 for the timer to HTVEC. Neither writes a general register or
memory. (STVAL and HTVAL are free values: log 17.) At S, or on a management core, wfi completes at pc + 4 once an enabled interrupt is pending (whether or not interrupts are enabled) or a pre-emption
has reached the ring; until then it waits. It changes no general register and no memory. -/
def Obligations.InterruptEntry : Prop :=
  (∀ s r n, s.cur = .ring r → s.ringInt r = some n → s.badHandler r = false →
    ∃ t, exec .interrupt s = .next t ∧ OnlyRing r s t ∧ t.rcsr r 0x1003 = s.pc ∧ t.rcsr r 0x1004 = BitVec.ofNat 64 (2 ^ 63 + n) ∧
      fld (t.rcsr r 0x1001) 0 0 = 0 ∧ (t.ring r).level = .s ∧ t.pc = s.rcsr r 0x1002 &&& 0xFFFFFFFFFFFFFFFC ∧ t.me.x = s.me.x ∧
      ∀ k, t.byte k = s.byte k) ∧
  (∀ (s : State) r n, s.ringInt r = some n → n < 5 ∧ bit (s.sip r) n = true ∧ bit (s.rcsr r 0x1009) n = true ∧
    (∀ m, m < n → (bit (s.sip r) m && bit (s.rcsr r 0x1009) m) = false) ∧ ((s.ring r).level = .u ∨ bit (s.rcsr r 0x1001) 0 = true)) ∧
  (∀ s d n, s.cur = .core d → s.coreInt d = some n → (s.dcsr d 0x2002 &&& 0xFFFFFFFFFFFFFFFC).toNat < 2 ^ 54 →
    ∃ t, exec .managementCoreInterrupt s = .next t ∧ OnlyDie d s t ∧ t.dcsr d 0x2003 = s.pc ∧ t.dcsr d 0x2004 = BitVec.ofNat 64 (2 ^ 63 + n) ∧
      fld (t.dcsr d 0x2006) 0 0 = 0 ∧ fld (t.dcsr d 0x2006) 1 1 = fld (s.dcsr d 0x2006) 0 0 ∧
      t.pc = s.dcsr d 0x2002 &&& 0xFFFFFFFFFFFFFFFC ∧ t.me.x = s.me.x ∧ (t.die d).waiting = false ∧ ∀ k, t.byte k = s.byte k) ∧
  (∀ s r, s.cur = .ring r → (s.ring r).level ≠ .u → s.ringWakes r = true →
    ∃ t, exec .wfi s = .next t ∧ OnlyRing r s t ∧ (t.ring r).run = .run ∧ t.pc = s.pc + 4 ∧ t.me.x = s.me.x ∧ ∀ k, t.byte k = s.byte k) ∧
  (∀ s r, s.cur = .ring r → (s.ring r).level ≠ .u → s.ringWakes r = false →
    exec .wfi s = .next (s.updRing r fun x => { x with run := .wfi })) ∧
  (∀ s d, s.cur = .core d → s.coreWake d = true →
    ∃ t, exec .wfi s = .next t ∧ OnlyDie d s t ∧ (t.die d).waiting = false ∧ t.pc = s.pc + 4 ∧ t.me.x = s.me.x ∧ ∀ k, t.byte k = s.byte k) ∧
  (∀ s d, s.cur = .core d → s.coreWake d = false → exec .wfi s = .next (s.updDie d fun x => { x with waiting := true }))

/-- sret at S continues at SEPC at the level SSTATUS.spl names, with sie taking spie, spie 1 and UTSTAT.active taking sua; a bad SEPC traps with no other
effect, and at U sret is privileged. hret continues at HEPC with HSTATUS.ie taking pie and pie 1. Neither changes a general register or memory. -/
def Obligations.TrapReturns : Prop :=
  (∀ s r, s.cur = .ring r → (s.ring r).level ≠ .u → (s.rcsr r 0x1003).toNat % 4 = 0 → (s.rcsr r 0x1003).toNat < 2 ^ 54 →
    ∃ t, exec .sret s = .next t ∧ OnlyRing r s t ∧ t.pc = s.rcsr r 0x1003 ∧ (t.ring r).level = (if bit (s.rcsr r 0x1001) 2 then .s else .u) ∧
      fld (t.rcsr r 0x1001) 0 0 = fld (s.rcsr r 0x1001) 1 1 ∧ fld (t.rcsr r 0x1001) 1 1 = 1 ∧
      fld (t.rcsr r 0x1001) 63 2 = fld (s.rcsr r 0x1001) 63 2 ∧ t.rcsr r 0x02C = BitVec.ofNat 64 (fld (s.rcsr r 0x1001) 3 3) ∧
      t.me.x = s.me.x ∧ (∀ n, n ∉ [0x1001, 0x02C] → t.rcsr r n = s.rcsr r n) ∧ ∀ k, t.byte k = s.byte k) ∧
  (∀ s r, s.cur = .ring r → (s.ring r).level ≠ .u → ((s.rcsr r 0x1003).toNat % 4 ≠ 0 ∨ 2 ^ 54 ≤ (s.rcsr r 0x1003).toNat) →
    exec .sret s = .next (s.trap 0x12 (s.rcsr r 0x1003))) ∧
  (∀ s r, s.cur = .ring r → (s.ring r).level = .u → exec .sret s = .next (s.trap 0x11 0xE0000000)) ∧
  (∀ s d, s.cur = .core d → (s.dcsr d 0x2003).toNat % 4 = 0 → (s.dcsr d 0x2003).toNat < 2 ^ 54 →
    ∃ t, exec .hret s = .next t ∧ OnlyDie d s t ∧ t.pc = s.dcsr d 0x2003 ∧ fld (t.dcsr d 0x2006) 0 0 = fld (s.dcsr d 0x2006) 1 1 ∧
      fld (t.dcsr d 0x2006) 1 1 = 1 ∧ fld (t.dcsr d 0x2006) 63 2 = fld (s.dcsr d 0x2006) 63 2 ∧ t.me.x = s.me.x ∧
      (∀ n, n ≠ 0x2006 → t.dcsr d n = s.dcsr d n) ∧ ∀ k, t.byte k = s.byte k)

/-- A form of H, and sret and wfi at U, take the privileged-instruction trap on a ring's RSQ with the word as value; a form of the RSQ is illegal on a
management core; an access to a register above the level traps as R320 says. Nothing else happens. -/
def Obligations.PrivilegeTraps : Prop :=
  (∀ s r i, s.cur = .ring r → i ∈ [Instr.tlbiAll, .hret] → exec i s = .next (s.trap 0x11 (wordOf i))) ∧
  (∀ s r d a, s.cur = .ring r → exec (.halt d a) s = .next (s.trap 0x11 (wordOf (.halt d a))) ∧
    exec (.dret d a) s = .next (s.trap 0x11 (wordOf (.dret d a))) ∧ exec (.gcfg d a) s = .next (s.trap 0x11 (wordOf (.gcfg d a))) ∧
    exec (.ccfg d a) s = .next (s.trap 0x11 (wordOf (.ccfg d a))) ∧ exec (.scrub d a) s = .next (s.trap 0x11 (wordOf (.scrub d a))) ∧
    exec (.tlbiVf a) s = .next (s.trap 0x11 (wordOf (.tlbiVf a)))) ∧
  (∀ s r, s.cur = .ring r → (s.ring r).level = .u → exec .wfi s = .next (s.trap 0x11 (wordOf .wfi))) ∧
  (∀ s r d a b, s.cur = .ring r → (s.ring r).level = .u → exec (.tlbiVa a b) s = .next (s.trap 0x11 (wordOf (.tlbiVa a b))) ∧
    exec (.tlbiAsid a) s = .next (s.trap 0x11 (wordOf (.tlbiAsid a))) ∧ exec (.irest d a) s = .next (s.trap 0x11 (wordOf (.irest d a))) ∧
    exec (.isave d a b) s = .next (s.trap 0x11 (wordOf (.isave d a b)))) ∧
  (∀ s c i, s.cur = .core c → (∃ (d a b : BitVec 5) (st : BitVec 4) (h : BitVec 3) (w : BitVec 8),
      i ∈ [Instr.pload d a st w, .cpy d a st w, .cpyB d a st w, .crnStep a st w, .pwait a, .pstat d a, .cset d a, .mark a, .waitd w, .waitt a h,
        .billetArm d a, .billetDisarm d, .tqpush a st, .tqcnt d st, .crnDef d a, .crnUndef a, .crnForce a, .crnMap d a, .crnStat d a,
        .launch a, .wopen d a, .wseal a, .tlbiVa a b, .tlbiAsid a, .isave d a b, .irest d a, .sret]) →
    exec i s = .next (s.trap 0x10 (wordOf i))) ∧
  (∀ s r d n, s.cur = .ring r → 0x2000 ≤ n.toNat → n.toNat < 0x3000 → exec (.csrr d n) s = .next (s.trap 0x11 (wordOf (.csrr d n))) ∧
    exec (.csrw d n) s = .next (s.trap 0x11 (wordOf (.csrw d n)))) ∧
  (∀ s r d n, s.cur = .ring r → (s.ring r).level = .u → 0x1000 ≤ n.toNat → n.toNat < 0x2000 →
    exec (.csrr d n) s = .next (s.trap 0x11 (wordOf (.csrr d n))) ∧ exec (.csrw d n) s = .next (s.trap 0x11 (wordOf (.csrw d n)))) ∧
  (∀ s d n, 0x3000 ≤ n.toNat → exec (.csrr d n) s = .next (s.trap 0x10 (wordOf (.csrr d n))))

/-- An asynchronous form whose operands are ready and that need not wait for a slot or a record (R268, R270, R277) adds one operation to its ring's list,
in its mask stage, with its operand, its set slot, the operations its wait mask awaits and copies of the translation registers and of what its thread has
observed; that operation is
counted into the set slot; pload writes the next serial to x[d]; the pc advances. No other register and no byte of memory changes. -/
def Obligations.AsyncIssue : Prop :=
  let issued (s t : State) (r : Nat) (op : AsyncOp) (set : Option Nat) (mask : Nat) : Prop :=
    OnlyRing r s t ∧ (∃ a, (t.ring r).asyncs = (s.ring r).asyncs ++ [a] ∧ a.op = op ∧ a.set = set ∧ a.st = .mask ∧ a.await = s.awaits r mask ∧
      a.id = (s.ring r).nextOp ∧ a.x = s.issueCtx r (s.ring r).level ∧
      (∀ i, set = some i → (t.dep r i).out = (s.dep r i).out ++ [a.id])) ∧
    (∀ i, set ≠ some i → t.dep r i = s.dep r i) ∧ t.pc = s.pc + 4 ∧ ∀ k, t.byte k = s.byte k
  (∀ s r d a st w, s.cur = .ring r → s.pendAny [d, a] = false → s.issueHeld r (setOf st) = false → (s.ring r).recsFull = false →
    ∃ t, exec (.pload d a st w) s = .next t ∧ (t.ring r).serial = (s.ring r).serial + 1 ∧
      issued s t r (.pload (s.x a) (s.rcsr r 0x019) ((s.ring r).serial + 1)) (setOf st) w.toNat ∧
      t.x d = (if d = 0 then 0 else BitVec.ofNat 64 ((s.ring r).serial + 1)) ∧ (∀ q, q ≠ d → t.x q = s.x q) ∧
      t.rec? r ((s.ring r).serial + 1) = some PhaseRec.reset) ∧
  (∀ s r d a st w, s.cur = .ring r → s.pendAny [d, a] = false → s.issueHeld r (setOf st) = false →
    ∃ t, exec (.cpy d a st w) s = .next t ∧ issued s t r (.cpy (s.x a)) (setOf st) w.toNat ∧ t.me.x = s.me.x) ∧
  (∀ s r d a st w, s.cur = .ring r → s.pendAny [d, a] = false → fld (s.x a) 31 4 = 0 → s.issueHeld r (setOf st) = false →
    ∃ t, exec (.cpyB d a st w) s = .next t ∧ issued s t r (.cpyB (s.x a)) (setOf st) w.toNat ∧ t.me.x = s.me.x) ∧
  (∀ s r d a st w, s.cur = .ring r → s.pendAny [d, a] = false → fld (s.x a) 31 4 ≠ 0 → exec (.cpyB d a st w) s = .next (s.trap 5 (s.x a))) ∧
  (∀ s r a st w, s.cur = .ring r → s.pendAny [a] = false → fld (s.x a) 31 7 = 0 → (s.region? r (fld (s.x a) 5 0)).isSome = true →
    s.issueHeld r (setOf st) = false →
    ∃ t, exec (.crnStep a st w) s = .next t ∧ issued s t r (.crnStep (s.x a)) (setOf st) w.toNat ∧ t.me.x = s.me.x) ∧
  (∀ s r a st w, s.cur = .ring r → s.pendAny [a] = false → (fld (s.x a) 31 7 ≠ 0 ∨ s.region? r (fld (s.x a) 5 0) = none) →
    exec (.crnStep a st w) s = .next (s.trap 5 (s.x a)))

/-- A waitd whose awaited operations have completed acquires what they have done (R119) and completes at pc + 4, or raises the dependency-error trap of the lowest awaited slot with err set; until
then it records what it awaits. A waitt with a time of 0 does the same for its slot, one before its TIME goes on sleeping, and one whose TIME has come completes
where its slot is satisfied, raises the dependency-error trap where that slot has err set, and raises the promise-miss trap where the slot is not satisfied. pwait completes for a phase that has retired (or is gone) and raises the phase-error trap for one that retired in error. -/
def Obligations.Waits : Prop :=
  (∀ s r w, s.cur = .ring r → (s.ring r).wait = none → s.satisfied r (s.awaits r w.toNat) = true → s.waitErr r (s.awaits r w.toNat) = none →
    ∃ t, exec (.waitd w) s = .next t ∧ OnlyRing r s t ∧ t.pc = s.pc + 4 ∧ t.me.x = s.me.x ∧ t.me.instret = s.me.instret + 1 ∧
      (t.ring r).wait = none ∧ ∀ k, t.byte k = s.byte k) ∧
  (∀ s r w i c, s.cur = .ring r → (s.ring r).wait = none → s.satisfied r (s.awaits r w.toNat) = true → s.waitErr r (s.awaits r w.toNat) = some (i, c) →
    exec (.waitd w) s = .next ((s.acquireOwn r).trap 3 (BitVec.ofNat 64 (i + 256 * c.toNat)))) ∧
  (∀ s r w, s.cur = .ring r → (s.ring r).wait = none → s.satisfied r (s.awaits r w.toNat) = false →
    exec (.waitd w) s = .next (s.updRing r fun x => { x with wait := some { slots := s.awaits r w.toNat, sleep := none } })) ∧
  (∀ s r a st, s.cur = .ring r → s.pendAny [a] = false → (s.ring r).wait = none → (s.x a).toNat ≤ s.time.toNat →
    s.satisfied r (s.awaits r (2 ^ st.toNat)) = true → s.waitErr r (s.awaits r (2 ^ st.toNat)) = none →
    exec (.waitt a st) s = .next (s.acquireOwn r).done) ∧
  (∀ s r a st i c, s.cur = .ring r → s.pendAny [a] = false → (s.ring r).wait = none → (s.x a).toNat ≤ s.time.toNat →
    s.satisfied r (s.awaits r (2 ^ st.toNat)) = true → s.waitErr r (s.awaits r (2 ^ st.toNat)) = some (i, c) →
    exec (.waitt a st) s = .next ((s.acquireOwn r).trap 3 (BitVec.ofNat 64 (i + 256 * c.toNat)))) ∧
  (∀ s r a st, s.cur = .ring r → s.pendAny [a] = false → (s.ring r).wait = none → s.x a = 0 →
    s.satisfied r (s.awaits r (2 ^ st.toNat)) = false →
    exec (.waitt a st) s = .next (s.updRing r fun x => { x with wait := some { slots := s.awaits r (2 ^ st.toNat), sleep := none } })) ∧
  (∀ s r a st, s.cur = .ring r → s.pendAny [a] = false → (s.ring r).wait = none → s.x a ≠ 0 → s.time.toNat < (s.x a).toNat →
    exec (.waitt a st) s = .next (s.updRing r fun x => { x with wait := some { slots := s.awaits r (2 ^ st.toNat), sleep := some (s.x a) } })) ∧
  (∀ s r a st, s.cur = .ring r → s.pendAny [a] = false → (s.ring r).wait = none → s.x a ≠ 0 → (s.x a).toNat ≤ s.time.toNat →
    s.satisfied r (s.awaits r (2 ^ st.toNat)) = false → exec (.waitt a st) s = .next (s.trap 2 (st.zeroExtend 64))) ∧
  (∀ s r w, s.cur = .ring r → (s.ring r).wait = some w → w.sleep = none → (s.ring r).run = .run → (s.ring r).halted = false →
    s.satisfied r w.slots = true → s.waitErr r w.slots = none → exec .waitSatisfied s = .next (s.acquireOwn r).done) ∧
  (∀ s r a, s.cur = .ring r → s.pendAny [a] = false → fld (s.x a) 63 32 = 0 → s.x a ≠ 0 → (s.x a).toNat ≤ (s.ring r).serial →
    (∀ q, s.rec? r (s.x a).toNat = some q → q.state = 5) → exec (.pwait a) s = .next (s.acquireOwn r).done) ∧
  (∀ s r a q, s.cur = .ring r → s.pendAny [a] = false → fld (s.x a) 63 32 = 0 → s.x a ≠ 0 → (s.x a).toNat ≤ (s.ring r).serial →
    s.rec? r (s.x a).toNat = some q → q.state = 6 →
    exec (.pwait a) s = .next ((s.acquireOwn r).trap 4 (BitVec.ofNat 64 ((s.x a).toNat + q.code.toNat * 2 ^ 32)))) ∧
  (∀ s r a, s.cur = .ring r → s.pendAny [a] = false → (fld (s.x a) 63 32 ≠ 0 ∨ s.x a = 0 ∨ (s.ring r).serial < (s.x a).toNat) →
    exec (.pwait a) s = .next (s.trap 5 (s.x a))) ∧
  (∀ (s : State) r, ((s.acquireOwn r).seqOf (.ring r)).x = (s.ring r).seq.x ∧ ((s.acquireOwn r).seqOf (.ring r)).pc = (s.ring r).seq.pc ∧
    OnlyRing r s (s.acquireOwn r) ∧ ((s.acquireOwn r).seqOf (.ring r)).front = (s.ring r).seq.front.sup (s.ring r).joined)

/-- pstat returns the summary of a phase's record, or state 7 for a handle that is gone, and traps on a handle that is none; tqcnt returns the number of
tokens queued; crn.stat returns a region's step, force, bound and defined flags, 0 for a region that is not defined. -/
def Obligations.Queries : Prop :=
  let reads (s : State) (i : Instr) (d : BitVec 5) (v : W64) : Prop :=
    ∃ t, exec i s = .next t ∧ OnlySeqRegs s t ∧ t.x d = (if d = 0 then 0 else v) ∧ (∀ q, q ≠ d → t.x q = s.x q) ∧ t.pc = s.pc + 4 ∧
      ∀ k, t.byte k = s.byte k
  (∀ s r d a, s.cur = .ring r → s.pendAny [d, a] = false → s.handleOk r (s.x a) = true → s.rec? r (s.x a).toNat = none →
    reads s (.pstat d a) d 7) ∧
  (∀ s r d a q, s.cur = .ring r → s.pendAny [d, a] = false → s.handleOk r (s.x a) = true → s.rec? r (s.x a).toNat = some q →
    reads s (.pstat d a) d (s.liveRec r (s.x a).toNat q).summary) ∧
  (∀ s r d a, s.cur = .ring r → s.pendAny [d, a] = false → s.handleOk r (s.x a) = false → exec (.pstat d a) s = .next (s.trap 5 (s.x a))) ∧
  (∀ s r d n, s.cur = .ring r → s.pendAny [d] = false →
    reads s (.tqcnt d n) d (BitVec.ofNat 64 (tget [] (s.ring r).tqs n.toNat).length)) ∧
  (∀ s r d a, s.cur = .ring r → s.pendAny [d, a] = false → fld (s.x a) 63 6 = 0 → s.region? r (s.x a).toNat = none →
    reads s (.crnStat d a) d 0) ∧
  (∀ s r d a g, s.cur = .ring r → s.pendAny [d, a] = false → fld (s.x a) 63 6 = 0 → s.region? r (s.x a).toNat = some g →
    reads s (.crnStat d a) d
      (BitVec.ofNat 64 (g.s % 2 ^ 32 + (if g.force then 2 ^ 32 else 0) + (if g.bound then 2 ^ 33 else 0) + 2 ^ 34)))

/-- tqpush, once its thread's accesses have performed and the queue has room, adds the low word of x[a] at the queue's end. billet.arm reads its 128-byte
record and arms the slot with it where the record is good, and otherwise disarms the slot and sets its aerr; billet.disarm disarms it. A slot number above
15 is an engine-operand trap. No general register and no memory changes. -/
def Obligations.TokensAndBillets : Prop :=
  (∀ s r a n, s.cur = .ring r → s.pendAny [a] = false → s.me.busy = false → (tget [] (s.ring r).tqs n.toNat).length < 64 →
    ∃ t, exec (.tqpush a n) s = .next t ∧ OnlyRing r s t ∧
      tget [] (t.ring r).tqs n.toNat = tget [] (s.ring r).tqs n.toNat ++ [(s.x a).truncate 32] ∧
      (∀ m, m ≠ n.toNat → tget [] (t.ring r).tqs m = tget [] (s.ring r).tqs m) ∧ t.me.x = s.me.x ∧ t.pc = s.pc + 4 ∧ ∀ k, t.byte k = s.byte k) ∧
  (∀ s u r d a ps l, s.cur = .ring r → s.pendAny [d, a] = false → fld (s.x d) 63 4 = 0 → s.access .load (s.x a) 128 (some 64) = .ok ps →
    s.readNow [a] (s.x a) ps = some (l, u) → u.stoppedNow = false →
    ∃ t, exec (.billetArm d a) s = .next t ∧ OnlyRing r u t ∧ t.me.x = s.me.x ∧ t.pc = s.pc + 4 ∧ (∀ k, t.byte k = s.byte k) ∧
      (u.armOk r (s.x d).toNat l = true → u.spanExec (u.issueCtx r (u.ring r).level) (s.x a) 128 = false →
        tfind (t.ring r).billets (s.x d).toNat = some { record := l, x := u.issueCtx r (u.ring r).level } ∧ (s.x d).toNat ∉ (t.ring r).aerr) ∧
      ((u.armOk r (s.x d).toNat l = false ∨ u.spanExec (u.issueCtx r (u.ring r).level) (s.x a) 128 = true) →
        tfind (t.ring r).billets (s.x d).toNat = none ∧ (s.x d).toNat ∈ (t.ring r).aerr)) ∧
  (∀ s r d, s.cur = .ring r → s.pendAny [d] = false → fld (s.x d) 63 4 = 0 →
    ∃ t, exec (.billetDisarm d) s = .next t ∧ OnlyRing r s t ∧ tfind (t.ring r).billets (s.x d).toNat = none ∧
      (∀ m, m ≠ (s.x d).toNat → tfind (t.ring r).billets m = tfind (s.ring r).billets m) ∧ t.me.x = s.me.x ∧ t.pc = s.pc + 4 ∧
      ∀ k, t.byte k = s.byte k) ∧
  (∀ s r d, s.cur = .ring r → s.pendAny [d] = false → fld (s.x d) 63 4 ≠ 0 → exec (.billetDisarm d) s = .next (s.trap 5 (s.x d)))

/-- crn.def defines a region that is not bound from its 64-byte record; crn.undef removes one that is not bound; crn.force sets the force flag of one that
is not bound (and waits for one that is); crn.map issues the load of a word of the skip map of a step the region holds. A selector that names no region
is an engine-operand trap. -/
def Obligations.CairnForms : Prop :=
  (∀ s u r d a ps l, s.cur = .ring r → s.pendAny [d, a] = false → fld (s.x d) 63 6 = 0 →
    (∀ g, s.region? r (s.x d).toNat = some g → g.bound = false) → s.access .load (s.x a) 64 (some 8) = .ok ps →
    s.readNow [a] (s.x a) ps = some (l, u) → u.stoppedNow = false → regionOk l = true →
    ∃ t, exec (.crnDef d a) s = .next t ∧ t.region? r (s.x d).toNat = some (regionOf l) ∧
      (∀ m, m ≠ (s.x d).toNat → t.region? r m = s.region? r m) ∧ t.me.x = s.me.x ∧ t.pc = s.pc + 4 ∧ ∀ k, t.byte k = s.byte k) ∧
  (∀ s r a g, s.cur = .ring r → s.pendAny [a] = false → s.selected r (s.x a) = some g → g.bound = false →
    ∃ t, exec (.crnUndef a) s = .next t ∧ t.region? r (s.x a).toNat = none ∧
      (∀ m, m ≠ (s.x a).toNat → t.region? r m = s.region? r m) ∧ t.me.x = s.me.x ∧ t.pc = s.pc + 4 ∧ ∀ k, t.byte k = s.byte k) ∧
  (∀ s r a g, s.cur = .ring r → s.pendAny [a] = false → s.selected r (s.x a) = some g → g.bound = false →
    ∃ t, exec (.crnForce a) s = .next t ∧ t.region? r (s.x a).toNat = some { g with force := true } ∧
      (∀ m, m ≠ (s.x a).toNat → t.region? r m = s.region? r m) ∧ t.me.x = s.me.x ∧ t.pc = s.pc + 4 ∧ ∀ k, t.byte k = s.byte k) ∧
  (∀ s r a g, s.cur = .ring r → s.pendAny [a] = false → s.selected r (s.x a) = some g → g.bound = true → exec (.crnForce a) s = .next s) ∧
  (∀ s r a, s.cur = .ring r → s.pendAny [a] = false → s.selected r (s.x a) = none →
    exec (.crnForce a) s = .next (s.trap 5 (s.x a)) ∧ exec (.crnUndef a) s = .next (s.trap 5 (s.x a))) ∧
  (∀ s r d a g ps, s.cur = .ring r → s.pendAny [d, a] = false → fld (s.x a) 7 6 = 0 →
    s.region? r (fld (s.x a) 5 0) = some g → 64 * fld (s.x a) 31 8 < g.ntiles → g.s < fld (s.x a) 63 32 + g.nmaps → fld (s.x a) 63 32 ≤ g.s →
    (g.bound = true ∨ fld (s.x a) 63 32 < g.s) →
    s.access .load (g.mapAt (fld (s.x a) 63 32) + BitVec.ofNat 64 (8 * fld (s.x a) 31 8)) 8 none = .ok ps →
    s.acqHolds false ps = false →
    ∃ t l, exec (.crnMap d a) s = .next t ∧ t.me.loads = s.me.loads ++ [l] ∧ l.rd = d ∧ l.nb = 8 ∧ l.locs = ps.map (·.1) ∧ t.me.x = s.me.x ∧
      t.pc = s.pc + 4 ∧ ∀ k, t.byte k = s.byte k)

/-- While the current phase of the RSQ runs, cset adds its update to the phase's list (where it is not full), and mark places a marker with the next
identity behind the words now at the port, and binds to it the issuer's updates that no marker precedes. After the phase has retired both do nothing, and
with no phase issued both trap (R281 says it of cset; that mark does too is the model's choice: log 56). Neither changes a general register or memory. -/
def Obligations.ConstantUpdates : Prop :=
  (∀ s r d a gk g, s.cur = .ring r → s.pendAny [d, a] = false → s.curPhase r = .run gk g → fld (s.x d) 63 24 = 0 →
    isMe (fld (s.x d) 20 16) = false → fld (s.x d) 15 0 < g.img.v → g.upds.length < 16 →
    ∃ t, exec (.cset d a) s = .next t ∧ t.group? gk = some { g with upds := g.upds ++ [{ issuer := r, target := (s.x d).truncate 32,
                                                                                         val := (s.x a).truncate 32, mark := none }] } ∧
      t.me.x = s.me.x ∧ t.pc = s.pc + 4 ∧ ∀ k, t.byte k = s.byte k) ∧
  (∀ s r d a, s.cur = .ring r → s.pendAny [d, a] = false → s.curPhase r = .retired →
    exec (.cset d a) s = .next s.done ∧ exec (.mark a) s = .next s.done) ∧
  (∀ s r d a, s.cur = .ring r → s.pendAny [d, a] = false → s.curPhase r = .none_ →
    exec (.cset d a) s = .next (s.trap 5 (s.x d)) ∧ exec (.mark a) s = .next (s.trap 5 (s.x a))) ∧
  (∀ s r a gk g p, s.cur = .ring r → s.pendAny [a] = false → s.curPhase r = .run gk g → fld (s.x a) 63 18 = 0 → fld (s.x a) 17 16 < 2 →
    fld (s.x a) 15 0 < g.img.v → tfind g.ports (portKey (fld (s.x a) 15 0) (fld (s.x a) 17 16)) = some p →
    (g.ports.map fun e => e.2.marks.length).sum < 64 →
    ∃ t g', exec (.mark a) s = .next t ∧ t.group? gk = some g' ∧ g'.nextMark = g.nextMark + 1 ∧
      (∃ p', tfind g'.ports (portKey (fld (s.x a) 15 0) (fld (s.x a) 17 16)) = some p' ∧
        p'.marks = p.marks ++ [(g.nextMark, s.wordsAhead g (portKey (fld (s.x a) 15 0) (fld (s.x a) 17 16)) p)]) ∧
      g'.upds = g.upds.map (fun u => if u.issuer = r ∧ u.mark.isNone then { u with mark := some g.nextMark } else u) ∧
      t.me.x = s.me.x ∧ t.pc = s.pc + 4 ∧ ∀ k, t.byte k = s.byte k)

/-- wopen on a handle that the VF holds, at a sequence number the window has reached, records the VF as having opened it; before that number it waits. wseal
by the writer, once its stores to windows have performed, adds 1 to the sequence number. A handle that is none of the VF's is a window trap. Neither changes a general
register or memory. -/
def Obligations.Windows : Prop :=
  (∀ s r d a n, s.cur = .ring r → s.pendAny [d, a] = false → s.mapped (s.vfNum r) (s.x a) = some n →
    ((s.window n).seq - (s.x d).truncate 32).toNat < 2 ^ 31 →
    ∃ t, exec (.wopen d a) s = .next t ∧ t.window n = { s.window n with opened := (s.window n).opened ||| (1#128 <<< s.vfNum r) } ∧
      (∀ m, m ≠ n → t.window m = s.window m) ∧ t.me.x = s.me.x ∧ t.pc = s.pc + 4 ∧ ∀ k, t.byte k = s.byte k) ∧
  (∀ s r d a n, s.cur = .ring r → s.pendAny [d, a] = false → s.mapped (s.vfNum r) (s.x a) = some n →
    2 ^ 31 ≤ ((s.window n).seq - (s.x d).truncate 32).toNat → exec (.wopen d a) s = .next s) ∧
  (∀ s r d a, s.cur = .ring r → s.pendAny [d, a] = false → s.mapped (s.vfNum r) (s.x a) = none →
    exec (.wopen d a) s = .next (s.trap 0x18 (s.x a)) ∧ exec (.wseal a) s = .next (s.trap 0x18 (s.x a))) ∧
  (∀ s r a n, s.cur = .ring r → s.pendAny [a] = false → s.mapped (s.vfNum r) (s.x a) = some n →
    (s.window n).opened.getLsbD (s.vfNum r) = true → (s.window n).wv = true → (s.window n).writer.toNat = s.vfNum r →
    (∀ b ∈ s.me.stores, isWin b.attrs = false) →
    ∃ t, exec (.wseal a) s = .next t ∧ t.window n = { s.window n with seq := (s.window n).seq + 1 } ∧
      (∀ m, m ≠ n → t.window m = s.window m) ∧ t.me.x = s.me.x ∧ t.pc = s.pc + 4 ∧ ∀ k, t.byte k = s.byte k)

/-- launch and a tail write put a record into the VF's queue; a doorbell, at offset 0 of the VF's page, does it for the host while the doorbell region is open
(a read at offset 8 gives LQHEAD), and a closed region does not respond. The dispatcher takes the record at the head: every ring it names starts at U at its entry with x1 and x9 set, every other register 0 and every
slot, billet and record of the last graph gone; a record that breaks the rules ends with status 1. A write of LDONE stores the code, waits for the
launch's work on the ring, and then ends the graph there, which leaves the ring idle where others of the launch go on (that the csrw completes before the graph
ends, so that pc and INSTRET have advanced, is the model's choice: log 100). A packet for no entry is rejected, and a frame that is no packet ignored. -/
def Obligations.Launches : Prop :=
  (∀ s w r a ps l sz u, s.cur = .ring r → s.pendAny [a] = false → s.access .load (s.x a) 64 (some 64) = .ok ps → s.readNow [a] (s.x a) ps = some (l, w) →
    w.stoppedNow = false → w.lqOpen (w.vfNum r) = some sz → w.lqFull (w.vfNum r) sz = false → w.me.busy = false →
    w.enqueue (w.ctxStage2 r) (w.vfNum r) sz l = .ok u →
    exec (.launch a) s = .next (u.releaseAll r).done ∧
      u.vcsr (w.vfNum r) 0x1013 = BitVec.ofNat 64 ((fld (w.vcsr (w.vfNum r) 0x1013) 15 0 + 1) % 2 ^ sz) ∧ u.me = w.me ∧ w.me.x = s.me.x ∧ w.pc = s.pc) ∧
  (∀ s r v, s.cur = .ring r → fld v 15 0 < 2 ^ fld (s.vcsr (s.vfNum r) 0x1011) 15 12 →
    exec (.lqtailWrite v) s = .next (s.setVcsr (s.vfNum r) 0x1013 (BitVec.ofNat 64 (fld v 15 0)))) ∧
  (∀ (s : State) vf v, s.doorOpen = true → vf < 128 → let page := fld (s.dcsr 0 0x2067) 54 23 * 2 ^ 23 + 65536 * vf
    exec (.doorbellWrite page v) s = .next ((s.writeTail vf v).door vf) ∧
      (∀ o, 0 < o → o < 65536 → exec (.doorbellWrite (page + o) v) s = .next s) ∧
      s.doorRead (page + 8) = s.vcsr vf 0x1012 ∧ ∀ o, o < 65536 → o ≠ 8 → s.doorRead (page + o) = 0) ∧
  (∀ (s : State) addr v, (s.doorOpen = false ∨ addr < fld (s.dcsr 0 0x2067) 54 23 * 2 ^ 23 ∨ fld (s.dcsr 0 0x2067) 54 23 * 2 ^ 23 + 2 ^ 23 ≤ addr) →
    exec (.doorbellWrite addr v) s = .next s ∧ s.doorRead addr = 0) ∧
  (∀ s vf r sz l, s.ringOfVf vf = some r → s.lqOpen vf = some sz → s.lqCount vf sz ≠ 0 → (s.vfOf vf).stopped = false →
    (s.strip (s.ring r).sbase).capture = false →
    let i := fld (s.vcsr vf 0x1012) 15 0 % 2 ^ sz
    s.engRead (s.ctxStage2 r) (s.vcsr vf 0x1010 + BitVec.ofNat 64 (64 * i)) 64 = .ok l →
    let q := launchRecOf l
    let first := (s.ring r).sbase + q.rbase
    (launchOk l (s.ring r).slen = true → q.mapped = false → ((runOf first q.rcount).any fun n => !(s.ring n).idle || !s.offered n) = false →
      ∃ t, exec (.launchConsume vf) s = .next t ∧ t.vcsr vf 0x1012 = BitVec.ofNat 64 ((fld (s.vcsr vf 0x1012) 15 0 + 1) % 2 ^ sz) ∧
        (∀ j, j < q.rcount →
          let y := t.ring (first + j)
          y.seq.pc = q.entry ∧ tget 0 y.seq.x 1 = q.ret ∧ tget 0 y.seq.x 9 = q.argbase + BitVec.ofNat 64 (j * q.argstride) ∧
            (∀ n, n ≠ 1 → n ≠ 9 → tget 0 y.seq.x n = 0) ∧ y.level = .u ∧ y.run = .run ∧ y.deps = [] ∧ y.billets = [] ∧ y.serial = 0 ∧
            y.launchTag = q.tag ∧ y.tqs = (s.ring (first + j)).tqs ∧ t.rcsr (first + j) 0x030 = 0 ∧
            ∀ n, 0x1000 ≤ n → t.rcsr (first + j) n = s.rcsr (first + j) n) ∧
        (∀ n, n ∉ runOf first q.rcount → t.ring n = s.ring n) ∧ t.mem = s.mem) ∧
    (launchOk l (s.ring r).slen = false → exec (.launchConsume vf) s = .next
      (((s.engLinked (s.ctxStage2 r) [(s.vcsr vf 0x1010 + BitVec.ofNat 64 (64 * i), 64)]).headOn vf sz).completion r vf i q.tag 1 0))) ∧
  (∀ s r v, s.cur = .ring r →
    let u := s.setRcsr r 0x030 (BitVec.ofNat 64 (fld v 31 0))
    (u.graphOver r = true → exec (.ldoneWrite v) s = .next (u.endGraph r) ∧
      ((∀ l ∈ (s.vfOf (s.vfNum r)).launches, ∃ q ∈ l.left, q ≠ r) → ((u.endGraph r).ring r).run = .idle)) ∧
    (u.graphOver r = false → exec (.ldoneWrite v) s = .next u)) ∧
  (∀ s r a, s.cur = .ring r → s.pendAny [a] = false → (s.ringWrite r 0x030 (s.x a)).graphOver r = true →
    exec (.csrw a 0x030) s = .next ((s.ringWrite r 0x030 (s.x a)).done.endGraph r)) ∧
  (∀ s d et bs, (et.toNat ≠ fld (s.dcsr d 0x2020) 15 0 ∨ bs.length < 80) → exec (.launchPacket d et bs) s = .next s) ∧
  (∀ s d et bs, et.toNat = fld (s.dcsr d 0x2020) 15 0 → 80 ≤ bs.length →
    (∀ e, e < 64 → bit ((s.die d).lpEntry e).ent 7 = true → ((s.die d).lpEntry e).tenant.toNat ≠ field bs 0 2) →
    exec (.launchPacket d et bs) s = .next (s.post d 1 1 0 0x7F))

/-- A frame of the packet type whose tenant names a valid entry, with its reserved bytes 0, its VF the entry's, its check right, its sequence number ahead
of the last, a token in the bucket and room in the queue, is enqueued: its entry records the sequence number, loses one token and counts it. -/
def Obligations.LaunchPackets : Prop :=
  ∀ s d et bs e sz u, et.toNat = fld (s.dcsr d 0x2020) 15 0 → 80 ≤ bs.length →
    ((List.range 64).find? fun e => bit ((s.die d).lpEntry e).ent 7 && ((s.die d).lpEntry e).tenant.toNat == field bs 0 2) = some e →
    let p := (s.die d).lpEntry e
    let v := fld p.ent 6 0
    let seq := field bs 4 4
    let diff := (seq + 2 ^ 32 - fld p.ent 39 8) % 2 ^ 32
    zeroBytes bs 3 1 = true → zeroBytes bs 12 4 = true → field bs 2 1 = v → packetCheck p.key bs = slice bs 8 4 → 0 < diff → diff < 2 ^ 31 →
    10 ^ 6 ≤ p.bucket →
    let p2 := { p with ent := setFld p.ent 39 8 seq, bucket := p.bucket - 10 ^ 6 }
    (s.setLp d e p2).lqOpen v = some sz → (s.setLp d e p2).lqFull v sz = false →
    (s.setLp d e p2).packetEnqueue v sz (slice bs 16 64) = .ok u →
    exec (.launchPacket d et bs) s = .next (u.setLp d e { p2 with stat := setFld p2.stat 31 0 (sat32 (fld p2.stat 31 0 + 1)) })

/-- On a management core: halt stops the ring group of the ring named (code 0) once its group stands at a boundary and its accesses are over, and dret lets it
go on (parking a ring whose sweep overran meanwhile: log 77); ccfg assigns a strip that its rules admit and releases one; gcfg writes a strip's guard; scrub zeroes the banks it names and, once both sets are
clean, drops the owner tag. A record or operand that breaks the rules is refused with its code and changes only x[d]. Model's choices: a halt
takes effect at a cycle boundary of the group (log 89) and halt and dret act in power states 0, 1 and 2 (log 46); ccfg's order of checks, and that a release keeps RVF
(log 94); gcfg's and scrub's order of checks (log 95). -/
def Obligations.CoreForms : Prop :=
  (∀ s c d a, s.cur = .core c → s.pendAny [d, a] = false →
    let r := fld (s.x a) 6 0
    fld (s.x a) 63 7 = 0 → (s.ring r).power < 3 →
    ((s.ring r).halted = false → s.haltable r = true →
      ∃ t, exec (.halt d a) s = .next t ∧ (∀ q ∈ s.haltRings r, (t.ring q).halted = true) ∧ (∀ q, q ∉ s.haltRings r → t.ring q = s.ring q) ∧
        t.x d = 0 ∧ (∀ n, n ≠ d → t.x n = s.x n) ∧ t.pc = s.pc + 4 ∧ t.mem = s.mem) ∧
    ((s.ring r).halted = true →
      exec (.dret d a) s = .next ((((s.haltRings r).foldl State.unhalt s).askAgain (s.ring r).sbase).setX d 0).done)) ∧
  (∀ (s : State) r, (s.ring r).due = none → OnlyRing r s (s.unhalt r) ∧ (s.unhalt r).ring r = { s.ring r with halted := false }) ∧
  (∀ (s : State) r n, (s.ring r).due = some n →
    s.unhalt r = (s.updRing r fun x => { x with halted := false, due := none }).overran r n) ∧
  (∀ (s : State) b, (s.strip b).asked = none → s.askAgain b = s) ∧
  (∀ s c d a, s.cur = .core c → s.pendAny [d, a] = false → fld (s.x a) 63 7 ≠ 0 →
    exec (.halt d a) s = .next (s.setX d 1).done ∧ exec (.dret d a) s = .next (s.setX d 1).done) ∧
  (∀ s₀ s c d a ps l, s₀.cur = .core c → s₀.pendAny [d, a] = false → s₀.access .load (s₀.x a) 16 (some 16) = .ok ps →
    s₀.readNow [a] (s₀.x a) ps = some (l, s) →
    let q := stripRecOf l
    (stripRecOk l = false → exec (.ccfg d a) s₀ = .next (s.setX d 5).done) ∧
    (stripRecOk l = true → q.vf ≠ 0xFF → s.assignable q = true →
      ((runOf q.base q.len).any fun r => (s.ring r).owner.any (· != q.vf)) = false →
      ∃ t, exec (.ccfg d a) s₀ = .next t ∧ (∀ r ∈ runOf q.base q.len, (t.ring r).vf = some q.vf ∧ (t.ring r).owner = some q.vf ∧
          (t.ring r).rvf = q.vf ∧ (t.ring r).sbase = q.base ∧ (t.ring r).slen = q.len ∧ (t.ring r).billets = [] ∧ (t.ring r).tqs = [] ∧ t.rcsr r 0x1002 = 0) ∧
        (∀ r, r ∉ runOf q.base q.len → t.ring r = s.ring r) ∧ t.x d = 0 ∧ t.pc = s.pc + 4 ∧ t.mem = s.mem) ∧
    (stripRecOk l = true → q.vf = 0xFF → s.releasable q = true →
      ∃ t, exec (.ccfg d a) s₀ = .next t ∧ (∀ r ∈ runOf q.base q.len, (t.ring r).vf = none ∧ (t.ring r).rvf = (s.ring r).rvf ∧
          (t.ring r).owner = (s.ring r).owner) ∧
        (∀ r, r ∉ runOf q.base q.len → t.ring r = s.ring r) ∧ t.x d = 0 ∧ t.pc = s.pc + 4 ∧ t.mem = s.mem) ∧
    (field l 1 1 < 4 → zeroBytes l 4 12 = true → field l 0 1 < 128 → s.stripSel (field l 0 1) = true →
      ∃ t, exec (.gcfg d a) s₀ = .next t ∧ (t.strip (field l 0 1)).mute = (field l 1 1 / 2 == 1) ∧ (t.strip (field l 0 1)).gap = field l 2 2 ∧
        (field l 1 1 % 2 = 1 → (t.strip (field l 0 1)).muted = false ∧ t.rcsr (field l 0 1) 0x2130 = 0) ∧
        t.x d = 0 ∧ t.pc = s.pc + 4 ∧ t.mem = s.mem) ∧
    ((4 ≤ field l 1 1 ∨ zeroBytes l 4 12 = false) → exec (.gcfg d a) s₀ = .next (s.setX d 5).done) ∧
    s.rings = s₀.rings ∧ s.me.x = s₀.me.x ∧ s.pc = s₀.pc ∧ s.mem = s₀.mem) ∧
  (∀ s c d a, s.cur = .core c → s.pendAny [d, a] = false → bit (s.x a) 7 = false → fld (s.x a) 63 10 = 0 →
    let r := fld (s.x a) 6 0
    (s.ring r).power < 3 → s.atEase r = true → (s.ring r).vf = none →
    ∃ t, exec (.scrub d a) s = .next t ∧ t.x d = 0 ∧ t.pc = s.pc + 4 ∧
      (bit (s.x a) 8 = true → ∀ o, o < 48 * 131072 → t.byte (poolKey r o) = 0) ∧
      (bit (s.x a) 9 = true → ∀ o, o < 4 * 2 ^ 20 → t.byte (campKey r o) = 0) ∧
      (∀ k, (bit (s.x a) 8 = true → k < poolKey r 0 ∨ poolKey r (48 * 131072) ≤ k) →
        (bit (s.x a) 9 = true → k < campKey r 0 ∨ campKey r (4 * 2 ^ 20) ≤ k) → t.byte k = s.byte k) ∧
      (t.ring r).owner = (if ((s.ring r).cleanPool || bit (s.x a) 8) && ((s.ring r).cleanCamp || bit (s.x a) 9) then none else (s.ring r).owner)) ∧
  (∀ s c d a, s.cur = .core c → s.pendAny [d, a] = false → (bit (s.x a) 7 = true ∨ fld (s.x a) 63 10 ≠ 0) →
    exec (.scrub d a) s = .next (s.setX d 1).done)

/-- Once nothing translated earlier is outstanding, tlbi.va removes the entries of the VF for the 64 KiB page of x[a] that are global or of the ASID
x[b], tlbi.asid those of the ASID x[a] that are not global, tlbi.vf all of the VF named, and tlbi.all every entry; other entries, the general
registers and memory stay. Each also removes the table descriptors of walk caches that it may concern: tlbi.va those of stage 2, and the stage-1 ones on the way
to the page (log 14). Until then each waits and changes nothing; what each waits for, the outstanding accesses of the VF's rings, or for tlbi.all of every ring and
management core, is the model's choice (log 96). -/
def Obligations.Invalidations : Prop :=
  (∀ s r a b, s.cur = .ring r → (s.ring r).level ≠ .u → s.pendAny [a, b] = false → s.quiet = true → s.vfDrained (s.vfNum r) = true →
    ∃ t, exec (.tlbiVa a b) s = .next t ∧ t.me.x = s.me.x ∧ t.pc = s.pc + 4 ∧ t.mem = s.mem ∧
      (∀ e, e ∈ t.tlb ↔ e ∈ s.tlb ∧ ¬ (e.owner = some (s.vfNum r) ∧ (e.asid = none ∨ e.asid = some ((s.x b).truncate 16)) ∧
        e.page < (s.x a).toNat / 65536 * 65536 + 65536 ∧ (s.x a).toNat / 65536 * 65536 < e.page + e.size)) ∧
      ∀ w, w ∈ t.walks ↔ w ∈ s.walks ∧ ¬ (w.owner = s.vfNum r ∧ (w.stage = 2 ∨
        (w.asid = some ((s.x b).truncate 16) ∧ w.pre = walkPre w.level (s.x a).toNat)))) ∧
  (∀ s r a, s.cur = .ring r → (s.ring r).level ≠ .u → s.pendAny [a] = false → s.quiet = true → s.vfDrained (s.vfNum r) = true →
    ∃ t, exec (.tlbiAsid a) s = .next t ∧ t.me.x = s.me.x ∧ t.pc = s.pc + 4 ∧ t.mem = s.mem ∧
      (∀ e, e ∈ t.tlb ↔ e ∈ s.tlb ∧ ¬ (e.owner = some (s.vfNum r) ∧ e.asid = some ((s.x a).truncate 16))) ∧
      ∀ w, w ∈ t.walks ↔ w ∈ s.walks ∧ ¬ (w.owner = s.vfNum r ∧ w.asid = some ((s.x a).truncate 16))) ∧
  (∀ s c a, s.cur = .core c → s.pendAny [a] = false → s.quiet = true → s.vfDrained (fld (s.x a) 6 0) = true →
    ∃ t, exec (.tlbiVf a) s = .next t ∧ t.me.x = s.me.x ∧ t.pc = s.pc + 4 ∧ t.mem = s.mem ∧
      (∀ e, e ∈ t.tlb ↔ e ∈ s.tlb ∧ e.owner ≠ some (fld (s.x a) 6 0)) ∧ ∀ w, w ∈ t.walks ↔ w ∈ s.walks ∧ w.owner ≠ fld (s.x a) 6 0) ∧
  (∀ s c, s.cur = .core c → s.quiet = true → s.allDrained = true →
    ∃ t, exec .tlbiAll s = .next t ∧ t.tlb = [] ∧ t.walks = [] ∧ t.me.x = s.me.x ∧ t.pc = s.pc + 4 ∧ t.mem = s.mem) ∧
  (∀ s r a b, s.cur = .ring r → (s.ring r).level ≠ .u → (s.quiet && s.vfDrained (s.vfNum r)) = false →
    exec (.tlbiVa a b) s = .next s ∧ exec (.tlbiAsid a) s = .next s) ∧
  (∀ s c a, s.cur = .core c → (s.quiet && s.vfDrained (fld (s.x a) 6 0)) = false → exec (.tlbiVf a) s = .next s) ∧
  (∀ s c, s.cur = .core c → (s.quiet && s.allDrained) = false → exec .tlbiAll s = .next s)

/-- At S, once the ring's work is over, isave writes the ring's image to its buffer and returns code 0 with the image's size, or code 6 where the buffer is
too small; irest loads an image that passes its checks, and otherwise returns code 7 and changes nothing else. RIMGCTL.dump writes a fault dump of a strip
whose rings are all halted or parked, and RIMGCTL.rest restores a strip from its area. Model's choices: a dump posts event 3 (log 78) at the die of the strip's lowest
ring (log 36), and a restored pending operation's translation registers and slot are those of log 22. -/
def Obligations.Images : Prop :=
  (∀ s r d a b ps, s.cur = .ring r → (s.ring r).level ≠ .u → s.pendAny [d, a, b] = false →
    s.spanFor r .store (s.x a) (s.x b).toNat 64 = .ok ps → s.atRest r = true →
    let size := (s.imageBytes (s.ring r).sbase r 3 (s.seqSection r (s.pc + 4) none 2) []).length
    let seq := s.seqSection r (s.pc + 4) (if d = 0 then none else some (d.toNat, statusWord 0x80 size)) 2
    ((s.x b).toNat < size → exec (.isave d a b) s = .next (s.setX d (statusWord 6 size)).done) ∧
    (∀ u, size ≤ (s.x b).toNat → s.writeAt (.ring r) false [] (ps.take size) (s.imageBytes (s.ring r).sbase r 3 seq []) = .ok u →
      exec (.isave d a b) s = .next (u.setX d (statusWord 0 size)).done)) ∧
  (∀ s r d a ps h qs l, s.cur = .ring r → (s.ring r).level ≠ .u → s.pendAny [d, a] = false → s.spanFor r .load (s.x a) 64 64 = .ok ps →
    s.atRest r = true → s.ownBytes r ps = .ok h →
    ((field h 0 4 ≠ 0x4C474349 ∨ field h 6 1 ≠ 3 ∨ 12 * 2 ^ 20 < field h 8 8) → exec (.irest d a) s = .next (s.setX d 7).done) ∧
    (field h 0 4 = 0x4C474349 → field h 6 1 = 3 → field h 8 8 ≤ 12 * 2 ^ 20 → s.spanFor r .load (s.x a) (field h 8 8) 64 = .ok qs →
      s.ownBytes r qs = .ok l → (imgOk l [3] && field l 18 1 == s.vfNum r) = true →
      exec (.irest d a) s = .next (((((((((s.transfers ps).transfers qs).loadBanks r l).loadShared (s.vfNum r) l).loadTiles (s.vfNum r) l).boundRegions (s.vfNum r)).loadSeq r l).updRing r
        fun x => { x with level := .s, run := .run, launchTag := (s.ring r).launchTag }).reissueAll r (imgSection l 1) fun _ => none))) ∧
  (∀ s imgs u, s.stripSel s.rsel = true → (s.strip s.rsel).capture = false →
    ((s.stripRings s.rsel).all fun n => (s.ring n).halted || (s.ring n).run == .parked) = true →
    areaOffset (s.rcsr s.rsel 0x2120) + 6 * 2 ^ 20 ≤ treeBase → s.imagesOf s.rsel 2 [] = some imgs →
    s.writeImages (s.vfNum s.rsel) (areaOffset (s.rcsr s.rsel 0x2120)) imgs = .ok u →
    exec .rimgctlDump s = .next ((u.updStrip s.rsel fun t =>
      { t with st := 2, size := (imgs.map fun i => i.2.length).sum % 2 ^ 32 }).post (dieOf s.rsel) 3 0 0 s.rsel)) ∧
  (∀ s, s.stripSel s.rsel = true → (s.strip s.rsel).capture = false →
    exec .rimgctlRest s = .next (s.restore s.rsel (s.rcsr s.rsel 0x2120)))

/-- A word of R214 in a slot that holds an item, under a true gate, reads its operands as the cycle began (`in` once) and queues, for the end of the cycle,
the word whose lane i is f of the lanes of A, B and the old d, wrapped to the lane or saturated: intForm of Safety.lean writes out f. -/
def Obligations.IntegerWords : Prop :=
  ∀ i n s w, intForm i = some n → s.view = some w → gateOpen w.el.q n.g = true →
    exec i s = .next (veBody [n.a, n.b] (fun o st => o.w.writeDest false 0 n.d
      (mapLanes n.t.toNat fun k =>
        let r := n.f (laneInt n.t.toNat (o.get n.a) k) (laneInt n.t.toNat (o.get n.b) k) (laneInt n.t.toNat (o.get n.d) k)
        zextI (if n.sat then satInt (tySigned n.t.toNat) (laneW n.t.toNat) r else r) (laneW n.t.toNat)) st) w s)

/-- mov, abs, neg, the logic words, the shifts and bit counts queue the word that wordForm of Safety.lean states; addi queues A + SEXT(imm, 11) and movi
SEXT(imm, 11), whatever the predicates hold. -/
def Obligations.WordWords : Prop :=
  (∀ i n s w, wordForm i = some n → s.view = some w → gateOpen w.el.q n.g = true →
    exec i s = .next (veBody n.srcs (fun o st => o.w.writeDest false 0 n.d (n.f o.get) st) w s)) ∧
  (∀ t a im d s w, s.view = some w →
    exec (.veAddi t a im d) s = .next (veBody [a] (fun o st => o.w.writeDest false 0 d (o.get a + im.signExtend 32) st) w s)) ∧
  (∀ a im d s w, s.view = some w → exec (.movi a im d) s = .next (w.writeDest false 0 d (im.signExtend 32) s))

/-- A word that produces a value, reads no port and passes its gate changes nothing in the device but its group's queue of writes: y always, and the register
that d names under the rotation as it stands, or the bound output port for d = 17. At the end of the cycle the element takes the queued y and register, whatever
else the group has queued for other elements and for ports, and every other field and register of it stays; an element for which nothing is queued stays as it
was. A word under a false gate, and every word in a slot without an item, does nothing. -/
def Obligations.ElementWrites : Prop :=
  let away (s : State) (g : Group) (gs p : Nat) (e : Wr) : Prop :=
    e.late = true ∨ (∃ key x, e.kind = .out key x) ∨ (e.pos < 32 ∧ (e.pos ≠ p ∨ s.slotPlace g e.slot ≠ s.slotPlace g gs))
  (∀ (s : State) w srcs late due d (v : Ops → W32), s.view = some w → (30 : BitVec 5) ∉ srcs →
    veBody srcs (fun o st => o.w.writeDest late due d (v o) st) w s =
      s.setGroup w.gk { w.grp with wq := w.grp.wq ++ w.destWrites late due d (v { w := w, get := w.src s 0 }) }) ∧
  (∀ i n s w, (intForm i).map (·.g) = some n ∨ (wordForm i).map (·.g) = some n ∨ (floatForm i).map (·.g) = some n ∨
      (bankLoadForm i).map (·.1) = some n ∨ (bankStoreForm i).map (·.1) = some n ∨ (bankAtomicForm i).map (·.1) = some n ∨
      (compareForm i).map (·.2.2.2.2.2) = some n →
    s.view = some w → gateOpen w.el.q n = false → exec i s = .next s) ∧
  (∀ i s, i.isElem = true → s.view = none → exec i s = .next s) ∧
  (∀ (s : State) gk g e v, s.group? gk = some g → g.wq = [e] → e.late = false → e.kind = .y v →
    (s.commit gk).elem g e.slot e.pos = { s.elem g e.slot e.pos with y := v }) ∧
  (∀ (s : State) gk g e n v, s.group? gk = some g → g.wq = [e] → e.late = false → e.kind = .k n v →
    tget 0 ((s.commit gk).elem g e.slot e.pos).k n = v ∧
      (∀ m, m ≠ n → tget 0 ((s.commit gk).elem g e.slot e.pos).k m = tget 0 (s.elem g e.slot e.pos).k m)) ∧
  (∀ (s : State) gk g (w : View) l due d v, s.group? gk = some g → g.wq = l ++ w.destWrites false due d v → w.pos < 32 →
    (∀ e ∈ l, away s g w.gs w.pos e) →
    (s.commit gk).elem g w.gs w.pos =
      { s.elem g w.gs w.pos with
          y := v, k := if d.toNat < 16 then tset 0 (s.elem g w.gs w.pos).k (physReg w.el.base d.toNat) v else (s.elem g w.gs w.pos).k }) ∧
  (∀ (s : State) gk g gs p, s.group? gk = some g → p < 32 → (∀ e ∈ g.wq, away s g gs p e) → (s.commit gk).elem g gs p = s.elem g gs p)

/-- A compare under a true gate queues for q[d] 1 if its relation holds in every lane and 0 otherwise: integers by their type, floating values after FTZIN.
With a NaN in a lane only ne and un hold there; un holds exactly then; and +0 equals -0. -/
def Obligations.Compares : Prop :=
  (∀ i rel t a b q g s w, compareForm i = some (rel, t, a, b, q, g) → s.view = some w → gateOpen w.el.q g = true →
    exec i s = .next (veBody [a, b] (fun o st => o.w.queue false 0 (.q q.toNat ((List.range (laneN t.toNat)).all fun k =>
      if t.toNat < 8 then rel.int (laneInt t.toNat (o.get a) k) (laneInt t.toNat (o.get b) k)
      else rel.flt (laneVal o.w.ftz t.toNat (o.get a) k) (laneVal o.w.ftz t.toNat (o.get b) k))) st) w s)) ∧
  (∀ (rel : Rel) v, rel.flt .nan v = decide (rel = .ne ∨ rel = .un) ∧ rel.flt v .nan = decide (rel = .ne ∨ rel = .un)) ∧
  (∀ x z, x ≠ .nan → z ≠ .nan → Rel.flt .un x z = false ∧ Rel.flt .ne x z = !Rel.flt .eq x z) ∧
  (∀ n e f m, Rel.flt .eq (.fin n 0 e) (.fin m 0 f) = true) ∧
  (∀ i rel t a b q g s, compareForm i = some (rel, t, a, b, q, g) → (∀ w, s.view = some w → gateOpen w.el.q g = false) → exec i s = .next s) ∧
  (∀ (s : State) gk g e i b, s.group? gk = some g → g.wq = [e] → e.late = false → i < 4 → e.kind = .q i b →
    ((s.commit gk).elem g e.slot e.pos).q.getLsbD i = b ∧
      (∀ j, j < 4 → j ≠ i → ((s.commit gk).elem g e.slot e.pos).q.getLsbD j = (s.elem g e.slot e.pos).q.getLsbD j))

/-- plog queues its function of two predicates for q[d]; sel reads both operands and queues q ? A : B for d and y; gate queues for its predicate whether
the bound input port offers a record in this item time; steer queues A for O1 where its predicate is 1 and for O0 where it is 0. -/
def Obligations.PredicateWords : Prop :=
  (∀ f a b q g s w, s.view = some w → gateOpen w.el.q g = true →
    let p := w.el.q.getLsbD a.toNat
    let z := w.el.q.getLsbD b.toNat
    let v : Bool := if f = 0 then p && z else if f = 1 then p || z else if f = 2 then p != z else if f = 3 then p && !z
      else if f = 4 then p || !z else if f = 5 then !(p && z) else if f = 6 then !(p || z) else !(p != z)
    exec (.plog f a b q g) s = .next (w.queue false 0 (.q q.toNat v) s)) ∧
  (∀ p a b d g s w, s.view = some w → gateOpen w.el.q g = true →
    exec (.sel p a b d g) s =
      .next (veBody [a, b] (fun o st => o.w.writeDest false 0 d (if w.el.q.getLsbD p.toNat then o.get a else o.get b) st) w s)) ∧
  (∀ q g s w, s.view = some w → gateOpen w.el.q g = true → exec (.gate q g) s = .next (w.queue false 0 (.q q.toNat w.offered) s)) ∧
  (∀ a q s w, s.view = some w →
    exec (.steer a q) s =
      .next (veBody [a] (fun o st => o.w.queue false 0 (.out (portKey w.v (if w.el.q.getLsbD q.toNat then 3 else 2)) (o.get a)) st) w s))

/-- A word of R220 or R221 queues the word whose lane i is the exact function of the lanes, after FTZIN, rounded once in its direction (or saturated) and
flushed; a special function queues its result on the one binary32 lane. -/
def Obligations.FloatWords : Prop :=
  (∀ i n s w, floatForm i = some n → s.view = some w → gateOpen w.el.q n.g = true →
    exec i s = .next (veBody [n.a, n.b] (fun o st => o.w.writeDest false 0 n.d
      (mapLanes n.t.toNat fun k => flush w.ftz (tyFmt n.t.toNat) (roundF (tyFmt n.t.toNat) n.sat n.mode
        (n.f (laneVal w.ftz n.t.toNat (o.get n.a) k) (laneVal w.ftz n.t.toNat (o.get n.b) k) (laneVal w.ftz n.t.toNat (o.get n.d) k)))) st) w s)) ∧
  (∀ i g a d t m f s w, floatForm1 i = some (g, a, d, t, m, f) → s.view = some w → gateOpen w.el.q g = true →
    exec i s = .next (veBody [a] (fun o st => o.w.writeDest false 0 d
      (mapLanes t.toNat fun k => flush w.ftz (tyFmt t.toNat) (roundF (tyFmt t.toNat) false m (f (laneVal w.ftz t.toNat (o.get a) k)))) st) w s)) ∧
  (∀ i g a d f s w, specialForm i = some (g, a, d, f) → s.view = some w → gateOpen w.el.q g = true →
    exec i s = .next (veBody [a] (fun o st => o.w.writeDest false 0 d
      (BitVec.ofNat 32 (flush w.ftz .b32 (f (laneVal w.ftz 8 (o.get a) 0)))) st) w s))

/-- cvt and pack convert each lane of their sources once: to an integer type with saturation, to a floating one rounded in their direction, or, under sr for
an item that is not void, by one draw of the element's LFSR a lane. unpklo and unpkhi widen the low or high lanes exactly. dot and dotx add the sum of the
lane products to the old d, the integer one exactly. -/
def Obligations.ConversionWords : Prop :=
  let converted (s : State) (w : View) (srcs : List (BitVec 5)) (d : BitVec 5) (t : Nat) (sat : Bool) (mode : Rnd) (sr : Bool)
      (vals : Ops → List FVal) : State :=
    veBody srcs (fun o st =>
      if t < 8 then
        o.w.writeDest false 0 d (BitVec.ofNat 32 (joinLanes (laneW t) ((vals o).map fun x => zextI (convInt (tySigned t) (laneW t) mode x) (laneW t)))) st
      else if sr && !w.void then
        let r := ({ mode := mode, sat := sat, sr := true } : Rounding).lanes w.ftz (tyFmt t) w.el.lfsr (vals o)
        o.w.writeDest false 0 d (BitVec.ofNat 32 (joinLanes (laneW t) r.1)) (o.w.setLfsr r.2 st)
      else
        o.w.writeDest false 0 d (BitVec.ofNat 32 (joinLanes (laneW t) ((vals o).map fun x => flush w.ftz (tyFmt t) (roundF (tyFmt t) sat mode x)))) st) w s
  (∀ t a c d g sf r x s w, s.view = some w → gateOpen w.el.q g = true →
    exec (.cvt t a c d g sf r x) s = .next (converted s w [a] d t.toNat (sf == 1#1) (rndOf r) (x == 1#1)
      fun o => (List.range (min (laneN c.toNat) (laneN t.toNat))).map (laneAny w.ftz c.toNat (o.get a)))) ∧
  (∀ t a b d g sf r x s w, s.view = some w → gateOpen w.el.q g = true →
    exec (.pack t a b d g sf r x) s = .next (converted s w [a, b] d t.toNat (sf == 1#1) (rndOf r) (x == 1#1)
      fun o => (List.range (laneN (wideTy t.toNat))).map (laneAny w.ftz (wideTy t.toNat) (o.get a)) ++
        (List.range (laneN (wideTy t.toNat))).map (laneAny w.ftz (wideTy t.toNat) (o.get b)))) ∧
  (∀ t a b d g s w, s.view = some w → gateOpen w.el.q g = true →
    let u := wideTy t.toNat
    let wide (v : FVal) : Nat := if tyInt u then zextI (convInt (tySigned u) (laneW u) .rne v) (laneW u)
      else flush w.ftz (tyFmt u) (roundF (tyFmt u) false .rne v)
    exec (.unpklo t a b d g) s = .next (veBody [a] (fun o st => o.w.writeDest false 0 d
      (mapLanes u fun i => wide (laneAny w.ftz t.toNat (o.get a) i)) st) w s) ∧
    exec (.unpkhi t a b d g) s = .next (veBody [a] (fun o st => o.w.writeDest false 0 d
      (mapLanes u fun i => wide (laneAny w.ftz t.toNat (o.get a) (i + laneN u))) st) w s)) ∧
  (∀ t a b d g sf r s w, s.view = some w → gateOpen w.el.q g = true →
    exec (.dot t a b d g sf r) s = .next (veBody [a, b] (fun o st => o.w.writeDest false 0 d
      (if t.toNat < 8 then dotInt t.toNat t.toNat (sf == 1#1) (o.get a) (o.get b) (o.get d)
       else dotFlt w.ftz t.toNat (sf == 1#1) (rndOf r) (o.get a) (o.get b) (o.get d)) st) w s)) ∧
  (∀ a b d g sf s w, s.view = some w → gateOpen w.el.q g = true →
    exec (.dotx a b d g sf) s = .next (veBody [a, b] (fun o st => o.w.writeDest false 0 d
      (w32 (let r := (o.get d).toInt + ((List.range 4).map fun i => laneInt 4 (o.get a) i * laneInt 5 (o.get b) i).sum
            if sf == 1#1 then satInt true 32 r else r)) st) w s))

/-- A bank load queues the word at its offset for d and y four unfrozen cycles later; a store writes its word there; an atomic does both, with its function of
the old word. The offset is R226's, its low two bits ignored; outside the scratch carve the phase faults with kind 3 and nothing is accessed, and so it does with
kind 13 and a machine check where the word of the bank is uncorrectable (R428; that the unit of an SRAM error is a word of 4 bytes is log 91, the model's choice); the store and
atomic of a void item do nothing. A load changes no byte of memory, and a store or atomic no byte outside the four it names. -/
def Obligations.BankWords : Prop :=
  let key (s : State) (w : View) (o : Nat) : Nat := poolKey (s.slotPlace w.grp w.gs).1 (o - o % 4)
  let access (st : State) (w : View) (o : Nat) (k : State) : State :=
    if carveScratch w.grp.carve * 65536 ≤ o then st.phaseFault w.gk 3 w.at_ (BitVec.ofNat 64 o)
    else if st.bad.contains (errUnit (key st w o)) then
      (st.mcheck (st.vfNum (st.slotPlace w.grp w.gs).1) (key st w o) 1).phaseFault w.gk 13 FaultAt.zero (BitVec.ofNat 64 (mcAddr (key st w o)))
    else k
  (∀ i g srcs d off s w, bankLoadForm i = some (g, srcs, d, off) → s.view = some w → gateOpen w.el.q g = true →
    exec i s = .next (veBody srcs (fun o st => access st w (off o) (w.writeDest true 4 d (BitVec.ofNat 32 (st.num (key st w (off o)) 4)) st)) w s)) ∧
  (∀ i g srcs off v s w, bankStoreForm i = some (g, srcs, off, v) → s.view = some w → gateOpen w.el.q g = true →
    exec i s = .next (veBody srcs (fun o st => if w.void then st
      else access st w (off o) (st.putWord (st.slotPlace w.grp w.gs).1 (key st w (off o)) (v o).toNat)) w s)) ∧
  (∀ i g a b d f s w, bankAtomicForm i = some (g, a, b, d, f) → s.view = some w → gateOpen w.el.q g = true →
    exec i s = .next (veBody [a, b] (fun o st => if w.void then st
      else
        let off := w.offA (o.get a)
        let m := BitVec.ofNat 32 (st.num (key st w off) 4)
        access st w off (w.writeDest true 4 d m (st.putWord (st.slotPlace w.grp w.gs).1 (key st w off) (f o m).toNat))) w s)) ∧
  (∀ i g srcs d off s w t, bankLoadForm i = some (g, srcs, d, off) → s.view = some w → (30 : BitVec 5) ∉ srcs → exec i s = .next t →
    ∀ k, t.byte k = s.byte k) ∧
  (∀ i g srcs off v s w t, bankStoreForm i = some (g, srcs, off, v) → s.view = some w → (30 : BitVec 5) ∉ srcs → exec i s = .next t →
    let o : Ops := { w := w, get := w.src s 0 }
    let a := key s w (off o)
    (∀ k, (k < a ∨ a + 4 ≤ k) → t.byte k = s.byte k) ∧
      (gateOpen w.el.q g = true → w.void = false → off o < carveScratch w.grp.carve * 65536 → errUnit a ∉ s.bad →
        ∀ n, n < 4 → t.byte (a + n) = BitVec.ofNat 8 ((v o).toNat / 256 ^ n))) ∧
  (∀ i g a b d f s w t, bankAtomicForm i = some (g, a, b, d, f) → s.view = some w → a ≠ 30 → b ≠ 30 → exec i s = .next t →
    let p := key s w (w.offA (w.src s 0 a))
    ∀ k, (k < p ∨ p + 4 ≤ k) → t.byte k = s.byte k)

/-- emit queues its operand for the bound output port; dropw takes up to 32 words of the bound input port as reads would and drops them; pcnt queues the port's
word count as the cycle began with the words credited ahead of its item; eos queues for its predicate whether no word is left at a port that has reached its end. -/
def Obligations.PortWords : Prop :=
  (∀ a b d g s w key, s.view = some w → gateOpen w.el.q g = true → w.outKey = some key →
    exec (.emit a b d g) s = .next (veBody [a] (fun o st => o.w.queue false 0 (.out key (o.get a)) st) w s)) ∧
  (∀ a b d g s w, s.view = some w → gateOpen w.el.q g = true →
    exec (.dropw a b d g) s = .next (veBody [a] (fun o st => (o.w.takeIn (min (o.get a).toNat 32) st).2) w s)) ∧
  (∀ a b d g s w key p, s.view = some w → gateOpen w.el.q g = true → w.inKey = some key → tfind w.grp.ports key = some p →
    exec (.pcnt a b d g) s = .next (w.writeDest false 0 d (BitVec.ofNat 32 (p.countAt + p.creditedBefore w.item.n)) s)) ∧
  (∀ a b q g s w key p, s.view = some w → gateOpen w.el.q g = true → w.inKey = some key → tfind w.grp.ports key = some p →
    exec (.eos a b q g) s = .next (w.queue false 0 (.q q.toNat (decide (p.heldAt = 0))) s))

/-- A word of R231 to R239 executed by position 12 of its block's top stripe, for an item that is not void as its cycle begins, while the block is idle and its A feeds lie inside
scratch, adds one run to the group's blocks, at its first cycle, with the word's operation, bank and length, and changes nothing else; where a feed lies
outside scratch the phase faults with kind 3, at the lowest such stripe of the block; elsewhere, or while the block is busy, the word does nothing. A feed starts from y of position 11, and from 0 at a slot
that does not hold its stripe yet (R302; log 113). mpass queues y of the position to the west, and nop does nothing. -/
def Obligations.MatrixWords : Prop :=
  let feed (s : State) (w : View) (n : Nat) : Nat :=
    if (s.slot w.grp (w.gs + n)).v = some (w.v + n) ∧ (s.slot w.grp (w.gs + n)).st = .run then (s.elem w.grp (w.gs + n) 11).y.toNat % 2 ^ 24 / 8 * 8 else 0
  (∀ i mk s w, blockForm i = some mk → s.view = some w → w.pos = 12 → w.reads = true → w.grp.blockTop w.v = w.v → w.grp.blockBusy w.v = false →
    (∀ n, n < w.grp.blockSize w.v → mk.aBytes = 0 ∨ feed s w n + mk.aBytes ≤ carveScratch w.grp.carve * 65536) →
    ∃ t r, exec i s = .next t ∧ t = s.setGroup w.gk { w.grp with blocks := w.grp.blocks ++ [r] } ∧ r.op = mk.op ∧ r.fmt = mk.fmt ∧ r.acc = mk.acc ∧
      r.len = mk.len ∧ r.done = mk.done ∧ r.bout = mk.bout ∧ r.dfmt = mk.dfmt ∧ r.sat = mk.sat ∧ r.imm = mk.imm ∧ r.cyc = 0 ∧ r.top = w.v ∧
      r.slot = w.gs ∧ r.size = w.grp.blockSize w.v ∧ r.item = w.item.n ∧ r.aoff = (List.range (w.grp.blockSize w.v)).map (feed s w)) ∧
  (∀ i mk s w, blockForm i = some mk → s.view = some w → (w.pos ≠ 12 ∨ w.reads = false ∨ w.grp.blockTop w.v ≠ w.v ∨ w.grp.blockBusy w.v = true) →
    exec i s = .next s) ∧
  (∀ i mk s w n, blockForm i = some mk → s.view = some w → w.pos = 12 → w.reads = true → w.grp.blockTop w.v = w.v → w.grp.blockBusy w.v = false →
    n < w.grp.blockSize w.v → mk.aBytes ≠ 0 → (∀ m, m < n → feed s w m + mk.aBytes ≤ carveScratch w.grp.carve * 65536) →
    carveScratch w.grp.carve * 65536 < feed s w n + mk.aBytes →
    exec i s = .next (s.phaseFault w.gk 3 { w.at_ with gslot := w.gs + n, vs := w.v + n, pos := 12 } (BitVec.ofNat 64 (feed s w n)))) ∧
  (∀ s w, s.view = some w → exec .mpass s = .next (w.queue false 0 (.y (if w.pos = 0 then 0 else (s.elem w.grp w.gs (w.pos - 1)).y)) s)) ∧
  (∀ s, exec .nop s = .next s)

/-- ITEM_ADMISSION in pass 0, where nothing holds it back, admits the next item into group slot 0 and counts it; in a later pass it takes the oldest item of
the wrap buffer. An item that enters a slot without gated ports stands there with its own number, and every pass register takes the boundary it carries.
ITEM_TIME_BOUNDARY, in a group of any length without gated ports and open records, moves every item with its boundary (the y of every position) to the place that
State.destOf names: out of the phase behind the last virtual stripe, where it is counted as exited; to the next group slot; from the last slot to the wrap buffer
for the next pass; or, where the next place lies on another die, to a crossing of 24 cycles. An item whose crossing is over enters its slot. A slot that no item
reaches is empty; an item that a slot has yet to switch for waits there for the switch, and elsewhere the pass registers take the item's boundary. At every position
of a running slot the base has advanced by 1, and the AFC by R64 if the slot held an item, and every other field of the element but pass register and LFSR stays.
(That an item whose crossing ends within an item time enters at the next boundary is the model's choice: log 113.) -/
def Obligations.ItemMoves : Prop :=
  (∀ (s : State) gk g, s.group? gk = some g → (s.slot g 0).item = none → (g.started = false ∨ (g.img.ii ≠ 0 ∧ g.t % g.img.ii = 0)) →
    g.draining = false → g.hold = 0 → s.agHeld g = false → g.cairns = [] → g.pass = 0 → g.closed = false → g.final = false →
    g.preempt = false → s.passReady gk 0 = true →
    exec (.itemAdmission gk) s = .next
      (((s.setGroup gk { g with admitted := g.admitted + 1, sweepItems := g.sweepItems + 1, passItems := g.passItems + 1,
                                closed := decide (g.sweepItems + 1 = g.img.n) || decide (g.count ≤ g.counted + 1) }).updRec
        g.issuer g.serial fun q => { q with items := g.admitted + 1 + g.credited }).takeIn gk
          { n := g.admitted, pass := 0, tag := none, void := false, marks := [], bnd := [] })) ∧
  (∀ (s : State) gk g it rest, s.group? gk = some g → (s.slot g 0).item = none → (g.started = false ∨ (g.img.ii ≠ 0 ∧ g.t % g.img.ii = 0)) →
    g.draining = false → g.hold = 0 → s.agHeld g = false → g.cairns = [] → g.pass ≠ 0 → g.wrap = it :: rest → it.pass = g.pass → g.passItems ≠ 0 →
    exec (.itemAdmission gk) s = .next ((s.setGroup gk { g with wrap := rest, passItems := g.passItems + 1 }).takeIn gk it)) ∧
  (∀ (s : State) gk g it v, s.group? gk = some g → (s.slot g 0).v = some v → g.gated v 0 = false → g.gated v 1 = false → g.steers v = false → g.upds = [] →
    let t := s.takeIn gk it
    t.group? gk = some { g with started := true, t := if g.started then g.t else 0 } ∧ (t.slot g 0).item = some it ∧
      ∀ p, p < 32 → (t.elem g 0 p).pass = it.bnd.getD p 0 ∧ (t.elem g 0 p).k = (s.elem g 0 p).k) ∧
  (∀ (s : State) g gs v, s.destOf g gs v =
    if v + 1 = g.img.v then .gone
    else if gs + 1 = s.plen g then (if dieOf g.first = dieOf (s.slotPlace g gs).1 then .wrap else .cross (s.plen g))
    else if dieOf (s.slotPlace g gs).1 = dieOf (s.slotPlace g (gs + 1)).1 then .slot (gs + 1) else .cross (gs + 1)) ∧
  (∀ (s : State) gk g a l, s.group? gk = some g →
    (∀ gs, gs < s.plen g → (s.slot g gs).item ≠ none → (s.slot g gs).st = .run ∧ (s.slot g gs).v ≠ none) →
    (∀ v p, g.gated v p = false) → (∀ key po, tfind g.ports key = some po → po.opens = []) →
    let dest (gs : Nat) : Dest := s.destOf g gs ((s.slot g gs).v.getD 0)
    let goes (gs : Nat) (d : Dest) : Prop := s.leaving g gs ≠ none ∧ dest gs = d
    let lies (o : Option Item) (it : Item) : Prop :=
      o.map (fun i => (i.n, i.pass, i.void, i.marks, i.bnd)) = some (it.n, it.pass, it.void, it.marks, it.bnd)
    g.cross = a ++ l → (∀ x ∈ a, x.1 = 0 ∧ x.2.1 < s.plen g ∧ ∀ gs, gs < s.plen g → ¬ goes gs (.slot x.2.1)) →
    (a.map fun x => x.2.1).Nodup → (∀ x ∈ l, x.1 ≠ 0) →
    ∃ t g', exec (.itemTimeBoundary gk) s = .next t ∧ t.group? gk = some g' ∧
      g'.exited = g.exited + ((List.range (s.plen g)).filter fun gs => (s.leaving g gs).isSome && decide (dest gs = .gone)).length ∧
      g'.wrap = g.wrap ++ (List.range (s.plen g)).filterMap (fun gs =>
        if dest gs = .wrap then (s.leaving g gs).map fun it => { it with pass := it.pass + 1 } else none) ∧
      g'.cross = l ++ (List.range (s.plen g)).filterMap (fun gs => match dest gs with
        | .cross n => (s.leaving g gs).map fun it => (24, n, if n = s.plen g then { it with pass := it.pass + 1 } else it)
        | .gone => none
        | .wrap => none
        | .slot _ => none) ∧
      (∀ gs n it, gs < s.plen g → s.leaving g gs = some it → dest gs = .slot n →
        lies (t.slot g n).item it ∧ (s.switching g n it = false → (s.slot g n).v ≠ none → ∀ p, p < 32 → (t.elem g n p).pass = it.bnd.getD p 0)) ∧
      (∀ x ∈ a, lies (t.slot g x.2.1).item x.2.2 ∧
        (s.switching g x.2.1 x.2.2 = false → (s.slot g x.2.1).v ≠ none → ∀ p, p < 32 → (t.elem g x.2.1 p).pass = x.2.2.bnd.getD p 0)) ∧
      (∀ n, n < s.plen g → (∀ gs, gs < s.plen g → ¬ goes gs (.slot n)) → (∀ x ∈ a, x.2.1 ≠ n) → (t.slot g n).item = none) ∧
      (∀ gs, gs < s.plen g → t.slot g gs = { s.slot g gs with
        left := (s.slot g gs).left + (if (s.leaving g gs).isSome then 1 else 0), item := (t.slot g gs).item }) ∧
      (∀ gs p, gs < s.plen g → p < 32 → (s.slot g gs).st = .run → (s.slot g gs).v ≠ none →
        let e := s.elem g gs p
        let e1 := if (s.leaving g gs).isSome then e.afcStep (if (s.slot g gs).bank then 1 else 0) else e
        t.elem g gs p = { e1 with base := e1.base + 1, pass := (t.elem g gs p).pass, lfsr := (t.elem g gs p).lfsr }) ∧
      (∀ r, r ∉ runOf g.first g.k → t.ring r = s.ring r) ∧
      ((∀ gs, gs < s.plen g → ¬ goes gs .wrap) → ∀ k, t.byte k = s.byte k))

/-- Each of the four events completes (exec answers a next state) under the conditions named. SLOT_SWITCH gives the lowest slot that is ready its next virtual stripe in its other bank, with an empty shadow; an item that reached the slot at the same
boundary then begins its item time there, its marker applied first; where no slot is ready nothing changes. SCR_JOB_STEP moves one block of the job whose switch
comes first: a load counts its block and with the last the shadow is ready; a restore counts its block and, with the last, readies the slot for its switch; a
save writes its 64 bytes of the record to the save carve. BANK_LOAD_WRITEBACK, whatever the group has queued, lands every bank result whose four cycles are over
in y and in the register that it was issued for, makes one bound for an output port a word of this cycle, brings every other one a cycle nearer, and leaves the
other queued writes and elements as they were. ACC_DRAIN queues one row of an output tile, and with the last
row the bank is empty. -/
def Obligations.FabricEvents : Prop :=
  (∀ (s : State) r gk g gs v n, (s.ring r).group = some gk → s.group? gk = some g →
    ((s.slotsOf g r).find? fun gs => decide ((s.slot g gs).st = .after) && decide ((s.slot g gs).shadow = .ready)) = some gs →
    (s.slot g gs).v = some v → (s.slot g gs).next = some n →
    let t := s.changeStripe gk gs
    exec (.slotSwitch r) s = .next ((match (s.slot g gs).item with
      | none => t
      | some it => t.enterItem gk gs (some it)).applyMarks gk) ∧
      (t.slot g gs).v = some n ∧ (t.slot g gs).st = .run ∧ (t.slot g gs).shadow = .free ∧
      (t.slot g gs).bank = !(s.slot g gs).bank ∧ (t.slot g gs).left = 0 ∧ ∀ k, t.byte k = s.byte k) ∧
  (∀ (s : State) r gk g, (s.ring r).group = some gk → s.group? gk = some g →
    ((s.slotsOf g r).find? fun gs => decide ((s.slot g gs).st = .after) && decide ((s.slot g gs).shadow = .ready)) = none →
    exec (.slotSwitch r) s = .next s) ∧
  (∀ (s : State) r gk g j, (s.ring r).group = some gk → s.group? gk = some g → s.nextJob g r = some j →
    ∃ t, exec (.scrJobStep r) s = .next t ∧ t = s.serveJob g j ∧
      (∀ v im, j.kind = .restore → (s.slot g j.gs).next = some v → g.stripe? v = some im →
        t = s.setSlot g j.gs { s.slot g j.gs with
              blocks := if im.z ≤ (s.slot g j.gs).blocks + 1 then 0 else (s.slot g j.gs).blocks + 1,
              st := if im.z ≤ (s.slot g j.gs).blocks + 1 then .after else .restore }) ∧
      (∀ v, j.kind = .load → (s.slot g j.gs).next = some v → (t.slot g j.gs).shadow =
        (let k := match (s.slot g j.gs).shadow with
          | .fill n => n
          | .free => 0
          | .ready => 0
        if k + 1 < g.imgBlocks v then .fill (k + 1) else .ready)) ∧
      (∀ v im, j.kind = .save → (s.slot g j.gs).v = some v → g.stripe? v = some im → t =
        (let l := s.slotRecord g j.gs im (if (s.slot g j.gs).bank then 1 else 0)
        (s.putBytes (poolKey g.first (saveBase g.carve) + g.recOff v + 64 * (s.slot g j.gs).blocks) (slice l (64 * (s.slot g j.gs).blocks) 64)).setSlot
          g j.gs { s.slot g j.gs with
            blocks := if im.z ≤ (s.slot g j.gs).blocks + 1 then 0 else (s.slot g j.gs).blocks + 1,
            st := if im.z ≤ (s.slot g j.gs).blocks + 1 then
                (if ((s.slot g j.gs).next.map g.stateful).getD false then .restore else .after) else .save }))) ∧
  (∀ (s : State) gk g, s.group? gk = some g →
    let away (gs p : Nat) (e : Wr) : Prop := e.late = false ∨ e.due ≠ 0 ∨ (∃ key x, e.kind = .out key x) ∨
      (e.pos < 32 ∧ (e.pos ≠ p ∨ s.slotPlace g e.slot ≠ s.slotPlace g gs))
    ∃ t, exec (.bankLoadWriteback gk) s = .next t ∧
      t.group? gk = some { g with wq := g.wq.filterMap fun e =>
        if e.late = false then some e
        else if e.due ≠ 0 then some { e with due := e.due - 1 }
        else match e.kind with
          | .out _ _ => some { e with late := false }
          | .y _ => none
          | .k _ _ => none
          | .q _ _ => none } ∧
      (∀ (w : View) l q d v, g.wq = l ++ w.destWrites true 0 d v ++ q → w.pos < 32 → (∀ e ∈ l ++ q, away w.gs w.pos e) →
        t.elem g w.gs w.pos = { s.elem g w.gs w.pos with
          y := v, k := if d.toNat < 16 then tset 0 (s.elem g w.gs w.pos).k (physReg w.el.base d.toNat) v else (s.elem g w.gs w.pos).k }) ∧
      (∀ gs p, p < 32 → (∀ e ∈ g.wq, away gs p e) → t.elem g gs p = s.elem g gs p) ∧ ∀ k, t.byte k = s.byte k) ∧
  (∀ (s : State) gk g i r row, s.group? gk = some g → g.blocks[i]? = some r → r.row? = some row →
    ∃ t ws, exec (.accDrain gk i) s = .next t ∧ t.group? gk = some { g with wq := ws ++ g.wq } ∧
      (∀ e ∈ ws, e.late = false ∧ e.due = 0 ∧ e.slot + 1 = r.slot + r.size ∧ e.item = r.item ∧ 12 ≤ e.pos ∧ e.pos < 20) ∧
      (row + 1 ≠ 8 * r.size → t = s.setGroup gk { g with wq := ws ++ g.wq }) ∧
      (row + 1 = 8 * r.size → ∀ n k, n < 8 * r.size → k < 64 →
        tget 0 (t.elem g (r.slot + n / 8) (12 + n % 8)).acc (64 * r.acc + k) = 0))

/-- ASYNC_MASK_SATISFIED starts the work of an operation whose mask is satisfied: a pload moves to its choice of group, a copy reads its descriptor, a crn.step
acts on its region; what the awaited operations have released is acquired, and becomes visible to it before its accesses are made (R119); an awaited error ends a pload with DEP. PLOAD_ACCEPT first places a pload in the group that GROUPSEL names, and then, when the group is
free and every ring of it offers itself, loads and accepts it. MERGE_DEADLOCK is a phase fault. PHASE_RETIREMENT of a drained phase frees its rings and records RET, or RETERR with the code
of its mark, and removes it from its slot. -/
def Obligations.PhaseEvents : Prop :=
  (∀ (s : State) r k a, (s.ring r).asyncs[k]? = some a → a.held = false → s.unitOff r = false →
    (s.strip (s.ring r).sbase).capture = false → a.st = .mask → s.satisfied r a.await = true → s.issuedOver r a = true →
    let a1 := a.begin (s.ring r).joined
    let u := s.force a1.x.front.wrote
    (∀ desc gsel serial, a.op = .pload desc gsel serial → s.waitErr r a.await = none →
      exec (.asyncMaskSatisfied r k) s =
        .next ((u.setAsync r a1).updRec r serial fun q => { q with state := 1 })) ∧
    (∀ desc gsel serial e, a.op = .pload desc gsel serial → s.waitErr r a.await = some e →
      exec (.asyncMaskSatisfied r k) s = .next (s.refusePload r a serial 1)) ∧
    (∀ va, a.op = .cpy va → s.waitErr r a.await = none →
      exec (.asyncMaskSatisfied r k) s = .next ((u.setAsync r a1).startCpy r a1 va)) ∧
    (∀ sel b, a.op = .cpyB sel → s.waitErr r a.await = none → tfind (s.ring r).billets (fld sel 3 0) = some b →
      exec (.asyncMaskSatisfied r k) s = .next (u.readyCopy r a1 (b.fire (BitVec.ofNat 32 (fld sel 63 32)).toInt))) ∧
    (∀ sel, a.op = .crnStep sel → s.waitErr r a.await = none → exec (.asyncMaskSatisfied r k) s = .next (u.startCrn r a1 sel))) ∧
  (∀ (s : State) r k a desc gsel serial, (s.ring r).asyncs[k]? = some a → a.op = .pload desc gsel serial → a.st = .group → a.held = false →
    s.unitOff r = false → (s.strip (s.ring r).sbase).capture = false → a.grp = none → fld gsel 14 8 ≠ 0 → bit gsel 16 = false →
    fld gsel 6 0 + fld gsel 14 8 ≤ (s.ring r).slen →
    ((runOf ((s.ring r).sbase + fld gsel 6 0) (fld gsel 14 8)).all s.offered) = true →
    ∃ tk, exec (.ploadAccept r k) s =
      .next (s.setAsync r { a with grp := some ((s.ring r).sbase + fld gsel 6 0, fld gsel 14 8), ticket := tk }) ∧ ∀ x ∈ s.tickets, x.1 < tk) ∧
  (∀ (s : State) r k a desc gsel serial first n d l, (s.ring r).asyncs[k]? = some a → a.op = .pload desc gsel serial → a.st = .group → a.held = false →
    s.unitOff r = false → (s.strip (s.ring r).sbase).capture = false → a.grp = some (first, n) → (runOf first n).all s.offered = true →
    ((runOf first n).any (fun q => (s.ring q).group.isSome || (s.ring q).halted) ||
      s.tickets.any fun t => decide (t.1 < a.ticket) && runsMeet first n t.2.1 t.2.2) = false →
    let u := s.updRec r serial fun q => { q with state := 2 }
    u.readPdesc a.x desc = .ok d →
    u.loadPhase a.x (some desc) d first ((runOf first n).map fun q => (s.ring q).ringp) (fun _ => none) false = .ok l →
    let g := Group.start first n r serial a l (u.bindCairns (s.vfNum r) l)
    exec (.ploadAccept r k) s = .next (((((u.engLinked a.x (u.loadSpans a.x desc d l.ents l.ags)).dropAsync r a.id).acceptPhase g l).startRecords g).updRec r serial fun q =>
      { q with state := if l.count = 0 then 4 else 3 })) ∧
  (∀ (s : State) gk g k, s.group? gk = some g → 1024 ≤ g.deadCycles →
    ((s.cycleCauses gk).findSome? fun c => match c with
      | .merge k => some k
      | .deliver => none
      | .accept => none
      | .agFault => none
      | .bank => none) = some k → g.mark = none →
    ∃ t g', exec (.mergeDeadlock gk) s = .next t ∧ t.group? gk = some g' ∧ g'.mark = some errPfault ∧
      (g.midCycle = false → g'.draining = true ∧ g'.wq = [] ∧ g'.blocks = [] ∧ g'.wrap = [] ∧ g'.cross = []) ∧ ∃ q, t.rec? g.issuer g.serial = some q ∧ q.state = 4 ∧ q.kind = 4 ∧ q.vs = k / 4) ∧
  (∀ (s : State) gk g, s.group? gk = some g → g.draining = true →
    (∀ g1, (s.drainStep gk).group? gk = some g1 → (s.drainStep gk).isDrained gk g1 = true →
      exec (.phaseRetirement gk) s = .next ((s.drainStep gk).retire gk g1)) ∧
    (∀ g1, (s.drainStep gk).group? gk = some g1 → (s.drainStep gk).isDrained gk g1 = false →
      exec (.phaseRetirement gk) s = .next (s.drainStep gk))) ∧
  (∀ (s : State) gk g, let t := s.retire gk g
    t.group? gk = none ∧ (∀ r ∈ runOf g.first g.k, (t.ring r).group = none) ∧
      (∀ c, g.mark = some c → ∃ q, t.rec? g.issuer g.serial = some q ∧ q.state = 6 ∧ q.code = c ∧ q.tret = s.time) ∧
      (g.mark = none → g.img.zipt = false → ∃ q, t.rec? g.issuer g.serial = some q ∧ q.state = 5 ∧ q.code = 0 ∧ q.tret = s.time))

/-- Each of the four events completes (exec answers a next state) under the conditions named. AG_LINE_REQUEST issues the AG's next coalesced request: the elements that share its line, with their places, or a slot's first line or whole slot of a
zero-compressed group. AG_LINE_COMPLETION gives a part of a loader's request its bytes from memory, and with the last part the request its data; it writes a part
of a storer's request to its places and to no others, and with the last part the request is gone. PRQ_HELD_PLACEMENT merges the first held request that can be
placed with the entry of its page, or makes it a NEW entry in the lowest free one. TILE_DECISION decides the oldest undecided tile, and writes its signature
(where it is computed), its age and its map bit; after a phase fault it decides none. Model's choices: a phase fault leaves the staged tiles undecided (log 113), and a
held page request of one VF may be placed before an older one of another VF (log 119). -/
def Obligations.GeneratorEvents : Prop :=
  (∀ (s : State) r n gk key role d g, (s.ag r n).bound = some (gk, key, role) → (s.ag r n).desc = some d → s.group? gk = some g →
    (s.ag r n).ended = false → (s.ag r n).fault = none → (s.ag r n).units.length < 128 → g.frozen = false → s.groupHeld g = false → g.mark = none →
    (d.mode = 2 → (s.ag r n).curIdx ≠ none) → (s.ag r n).stepIndex d = none → (s.ag r n).issued < d.walk →
    (d.store = false → role = 0 → (s.ag r n).part.length < 4 ∧ (∀ u, (s.ag r n).units.head? = some u → u.done = false) ∧
      (s.ag r n).coming d / 4 < s.agSpace g key) → (role ≠ 0 → (s.ag r n).part.length < 512) →
    let a := s.ag r n
    let els := if d.store then a.toSkip d ((a.lineRun d none 64 a.issued).take (a.given d)) else a.lineRun d none 64 a.issued
    (d.zc = false → els ≠ [] → ∀ pls, s.agElems a d els = .ok pls →
      exec (.agLineRequest r n) s = .next (s.setAg r n (({ a with
        issued := a.issued + els.length, again := false, part := if d.store then a.part.drop (els.length * d.esz) else a.part,
        units := a.units ++ [{ locs := pls.map fun l => l.map (·.1), attr := attrOf pls, got := [], done := false, slot := none,
                               data := if d.store then (List.range els.length).map fun i => slice a.part (i * d.esz) d.esz else [] }] } : Ag).stepPast))) ∧
    (d.zc = true → d.store = false → ∀ va ps, a.elem d a.issued = .at_ va → s.agPlaces a d va 64 = .ok ps →
      exec (.agLineRequest r n) s = .next (s.setAg r n { a with
        issued := a.issued + 128, again := false,
        units := a.units ++ [{ locs := ps.map fun p => [p.1], data := [], attr := attrOf [ps], got := [], done := false, slot := some (va, 1) }] })) ∧
    (d.zc = true → d.store = true → 128 ≤ a.given d → ∀ va ps, a.elem d a.issued = .at_ va →
      let bs := zcPack d.esz ((List.range 128).map fun i => slice a.part (i * d.esz) d.esz)
      s.agPlaces a d va bs.length = .ok ps →
      exec (.agLineRequest r n) s = .next (s.setAg r n (({ a with
        issued := a.issued + 128, again := false, part := a.part.drop (128 * d.esz),
        units := a.units ++ [{ locs := ps.map fun p => [p.1], data := bs.map fun b => [b], attr := attrOf [ps], got := [], done := false,
                               slot := some (va, bs.length / 64) }] } : Ag).stepPast)))) ∧
  (∀ (s : State) r n k gk key role d u l, (s.ag r n).bound = some (gk, key, role) → (s.ag r n).desc = some d →
    (s.ag r n).units[k % 128]? = some u → u.done = false → d.store = false → u.rest ≠ [] → (s.ag r n).behind (k % 128) (u.pick (k / 128)) = false →
    s.readAt { me := .engines r, front := (s.ag r n).x.front } (u.pick (k / 128)) = .ok l →
    let a := s.ag r n
    let ps := u.pick (k / 128)
    let u1 : AgUnit := { u with got := (ps.zip l).foldl (fun t x => tput t x.1.1 x.2.1) u.got }
    let u2 : AgUnit := { u1 with data := u.locs.map fun l => if l.isEmpty then d.padBytes else l.map fun p => tget 0 u1.got p, done := true }
    let x : XCtx := { a.x with front := s.learn (.engines r) a.x.front ps l }
    let w := (s.transfers ps).setAg r n { a with units := a.units.set (k % 128) u1, x := x }
    (u1.rest ≠ [] → exec (.agLineCompletion r n k) s = .next w) ∧
    (u1.rest = [] → u.slot = none → exec (.agLineCompletion r n k) s = .next ((w.setAg r n
      { w.ag r n with units := (w.ag r n).units.set (k % 128) u2 }).agDrain r n (2 * (w.ag r n).units.length + 2)))) ∧
  (∀ (s : State) r n k gk key role d u va lines, (s.ag r n).bound = some (gk, key, role) → (s.ag r n).desc = some d →
    (s.ag r n).units[k % 128]? = some u → u.done = false → d.store = false → u.rest = [] → (s.ag r n).behind (k % 128) (u.pick (k / 128)) = false →
    u.slot = some (va, lines) → zcLines d.esz (zcCount (u.locs.flatten.map fun p => tget 0 u.got p)) ≤ lines →
    let u2 : AgUnit := { u with data := zcUnpack d.esz (u.locs.flatten.map fun p => tget 0 u.got p), done := true }
    exec (.agLineCompletion r n k) s = .next ((s.setAg r n { s.ag r n with units := (s.ag r n).units.set (k % 128) u2 }).agDrain r n
      (2 * (s.ag r n).units.length + 2))) ∧
  (∀ (s : State) r n k gk key role d u t, (s.ag r n).bound = some (gk, key, role) → (s.ag r n).desc = some d →
    (s.ag r n).units[k % 128]? = some u → u.done = false → d.store = true → (s.ag r n).behind (k % 128) (u.pick (k / 128)) = false →
    let ps := u.pick (k / 128)
    s.writeAt (.engines r) true [] ps (ps.map fun p => (((u.places.zip u.bytes).reverse.find? fun x => x.1.1 == p.1).map (·.2)).getD 0) = .ok t →
    let u1 : AgUnit := { u with got := ps.foldl (fun t p => tput t p.1 0) u.got }
    ∃ t', exec (.agLineCompletion r n k) s = .next t' ∧
      (t'.ag r n).units = (if u1.rest.isEmpty then (s.ag r n).units.eraseIdx (k % 128) else (s.ag r n).units.set (k % 128) u1) ∧
      ∀ a, a ∉ ps.map (·.1) → t'.byte a = s.byte a) ∧
  (∀ (s : State) r n k gk key role d u, (s.ag r n).bound = some (gk, key, role) → (s.ag r n).desc = some d →
    (s.ag r n).units[k % 128]? = some u → u.done = true → exec (.agLineCompletion r n k) s = .next (s.agDrain r n (2 * (s.ag r n).units.length + 2))) ∧
  (∀ (s : State) d i q, (s.die d).placeable = some i → (s.die d).held[i]? = some q →
    let held := ((s.die d).held.eraseIdx i).filter (fun h => h.vf == q.vf) ++ (s.die d).held.filter fun h => h.vf ≠ q.vf
    (∀ e p, ((s.die d).prq.find? fun e => e.2.sameAs q) = some (e, p) → ∃ t, exec (.prqHeldPlacement d) s = .next t ∧ OnlyDie d s t ∧
      (t.die d).held = held ∧
      (t.die d).prq = tput (s.die d).prq e { p with wr := p.wr || q.wr, rd := p.rd || q.rd, waiters := p.waiters ++ q.waiters }) ∧
    (∀ e, ((s.die d).prq.find? fun e => e.2.sameAs q) = none → freeEntry (s.die d).prq q.vf = some e →
      ∃ t, exec (.prqHeldPlacement d) s = .next t ∧ OnlyDie d s t ∧ (t.die d).held = held ∧
        (t.die d).prq = tput (s.die d).prq e { q with st := .new, stamp := nextStamp (s.die d).prq })) ∧
  (∀ (s : State) gk g c rg i k t old age mw skip u v x, s.group? gk = some g → g.mark = none →
    (g.cairns.zipIdx.findSome? fun x => (s.cairnRegion g x.1).bind fun rg => (x.1.work rg).map fun w => (x.2, x.1, rg, w)) = some (i, c, rg, some k) →
    c.tiles[k]? = some t → (c.carried.find? fun d => d.1 == t.tile) = none →
    let mapVa := rg.mapAt c.step + BitVec.ofNat 64 (8 * (t.tile / 64))
    let new := rg.signature (rg.elements t.words)
    let w := s.cairnCtx g c
    let b := s.engLinked w [(rg.sigAt t.tile, 64), (rg.ageAt t.tile, 1), (mapVa, 8)]
    s.engRead w (rg.sigAt t.tile) 64 = .ok old → s.engRead w (rg.ageAt t.tile) 1 = .ok age → s.engRead w mapVa 8 = .ok mw →
    skip = rg.skips (leNat age) new (sigOf old) → (if skip then Except.ok b else b.engPut false w (rg.sigAt t.tile) (sigBytes new)) = .ok u →
    u.engPut false w (rg.ageAt t.tile) [if skip then BitVec.ofNat 8 (leNat age + 1) else 0] = .ok v →
    v.engPut false w mapVa (mapWord mw (t.tile % 64) (rg.mapBits t.tile skip)) = .ok x →
    exec (.tileDecision gk) s = .next (x.decideTile gk i k skip)) ∧
  (∀ (s : State) gk g, s.group? gk = some g → g.mark ≠ none → exec (.tileDecision gk) s = .next s)

/-- COPY_ACCEPT takes the oldest ready issue: a refused one completes in error, and any other joins the copies in progress with its promise. BILLET_FIRE takes
a token of the lowest armed billet whose queue holds one, and waits while the slot it counts into is full. COPY_COMPLETE removes a finished copy, enqueues its token, and takes it out of its slot, with its
error if it has one. An exhausted retry fails its copy and sets its queue pair's error. A peer's write is placed, and an immediate enters the queue of its
entry; a token reaches a queue that has room. A completion is a release of what the ring's engines have written (R119). Model's choices: a peer's access is made through
the registers of the VF's lowest ring at S (log 20), a billet may fire inside a capture for a draining phase (log 118), and a remote form's queue-pair entry is
read at acceptance (log 122). -/
def Obligations.CopyEvents : Prop :=
  (∀ (s : State) r j rest, s.copyHeld r = false → (s.ring r).copyReady = j :: rest → j.held = false →
    let u := s.updRing r fun x => { x with copyReady := rest }
    let entry := if j.desc.remote ∧ j.err.isNone then u.qpEntry j.x (u.vfNum r) j.desc.qp else .ok (some [])
    (entry = .ok none → exec (.copyAccept r) s = .next (u.refuseCopy r j.id j.src j.set j.rd errDesc)) ∧
    (∀ l, entry = .ok (some l) →
      let w := if l.isEmpty then u else u.engLinked j.x [u.qpSpan (u.vfNum r) j.desc.qp]
      (∀ e, w.acceptErr r j = some e → exec (.copyAccept r) s = .next (w.refuseCopy r j.id j.src j.set j.rd e)) ∧
      (w.acceptErr r j = none → j.desc.mc = false →
        ∃ t, exec (.copyAccept r) s = .next t ∧
          (t.ring r).copies = (s.ring r).copies ++ [{ j with promise := (w.promise r j.x j.desc).1, rd := none, dead := [], err := none }] ∧
          (t.ring r).copyReady = rest ∧ (∀ d, j.rd = some d → d ≠ 0 → tget 0 (t.ring r).seq.x d.toNat = (w.promise r j.x j.desc).1) ∧
          ∀ k, t.byte k = s.byte k))) ∧
  (∀ (s : State) r n b q tok rest,
    ((s.copyHeld r = false ∧ (s.ring r).copyReady = []) ∨
      ((s.strip (s.ring r).sbase).capture = true ∧ s.tokensDue r = true ∧ s.copyStill r = false)) →
    ((s.ring r).billets.find? fun e => match e.2.queue with
      | some q => !(tget [] (s.ring r).tqs q).isEmpty
      | none => false) = some (n, b) →
    b.queue = some q → tget [] (s.ring r).tqs q = tok :: rest →
    let u := s.updRing r fun y => { y with tqs := tset [] y.tqs q rest }
    let d := b.fire tok.toInt
    ((∀ i, b.slot = some i → (s.dep r i).out.length < 127) → exec (.billetFire r) s = .next (if d.ok (s.qpCount (s.vfNum r))
      then ((u.newOp r b.slot).2.force (b.x.acquired (s.ring r).joined).front.wrote).acceptCopy r
        (CopyJob.start (u.newOp r b.slot).1 (.firing n q) d b.slot none (b.x.acquired (s.ring r).joined) none)
      else (u.newOp r b.slot).2.endCopy r (u.newOp r b.slot).1 (.firing n q) b.slot (some errDesc))) ∧
    (∀ i, b.slot = some i → 127 ≤ (s.dep r i).out.length → exec (.billetFire r) s = .next s)) ∧
  (∀ (s : State) r k j, (s.ring r).copies[k]? = some j → j.ended = true → s.unitOff r = false →
    (j.desc.tqen = true → j.err = none → (tget [] (s.ring r).tqs j.desc.tq).length < 64) →
    ∃ t, exec (.copyComplete r k) s = .next t ∧ (t.ring r).copies = (s.ring r).copies.eraseIdx k ∧
      (t.ring r).joined = ((s.ring r).joined.sup j.x.front).acquire 0 { near := 0, wrote := [(Agent.code (.engines r), s.free)] } ∧
      (j.desc.tqen = true → j.err = none → tget [] (t.ring r).tqs j.desc.tq = tget [] (s.ring r).tqs j.desc.tq ++ [j.desc.tok]) ∧
      (∀ i, j.set = some i → (t.dep r i).out = (s.dep r i).out.erase j.id ∧
        (j.err = none → (t.dep r i).err = (s.dep r i).err) ∧ (j.err ≠ none → (t.dep r i).err = true)) ∧ ∀ a, t.byte a = s.byte a) ∧
  (∀ (s : State) r k j, (s.ring r).copies[k]? = some j → j.desc.remote = true →
    ∃ t, exec (.remoteRetryExhausted r k) s = .next t ∧ j.desc.qp ∈ (t.vfOf (s.vfNum r)).qpErr ∧ t =
      (s.setCopy r k { j.fails errRemote with held := false }).updVf (s.vfNum r) (fun _ => t.vfOf (s.vfNum r))) ∧
  (∀ (s : State) vf qp addr data imm r l, s.arrivalRing vf qp = some r → s.qpEntry (s.issueCtx r .s) vf qp = .ok (some l) →
    let w := s.engLinked (s.issueCtx r .s) [s.qpSpan vf qp]
    (field l 20 1 / 16 = 0 → exec (.remoteWriteImmediateArrival vf qp addr data imm) s = .next w) ∧
    (∀ u, field l 20 1 / 16 ≠ 0 → w.engWrite (w.issueCtx r .s) addr data = .ok u →
      exec (.remoteWriteImmediateArrival vf qp addr data imm) s =
        .next (((u.opDone r Front.zero).sendToken r (field l 20 1 % 16) imm).getD w))) ∧
  (∀ (s : State) vf qp addr data n r l u, s.arrivalRing vf qp = some r → s.qpEntry (s.issueCtx r .s) vf qp = .ok (some l) →
    let w := s.engLinked (s.issueCtx r .s) [s.qpSpan vf qp]
    w.engWrite (w.issueCtx r .s) addr data = .ok u → exec (.remoteAccessArrival vf qp addr (some data) n) s = .next u) ∧
  (∀ (s : State) vf qp addr n r l bs, s.arrivalRing vf qp = some r → s.qpEntry (s.issueCtx r .s) vf qp = .ok (some l) →
    let w := s.engLinked (s.issueCtx r .s) [s.qpSpan vf qp]
    w.engRead (w.issueCtx r .s) addr n = .ok bs →
    exec (.remoteAccessArrival vf qp addr none n) s = .next (w.engLinked (w.issueCtx r .s) [(addr, n)])) ∧
  (∀ (s : State) vf qp addr data imm wr n, s.arrivalRing vf qp = none →
    exec (.remoteWriteImmediateArrival vf qp addr data imm) s = .next s ∧ exec (.remoteAccessArrival vf qp addr wr n) s = .next s) ∧
  (∀ (s : State) r q tok, (s.ring r).power = 3 → (s.ring r).powerNext = none → (s.ring r).edge.length < 16 →
    ∃ t, exec (.tokenWake r q tok) s = .next t ∧ OnlyRing r s t ∧ (t.ring r).edge = (s.ring r).edge ++ [(q % 16, tok)] ∧
      (t.ring r).powerNext = some 2 ∧ (t.ring r).tqs = (s.ring r).tqs)

/-- A timer event makes SIP.tmr, or HSTATUS.tmrp, 1 exactly when TIME has reached the compare, and writes no other register. SWEEPMAX_OVERRUN parks the issuing
RSQ with cause 0x19 and its handle and asks for the strip's pre-emption. PREEMPTION_CAPTURE captures a strip that is ready, for RIMG or for the scheduler's
next tenant. (An issuer that is parked or idle keeps its cause, and one in a debug halt parks at its dret; the pre-emption is asked for all the same: log 77, the
model's choice.) TENANT_SWITCH gives the next tenant with work its quantum and asks for the strip. A TSENT write stores the entry of a time-shared strip. -/
def Obligations.SchedulerEvents : Prop :=
  (∀ (s : State) r, ∃ t, exec (.supervisorTimer r) s = .next t ∧ OnlyRing r s t ∧
    bit (t.rcsr r 0x100A) 0 = decide ((s.rcsr r 0x100B).toNat ≤ s.time.toNat) ∧ fld (t.rcsr r 0x100A) 63 1 = fld (s.rcsr r 0x100A) 63 1 ∧
    ∀ n, n ≠ 0x100A → t.rcsr r n = s.rcsr r n) ∧
  (∀ (s : State) d, ∃ t, exec (.hypervisorTimer d) s = .next t ∧ OnlyDie d s t ∧
    bit (t.dcsr d 0x2006) 9 = decide ((s.dcsr d 0x2008).toNat ≤ s.time.toNat) ∧ ∀ n, n ≠ 0x2006 → t.dcsr d n = s.dcsr d n) ∧
  (∀ (s : State) gk g m, s.group? gk = some g → s.sweepLimit g = some m → g.overrun = false → g.draining = false → m ≤ g.sweepCtr →
    (((s.ring g.issuer).run = .run ∨ (s.ring g.issuer).run = .wfi) → (s.ring g.issuer).halted = false →
      exec (.sweepmaxOverrun gk) s = .next (((s.setGroup gk { g with overrun := true }).park g.issuer (s.ring g.issuer).seq.pc 0x19
        (BitVec.ofNat 64 g.serial)).preempt (s.ring g.issuer).sbase none)) ∧
    (((s.ring g.issuer).run = .run ∨ (s.ring g.issuer).run = .wfi) → (s.ring g.issuer).halted = true →
      exec (.sweepmaxOverrun gk) s = .next (((s.setGroup gk { g with overrun := true }).updRing g.issuer fun x =>
        { x with due := some g.serial }).preempt (s.ring g.issuer).sbase none)) ∧
    ((s.ring g.issuer).run ≠ .run → (s.ring g.issuer).run ≠ .wfi →
      exec (.sweepmaxOverrun gk) s = .next ((s.setGroup gk { g with overrun := true }).preempt (s.ring g.issuer).sbase none))) ∧
  (∀ (s : State) r, (s.strip (s.ring r).sbase).capture = true → s.captureReady (s.ring r).sbase = true → (s.strip (s.ring r).sbase).next = none →
    exec (.preemptionCapture r) s = .next (s.capture (s.ring r).sbase (s.rcsr (s.ring r).sbase 0x2120)
      (if bit (s.rcsr (s.ring r).sbase 0x2121) 3 then 1 else 0))) ∧
  (∀ (s : State) r n, (s.strip (s.ring r).sbase).capture = true → s.captureReady (s.ring r).sbase = true → (s.strip (s.ring r).sbase).next = some n →
    let b := (s.ring r).sbase
    let u := s.capture b (s.saveArea b (s.strip b).cur) 0
    exec (.preemptionCapture r) s = .next (if (u.strip b).st = 2 then u.switchTo b n else u)) ∧
  (∀ (s : State) r n, let b := (s.ring r).sbase
    (s.ring b).shared = true → (s.ring b).vf ≠ none → (s.strip b).capture = false →
    ¬ (s.hasWork b (s.strip b).cur = true ∧ 0 < (s.strip b).deficit (s.strip b).cur) →
    (((List.range 8).map fun i => ((s.strip b).cur + 1 + i) % 8).find? (s.runnable b)) = some n →
    let q : Int := ((fld (s.rcsr b (0x2111 + n)) 15 8 * fld (s.rcsr b 0x2110) 31 0 * (s.ring b).slen : Nat) : Int)
    let u := s.updStrip b fun y => y.setDeficit n (min (y.deficit n + q) q)
    exec (.tenantSwitch r) s = .next (if n = (s.strip b).cur then u else u.preempt b (some n))) ∧
  (∀ (s : State) i v, s.tsSel s.rsel = true → i < 8 →
    ∃ t, exec (.tsentEnable i v) s = .next t ∧ t.rcsr s.rsel (0x2111 + i) = v ∧
      (bit v 7 = true → bit (s.rcsr s.rsel (0x2111 + i)) 7 = false → (t.vfOf (fld v 6 0)).csr = [] ∧ i ∉ (t.strip s.rsel).imaged) ∧
      ∀ k, t.byte k = s.byte k)

/-- RNOTE sets HNOTE and SIP.hnote, or those held for the switched-out tenant that TSHSEL names; RCTL.preq asks for the strip's pre-emption, and resume continues a parked RSQ at RPC, or delivers its cause to S. HEVT
returns and removes the oldest event. PRQPOP returns the oldest NEW entry and takes it; an answer frees its entry and reaches its waiters; a forward makes a
stage-1 entry FORWARDED. QPSTAT.err clears the selected queue pair's error. RDBGD returns the value that RDBGA names of a halted ring, or 0 with err, and
writes it. -/
def Obligations.WindowRegisters : Prop :=
  (∀ (s : State) v, s.tenantSel s.rsel = none → ∃ t, exec (.rnoteWrite v) s = .next t ∧ OnlyRing s.rsel s t ∧ t.rcsr s.rsel 0x100D = v ∧
    t.rcsr s.rsel 0x100A = s.rcsr s.rsel 0x100A ||| 2 ∧ ∀ n, n ≠ 0x100D → n ≠ 0x100A → t.rcsr s.rsel n = s.rcsr s.rsel n) ∧
  (∀ (s : State) v n, s.tenantSel s.rsel = some n →
    let vf := fld (s.rcsr (s.ring s.rsel).sbase (0x2111 + n)) 6 0
    ∃ t, exec (.rnoteWrite v) s = .next t ∧ OnlyRing s.rsel s t ∧ tfind (t.ring s.rsel).tenantNote vf = some v ∧
      bit (tget 0 (t.ring s.rsel).tenantPend vf) 1 = true ∧ (t.ring s.rsel).csr = (s.ring s.rsel).csr) ∧
  (∀ s, (s.ring s.rsel).vf ≠ none → exec .rctlPreq s = .next (s.preempt (s.ring s.rsel).sbase none)) ∧
  (∀ s, (s.ring s.rsel).run = .parked →
    ∃ t, exec .rctlResume s = .next t ∧ OnlyRing s.rsel s t ∧ (t.ring s.rsel).run = .run ∧ (t.ring s.rsel).seq.pc = s.rcsr s.rsel 0x2106 ∧
      (t.ring s.rsel).level = (s.ring s.rsel).level ∧ (t.ring s.rsel).seq.x = (s.ring s.rsel).seq.x) ∧
  (∀ s, (s.ring s.rsel).run = .parked → s.badHandler s.rsel = false →
    ∃ t, exec .rctlResumeInject s = .next t ∧ OnlyRing s.rsel s t ∧ (t.ring s.rsel).run = .run ∧ (t.ring s.rsel).level = .s ∧
      t.rcsr s.rsel 0x1003 = s.rcsr s.rsel 0x2106 ∧ t.rcsr s.rsel 0x1004 = s.rcsr s.rsel 0x2107 ∧ t.rcsr s.rsel 0x1005 = s.rcsr s.rsel 0x2108 ∧
      (t.ring s.rsel).seq.pc = s.rcsr s.rsel 0x1002 &&& 0xFFFFFFFFFFFFFFFC) ∧
  (∀ (s : State) c rd, s.cur = .core c →
    ∃ t, exec (.hevtRead rd) s = .next t ∧ OnlyDie c s t ∧ (t.die c).hevt = (s.die c).hevt.drop 1 ∧
      t.x rd = (if rd = 0 then 0 else (s.die c).hevt.headD 0) ∧ ∀ q, q ≠ rd → t.x q = s.x q) ∧
  (∀ (s : State) c rd e q, s.cur = .core c → s.oldestNew c = some e → tfind (s.die c).prq e = some q →
    ∃ t, exec (.prqpopRead rd) s = .next t ∧ tfind (t.die c).prq e = some { q with st := .taken } ∧
      (∀ n, n ≠ e → tfind (t.die c).prq n = tfind (s.die c).prq n) ∧ t.x rd = (if rd = 0 then 0 else BitVec.ofNat 64 (2 ^ 63 + e))) ∧
  (∀ (s : State) c rd, s.cur = .core c → s.oldestNew c = none → exec (.prqpopRead rd) s = .next (s.setX rd 0)) ∧
  (∀ (s : State) q, tfind (s.die s.myDie).prq s.hprqSel = some q →
    let freed := s.updDie s.myDie fun x => { x with prq := tdel x.prq s.hprqSel }
    exec .prqRetry s = .next (freed.answer true q.waiters) ∧ exec .prqFail s = .next (freed.answer false q.waiters) ∧
      (q.stage2 = false → ∃ t, exec .prqForward s = .next t ∧ OnlyDie s.myDie s t ∧
        tfind (t.die s.myDie).prq s.hprqSel = some { q with st := .forwarded }) ∧
      (q.stage2 = true → exec .prqForward s = .next s)) ∧
  (∀ (s : State) r e q, s.cur = .ring r → s.sprqEntry r = some (e, q) →
    exec .sprqRetry s = .next (s.answerEntry (dieOf r) e true) ∧ exec .sprqFail s = .next (s.answerEntry (dieOf r) e false)) ∧
  (∀ (s : State) r, s.cur = .ring r →
    ∃ t, exec .qpstatClear s = .next t ∧ fld (s.vcsr (s.vfNum r) 0x1042) 9 0 ∉ (t.vfOf (s.vfNum r)).qpErr ∧
      (∀ n, n ≠ fld (s.vcsr (s.vfNum r) 0x1042) 9 0 → (n ∈ (t.vfOf (s.vfNum r)).qpErr ↔ n ∈ (s.vfOf (s.vfNum r)).qpErr)) ∧ t.mem = s.mem) ∧
  (∀ (s : State) rd v, (s.ring s.rsel).halted = true → s.dbgValue s.rsel (dbgAddr (s.rcsr s.rsel 0x2122)) = some v →
    exec (.rdbgdRead rd) s = .next ((s.setX rd v).dbgErr s.rsel false)) ∧
  (∀ (s : State) rd, (s.ring s.rsel).halted = false → exec (.rdbgdRead rd) s = .next ((s.setX rd 0).dbgErr s.rsel true)) ∧
  (∀ (s : State) v t, (s.ring s.rsel).halted = true → (s.dbgValue s.rsel (dbgAddr (s.rcsr s.rsel 0x2122))).isSome = true →
    s.dbgStore s.rsel (dbgAddr (s.rcsr s.rsel 0x2122)) v = some t → exec (.rdbgdWrite v) s = .next (t.dbgErr s.rsel false)) ∧
  (∀ (s : State) v, s.dbgStore s.rsel (dbgAddr (s.rcsr s.rsel 0x2122)) v = none → exec (.rdbgdWrite v) s = .next (s.dbgErr s.rsel true)) ∧
  (∀ (s : State) v, (s.ring s.rsel).halted = false → exec (.rdbgdWrite v) s = .next (s.dbgErr s.rsel true))

/-- A KCTL load or draw puts a key into the slot that KSEL names and a destroy empties it, the migration load sets the migration key, and each clears KDATA; a
window slot above 63 is refused with err, and nothing is loaded. Stop-VF ends the VF's work. KINITCTL.go makes every line of its channel fresh, where its
ring is idle or unassigned, and else sets err; that it sets err too, and starts nothing, while busy is the model's choice (log 83). Its completion clears busy. WVALID makes a window valid with a new generation and sequence number 0, or invalid; WMEM sets half of its members, and a
VF that is no member any more has not opened it. -/
def Obligations.KeysAndWindows : Prop :=
  (∀ s, s.kselBad = false → bit (s.hcsr 0x2040) 7 = false →
    let i := fld (s.hcsr 0x2040) 6 0
    (∃ t, exec .kctlLoad s = .next t ∧ tfind t.vfKeys i = some s.kdata ∧ (∀ n, n ≠ i → tfind t.vfKeys n = tfind s.vfKeys n) ∧
      t.winKeys = s.winKeys ∧ t.kdata = 0 ∧ t.mem = s.mem) ∧
    (∃ t k, exec .kctlDraw s = .next t ∧ tfind t.vfKeys i = some k ∧ (∀ n, n ≠ i → tfind t.vfKeys n = tfind s.vfKeys n) ∧ t.mem = s.mem) ∧
    (∃ t, exec .kctlDestroy s = .next t ∧ tfind t.vfKeys i = none ∧ (∀ n, n ≠ i → tfind t.vfKeys n = tfind s.vfKeys n) ∧ t.mem = s.mem)) ∧
  (∀ s, s.kselBad = false → bit (s.hcsr 0x2040) 7 = true →
    ∃ t, exec .kctlLoad s = .next t ∧ tfind t.winKeys (fld (s.hcsr 0x2040) 6 0) = some s.kdata ∧ t.vfKeys = s.vfKeys) ∧
  (∀ s, s.kselBad = true → ∃ t, exec .kctlLoad s = .next t ∧ t.vfKeys = s.vfKeys ∧ t.winKeys = s.winKeys ∧ t.hcsr 0x2042 = 4) ∧
  (∀ s, ∃ t, exec .kctlLoadMigration s = .next t ∧ t.migKey = some s.kdata ∧ t.vfKeys = s.vfKeys ∧ t.kdata = 0) ∧
  (∀ s, s.kselBad = false → bit (s.hcsr 0x2040) 7 = false →
    let v := fld (s.hcsr 0x2040) 6 0
    exec .kctlStopVf s = .next (((if (s.vfOf v).stopped then s else s.stopVf v 0).endVf v).keyDone false)) ∧
  (∀ s, let g := fld (s.hcsr 0x2048) 7 0
    (bit (s.hcsr 0x2049) 1 = false → ((s.ring (ringOfChan g)).vf.isNone || (s.ring (ringOfChan g)).idle) = true →
      ∃ t, exec .kinitctlGo s = .next t ∧ t.hcsr 0x2049 = 2 ∧ (∀ k, g * 2 ^ 31 ≤ k → k < (g + 1) * 2 ^ 31 → t.byte k = 0) ∧
        (∀ k, (k < g * 2 ^ 31 ∨ (g + 1) * 2 ^ 31 ≤ k) → t.byte k = s.byte k)) ∧
    (bit (s.hcsr 0x2049) 1 = true ∨ ((s.ring (ringOfChan g)).vf.isNone || (s.ring (ringOfChan g)).idle) = false → ∃ t, exec .kinitctlGo s = .next t ∧ t.mem = s.mem ∧ bit (t.hcsr 0x2049) 2 = true)) ∧
  (∀ s, ∃ t, exec .channelInitComplete s = .next t ∧ bit (t.hcsr 0x2049) 1 = false ∧ t.mem = s.mem ∧ ∀ n, n ≠ 0x2049 → t.hcsr n = s.hcsr n) ∧
  (∀ s, (s.window s.wsel).valid = false →
    ∃ t, exec .wvalidSet s = .next t ∧ (∀ n, n ≠ s.wsel → t.window n = s.window n) ∧
      t.window s.wsel = { s.window s.wsel with valid := true, gen := (s.window s.wsel).gen + 1, seq := 0, opened := 0 }) ∧
  (∀ s, ∃ t, exec .wvalidClear s = .next t ∧ (t.window s.wsel).valid = false ∧ (t.window s.wsel).opened = 0 ∧
    (t.window s.wsel).gen = (s.window s.wsel).gen ∧ ∀ n, n ≠ s.wsel → t.window n = s.window n) ∧
  (∀ (s : State) half v, half < 2 →
    ∃ t, exec (.wmemWrite half v) s = .next t ∧ (∀ n, n ≠ s.wsel → t.window n = s.window n) ∧
      (∀ i, i < 64 → (t.window s.wsel).members.getLsbD (64 * half + i) = v.getLsbD i ∧
        (t.window s.wsel).members.getLsbD (64 * (1 - half) + i) = (s.window s.wsel).members.getLsbD (64 * (1 - half) + i)) ∧
      ∀ i, i < 128 → (t.window s.wsel).opened.getLsbD i = ((s.window s.wsel).opened.getLsbD i && (t.window s.wsel).members.getLsbD i))

/-- A power request that fits its ring's state starts the transition, and any other sets err and changes nothing else: quiesce from 0 on an idle ring, save
from 1, gate the clock from 2, gate the rail from 3, wake to 0 from 1 or 2 and to 2 from 3 or 4. POWER_TRANSITION_COMPLETE enters the state and posts event 8. -/
def Obligations.PowerStates : Prop :=
  let request (s : State) (i : Instr) (next : Option Nat) : Prop :=
    ∃ t, exec i s = .next t ∧ OnlyRing s.rsel s t ∧ (t.ring s.rsel).power = (s.ring s.rsel).power ∧
      (match next, (s.ring s.rsel).powerNext with
        | some n, none => (t.ring s.rsel).powerNext = some n ∧ (t.ring s.rsel).csr = (s.ring s.rsel).csr
        | _, _ => (t.ring s.rsel).powerNext = (s.ring s.rsel).powerNext ∧ bit (t.rcsr s.rsel 0x2141) 8 = true)
  (∀ s, let x := s.ring s.rsel
    request s .rpwrQuiesce (if x.power = 0 ∧ x.idle = true ∧ x.group = none then some 1 else none) ∧
    request s .rpwrSave (if x.power = 1 then some 2 else none) ∧ request s .rpwrGateClock (if x.power = 2 then some 3 else none) ∧
    request s .rpwrGateRail (if x.power = 3 then some 4 else none) ∧
    request s .rpwrWake (if x.power = 1 ∨ x.power = 2 then some 0 else if x.power = 3 ∨ x.power = 4 then some 2 else none)) ∧
  (∀ (s : State) r n, (s.ring r).powerNext = some n →
    ∃ t, exec (.powerTransitionComplete r) s = .next t ∧ (t.ring r).power = n ∧ (t.ring r).powerNext = none ∧ t.mem = s.mem ∧
      ((s.die (dieOf r)).hevt.length < 224 → (t.die (dieOf r)).hevt = (s.die (dieOf r)).hevt ++ [eventWord 8 0 0 r])) ∧
  (∀ (s : State) r, (s.ring r).powerNext = none → exec (.powerTransitionComplete r) s = .next s)

/-- A start (power on, BOOTCTL or I3C) that fails no step leaves every ring unassigned and idle with its fuses kept, no key, no window, every SRAM and HBM byte
zero, and the memory of HOST as it was; three failed starts make the next one safe. The lifetime counts survive a start, and a power-on takes those of the last
store write. An orderly power-down stores them before the supply goes, a power failure does not; a store write keeps them. A read over I3C gives the
controller the value it names (log 125 numbers them) and changes nothing else, and a test port instruction changes only the instruction that the port holds (the
model's choice for a part that is not fused: log 107). (The steps that fail are the model's: log 23.) -/
def Obligations.Starts : Prop :=
  let started (s t : State) : Prop :=
    (∀ r, (t.ring r).vf = none ∧ (t.ring r).run = .idle ∧ (t.ring r).group = none ∧ (t.ring r).ringp = (s.ring r).ringp) ∧ t.vfKeys = [] ∧
      t.winKeys = [] ∧ t.migKey = none ∧ t.windows = [] ∧ t.powered = true ∧ t.time = 0 ∧ t.bootStep = 0 ∧
      (∀ k, (k < 2 ^ 54 ∨ 2 ^ 55 ≤ k) → t.byte k = 0) ∧ (∀ k, 2 ^ 54 ≤ k → k < 2 ^ 55 → t.byte k = s.byte k)
  (∀ s, ∃ t, exec (.bootctlCold 0) s = .next t ∧ started s t ∧ t.life = s.life ∧ t.bootKind = 0 ∧ t.nv.failed = 0) ∧
  (∀ s, ∃ t, exec (.bootctlWarm 0) s = .next t ∧ started s t ∧ t.life = s.life ∧ t.bootKind = (if 3 ≤ s.nv.failed then 2 else 1)) ∧
  (∀ s, ∃ t, exec (.powerOnStart 0) s = .next t ∧ started s t ∧ t.life = s.nv.life ∧ t.bootKind = (if 3 ≤ s.nv.failed then 2 else 0)) ∧
  (∀ (s : State) n, exec (.i3cStartRequest true n) s = exec (.bootctlCold n) s ∧ exec (.i3cStartRequest false n) s = exec (.bootctlWarm n) s) ∧
  (∃ t, exec (.i3cStartRequest true 0) State.reset = .next t ∧ started State.reset t) ∧
  (∀ (s : State) n, 0 < n → n ≤ 6 → ∃ t, exec (.powerOnStart n) s = .next t ∧ t.bootStep = n ∧ t.nv.failed = s.nv.failed + 1) ∧
  (∀ (s : State) i, exec (.i3cRead i) s = .next { s with i3cGave := s.i3cData i }) ∧
  (∀ s, exec .lifetimeStoreWrite s = .next { s with nv := { s.nv with life := s.life } }) ∧
  (∀ s, ∃ t, exec .orderlyPowerDown s = .next t ∧ t.powered = false ∧ t.nv.life = s.life ∧ t.mem = s.mem) ∧
  (∀ s, ∃ t, exec .powerFailure s = .next t ∧ t.powered = false ∧ t.nv = s.nv ∧ t.mem = s.mem) ∧
  (∀ (s : State) ir, exec (.testAccessPortInstruction ir) s = .next { s with tap := ir })

/-- A droop trip puts m of its clock set to 8 and counts the trip; the raise lifts m by 1 towards the target, at least 1,024 ticks after the last change; a
stretch sets the target, from 8 to 16, and m falls to it. A change of any link sets its up bit and no other and posts event 7 with its die (that the
event's operand numbers the host's link 0, the ports 1 and 2 and the east boundary 3 is the model's choice: log 86); a repair is counted. A host write, while the link is up, reaches the addressed bytes of HBM, and no others, under the key of the VF
that owns the channel (log 87, the model's choice); one to its own memory reaches the bytes it names. -/
def Obligations.ClockAndLinks : Prop :=
  (∀ (s : State) d, ∃ t, exec (.droopTrip d) s = .next t ∧ (∀ e ∈ s.clockSet d, (t.die e).m = 8) ∧
    (∀ e, e ∉ s.clockSet d → (t.die e).m = (s.die e).m) ∧ tget 0 t.life (64 + d) = tget 0 s.life (64 + d) + 1 ∧
    fld (t.dcsr d 0x2064) 63 32 = min (fld (s.dcsr d 0x2064) 63 32 + 1) (2 ^ 32 - 1) ∧ t.mem = s.mem) ∧
  (∀ (s : State) d, let m := ((s.clockSet d).map fun e => (s.die e).m).foldl min 16
    let target := ((s.clockSet d).map fun e => (s.die e).target).foldl min 16
    (m < target → (∀ e ∈ s.clockSet d, 1024 ≤ (s.time - (s.die e).stretched).toNat) →
      ∃ t, exec (.fclkRaise d) s = .next t ∧ (∀ e ∈ s.clockSet d, (t.die e).m = m + 1 ∧ (t.die e).stretched = s.time) ∧ t.mem = s.mem) ∧
    (target ≤ m → exec (.fclkRaise d) s = .next s)) ∧
  (∀ (s : State) d m, 8 ≤ m → m ≤ 16 →
    ∃ t, exec (.clockStretch d m) s = .next t ∧ (t.die d).target = m ∧ t.mem = s.mem ∧
      (m < ((s.clockSet d).map fun e => (s.die e).m).foldl min 16 → ∀ e ∈ s.clockSet d, (t.die e).m = m)) ∧
  (∀ (s : State) d m, (m < 8 ∨ 16 < m) → exec (.clockStretch d m) s = .next s) ∧
  (∀ (s : State) up, bit (s.link 0 0) 0 ≠ up →
    ∃ t, exec (.linkStateChange 0 0 up) s = .next t ∧ t.hostUp = up ∧
      ((s.die 0).hevt.length < 224 → (t.die 0).hevt = (s.die 0).hevt ++ [eventWord 7 0 0 0])) ∧
  (∀ (s : State) d n up, ((n = 1 ∨ n = 2) ∧ d < 4) ∨ (n = 3 ∧ d < 3) →
    let k := if n = 3 then 2 else 1
    let b := if n = 3 then 0 else n - 1
    (bit (s.link d k) b = up → exec (.linkStateChange d n up) s = .next s) ∧
    (bit (s.link d k) b ≠ up → ∃ t, exec (.linkStateChange d n up) s = .next t ∧ OnlyDie d s t ∧ bit (t.link d k) b = up ∧
      (∀ i, i < 64 → i ≠ b → bit (t.link d k) i = bit (s.link d k) i) ∧ (∀ i, i ≠ k → t.link d i = s.link d i) ∧
      ((s.die d).hevt.length < 224 → (t.die d).hevt = (s.die d).hevt ++ [eventWord 7 0 0 d]))) ∧
  (∀ (s : State) d, d < 3 → ∃ t, exec (.laneRepair d) s = .next t ∧ OnlyDie d s t ∧
    fld (t.link d 2) 63 32 = min (fld (s.link d 2) 63 32 + 1) (2 ^ 32 - 1) ∧ fld (t.link d 2) 31 0 = fld (s.link d 2) 31 0) ∧
  (∀ (s : State) pa bs v t, s.hostUp = true → isHbm pa = true → pa % 2 ^ 31 < treeBase → (s.ring (ringOfChan (chanOf pa))).vf = some v →
    s.writeAt .host false [(3, { near := s.free, wrote := [(Agent.code .host, s.free)] })] ((List.range bs.length).map fun i => (pa + i, s.vfAttr v)) bs = .ok t →
    exec (.hostAccess pa (some bs)) s = .next t ∧ (∀ k, (k < pa ∨ pa + bs.length ≤ k) → t.byte k = s.byte k) ∧
      ∀ i, i < bs.length → t.byte (pa + i) = bs.getD i 0) ∧
  (∀ (s : State) pa bs, isHostPa pa = true → ∃ t, exec (.hostAccess pa (some bs)) s = .next t ∧
    (∀ k, (k < pa ∨ pa + bs.length ≤ k) → t.byte k = s.byte k) ∧
      ∀ i, i < bs.length → isHostPa (pa + i) = true → t.byte (pa + i) = bs.getD i 0) ∧
  (∀ (s : State) pa, isHostPa pa = true → exec (.hostAccess pa none) s = .next s) ∧
  (∀ (s : State) pa wr, isHostPa pa = false → s.hostUp = false → exec (.hostAccess pa wr) s = .next s)
end

