-- ==== Sys2Proof/Laws/State.lean ====
section
/-! SUPPORT. What each update of the state leaves unchanged, field by field, so that no proof unfolds a record update. -/

namespace Sys2Proof.Machine

@[simp] theorem State.setRing_time (s : State) (r : Nat) (x : Ring) : (s.setRing r x).time = s.time := rfl
@[simp] theorem State.setRing_powered (s : State) (r : Nat) (x : Ring) : (s.setRing r x).powered = s.powered := rfl
@[simp] theorem State.setRing_dies (s : State) (r : Nat) (x : Ring) : (s.setRing r x).dies = s.dies := rfl
@[simp] theorem State.setRing_vfs (s : State) (r : Nat) (x : Ring) : (s.setRing r x).vfs = s.vfs := rfl
@[simp] theorem State.setRing_groups (s : State) (r : Nat) (x : Ring) : (s.setRing r x).groups = s.groups := rfl
@[simp] theorem State.setRing_strips (s : State) (r : Nat) (x : Ring) : (s.setRing r x).strips = s.strips := rfl
@[simp] theorem State.setRing_chans (s : State) (r : Nat) (x : Ring) : (s.setRing r x).chans = s.chans := rfl
@[simp] theorem State.setRing_mem (s : State) (r : Nat) (x : Ring) : (s.setRing r x).mem = s.mem := rfl
@[simp] theorem State.setRing_past (s : State) (r : Nat) (x : Ring) : (s.setRing r x).past = s.past := rfl
@[simp] theorem State.setRing_pages (s : State) (r : Nat) (x : Ring) : (s.setRing r x).pages = s.pages := rfl
@[simp] theorem State.setRing_nodes (s : State) (r : Nat) (x : Ring) : (s.setRing r x).nodes = s.nodes := rfl
@[simp] theorem State.setRing_roots (s : State) (r : Nat) (x : Ring) : (s.setRing r x).roots = s.roots := rfl
@[simp] theorem State.setRing_tags (s : State) (r : Nat) (x : Ring) : (s.setRing r x).tags = s.tags := rfl
@[simp] theorem State.setRing_vfKeys (s : State) (r : Nat) (x : Ring) : (s.setRing r x).vfKeys = s.vfKeys := rfl
@[simp] theorem State.setRing_winKeys (s : State) (r : Nat) (x : Ring) : (s.setRing r x).winKeys = s.winKeys := rfl
@[simp] theorem State.setRing_migKey (s : State) (r : Nat) (x : Ring) : (s.setRing r x).migKey = s.migKey := rfl
@[simp] theorem State.setRing_treeKey (s : State) (r : Nat) (x : Ring) : (s.setRing r x).treeKey = s.treeKey := rfl
@[simp] theorem State.setRing_linkSeq (s : State) (r : Nat) (x : Ring) : (s.setRing r x).linkSeq = s.linkSeq := rfl
@[simp] theorem State.setRing_bad (s : State) (r : Nat) (x : Ring) : (s.setRing r x).bad = s.bad := rfl
@[simp] theorem State.setRing_csr (s : State) (r : Nat) (x : Ring) : (s.setRing r x).csr = s.csr := rfl
@[simp] theorem State.setRing_windows (s : State) (r : Nat) (x : Ring) : (s.setRing r x).windows = s.windows := rfl
@[simp] theorem State.setRing_stash (s : State) (r : Nat) (x : Ring) : (s.setRing r x).stash = s.stash := rfl
@[simp] theorem State.setRing_tlb (s : State) (r : Nat) (x : Ring) : (s.setRing r x).tlb = s.tlb := rfl
@[simp] theorem State.setRing_walks (s : State) (r : Nat) (x : Ring) : (s.setRing r x).walks = s.walks := rfl
@[simp] theorem State.setRing_nv (s : State) (r : Nat) (x : Ring) : (s.setRing r x).nv = s.nv := rfl
@[simp] theorem State.setRing_life (s : State) (r : Nat) (x : Ring) : (s.setRing r x).life = s.life := rfl
@[simp] theorem State.setRing_bootKind (s : State) (r : Nat) (x : Ring) : (s.setRing r x).bootKind = s.bootKind := rfl
@[simp] theorem State.setRing_bootStep (s : State) (r : Nat) (x : Ring) : (s.setRing r x).bootStep = s.bootStep := rfl
@[simp] theorem State.setRing_step (s : State) (r : Nat) (x : Ring) : (s.setRing r x).step = s.step := rfl
@[simp] theorem State.setRing_i3c (s : State) (r : Nat) (x : Ring) : (s.setRing r x).i3c = s.i3c := rfl
@[simp] theorem State.setRing_tap (s : State) (r : Nat) (x : Ring) : (s.setRing r x).tap = s.tap := rfl
@[simp] theorem State.setRing_agenda (s : State) (r : Nat) (x : Ring) : (s.setRing r x).agenda = s.agenda := rfl
@[simp] theorem State.setRing_cur (s : State) (r : Nat) (x : Ring) : (s.setRing r x).cur = s.cur := rfl
@[simp] theorem State.setRing_ep (s : State) (r : Nat) (x : Ring) : (s.setRing r x).ep = s.ep := rfl
@[simp] theorem State.setRing_free (s : State) (r : Nat) (x : Ring) : (s.setRing r x).free = s.free := rfl

@[simp] theorem State.updRing_time (s : State) (r : Nat) (f : Ring → Ring) : (s.updRing r f).time = s.time := rfl
@[simp] theorem State.updRing_powered (s : State) (r : Nat) (f : Ring → Ring) : (s.updRing r f).powered = s.powered := rfl
@[simp] theorem State.updRing_dies (s : State) (r : Nat) (f : Ring → Ring) : (s.updRing r f).dies = s.dies := rfl
@[simp] theorem State.updRing_vfs (s : State) (r : Nat) (f : Ring → Ring) : (s.updRing r f).vfs = s.vfs := rfl
@[simp] theorem State.updRing_groups (s : State) (r : Nat) (f : Ring → Ring) : (s.updRing r f).groups = s.groups := rfl
@[simp] theorem State.updRing_strips (s : State) (r : Nat) (f : Ring → Ring) : (s.updRing r f).strips = s.strips := rfl
@[simp] theorem State.updRing_chans (s : State) (r : Nat) (f : Ring → Ring) : (s.updRing r f).chans = s.chans := rfl
@[simp] theorem State.updRing_mem (s : State) (r : Nat) (f : Ring → Ring) : (s.updRing r f).mem = s.mem := rfl
@[simp] theorem State.updRing_past (s : State) (r : Nat) (f : Ring → Ring) : (s.updRing r f).past = s.past := rfl
@[simp] theorem State.updRing_pages (s : State) (r : Nat) (f : Ring → Ring) : (s.updRing r f).pages = s.pages := rfl
@[simp] theorem State.updRing_nodes (s : State) (r : Nat) (f : Ring → Ring) : (s.updRing r f).nodes = s.nodes := rfl
@[simp] theorem State.updRing_roots (s : State) (r : Nat) (f : Ring → Ring) : (s.updRing r f).roots = s.roots := rfl
@[simp] theorem State.updRing_tags (s : State) (r : Nat) (f : Ring → Ring) : (s.updRing r f).tags = s.tags := rfl
@[simp] theorem State.updRing_vfKeys (s : State) (r : Nat) (f : Ring → Ring) : (s.updRing r f).vfKeys = s.vfKeys := rfl
@[simp] theorem State.updRing_winKeys (s : State) (r : Nat) (f : Ring → Ring) : (s.updRing r f).winKeys = s.winKeys := rfl
@[simp] theorem State.updRing_migKey (s : State) (r : Nat) (f : Ring → Ring) : (s.updRing r f).migKey = s.migKey := rfl
@[simp] theorem State.updRing_treeKey (s : State) (r : Nat) (f : Ring → Ring) : (s.updRing r f).treeKey = s.treeKey := rfl
@[simp] theorem State.updRing_linkSeq (s : State) (r : Nat) (f : Ring → Ring) : (s.updRing r f).linkSeq = s.linkSeq := rfl
@[simp] theorem State.updRing_bad (s : State) (r : Nat) (f : Ring → Ring) : (s.updRing r f).bad = s.bad := rfl
@[simp] theorem State.updRing_csr (s : State) (r : Nat) (f : Ring → Ring) : (s.updRing r f).csr = s.csr := rfl
@[simp] theorem State.updRing_windows (s : State) (r : Nat) (f : Ring → Ring) : (s.updRing r f).windows = s.windows := rfl
@[simp] theorem State.updRing_stash (s : State) (r : Nat) (f : Ring → Ring) : (s.updRing r f).stash = s.stash := rfl
@[simp] theorem State.updRing_tlb (s : State) (r : Nat) (f : Ring → Ring) : (s.updRing r f).tlb = s.tlb := rfl
@[simp] theorem State.updRing_walks (s : State) (r : Nat) (f : Ring → Ring) : (s.updRing r f).walks = s.walks := rfl
@[simp] theorem State.updRing_nv (s : State) (r : Nat) (f : Ring → Ring) : (s.updRing r f).nv = s.nv := rfl
@[simp] theorem State.updRing_life (s : State) (r : Nat) (f : Ring → Ring) : (s.updRing r f).life = s.life := rfl
@[simp] theorem State.updRing_bootKind (s : State) (r : Nat) (f : Ring → Ring) : (s.updRing r f).bootKind = s.bootKind := rfl
@[simp] theorem State.updRing_bootStep (s : State) (r : Nat) (f : Ring → Ring) : (s.updRing r f).bootStep = s.bootStep := rfl
@[simp] theorem State.updRing_step (s : State) (r : Nat) (f : Ring → Ring) : (s.updRing r f).step = s.step := rfl
@[simp] theorem State.updRing_i3c (s : State) (r : Nat) (f : Ring → Ring) : (s.updRing r f).i3c = s.i3c := rfl
@[simp] theorem State.updRing_tap (s : State) (r : Nat) (f : Ring → Ring) : (s.updRing r f).tap = s.tap := rfl
@[simp] theorem State.updRing_agenda (s : State) (r : Nat) (f : Ring → Ring) : (s.updRing r f).agenda = s.agenda := rfl
@[simp] theorem State.updRing_cur (s : State) (r : Nat) (f : Ring → Ring) : (s.updRing r f).cur = s.cur := rfl
@[simp] theorem State.updRing_ep (s : State) (r : Nat) (f : Ring → Ring) : (s.updRing r f).ep = s.ep := rfl
@[simp] theorem State.updRing_free (s : State) (r : Nat) (f : Ring → Ring) : (s.updRing r f).free = s.free := rfl

@[simp] theorem State.setDie_time (s : State) (d : Nat) (x : Die) : (s.setDie d x).time = s.time := rfl
@[simp] theorem State.setDie_powered (s : State) (d : Nat) (x : Die) : (s.setDie d x).powered = s.powered := rfl
@[simp] theorem State.setDie_rings (s : State) (d : Nat) (x : Die) : (s.setDie d x).rings = s.rings := rfl
@[simp] theorem State.setDie_vfs (s : State) (d : Nat) (x : Die) : (s.setDie d x).vfs = s.vfs := rfl
@[simp] theorem State.setDie_groups (s : State) (d : Nat) (x : Die) : (s.setDie d x).groups = s.groups := rfl
@[simp] theorem State.setDie_strips (s : State) (d : Nat) (x : Die) : (s.setDie d x).strips = s.strips := rfl
@[simp] theorem State.setDie_chans (s : State) (d : Nat) (x : Die) : (s.setDie d x).chans = s.chans := rfl
@[simp] theorem State.setDie_mem (s : State) (d : Nat) (x : Die) : (s.setDie d x).mem = s.mem := rfl
@[simp] theorem State.setDie_past (s : State) (d : Nat) (x : Die) : (s.setDie d x).past = s.past := rfl
@[simp] theorem State.setDie_pages (s : State) (d : Nat) (x : Die) : (s.setDie d x).pages = s.pages := rfl
@[simp] theorem State.setDie_nodes (s : State) (d : Nat) (x : Die) : (s.setDie d x).nodes = s.nodes := rfl
@[simp] theorem State.setDie_roots (s : State) (d : Nat) (x : Die) : (s.setDie d x).roots = s.roots := rfl
@[simp] theorem State.setDie_tags (s : State) (d : Nat) (x : Die) : (s.setDie d x).tags = s.tags := rfl
@[simp] theorem State.setDie_vfKeys (s : State) (d : Nat) (x : Die) : (s.setDie d x).vfKeys = s.vfKeys := rfl
@[simp] theorem State.setDie_winKeys (s : State) (d : Nat) (x : Die) : (s.setDie d x).winKeys = s.winKeys := rfl
@[simp] theorem State.setDie_migKey (s : State) (d : Nat) (x : Die) : (s.setDie d x).migKey = s.migKey := rfl
@[simp] theorem State.setDie_treeKey (s : State) (d : Nat) (x : Die) : (s.setDie d x).treeKey = s.treeKey := rfl
@[simp] theorem State.setDie_linkSeq (s : State) (d : Nat) (x : Die) : (s.setDie d x).linkSeq = s.linkSeq := rfl
@[simp] theorem State.setDie_bad (s : State) (d : Nat) (x : Die) : (s.setDie d x).bad = s.bad := rfl
@[simp] theorem State.setDie_csr (s : State) (d : Nat) (x : Die) : (s.setDie d x).csr = s.csr := rfl
@[simp] theorem State.setDie_windows (s : State) (d : Nat) (x : Die) : (s.setDie d x).windows = s.windows := rfl
@[simp] theorem State.setDie_stash (s : State) (d : Nat) (x : Die) : (s.setDie d x).stash = s.stash := rfl
@[simp] theorem State.setDie_tlb (s : State) (d : Nat) (x : Die) : (s.setDie d x).tlb = s.tlb := rfl
@[simp] theorem State.setDie_walks (s : State) (d : Nat) (x : Die) : (s.setDie d x).walks = s.walks := rfl
@[simp] theorem State.setDie_nv (s : State) (d : Nat) (x : Die) : (s.setDie d x).nv = s.nv := rfl
@[simp] theorem State.setDie_life (s : State) (d : Nat) (x : Die) : (s.setDie d x).life = s.life := rfl
@[simp] theorem State.setDie_bootKind (s : State) (d : Nat) (x : Die) : (s.setDie d x).bootKind = s.bootKind := rfl
@[simp] theorem State.setDie_bootStep (s : State) (d : Nat) (x : Die) : (s.setDie d x).bootStep = s.bootStep := rfl
@[simp] theorem State.setDie_step (s : State) (d : Nat) (x : Die) : (s.setDie d x).step = s.step := rfl
@[simp] theorem State.setDie_i3c (s : State) (d : Nat) (x : Die) : (s.setDie d x).i3c = s.i3c := rfl
@[simp] theorem State.setDie_tap (s : State) (d : Nat) (x : Die) : (s.setDie d x).tap = s.tap := rfl
@[simp] theorem State.setDie_agenda (s : State) (d : Nat) (x : Die) : (s.setDie d x).agenda = s.agenda := rfl
@[simp] theorem State.setDie_cur (s : State) (d : Nat) (x : Die) : (s.setDie d x).cur = s.cur := rfl
@[simp] theorem State.setDie_ep (s : State) (d : Nat) (x : Die) : (s.setDie d x).ep = s.ep := rfl
@[simp] theorem State.setDie_free (s : State) (d : Nat) (x : Die) : (s.setDie d x).free = s.free := rfl

@[simp] theorem State.updDie_time (s : State) (d : Nat) (f : Die → Die) : (s.updDie d f).time = s.time := rfl
@[simp] theorem State.updDie_powered (s : State) (d : Nat) (f : Die → Die) : (s.updDie d f).powered = s.powered := rfl
@[simp] theorem State.updDie_rings (s : State) (d : Nat) (f : Die → Die) : (s.updDie d f).rings = s.rings := rfl
@[simp] theorem State.updDie_vfs (s : State) (d : Nat) (f : Die → Die) : (s.updDie d f).vfs = s.vfs := rfl
@[simp] theorem State.updDie_groups (s : State) (d : Nat) (f : Die → Die) : (s.updDie d f).groups = s.groups := rfl
@[simp] theorem State.updDie_strips (s : State) (d : Nat) (f : Die → Die) : (s.updDie d f).strips = s.strips := rfl
@[simp] theorem State.updDie_chans (s : State) (d : Nat) (f : Die → Die) : (s.updDie d f).chans = s.chans := rfl
@[simp] theorem State.updDie_mem (s : State) (d : Nat) (f : Die → Die) : (s.updDie d f).mem = s.mem := rfl
@[simp] theorem State.updDie_past (s : State) (d : Nat) (f : Die → Die) : (s.updDie d f).past = s.past := rfl
@[simp] theorem State.updDie_pages (s : State) (d : Nat) (f : Die → Die) : (s.updDie d f).pages = s.pages := rfl
@[simp] theorem State.updDie_nodes (s : State) (d : Nat) (f : Die → Die) : (s.updDie d f).nodes = s.nodes := rfl
@[simp] theorem State.updDie_roots (s : State) (d : Nat) (f : Die → Die) : (s.updDie d f).roots = s.roots := rfl
@[simp] theorem State.updDie_tags (s : State) (d : Nat) (f : Die → Die) : (s.updDie d f).tags = s.tags := rfl
@[simp] theorem State.updDie_vfKeys (s : State) (d : Nat) (f : Die → Die) : (s.updDie d f).vfKeys = s.vfKeys := rfl
@[simp] theorem State.updDie_winKeys (s : State) (d : Nat) (f : Die → Die) : (s.updDie d f).winKeys = s.winKeys := rfl
@[simp] theorem State.updDie_migKey (s : State) (d : Nat) (f : Die → Die) : (s.updDie d f).migKey = s.migKey := rfl
@[simp] theorem State.updDie_treeKey (s : State) (d : Nat) (f : Die → Die) : (s.updDie d f).treeKey = s.treeKey := rfl
@[simp] theorem State.updDie_linkSeq (s : State) (d : Nat) (f : Die → Die) : (s.updDie d f).linkSeq = s.linkSeq := rfl
@[simp] theorem State.updDie_bad (s : State) (d : Nat) (f : Die → Die) : (s.updDie d f).bad = s.bad := rfl
@[simp] theorem State.updDie_csr (s : State) (d : Nat) (f : Die → Die) : (s.updDie d f).csr = s.csr := rfl
@[simp] theorem State.updDie_windows (s : State) (d : Nat) (f : Die → Die) : (s.updDie d f).windows = s.windows := rfl
@[simp] theorem State.updDie_stash (s : State) (d : Nat) (f : Die → Die) : (s.updDie d f).stash = s.stash := rfl
@[simp] theorem State.updDie_tlb (s : State) (d : Nat) (f : Die → Die) : (s.updDie d f).tlb = s.tlb := rfl
@[simp] theorem State.updDie_walks (s : State) (d : Nat) (f : Die → Die) : (s.updDie d f).walks = s.walks := rfl
@[simp] theorem State.updDie_nv (s : State) (d : Nat) (f : Die → Die) : (s.updDie d f).nv = s.nv := rfl
@[simp] theorem State.updDie_life (s : State) (d : Nat) (f : Die → Die) : (s.updDie d f).life = s.life := rfl
@[simp] theorem State.updDie_bootKind (s : State) (d : Nat) (f : Die → Die) : (s.updDie d f).bootKind = s.bootKind := rfl
@[simp] theorem State.updDie_bootStep (s : State) (d : Nat) (f : Die → Die) : (s.updDie d f).bootStep = s.bootStep := rfl
@[simp] theorem State.updDie_step (s : State) (d : Nat) (f : Die → Die) : (s.updDie d f).step = s.step := rfl
@[simp] theorem State.updDie_i3c (s : State) (d : Nat) (f : Die → Die) : (s.updDie d f).i3c = s.i3c := rfl
@[simp] theorem State.updDie_tap (s : State) (d : Nat) (f : Die → Die) : (s.updDie d f).tap = s.tap := rfl
@[simp] theorem State.updDie_agenda (s : State) (d : Nat) (f : Die → Die) : (s.updDie d f).agenda = s.agenda := rfl
@[simp] theorem State.updDie_cur (s : State) (d : Nat) (f : Die → Die) : (s.updDie d f).cur = s.cur := rfl
@[simp] theorem State.updDie_ep (s : State) (d : Nat) (f : Die → Die) : (s.updDie d f).ep = s.ep := rfl
@[simp] theorem State.updDie_free (s : State) (d : Nat) (f : Die → Die) : (s.updDie d f).free = s.free := rfl

@[simp] theorem State.setVf_time (s : State) (v : Nat) (x : Vf) : (s.setVf v x).time = s.time := rfl
@[simp] theorem State.setVf_powered (s : State) (v : Nat) (x : Vf) : (s.setVf v x).powered = s.powered := rfl
@[simp] theorem State.setVf_rings (s : State) (v : Nat) (x : Vf) : (s.setVf v x).rings = s.rings := rfl
@[simp] theorem State.setVf_dies (s : State) (v : Nat) (x : Vf) : (s.setVf v x).dies = s.dies := rfl
@[simp] theorem State.setVf_groups (s : State) (v : Nat) (x : Vf) : (s.setVf v x).groups = s.groups := rfl
@[simp] theorem State.setVf_strips (s : State) (v : Nat) (x : Vf) : (s.setVf v x).strips = s.strips := rfl
@[simp] theorem State.setVf_chans (s : State) (v : Nat) (x : Vf) : (s.setVf v x).chans = s.chans := rfl
@[simp] theorem State.setVf_mem (s : State) (v : Nat) (x : Vf) : (s.setVf v x).mem = s.mem := rfl
@[simp] theorem State.setVf_past (s : State) (v : Nat) (x : Vf) : (s.setVf v x).past = s.past := rfl
@[simp] theorem State.setVf_pages (s : State) (v : Nat) (x : Vf) : (s.setVf v x).pages = s.pages := rfl
@[simp] theorem State.setVf_nodes (s : State) (v : Nat) (x : Vf) : (s.setVf v x).nodes = s.nodes := rfl
@[simp] theorem State.setVf_roots (s : State) (v : Nat) (x : Vf) : (s.setVf v x).roots = s.roots := rfl
@[simp] theorem State.setVf_tags (s : State) (v : Nat) (x : Vf) : (s.setVf v x).tags = s.tags := rfl
@[simp] theorem State.setVf_vfKeys (s : State) (v : Nat) (x : Vf) : (s.setVf v x).vfKeys = s.vfKeys := rfl
@[simp] theorem State.setVf_winKeys (s : State) (v : Nat) (x : Vf) : (s.setVf v x).winKeys = s.winKeys := rfl
@[simp] theorem State.setVf_migKey (s : State) (v : Nat) (x : Vf) : (s.setVf v x).migKey = s.migKey := rfl
@[simp] theorem State.setVf_treeKey (s : State) (v : Nat) (x : Vf) : (s.setVf v x).treeKey = s.treeKey := rfl
@[simp] theorem State.setVf_linkSeq (s : State) (v : Nat) (x : Vf) : (s.setVf v x).linkSeq = s.linkSeq := rfl
@[simp] theorem State.setVf_bad (s : State) (v : Nat) (x : Vf) : (s.setVf v x).bad = s.bad := rfl
@[simp] theorem State.setVf_csr (s : State) (v : Nat) (x : Vf) : (s.setVf v x).csr = s.csr := rfl
@[simp] theorem State.setVf_windows (s : State) (v : Nat) (x : Vf) : (s.setVf v x).windows = s.windows := rfl
@[simp] theorem State.setVf_stash (s : State) (v : Nat) (x : Vf) : (s.setVf v x).stash = s.stash := rfl
@[simp] theorem State.setVf_tlb (s : State) (v : Nat) (x : Vf) : (s.setVf v x).tlb = s.tlb := rfl
@[simp] theorem State.setVf_walks (s : State) (v : Nat) (x : Vf) : (s.setVf v x).walks = s.walks := rfl
@[simp] theorem State.setVf_nv (s : State) (v : Nat) (x : Vf) : (s.setVf v x).nv = s.nv := rfl
@[simp] theorem State.setVf_life (s : State) (v : Nat) (x : Vf) : (s.setVf v x).life = s.life := rfl
@[simp] theorem State.setVf_bootKind (s : State) (v : Nat) (x : Vf) : (s.setVf v x).bootKind = s.bootKind := rfl
@[simp] theorem State.setVf_bootStep (s : State) (v : Nat) (x : Vf) : (s.setVf v x).bootStep = s.bootStep := rfl
@[simp] theorem State.setVf_step (s : State) (v : Nat) (x : Vf) : (s.setVf v x).step = s.step := rfl
@[simp] theorem State.setVf_i3c (s : State) (v : Nat) (x : Vf) : (s.setVf v x).i3c = s.i3c := rfl
@[simp] theorem State.setVf_tap (s : State) (v : Nat) (x : Vf) : (s.setVf v x).tap = s.tap := rfl
@[simp] theorem State.setVf_agenda (s : State) (v : Nat) (x : Vf) : (s.setVf v x).agenda = s.agenda := rfl
@[simp] theorem State.setVf_cur (s : State) (v : Nat) (x : Vf) : (s.setVf v x).cur = s.cur := rfl
@[simp] theorem State.setVf_ep (s : State) (v : Nat) (x : Vf) : (s.setVf v x).ep = s.ep := rfl
@[simp] theorem State.setVf_free (s : State) (v : Nat) (x : Vf) : (s.setVf v x).free = s.free := rfl

@[simp] theorem State.updVf_time (s : State) (v : Nat) (f : Vf → Vf) : (s.updVf v f).time = s.time := rfl
@[simp] theorem State.updVf_powered (s : State) (v : Nat) (f : Vf → Vf) : (s.updVf v f).powered = s.powered := rfl
@[simp] theorem State.updVf_rings (s : State) (v : Nat) (f : Vf → Vf) : (s.updVf v f).rings = s.rings := rfl
@[simp] theorem State.updVf_dies (s : State) (v : Nat) (f : Vf → Vf) : (s.updVf v f).dies = s.dies := rfl
@[simp] theorem State.updVf_groups (s : State) (v : Nat) (f : Vf → Vf) : (s.updVf v f).groups = s.groups := rfl
@[simp] theorem State.updVf_strips (s : State) (v : Nat) (f : Vf → Vf) : (s.updVf v f).strips = s.strips := rfl
@[simp] theorem State.updVf_chans (s : State) (v : Nat) (f : Vf → Vf) : (s.updVf v f).chans = s.chans := rfl
@[simp] theorem State.updVf_mem (s : State) (v : Nat) (f : Vf → Vf) : (s.updVf v f).mem = s.mem := rfl
@[simp] theorem State.updVf_past (s : State) (v : Nat) (f : Vf → Vf) : (s.updVf v f).past = s.past := rfl
@[simp] theorem State.updVf_pages (s : State) (v : Nat) (f : Vf → Vf) : (s.updVf v f).pages = s.pages := rfl
@[simp] theorem State.updVf_nodes (s : State) (v : Nat) (f : Vf → Vf) : (s.updVf v f).nodes = s.nodes := rfl
@[simp] theorem State.updVf_roots (s : State) (v : Nat) (f : Vf → Vf) : (s.updVf v f).roots = s.roots := rfl
@[simp] theorem State.updVf_tags (s : State) (v : Nat) (f : Vf → Vf) : (s.updVf v f).tags = s.tags := rfl
@[simp] theorem State.updVf_vfKeys (s : State) (v : Nat) (f : Vf → Vf) : (s.updVf v f).vfKeys = s.vfKeys := rfl
@[simp] theorem State.updVf_winKeys (s : State) (v : Nat) (f : Vf → Vf) : (s.updVf v f).winKeys = s.winKeys := rfl
@[simp] theorem State.updVf_migKey (s : State) (v : Nat) (f : Vf → Vf) : (s.updVf v f).migKey = s.migKey := rfl
@[simp] theorem State.updVf_treeKey (s : State) (v : Nat) (f : Vf → Vf) : (s.updVf v f).treeKey = s.treeKey := rfl
@[simp] theorem State.updVf_linkSeq (s : State) (v : Nat) (f : Vf → Vf) : (s.updVf v f).linkSeq = s.linkSeq := rfl
@[simp] theorem State.updVf_bad (s : State) (v : Nat) (f : Vf → Vf) : (s.updVf v f).bad = s.bad := rfl
@[simp] theorem State.updVf_csr (s : State) (v : Nat) (f : Vf → Vf) : (s.updVf v f).csr = s.csr := rfl
@[simp] theorem State.updVf_windows (s : State) (v : Nat) (f : Vf → Vf) : (s.updVf v f).windows = s.windows := rfl
@[simp] theorem State.updVf_stash (s : State) (v : Nat) (f : Vf → Vf) : (s.updVf v f).stash = s.stash := rfl
@[simp] theorem State.updVf_tlb (s : State) (v : Nat) (f : Vf → Vf) : (s.updVf v f).tlb = s.tlb := rfl
@[simp] theorem State.updVf_walks (s : State) (v : Nat) (f : Vf → Vf) : (s.updVf v f).walks = s.walks := rfl
@[simp] theorem State.updVf_nv (s : State) (v : Nat) (f : Vf → Vf) : (s.updVf v f).nv = s.nv := rfl
@[simp] theorem State.updVf_life (s : State) (v : Nat) (f : Vf → Vf) : (s.updVf v f).life = s.life := rfl
@[simp] theorem State.updVf_bootKind (s : State) (v : Nat) (f : Vf → Vf) : (s.updVf v f).bootKind = s.bootKind := rfl
@[simp] theorem State.updVf_bootStep (s : State) (v : Nat) (f : Vf → Vf) : (s.updVf v f).bootStep = s.bootStep := rfl
@[simp] theorem State.updVf_step (s : State) (v : Nat) (f : Vf → Vf) : (s.updVf v f).step = s.step := rfl
@[simp] theorem State.updVf_i3c (s : State) (v : Nat) (f : Vf → Vf) : (s.updVf v f).i3c = s.i3c := rfl
@[simp] theorem State.updVf_tap (s : State) (v : Nat) (f : Vf → Vf) : (s.updVf v f).tap = s.tap := rfl
@[simp] theorem State.updVf_agenda (s : State) (v : Nat) (f : Vf → Vf) : (s.updVf v f).agenda = s.agenda := rfl
@[simp] theorem State.updVf_cur (s : State) (v : Nat) (f : Vf → Vf) : (s.updVf v f).cur = s.cur := rfl
@[simp] theorem State.updVf_ep (s : State) (v : Nat) (f : Vf → Vf) : (s.updVf v f).ep = s.ep := rfl
@[simp] theorem State.updVf_free (s : State) (v : Nat) (f : Vf → Vf) : (s.updVf v f).free = s.free := rfl

@[simp] theorem State.setStrip_time (s : State) (b : Nat) (x : Strip) : (s.setStrip b x).time = s.time := rfl
@[simp] theorem State.setStrip_powered (s : State) (b : Nat) (x : Strip) : (s.setStrip b x).powered = s.powered := rfl
@[simp] theorem State.setStrip_rings (s : State) (b : Nat) (x : Strip) : (s.setStrip b x).rings = s.rings := rfl
@[simp] theorem State.setStrip_dies (s : State) (b : Nat) (x : Strip) : (s.setStrip b x).dies = s.dies := rfl
@[simp] theorem State.setStrip_vfs (s : State) (b : Nat) (x : Strip) : (s.setStrip b x).vfs = s.vfs := rfl
@[simp] theorem State.setStrip_groups (s : State) (b : Nat) (x : Strip) : (s.setStrip b x).groups = s.groups := rfl
@[simp] theorem State.setStrip_chans (s : State) (b : Nat) (x : Strip) : (s.setStrip b x).chans = s.chans := rfl
@[simp] theorem State.setStrip_mem (s : State) (b : Nat) (x : Strip) : (s.setStrip b x).mem = s.mem := rfl
@[simp] theorem State.setStrip_past (s : State) (b : Nat) (x : Strip) : (s.setStrip b x).past = s.past := rfl
@[simp] theorem State.setStrip_pages (s : State) (b : Nat) (x : Strip) : (s.setStrip b x).pages = s.pages := rfl
@[simp] theorem State.setStrip_nodes (s : State) (b : Nat) (x : Strip) : (s.setStrip b x).nodes = s.nodes := rfl
@[simp] theorem State.setStrip_roots (s : State) (b : Nat) (x : Strip) : (s.setStrip b x).roots = s.roots := rfl
@[simp] theorem State.setStrip_tags (s : State) (b : Nat) (x : Strip) : (s.setStrip b x).tags = s.tags := rfl
@[simp] theorem State.setStrip_vfKeys (s : State) (b : Nat) (x : Strip) : (s.setStrip b x).vfKeys = s.vfKeys := rfl
@[simp] theorem State.setStrip_winKeys (s : State) (b : Nat) (x : Strip) : (s.setStrip b x).winKeys = s.winKeys := rfl
@[simp] theorem State.setStrip_migKey (s : State) (b : Nat) (x : Strip) : (s.setStrip b x).migKey = s.migKey := rfl
@[simp] theorem State.setStrip_treeKey (s : State) (b : Nat) (x : Strip) : (s.setStrip b x).treeKey = s.treeKey := rfl
@[simp] theorem State.setStrip_linkSeq (s : State) (b : Nat) (x : Strip) : (s.setStrip b x).linkSeq = s.linkSeq := rfl
@[simp] theorem State.setStrip_bad (s : State) (b : Nat) (x : Strip) : (s.setStrip b x).bad = s.bad := rfl
@[simp] theorem State.setStrip_csr (s : State) (b : Nat) (x : Strip) : (s.setStrip b x).csr = s.csr := rfl
@[simp] theorem State.setStrip_windows (s : State) (b : Nat) (x : Strip) : (s.setStrip b x).windows = s.windows := rfl
@[simp] theorem State.setStrip_stash (s : State) (b : Nat) (x : Strip) : (s.setStrip b x).stash = s.stash := rfl
@[simp] theorem State.setStrip_tlb (s : State) (b : Nat) (x : Strip) : (s.setStrip b x).tlb = s.tlb := rfl
@[simp] theorem State.setStrip_walks (s : State) (b : Nat) (x : Strip) : (s.setStrip b x).walks = s.walks := rfl
@[simp] theorem State.setStrip_nv (s : State) (b : Nat) (x : Strip) : (s.setStrip b x).nv = s.nv := rfl
@[simp] theorem State.setStrip_life (s : State) (b : Nat) (x : Strip) : (s.setStrip b x).life = s.life := rfl
@[simp] theorem State.setStrip_bootKind (s : State) (b : Nat) (x : Strip) : (s.setStrip b x).bootKind = s.bootKind := rfl
@[simp] theorem State.setStrip_bootStep (s : State) (b : Nat) (x : Strip) : (s.setStrip b x).bootStep = s.bootStep := rfl
@[simp] theorem State.setStrip_step (s : State) (b : Nat) (x : Strip) : (s.setStrip b x).step = s.step := rfl
@[simp] theorem State.setStrip_i3c (s : State) (b : Nat) (x : Strip) : (s.setStrip b x).i3c = s.i3c := rfl
@[simp] theorem State.setStrip_tap (s : State) (b : Nat) (x : Strip) : (s.setStrip b x).tap = s.tap := rfl
@[simp] theorem State.setStrip_agenda (s : State) (b : Nat) (x : Strip) : (s.setStrip b x).agenda = s.agenda := rfl
@[simp] theorem State.setStrip_cur (s : State) (b : Nat) (x : Strip) : (s.setStrip b x).cur = s.cur := rfl
@[simp] theorem State.setStrip_ep (s : State) (b : Nat) (x : Strip) : (s.setStrip b x).ep = s.ep := rfl
@[simp] theorem State.setStrip_free (s : State) (b : Nat) (x : Strip) : (s.setStrip b x).free = s.free := rfl

@[simp] theorem State.updStrip_time (s : State) (b : Nat) (f : Strip → Strip) : (s.updStrip b f).time = s.time := rfl
@[simp] theorem State.updStrip_powered (s : State) (b : Nat) (f : Strip → Strip) : (s.updStrip b f).powered = s.powered := rfl
@[simp] theorem State.updStrip_rings (s : State) (b : Nat) (f : Strip → Strip) : (s.updStrip b f).rings = s.rings := rfl
@[simp] theorem State.updStrip_dies (s : State) (b : Nat) (f : Strip → Strip) : (s.updStrip b f).dies = s.dies := rfl
@[simp] theorem State.updStrip_vfs (s : State) (b : Nat) (f : Strip → Strip) : (s.updStrip b f).vfs = s.vfs := rfl
@[simp] theorem State.updStrip_groups (s : State) (b : Nat) (f : Strip → Strip) : (s.updStrip b f).groups = s.groups := rfl
@[simp] theorem State.updStrip_chans (s : State) (b : Nat) (f : Strip → Strip) : (s.updStrip b f).chans = s.chans := rfl
@[simp] theorem State.updStrip_mem (s : State) (b : Nat) (f : Strip → Strip) : (s.updStrip b f).mem = s.mem := rfl
@[simp] theorem State.updStrip_past (s : State) (b : Nat) (f : Strip → Strip) : (s.updStrip b f).past = s.past := rfl
@[simp] theorem State.updStrip_pages (s : State) (b : Nat) (f : Strip → Strip) : (s.updStrip b f).pages = s.pages := rfl
@[simp] theorem State.updStrip_nodes (s : State) (b : Nat) (f : Strip → Strip) : (s.updStrip b f).nodes = s.nodes := rfl
@[simp] theorem State.updStrip_roots (s : State) (b : Nat) (f : Strip → Strip) : (s.updStrip b f).roots = s.roots := rfl
@[simp] theorem State.updStrip_tags (s : State) (b : Nat) (f : Strip → Strip) : (s.updStrip b f).tags = s.tags := rfl
@[simp] theorem State.updStrip_vfKeys (s : State) (b : Nat) (f : Strip → Strip) : (s.updStrip b f).vfKeys = s.vfKeys := rfl
@[simp] theorem State.updStrip_winKeys (s : State) (b : Nat) (f : Strip → Strip) : (s.updStrip b f).winKeys = s.winKeys := rfl
@[simp] theorem State.updStrip_migKey (s : State) (b : Nat) (f : Strip → Strip) : (s.updStrip b f).migKey = s.migKey := rfl
@[simp] theorem State.updStrip_treeKey (s : State) (b : Nat) (f : Strip → Strip) : (s.updStrip b f).treeKey = s.treeKey := rfl
@[simp] theorem State.updStrip_linkSeq (s : State) (b : Nat) (f : Strip → Strip) : (s.updStrip b f).linkSeq = s.linkSeq := rfl
@[simp] theorem State.updStrip_bad (s : State) (b : Nat) (f : Strip → Strip) : (s.updStrip b f).bad = s.bad := rfl
@[simp] theorem State.updStrip_csr (s : State) (b : Nat) (f : Strip → Strip) : (s.updStrip b f).csr = s.csr := rfl
@[simp] theorem State.updStrip_windows (s : State) (b : Nat) (f : Strip → Strip) : (s.updStrip b f).windows = s.windows := rfl
@[simp] theorem State.updStrip_stash (s : State) (b : Nat) (f : Strip → Strip) : (s.updStrip b f).stash = s.stash := rfl
@[simp] theorem State.updStrip_tlb (s : State) (b : Nat) (f : Strip → Strip) : (s.updStrip b f).tlb = s.tlb := rfl
@[simp] theorem State.updStrip_walks (s : State) (b : Nat) (f : Strip → Strip) : (s.updStrip b f).walks = s.walks := rfl
@[simp] theorem State.updStrip_nv (s : State) (b : Nat) (f : Strip → Strip) : (s.updStrip b f).nv = s.nv := rfl
@[simp] theorem State.updStrip_life (s : State) (b : Nat) (f : Strip → Strip) : (s.updStrip b f).life = s.life := rfl
@[simp] theorem State.updStrip_bootKind (s : State) (b : Nat) (f : Strip → Strip) : (s.updStrip b f).bootKind = s.bootKind := rfl
@[simp] theorem State.updStrip_bootStep (s : State) (b : Nat) (f : Strip → Strip) : (s.updStrip b f).bootStep = s.bootStep := rfl
@[simp] theorem State.updStrip_step (s : State) (b : Nat) (f : Strip → Strip) : (s.updStrip b f).step = s.step := rfl
@[simp] theorem State.updStrip_i3c (s : State) (b : Nat) (f : Strip → Strip) : (s.updStrip b f).i3c = s.i3c := rfl
@[simp] theorem State.updStrip_tap (s : State) (b : Nat) (f : Strip → Strip) : (s.updStrip b f).tap = s.tap := rfl
@[simp] theorem State.updStrip_agenda (s : State) (b : Nat) (f : Strip → Strip) : (s.updStrip b f).agenda = s.agenda := rfl
@[simp] theorem State.updStrip_cur (s : State) (b : Nat) (f : Strip → Strip) : (s.updStrip b f).cur = s.cur := rfl
@[simp] theorem State.updStrip_ep (s : State) (b : Nat) (f : Strip → Strip) : (s.updStrip b f).ep = s.ep := rfl
@[simp] theorem State.updStrip_free (s : State) (b : Nat) (f : Strip → Strip) : (s.updStrip b f).free = s.free := rfl

@[simp] theorem State.setGroup_time (s : State) (g : Nat) (x : Group) : (s.setGroup g x).time = s.time := rfl
@[simp] theorem State.setGroup_powered (s : State) (g : Nat) (x : Group) : (s.setGroup g x).powered = s.powered := rfl
@[simp] theorem State.setGroup_rings (s : State) (g : Nat) (x : Group) : (s.setGroup g x).rings = s.rings := rfl
@[simp] theorem State.setGroup_dies (s : State) (g : Nat) (x : Group) : (s.setGroup g x).dies = s.dies := rfl
@[simp] theorem State.setGroup_vfs (s : State) (g : Nat) (x : Group) : (s.setGroup g x).vfs = s.vfs := rfl
@[simp] theorem State.setGroup_strips (s : State) (g : Nat) (x : Group) : (s.setGroup g x).strips = s.strips := rfl
@[simp] theorem State.setGroup_chans (s : State) (g : Nat) (x : Group) : (s.setGroup g x).chans = s.chans := rfl
@[simp] theorem State.setGroup_mem (s : State) (g : Nat) (x : Group) : (s.setGroup g x).mem = s.mem := rfl
@[simp] theorem State.setGroup_past (s : State) (g : Nat) (x : Group) : (s.setGroup g x).past = s.past := rfl
@[simp] theorem State.setGroup_pages (s : State) (g : Nat) (x : Group) : (s.setGroup g x).pages = s.pages := rfl
@[simp] theorem State.setGroup_nodes (s : State) (g : Nat) (x : Group) : (s.setGroup g x).nodes = s.nodes := rfl
@[simp] theorem State.setGroup_roots (s : State) (g : Nat) (x : Group) : (s.setGroup g x).roots = s.roots := rfl
@[simp] theorem State.setGroup_tags (s : State) (g : Nat) (x : Group) : (s.setGroup g x).tags = s.tags := rfl
@[simp] theorem State.setGroup_vfKeys (s : State) (g : Nat) (x : Group) : (s.setGroup g x).vfKeys = s.vfKeys := rfl
@[simp] theorem State.setGroup_winKeys (s : State) (g : Nat) (x : Group) : (s.setGroup g x).winKeys = s.winKeys := rfl
@[simp] theorem State.setGroup_migKey (s : State) (g : Nat) (x : Group) : (s.setGroup g x).migKey = s.migKey := rfl
@[simp] theorem State.setGroup_treeKey (s : State) (g : Nat) (x : Group) : (s.setGroup g x).treeKey = s.treeKey := rfl
@[simp] theorem State.setGroup_linkSeq (s : State) (g : Nat) (x : Group) : (s.setGroup g x).linkSeq = s.linkSeq := rfl
@[simp] theorem State.setGroup_bad (s : State) (g : Nat) (x : Group) : (s.setGroup g x).bad = s.bad := rfl
@[simp] theorem State.setGroup_csr (s : State) (g : Nat) (x : Group) : (s.setGroup g x).csr = s.csr := rfl
@[simp] theorem State.setGroup_windows (s : State) (g : Nat) (x : Group) : (s.setGroup g x).windows = s.windows := rfl
@[simp] theorem State.setGroup_stash (s : State) (g : Nat) (x : Group) : (s.setGroup g x).stash = s.stash := rfl
@[simp] theorem State.setGroup_tlb (s : State) (g : Nat) (x : Group) : (s.setGroup g x).tlb = s.tlb := rfl
@[simp] theorem State.setGroup_walks (s : State) (g : Nat) (x : Group) : (s.setGroup g x).walks = s.walks := rfl
@[simp] theorem State.setGroup_nv (s : State) (g : Nat) (x : Group) : (s.setGroup g x).nv = s.nv := rfl
@[simp] theorem State.setGroup_life (s : State) (g : Nat) (x : Group) : (s.setGroup g x).life = s.life := rfl
@[simp] theorem State.setGroup_bootKind (s : State) (g : Nat) (x : Group) : (s.setGroup g x).bootKind = s.bootKind := rfl
@[simp] theorem State.setGroup_bootStep (s : State) (g : Nat) (x : Group) : (s.setGroup g x).bootStep = s.bootStep := rfl
@[simp] theorem State.setGroup_step (s : State) (g : Nat) (x : Group) : (s.setGroup g x).step = s.step := rfl
@[simp] theorem State.setGroup_i3c (s : State) (g : Nat) (x : Group) : (s.setGroup g x).i3c = s.i3c := rfl
@[simp] theorem State.setGroup_tap (s : State) (g : Nat) (x : Group) : (s.setGroup g x).tap = s.tap := rfl
@[simp] theorem State.setGroup_agenda (s : State) (g : Nat) (x : Group) : (s.setGroup g x).agenda = s.agenda := rfl
@[simp] theorem State.setGroup_cur (s : State) (g : Nat) (x : Group) : (s.setGroup g x).cur = s.cur := rfl
@[simp] theorem State.setGroup_ep (s : State) (g : Nat) (x : Group) : (s.setGroup g x).ep = s.ep := rfl
@[simp] theorem State.setGroup_free (s : State) (g : Nat) (x : Group) : (s.setGroup g x).free = s.free := rfl

@[simp] theorem State.updWindow_time (s : State) (n : Nat) (f : Window → Window) : (s.updWindow n f).time = s.time := rfl
@[simp] theorem State.updWindow_powered (s : State) (n : Nat) (f : Window → Window) : (s.updWindow n f).powered = s.powered := rfl
@[simp] theorem State.updWindow_rings (s : State) (n : Nat) (f : Window → Window) : (s.updWindow n f).rings = s.rings := rfl
@[simp] theorem State.updWindow_dies (s : State) (n : Nat) (f : Window → Window) : (s.updWindow n f).dies = s.dies := rfl
@[simp] theorem State.updWindow_vfs (s : State) (n : Nat) (f : Window → Window) : (s.updWindow n f).vfs = s.vfs := rfl
@[simp] theorem State.updWindow_groups (s : State) (n : Nat) (f : Window → Window) : (s.updWindow n f).groups = s.groups := rfl
@[simp] theorem State.updWindow_strips (s : State) (n : Nat) (f : Window → Window) : (s.updWindow n f).strips = s.strips := rfl
@[simp] theorem State.updWindow_chans (s : State) (n : Nat) (f : Window → Window) : (s.updWindow n f).chans = s.chans := rfl
@[simp] theorem State.updWindow_mem (s : State) (n : Nat) (f : Window → Window) : (s.updWindow n f).mem = s.mem := rfl
@[simp] theorem State.updWindow_past (s : State) (n : Nat) (f : Window → Window) : (s.updWindow n f).past = s.past := rfl
@[simp] theorem State.updWindow_pages (s : State) (n : Nat) (f : Window → Window) : (s.updWindow n f).pages = s.pages := rfl
@[simp] theorem State.updWindow_nodes (s : State) (n : Nat) (f : Window → Window) : (s.updWindow n f).nodes = s.nodes := rfl
@[simp] theorem State.updWindow_roots (s : State) (n : Nat) (f : Window → Window) : (s.updWindow n f).roots = s.roots := rfl
@[simp] theorem State.updWindow_tags (s : State) (n : Nat) (f : Window → Window) : (s.updWindow n f).tags = s.tags := rfl
@[simp] theorem State.updWindow_vfKeys (s : State) (n : Nat) (f : Window → Window) : (s.updWindow n f).vfKeys = s.vfKeys := rfl
@[simp] theorem State.updWindow_winKeys (s : State) (n : Nat) (f : Window → Window) : (s.updWindow n f).winKeys = s.winKeys := rfl
@[simp] theorem State.updWindow_migKey (s : State) (n : Nat) (f : Window → Window) : (s.updWindow n f).migKey = s.migKey := rfl
@[simp] theorem State.updWindow_treeKey (s : State) (n : Nat) (f : Window → Window) : (s.updWindow n f).treeKey = s.treeKey := rfl
@[simp] theorem State.updWindow_linkSeq (s : State) (n : Nat) (f : Window → Window) : (s.updWindow n f).linkSeq = s.linkSeq := rfl
@[simp] theorem State.updWindow_bad (s : State) (n : Nat) (f : Window → Window) : (s.updWindow n f).bad = s.bad := rfl
@[simp] theorem State.updWindow_csr (s : State) (n : Nat) (f : Window → Window) : (s.updWindow n f).csr = s.csr := rfl
@[simp] theorem State.updWindow_stash (s : State) (n : Nat) (f : Window → Window) : (s.updWindow n f).stash = s.stash := rfl
@[simp] theorem State.updWindow_tlb (s : State) (n : Nat) (f : Window → Window) : (s.updWindow n f).tlb = s.tlb := rfl
@[simp] theorem State.updWindow_walks (s : State) (n : Nat) (f : Window → Window) : (s.updWindow n f).walks = s.walks := rfl
@[simp] theorem State.updWindow_nv (s : State) (n : Nat) (f : Window → Window) : (s.updWindow n f).nv = s.nv := rfl
@[simp] theorem State.updWindow_life (s : State) (n : Nat) (f : Window → Window) : (s.updWindow n f).life = s.life := rfl
@[simp] theorem State.updWindow_bootKind (s : State) (n : Nat) (f : Window → Window) : (s.updWindow n f).bootKind = s.bootKind := rfl
@[simp] theorem State.updWindow_bootStep (s : State) (n : Nat) (f : Window → Window) : (s.updWindow n f).bootStep = s.bootStep := rfl
@[simp] theorem State.updWindow_step (s : State) (n : Nat) (f : Window → Window) : (s.updWindow n f).step = s.step := rfl
@[simp] theorem State.updWindow_i3c (s : State) (n : Nat) (f : Window → Window) : (s.updWindow n f).i3c = s.i3c := rfl
@[simp] theorem State.updWindow_tap (s : State) (n : Nat) (f : Window → Window) : (s.updWindow n f).tap = s.tap := rfl
@[simp] theorem State.updWindow_agenda (s : State) (n : Nat) (f : Window → Window) : (s.updWindow n f).agenda = s.agenda := rfl
@[simp] theorem State.updWindow_cur (s : State) (n : Nat) (f : Window → Window) : (s.updWindow n f).cur = s.cur := rfl
@[simp] theorem State.updWindow_ep (s : State) (n : Nat) (f : Window → Window) : (s.updWindow n f).ep = s.ep := rfl
@[simp] theorem State.updWindow_free (s : State) (n : Nat) (f : Window → Window) : (s.updWindow n f).free = s.free := rfl

@[simp] theorem State.setHcsr_time (s : State) (n : Nat) (v : W64) : (s.setHcsr n v).time = s.time := rfl
@[simp] theorem State.setHcsr_powered (s : State) (n : Nat) (v : W64) : (s.setHcsr n v).powered = s.powered := rfl
@[simp] theorem State.setHcsr_rings (s : State) (n : Nat) (v : W64) : (s.setHcsr n v).rings = s.rings := rfl
@[simp] theorem State.setHcsr_dies (s : State) (n : Nat) (v : W64) : (s.setHcsr n v).dies = s.dies := rfl
@[simp] theorem State.setHcsr_vfs (s : State) (n : Nat) (v : W64) : (s.setHcsr n v).vfs = s.vfs := rfl
@[simp] theorem State.setHcsr_groups (s : State) (n : Nat) (v : W64) : (s.setHcsr n v).groups = s.groups := rfl
@[simp] theorem State.setHcsr_strips (s : State) (n : Nat) (v : W64) : (s.setHcsr n v).strips = s.strips := rfl
@[simp] theorem State.setHcsr_chans (s : State) (n : Nat) (v : W64) : (s.setHcsr n v).chans = s.chans := rfl
@[simp] theorem State.setHcsr_mem (s : State) (n : Nat) (v : W64) : (s.setHcsr n v).mem = s.mem := rfl
@[simp] theorem State.setHcsr_past (s : State) (n : Nat) (v : W64) : (s.setHcsr n v).past = s.past := rfl
@[simp] theorem State.setHcsr_pages (s : State) (n : Nat) (v : W64) : (s.setHcsr n v).pages = s.pages := rfl
@[simp] theorem State.setHcsr_nodes (s : State) (n : Nat) (v : W64) : (s.setHcsr n v).nodes = s.nodes := rfl
@[simp] theorem State.setHcsr_roots (s : State) (n : Nat) (v : W64) : (s.setHcsr n v).roots = s.roots := rfl
@[simp] theorem State.setHcsr_tags (s : State) (n : Nat) (v : W64) : (s.setHcsr n v).tags = s.tags := rfl
@[simp] theorem State.setHcsr_vfKeys (s : State) (n : Nat) (v : W64) : (s.setHcsr n v).vfKeys = s.vfKeys := rfl
@[simp] theorem State.setHcsr_winKeys (s : State) (n : Nat) (v : W64) : (s.setHcsr n v).winKeys = s.winKeys := rfl
@[simp] theorem State.setHcsr_migKey (s : State) (n : Nat) (v : W64) : (s.setHcsr n v).migKey = s.migKey := rfl
@[simp] theorem State.setHcsr_treeKey (s : State) (n : Nat) (v : W64) : (s.setHcsr n v).treeKey = s.treeKey := rfl
@[simp] theorem State.setHcsr_linkSeq (s : State) (n : Nat) (v : W64) : (s.setHcsr n v).linkSeq = s.linkSeq := rfl
@[simp] theorem State.setHcsr_bad (s : State) (n : Nat) (v : W64) : (s.setHcsr n v).bad = s.bad := rfl
@[simp] theorem State.setHcsr_windows (s : State) (n : Nat) (v : W64) : (s.setHcsr n v).windows = s.windows := rfl
@[simp] theorem State.setHcsr_stash (s : State) (n : Nat) (v : W64) : (s.setHcsr n v).stash = s.stash := rfl
@[simp] theorem State.setHcsr_tlb (s : State) (n : Nat) (v : W64) : (s.setHcsr n v).tlb = s.tlb := rfl
@[simp] theorem State.setHcsr_walks (s : State) (n : Nat) (v : W64) : (s.setHcsr n v).walks = s.walks := rfl
@[simp] theorem State.setHcsr_nv (s : State) (n : Nat) (v : W64) : (s.setHcsr n v).nv = s.nv := rfl
@[simp] theorem State.setHcsr_life (s : State) (n : Nat) (v : W64) : (s.setHcsr n v).life = s.life := rfl
@[simp] theorem State.setHcsr_bootKind (s : State) (n : Nat) (v : W64) : (s.setHcsr n v).bootKind = s.bootKind := rfl
@[simp] theorem State.setHcsr_bootStep (s : State) (n : Nat) (v : W64) : (s.setHcsr n v).bootStep = s.bootStep := rfl
@[simp] theorem State.setHcsr_step (s : State) (n : Nat) (v : W64) : (s.setHcsr n v).step = s.step := rfl
@[simp] theorem State.setHcsr_i3c (s : State) (n : Nat) (v : W64) : (s.setHcsr n v).i3c = s.i3c := rfl
@[simp] theorem State.setHcsr_tap (s : State) (n : Nat) (v : W64) : (s.setHcsr n v).tap = s.tap := rfl
@[simp] theorem State.setHcsr_agenda (s : State) (n : Nat) (v : W64) : (s.setHcsr n v).agenda = s.agenda := rfl
@[simp] theorem State.setHcsr_cur (s : State) (n : Nat) (v : W64) : (s.setHcsr n v).cur = s.cur := rfl
@[simp] theorem State.setHcsr_ep (s : State) (n : Nat) (v : W64) : (s.setHcsr n v).ep = s.ep := rfl
@[simp] theorem State.setHcsr_free (s : State) (n : Nat) (v : W64) : (s.setHcsr n v).free = s.free := rfl

@[simp] theorem State.setRcsr_time (s : State) (r n : Nat) (v : W64) : (s.setRcsr r n v).time = s.time := rfl
@[simp] theorem State.setRcsr_powered (s : State) (r n : Nat) (v : W64) : (s.setRcsr r n v).powered = s.powered := rfl
@[simp] theorem State.setRcsr_dies (s : State) (r n : Nat) (v : W64) : (s.setRcsr r n v).dies = s.dies := rfl
@[simp] theorem State.setRcsr_vfs (s : State) (r n : Nat) (v : W64) : (s.setRcsr r n v).vfs = s.vfs := rfl
@[simp] theorem State.setRcsr_groups (s : State) (r n : Nat) (v : W64) : (s.setRcsr r n v).groups = s.groups := rfl
@[simp] theorem State.setRcsr_strips (s : State) (r n : Nat) (v : W64) : (s.setRcsr r n v).strips = s.strips := rfl
@[simp] theorem State.setRcsr_chans (s : State) (r n : Nat) (v : W64) : (s.setRcsr r n v).chans = s.chans := rfl
@[simp] theorem State.setRcsr_mem (s : State) (r n : Nat) (v : W64) : (s.setRcsr r n v).mem = s.mem := rfl
@[simp] theorem State.setRcsr_past (s : State) (r n : Nat) (v : W64) : (s.setRcsr r n v).past = s.past := rfl
@[simp] theorem State.setRcsr_pages (s : State) (r n : Nat) (v : W64) : (s.setRcsr r n v).pages = s.pages := rfl
@[simp] theorem State.setRcsr_nodes (s : State) (r n : Nat) (v : W64) : (s.setRcsr r n v).nodes = s.nodes := rfl
@[simp] theorem State.setRcsr_roots (s : State) (r n : Nat) (v : W64) : (s.setRcsr r n v).roots = s.roots := rfl
@[simp] theorem State.setRcsr_tags (s : State) (r n : Nat) (v : W64) : (s.setRcsr r n v).tags = s.tags := rfl
@[simp] theorem State.setRcsr_vfKeys (s : State) (r n : Nat) (v : W64) : (s.setRcsr r n v).vfKeys = s.vfKeys := rfl
@[simp] theorem State.setRcsr_winKeys (s : State) (r n : Nat) (v : W64) : (s.setRcsr r n v).winKeys = s.winKeys := rfl
@[simp] theorem State.setRcsr_migKey (s : State) (r n : Nat) (v : W64) : (s.setRcsr r n v).migKey = s.migKey := rfl
@[simp] theorem State.setRcsr_treeKey (s : State) (r n : Nat) (v : W64) : (s.setRcsr r n v).treeKey = s.treeKey := rfl
@[simp] theorem State.setRcsr_linkSeq (s : State) (r n : Nat) (v : W64) : (s.setRcsr r n v).linkSeq = s.linkSeq := rfl
@[simp] theorem State.setRcsr_bad (s : State) (r n : Nat) (v : W64) : (s.setRcsr r n v).bad = s.bad := rfl
@[simp] theorem State.setRcsr_csr (s : State) (r n : Nat) (v : W64) : (s.setRcsr r n v).csr = s.csr := rfl
@[simp] theorem State.setRcsr_windows (s : State) (r n : Nat) (v : W64) : (s.setRcsr r n v).windows = s.windows := rfl
@[simp] theorem State.setRcsr_stash (s : State) (r n : Nat) (v : W64) : (s.setRcsr r n v).stash = s.stash := rfl
@[simp] theorem State.setRcsr_tlb (s : State) (r n : Nat) (v : W64) : (s.setRcsr r n v).tlb = s.tlb := rfl
@[simp] theorem State.setRcsr_walks (s : State) (r n : Nat) (v : W64) : (s.setRcsr r n v).walks = s.walks := rfl
@[simp] theorem State.setRcsr_nv (s : State) (r n : Nat) (v : W64) : (s.setRcsr r n v).nv = s.nv := rfl
@[simp] theorem State.setRcsr_life (s : State) (r n : Nat) (v : W64) : (s.setRcsr r n v).life = s.life := rfl
@[simp] theorem State.setRcsr_bootKind (s : State) (r n : Nat) (v : W64) : (s.setRcsr r n v).bootKind = s.bootKind := rfl
@[simp] theorem State.setRcsr_bootStep (s : State) (r n : Nat) (v : W64) : (s.setRcsr r n v).bootStep = s.bootStep := rfl
@[simp] theorem State.setRcsr_step (s : State) (r n : Nat) (v : W64) : (s.setRcsr r n v).step = s.step := rfl
@[simp] theorem State.setRcsr_i3c (s : State) (r n : Nat) (v : W64) : (s.setRcsr r n v).i3c = s.i3c := rfl
@[simp] theorem State.setRcsr_tap (s : State) (r n : Nat) (v : W64) : (s.setRcsr r n v).tap = s.tap := rfl
@[simp] theorem State.setRcsr_agenda (s : State) (r n : Nat) (v : W64) : (s.setRcsr r n v).agenda = s.agenda := rfl
@[simp] theorem State.setRcsr_cur (s : State) (r n : Nat) (v : W64) : (s.setRcsr r n v).cur = s.cur := rfl
@[simp] theorem State.setRcsr_ep (s : State) (r n : Nat) (v : W64) : (s.setRcsr r n v).ep = s.ep := rfl
@[simp] theorem State.setRcsr_free (s : State) (r n : Nat) (v : W64) : (s.setRcsr r n v).free = s.free := rfl

@[simp] theorem State.setDcsr_time (s : State) (d n : Nat) (v : W64) : (s.setDcsr d n v).time = s.time := rfl
@[simp] theorem State.setDcsr_powered (s : State) (d n : Nat) (v : W64) : (s.setDcsr d n v).powered = s.powered := rfl
@[simp] theorem State.setDcsr_rings (s : State) (d n : Nat) (v : W64) : (s.setDcsr d n v).rings = s.rings := rfl
@[simp] theorem State.setDcsr_vfs (s : State) (d n : Nat) (v : W64) : (s.setDcsr d n v).vfs = s.vfs := rfl
@[simp] theorem State.setDcsr_groups (s : State) (d n : Nat) (v : W64) : (s.setDcsr d n v).groups = s.groups := rfl
@[simp] theorem State.setDcsr_strips (s : State) (d n : Nat) (v : W64) : (s.setDcsr d n v).strips = s.strips := rfl
@[simp] theorem State.setDcsr_chans (s : State) (d n : Nat) (v : W64) : (s.setDcsr d n v).chans = s.chans := rfl
@[simp] theorem State.setDcsr_mem (s : State) (d n : Nat) (v : W64) : (s.setDcsr d n v).mem = s.mem := rfl
@[simp] theorem State.setDcsr_past (s : State) (d n : Nat) (v : W64) : (s.setDcsr d n v).past = s.past := rfl
@[simp] theorem State.setDcsr_pages (s : State) (d n : Nat) (v : W64) : (s.setDcsr d n v).pages = s.pages := rfl
@[simp] theorem State.setDcsr_nodes (s : State) (d n : Nat) (v : W64) : (s.setDcsr d n v).nodes = s.nodes := rfl
@[simp] theorem State.setDcsr_roots (s : State) (d n : Nat) (v : W64) : (s.setDcsr d n v).roots = s.roots := rfl
@[simp] theorem State.setDcsr_tags (s : State) (d n : Nat) (v : W64) : (s.setDcsr d n v).tags = s.tags := rfl
@[simp] theorem State.setDcsr_vfKeys (s : State) (d n : Nat) (v : W64) : (s.setDcsr d n v).vfKeys = s.vfKeys := rfl
@[simp] theorem State.setDcsr_winKeys (s : State) (d n : Nat) (v : W64) : (s.setDcsr d n v).winKeys = s.winKeys := rfl
@[simp] theorem State.setDcsr_migKey (s : State) (d n : Nat) (v : W64) : (s.setDcsr d n v).migKey = s.migKey := rfl
@[simp] theorem State.setDcsr_treeKey (s : State) (d n : Nat) (v : W64) : (s.setDcsr d n v).treeKey = s.treeKey := rfl
@[simp] theorem State.setDcsr_linkSeq (s : State) (d n : Nat) (v : W64) : (s.setDcsr d n v).linkSeq = s.linkSeq := rfl
@[simp] theorem State.setDcsr_bad (s : State) (d n : Nat) (v : W64) : (s.setDcsr d n v).bad = s.bad := rfl
@[simp] theorem State.setDcsr_csr (s : State) (d n : Nat) (v : W64) : (s.setDcsr d n v).csr = s.csr := rfl
@[simp] theorem State.setDcsr_windows (s : State) (d n : Nat) (v : W64) : (s.setDcsr d n v).windows = s.windows := rfl
@[simp] theorem State.setDcsr_stash (s : State) (d n : Nat) (v : W64) : (s.setDcsr d n v).stash = s.stash := rfl
@[simp] theorem State.setDcsr_tlb (s : State) (d n : Nat) (v : W64) : (s.setDcsr d n v).tlb = s.tlb := rfl
@[simp] theorem State.setDcsr_walks (s : State) (d n : Nat) (v : W64) : (s.setDcsr d n v).walks = s.walks := rfl
@[simp] theorem State.setDcsr_nv (s : State) (d n : Nat) (v : W64) : (s.setDcsr d n v).nv = s.nv := rfl
@[simp] theorem State.setDcsr_life (s : State) (d n : Nat) (v : W64) : (s.setDcsr d n v).life = s.life := rfl
@[simp] theorem State.setDcsr_bootKind (s : State) (d n : Nat) (v : W64) : (s.setDcsr d n v).bootKind = s.bootKind := rfl
@[simp] theorem State.setDcsr_bootStep (s : State) (d n : Nat) (v : W64) : (s.setDcsr d n v).bootStep = s.bootStep := rfl
@[simp] theorem State.setDcsr_step (s : State) (d n : Nat) (v : W64) : (s.setDcsr d n v).step = s.step := rfl
@[simp] theorem State.setDcsr_i3c (s : State) (d n : Nat) (v : W64) : (s.setDcsr d n v).i3c = s.i3c := rfl
@[simp] theorem State.setDcsr_tap (s : State) (d n : Nat) (v : W64) : (s.setDcsr d n v).tap = s.tap := rfl
@[simp] theorem State.setDcsr_agenda (s : State) (d n : Nat) (v : W64) : (s.setDcsr d n v).agenda = s.agenda := rfl
@[simp] theorem State.setDcsr_cur (s : State) (d n : Nat) (v : W64) : (s.setDcsr d n v).cur = s.cur := rfl
@[simp] theorem State.setDcsr_ep (s : State) (d n : Nat) (v : W64) : (s.setDcsr d n v).ep = s.ep := rfl
@[simp] theorem State.setDcsr_free (s : State) (d n : Nat) (v : W64) : (s.setDcsr d n v).free = s.free := rfl

@[simp] theorem State.setVcsr_time (s : State) (v n : Nat) (x : W64) : (s.setVcsr v n x).time = s.time := rfl
@[simp] theorem State.setVcsr_powered (s : State) (v n : Nat) (x : W64) : (s.setVcsr v n x).powered = s.powered := rfl
@[simp] theorem State.setVcsr_rings (s : State) (v n : Nat) (x : W64) : (s.setVcsr v n x).rings = s.rings := rfl
@[simp] theorem State.setVcsr_dies (s : State) (v n : Nat) (x : W64) : (s.setVcsr v n x).dies = s.dies := rfl
@[simp] theorem State.setVcsr_groups (s : State) (v n : Nat) (x : W64) : (s.setVcsr v n x).groups = s.groups := rfl
@[simp] theorem State.setVcsr_strips (s : State) (v n : Nat) (x : W64) : (s.setVcsr v n x).strips = s.strips := rfl
@[simp] theorem State.setVcsr_chans (s : State) (v n : Nat) (x : W64) : (s.setVcsr v n x).chans = s.chans := rfl
@[simp] theorem State.setVcsr_mem (s : State) (v n : Nat) (x : W64) : (s.setVcsr v n x).mem = s.mem := rfl
@[simp] theorem State.setVcsr_past (s : State) (v n : Nat) (x : W64) : (s.setVcsr v n x).past = s.past := rfl
@[simp] theorem State.setVcsr_pages (s : State) (v n : Nat) (x : W64) : (s.setVcsr v n x).pages = s.pages := rfl
@[simp] theorem State.setVcsr_nodes (s : State) (v n : Nat) (x : W64) : (s.setVcsr v n x).nodes = s.nodes := rfl
@[simp] theorem State.setVcsr_roots (s : State) (v n : Nat) (x : W64) : (s.setVcsr v n x).roots = s.roots := rfl
@[simp] theorem State.setVcsr_tags (s : State) (v n : Nat) (x : W64) : (s.setVcsr v n x).tags = s.tags := rfl
@[simp] theorem State.setVcsr_vfKeys (s : State) (v n : Nat) (x : W64) : (s.setVcsr v n x).vfKeys = s.vfKeys := rfl
@[simp] theorem State.setVcsr_winKeys (s : State) (v n : Nat) (x : W64) : (s.setVcsr v n x).winKeys = s.winKeys := rfl
@[simp] theorem State.setVcsr_migKey (s : State) (v n : Nat) (x : W64) : (s.setVcsr v n x).migKey = s.migKey := rfl
@[simp] theorem State.setVcsr_treeKey (s : State) (v n : Nat) (x : W64) : (s.setVcsr v n x).treeKey = s.treeKey := rfl
@[simp] theorem State.setVcsr_linkSeq (s : State) (v n : Nat) (x : W64) : (s.setVcsr v n x).linkSeq = s.linkSeq := rfl
@[simp] theorem State.setVcsr_bad (s : State) (v n : Nat) (x : W64) : (s.setVcsr v n x).bad = s.bad := rfl
@[simp] theorem State.setVcsr_csr (s : State) (v n : Nat) (x : W64) : (s.setVcsr v n x).csr = s.csr := rfl
@[simp] theorem State.setVcsr_windows (s : State) (v n : Nat) (x : W64) : (s.setVcsr v n x).windows = s.windows := rfl
@[simp] theorem State.setVcsr_stash (s : State) (v n : Nat) (x : W64) : (s.setVcsr v n x).stash = s.stash := rfl
@[simp] theorem State.setVcsr_tlb (s : State) (v n : Nat) (x : W64) : (s.setVcsr v n x).tlb = s.tlb := rfl
@[simp] theorem State.setVcsr_walks (s : State) (v n : Nat) (x : W64) : (s.setVcsr v n x).walks = s.walks := rfl
@[simp] theorem State.setVcsr_nv (s : State) (v n : Nat) (x : W64) : (s.setVcsr v n x).nv = s.nv := rfl
@[simp] theorem State.setVcsr_life (s : State) (v n : Nat) (x : W64) : (s.setVcsr v n x).life = s.life := rfl
@[simp] theorem State.setVcsr_bootKind (s : State) (v n : Nat) (x : W64) : (s.setVcsr v n x).bootKind = s.bootKind := rfl
@[simp] theorem State.setVcsr_bootStep (s : State) (v n : Nat) (x : W64) : (s.setVcsr v n x).bootStep = s.bootStep := rfl
@[simp] theorem State.setVcsr_step (s : State) (v n : Nat) (x : W64) : (s.setVcsr v n x).step = s.step := rfl
@[simp] theorem State.setVcsr_i3c (s : State) (v n : Nat) (x : W64) : (s.setVcsr v n x).i3c = s.i3c := rfl
@[simp] theorem State.setVcsr_tap (s : State) (v n : Nat) (x : W64) : (s.setVcsr v n x).tap = s.tap := rfl
@[simp] theorem State.setVcsr_agenda (s : State) (v n : Nat) (x : W64) : (s.setVcsr v n x).agenda = s.agenda := rfl
@[simp] theorem State.setVcsr_cur (s : State) (v n : Nat) (x : W64) : (s.setVcsr v n x).cur = s.cur := rfl
@[simp] theorem State.setVcsr_ep (s : State) (v n : Nat) (x : W64) : (s.setVcsr v n x).ep = s.ep := rfl
@[simp] theorem State.setVcsr_free (s : State) (v n : Nat) (x : W64) : (s.setVcsr v n x).free = s.free := rfl

@[simp] theorem State.putByte_time (s : State) (k : Nat) (b : Byte) : (s.putByte k b).time = s.time := rfl
@[simp] theorem State.putByte_powered (s : State) (k : Nat) (b : Byte) : (s.putByte k b).powered = s.powered := rfl
@[simp] theorem State.putByte_rings (s : State) (k : Nat) (b : Byte) : (s.putByte k b).rings = s.rings := rfl
@[simp] theorem State.putByte_dies (s : State) (k : Nat) (b : Byte) : (s.putByte k b).dies = s.dies := rfl
@[simp] theorem State.putByte_vfs (s : State) (k : Nat) (b : Byte) : (s.putByte k b).vfs = s.vfs := rfl
@[simp] theorem State.putByte_groups (s : State) (k : Nat) (b : Byte) : (s.putByte k b).groups = s.groups := rfl
@[simp] theorem State.putByte_strips (s : State) (k : Nat) (b : Byte) : (s.putByte k b).strips = s.strips := rfl
@[simp] theorem State.putByte_chans (s : State) (k : Nat) (b : Byte) : (s.putByte k b).chans = s.chans := rfl
@[simp] theorem State.putByte_past (s : State) (k : Nat) (b : Byte) : (s.putByte k b).past = s.past := rfl
@[simp] theorem State.putByte_pages (s : State) (k : Nat) (b : Byte) : (s.putByte k b).pages = s.pages := rfl
@[simp] theorem State.putByte_nodes (s : State) (k : Nat) (b : Byte) : (s.putByte k b).nodes = s.nodes := rfl
@[simp] theorem State.putByte_roots (s : State) (k : Nat) (b : Byte) : (s.putByte k b).roots = s.roots := rfl
@[simp] theorem State.putByte_tags (s : State) (k : Nat) (b : Byte) : (s.putByte k b).tags = s.tags := rfl
@[simp] theorem State.putByte_vfKeys (s : State) (k : Nat) (b : Byte) : (s.putByte k b).vfKeys = s.vfKeys := rfl
@[simp] theorem State.putByte_winKeys (s : State) (k : Nat) (b : Byte) : (s.putByte k b).winKeys = s.winKeys := rfl
@[simp] theorem State.putByte_migKey (s : State) (k : Nat) (b : Byte) : (s.putByte k b).migKey = s.migKey := rfl
@[simp] theorem State.putByte_treeKey (s : State) (k : Nat) (b : Byte) : (s.putByte k b).treeKey = s.treeKey := rfl
@[simp] theorem State.putByte_linkSeq (s : State) (k : Nat) (b : Byte) : (s.putByte k b).linkSeq = s.linkSeq := rfl
@[simp] theorem State.putByte_bad (s : State) (k : Nat) (b : Byte) : (s.putByte k b).bad = s.bad := rfl
@[simp] theorem State.putByte_csr (s : State) (k : Nat) (b : Byte) : (s.putByte k b).csr = s.csr := rfl
@[simp] theorem State.putByte_windows (s : State) (k : Nat) (b : Byte) : (s.putByte k b).windows = s.windows := rfl
@[simp] theorem State.putByte_stash (s : State) (k : Nat) (b : Byte) : (s.putByte k b).stash = s.stash := rfl
@[simp] theorem State.putByte_tlb (s : State) (k : Nat) (b : Byte) : (s.putByte k b).tlb = s.tlb := rfl
@[simp] theorem State.putByte_walks (s : State) (k : Nat) (b : Byte) : (s.putByte k b).walks = s.walks := rfl
@[simp] theorem State.putByte_nv (s : State) (k : Nat) (b : Byte) : (s.putByte k b).nv = s.nv := rfl
@[simp] theorem State.putByte_life (s : State) (k : Nat) (b : Byte) : (s.putByte k b).life = s.life := rfl
@[simp] theorem State.putByte_bootKind (s : State) (k : Nat) (b : Byte) : (s.putByte k b).bootKind = s.bootKind := rfl
@[simp] theorem State.putByte_bootStep (s : State) (k : Nat) (b : Byte) : (s.putByte k b).bootStep = s.bootStep := rfl
@[simp] theorem State.putByte_step (s : State) (k : Nat) (b : Byte) : (s.putByte k b).step = s.step := rfl
@[simp] theorem State.putByte_i3c (s : State) (k : Nat) (b : Byte) : (s.putByte k b).i3c = s.i3c := rfl
@[simp] theorem State.putByte_tap (s : State) (k : Nat) (b : Byte) : (s.putByte k b).tap = s.tap := rfl
@[simp] theorem State.putByte_agenda (s : State) (k : Nat) (b : Byte) : (s.putByte k b).agenda = s.agenda := rfl
@[simp] theorem State.putByte_cur (s : State) (k : Nat) (b : Byte) : (s.putByte k b).cur = s.cur := rfl
@[simp] theorem State.putByte_ep (s : State) (k : Nat) (b : Byte) : (s.putByte k b).ep = s.ep := rfl
@[simp] theorem State.putByte_free (s : State) (k : Nat) (b : Byte) : (s.putByte k b).free = s.free := rfl

@[simp] theorem State.setAg_time (s : State) (r n : Nat) (a : Ag) : (s.setAg r n a).time = s.time := rfl
@[simp] theorem State.setAg_powered (s : State) (r n : Nat) (a : Ag) : (s.setAg r n a).powered = s.powered := rfl
@[simp] theorem State.setAg_dies (s : State) (r n : Nat) (a : Ag) : (s.setAg r n a).dies = s.dies := rfl
@[simp] theorem State.setAg_vfs (s : State) (r n : Nat) (a : Ag) : (s.setAg r n a).vfs = s.vfs := rfl
@[simp] theorem State.setAg_groups (s : State) (r n : Nat) (a : Ag) : (s.setAg r n a).groups = s.groups := rfl
@[simp] theorem State.setAg_strips (s : State) (r n : Nat) (a : Ag) : (s.setAg r n a).strips = s.strips := rfl
@[simp] theorem State.setAg_chans (s : State) (r n : Nat) (a : Ag) : (s.setAg r n a).chans = s.chans := rfl
@[simp] theorem State.setAg_mem (s : State) (r n : Nat) (a : Ag) : (s.setAg r n a).mem = s.mem := rfl
@[simp] theorem State.setAg_past (s : State) (r n : Nat) (a : Ag) : (s.setAg r n a).past = s.past := rfl
@[simp] theorem State.setAg_pages (s : State) (r n : Nat) (a : Ag) : (s.setAg r n a).pages = s.pages := rfl
@[simp] theorem State.setAg_nodes (s : State) (r n : Nat) (a : Ag) : (s.setAg r n a).nodes = s.nodes := rfl
@[simp] theorem State.setAg_roots (s : State) (r n : Nat) (a : Ag) : (s.setAg r n a).roots = s.roots := rfl
@[simp] theorem State.setAg_tags (s : State) (r n : Nat) (a : Ag) : (s.setAg r n a).tags = s.tags := rfl
@[simp] theorem State.setAg_vfKeys (s : State) (r n : Nat) (a : Ag) : (s.setAg r n a).vfKeys = s.vfKeys := rfl
@[simp] theorem State.setAg_winKeys (s : State) (r n : Nat) (a : Ag) : (s.setAg r n a).winKeys = s.winKeys := rfl
@[simp] theorem State.setAg_migKey (s : State) (r n : Nat) (a : Ag) : (s.setAg r n a).migKey = s.migKey := rfl
@[simp] theorem State.setAg_treeKey (s : State) (r n : Nat) (a : Ag) : (s.setAg r n a).treeKey = s.treeKey := rfl
@[simp] theorem State.setAg_linkSeq (s : State) (r n : Nat) (a : Ag) : (s.setAg r n a).linkSeq = s.linkSeq := rfl
@[simp] theorem State.setAg_bad (s : State) (r n : Nat) (a : Ag) : (s.setAg r n a).bad = s.bad := rfl
@[simp] theorem State.setAg_csr (s : State) (r n : Nat) (a : Ag) : (s.setAg r n a).csr = s.csr := rfl
@[simp] theorem State.setAg_windows (s : State) (r n : Nat) (a : Ag) : (s.setAg r n a).windows = s.windows := rfl
@[simp] theorem State.setAg_stash (s : State) (r n : Nat) (a : Ag) : (s.setAg r n a).stash = s.stash := rfl
@[simp] theorem State.setAg_tlb (s : State) (r n : Nat) (a : Ag) : (s.setAg r n a).tlb = s.tlb := rfl
@[simp] theorem State.setAg_walks (s : State) (r n : Nat) (a : Ag) : (s.setAg r n a).walks = s.walks := rfl
@[simp] theorem State.setAg_nv (s : State) (r n : Nat) (a : Ag) : (s.setAg r n a).nv = s.nv := rfl
@[simp] theorem State.setAg_life (s : State) (r n : Nat) (a : Ag) : (s.setAg r n a).life = s.life := rfl
@[simp] theorem State.setAg_bootKind (s : State) (r n : Nat) (a : Ag) : (s.setAg r n a).bootKind = s.bootKind := rfl
@[simp] theorem State.setAg_bootStep (s : State) (r n : Nat) (a : Ag) : (s.setAg r n a).bootStep = s.bootStep := rfl
@[simp] theorem State.setAg_step (s : State) (r n : Nat) (a : Ag) : (s.setAg r n a).step = s.step := rfl
@[simp] theorem State.setAg_i3c (s : State) (r n : Nat) (a : Ag) : (s.setAg r n a).i3c = s.i3c := rfl
@[simp] theorem State.setAg_tap (s : State) (r n : Nat) (a : Ag) : (s.setAg r n a).tap = s.tap := rfl
@[simp] theorem State.setAg_agenda (s : State) (r n : Nat) (a : Ag) : (s.setAg r n a).agenda = s.agenda := rfl
@[simp] theorem State.setAg_cur (s : State) (r n : Nat) (a : Ag) : (s.setAg r n a).cur = s.cur := rfl
@[simp] theorem State.setAg_ep (s : State) (r n : Nat) (a : Ag) : (s.setAg r n a).ep = s.ep := rfl
@[simp] theorem State.setAg_free (s : State) (r n : Nat) (a : Ag) : (s.setAg r n a).free = s.free := rfl

@[simp] theorem State.updRec_time (s : State) (r serial : Nat) (f : PhaseRec → PhaseRec) : (s.updRec r serial f).time = s.time := rfl
@[simp] theorem State.updRec_powered (s : State) (r serial : Nat) (f : PhaseRec → PhaseRec) : (s.updRec r serial f).powered = s.powered := rfl
@[simp] theorem State.updRec_dies (s : State) (r serial : Nat) (f : PhaseRec → PhaseRec) : (s.updRec r serial f).dies = s.dies := rfl
@[simp] theorem State.updRec_vfs (s : State) (r serial : Nat) (f : PhaseRec → PhaseRec) : (s.updRec r serial f).vfs = s.vfs := rfl
@[simp] theorem State.updRec_groups (s : State) (r serial : Nat) (f : PhaseRec → PhaseRec) : (s.updRec r serial f).groups = s.groups := rfl
@[simp] theorem State.updRec_strips (s : State) (r serial : Nat) (f : PhaseRec → PhaseRec) : (s.updRec r serial f).strips = s.strips := rfl
@[simp] theorem State.updRec_chans (s : State) (r serial : Nat) (f : PhaseRec → PhaseRec) : (s.updRec r serial f).chans = s.chans := rfl
@[simp] theorem State.updRec_mem (s : State) (r serial : Nat) (f : PhaseRec → PhaseRec) : (s.updRec r serial f).mem = s.mem := rfl
@[simp] theorem State.updRec_past (s : State) (r serial : Nat) (f : PhaseRec → PhaseRec) : (s.updRec r serial f).past = s.past := rfl
@[simp] theorem State.updRec_pages (s : State) (r serial : Nat) (f : PhaseRec → PhaseRec) : (s.updRec r serial f).pages = s.pages := rfl
@[simp] theorem State.updRec_nodes (s : State) (r serial : Nat) (f : PhaseRec → PhaseRec) : (s.updRec r serial f).nodes = s.nodes := rfl
@[simp] theorem State.updRec_roots (s : State) (r serial : Nat) (f : PhaseRec → PhaseRec) : (s.updRec r serial f).roots = s.roots := rfl
@[simp] theorem State.updRec_tags (s : State) (r serial : Nat) (f : PhaseRec → PhaseRec) : (s.updRec r serial f).tags = s.tags := rfl
@[simp] theorem State.updRec_vfKeys (s : State) (r serial : Nat) (f : PhaseRec → PhaseRec) : (s.updRec r serial f).vfKeys = s.vfKeys := rfl
@[simp] theorem State.updRec_winKeys (s : State) (r serial : Nat) (f : PhaseRec → PhaseRec) : (s.updRec r serial f).winKeys = s.winKeys := rfl
@[simp] theorem State.updRec_migKey (s : State) (r serial : Nat) (f : PhaseRec → PhaseRec) : (s.updRec r serial f).migKey = s.migKey := rfl
@[simp] theorem State.updRec_treeKey (s : State) (r serial : Nat) (f : PhaseRec → PhaseRec) : (s.updRec r serial f).treeKey = s.treeKey := rfl
@[simp] theorem State.updRec_linkSeq (s : State) (r serial : Nat) (f : PhaseRec → PhaseRec) : (s.updRec r serial f).linkSeq = s.linkSeq := rfl
@[simp] theorem State.updRec_bad (s : State) (r serial : Nat) (f : PhaseRec → PhaseRec) : (s.updRec r serial f).bad = s.bad := rfl
@[simp] theorem State.updRec_csr (s : State) (r serial : Nat) (f : PhaseRec → PhaseRec) : (s.updRec r serial f).csr = s.csr := rfl
@[simp] theorem State.updRec_windows (s : State) (r serial : Nat) (f : PhaseRec → PhaseRec) : (s.updRec r serial f).windows = s.windows := rfl
@[simp] theorem State.updRec_stash (s : State) (r serial : Nat) (f : PhaseRec → PhaseRec) : (s.updRec r serial f).stash = s.stash := rfl
@[simp] theorem State.updRec_tlb (s : State) (r serial : Nat) (f : PhaseRec → PhaseRec) : (s.updRec r serial f).tlb = s.tlb := rfl
@[simp] theorem State.updRec_walks (s : State) (r serial : Nat) (f : PhaseRec → PhaseRec) : (s.updRec r serial f).walks = s.walks := rfl
@[simp] theorem State.updRec_nv (s : State) (r serial : Nat) (f : PhaseRec → PhaseRec) : (s.updRec r serial f).nv = s.nv := rfl
@[simp] theorem State.updRec_life (s : State) (r serial : Nat) (f : PhaseRec → PhaseRec) : (s.updRec r serial f).life = s.life := rfl
@[simp] theorem State.updRec_bootKind (s : State) (r serial : Nat) (f : PhaseRec → PhaseRec) : (s.updRec r serial f).bootKind = s.bootKind := rfl
@[simp] theorem State.updRec_bootStep (s : State) (r serial : Nat) (f : PhaseRec → PhaseRec) : (s.updRec r serial f).bootStep = s.bootStep := rfl
@[simp] theorem State.updRec_step (s : State) (r serial : Nat) (f : PhaseRec → PhaseRec) : (s.updRec r serial f).step = s.step := rfl
@[simp] theorem State.updRec_i3c (s : State) (r serial : Nat) (f : PhaseRec → PhaseRec) : (s.updRec r serial f).i3c = s.i3c := rfl
@[simp] theorem State.updRec_tap (s : State) (r serial : Nat) (f : PhaseRec → PhaseRec) : (s.updRec r serial f).tap = s.tap := rfl
@[simp] theorem State.updRec_agenda (s : State) (r serial : Nat) (f : PhaseRec → PhaseRec) : (s.updRec r serial f).agenda = s.agenda := rfl
@[simp] theorem State.updRec_cur (s : State) (r serial : Nat) (f : PhaseRec → PhaseRec) : (s.updRec r serial f).cur = s.cur := rfl
@[simp] theorem State.updRec_ep (s : State) (r serial : Nat) (f : PhaseRec → PhaseRec) : (s.updRec r serial f).ep = s.ep := rfl
@[simp] theorem State.updRec_free (s : State) (r serial : Nat) (f : PhaseRec → PhaseRec) : (s.updRec r serial f).free = s.free := rfl

@[simp] theorem State.updSeq_time (s : State) (t : Thread) (q : Seq → Seq) : (s.updSeq t q).time = s.time := by cases t <;> rfl
@[simp] theorem State.updSeq_powered (s : State) (t : Thread) (q : Seq → Seq) : (s.updSeq t q).powered = s.powered := by cases t <;> rfl
@[simp] theorem State.updSeq_vfs (s : State) (t : Thread) (q : Seq → Seq) : (s.updSeq t q).vfs = s.vfs := by cases t <;> rfl
@[simp] theorem State.updSeq_groups (s : State) (t : Thread) (q : Seq → Seq) : (s.updSeq t q).groups = s.groups := by cases t <;> rfl
@[simp] theorem State.updSeq_strips (s : State) (t : Thread) (q : Seq → Seq) : (s.updSeq t q).strips = s.strips := by cases t <;> rfl
@[simp] theorem State.updSeq_chans (s : State) (t : Thread) (q : Seq → Seq) : (s.updSeq t q).chans = s.chans := by cases t <;> rfl
@[simp] theorem State.updSeq_mem (s : State) (t : Thread) (q : Seq → Seq) : (s.updSeq t q).mem = s.mem := by cases t <;> rfl
@[simp] theorem State.updSeq_past (s : State) (t : Thread) (q : Seq → Seq) : (s.updSeq t q).past = s.past := by cases t <;> rfl
@[simp] theorem State.updSeq_pages (s : State) (t : Thread) (q : Seq → Seq) : (s.updSeq t q).pages = s.pages := by cases t <;> rfl
@[simp] theorem State.updSeq_nodes (s : State) (t : Thread) (q : Seq → Seq) : (s.updSeq t q).nodes = s.nodes := by cases t <;> rfl
@[simp] theorem State.updSeq_roots (s : State) (t : Thread) (q : Seq → Seq) : (s.updSeq t q).roots = s.roots := by cases t <;> rfl
@[simp] theorem State.updSeq_tags (s : State) (t : Thread) (q : Seq → Seq) : (s.updSeq t q).tags = s.tags := by cases t <;> rfl
@[simp] theorem State.updSeq_vfKeys (s : State) (t : Thread) (q : Seq → Seq) : (s.updSeq t q).vfKeys = s.vfKeys := by cases t <;> rfl
@[simp] theorem State.updSeq_winKeys (s : State) (t : Thread) (q : Seq → Seq) : (s.updSeq t q).winKeys = s.winKeys := by cases t <;> rfl
@[simp] theorem State.updSeq_migKey (s : State) (t : Thread) (q : Seq → Seq) : (s.updSeq t q).migKey = s.migKey := by cases t <;> rfl
@[simp] theorem State.updSeq_treeKey (s : State) (t : Thread) (q : Seq → Seq) : (s.updSeq t q).treeKey = s.treeKey := by cases t <;> rfl
@[simp] theorem State.updSeq_linkSeq (s : State) (t : Thread) (q : Seq → Seq) : (s.updSeq t q).linkSeq = s.linkSeq := by cases t <;> rfl
@[simp] theorem State.updSeq_bad (s : State) (t : Thread) (q : Seq → Seq) : (s.updSeq t q).bad = s.bad := by cases t <;> rfl
@[simp] theorem State.updSeq_csr (s : State) (t : Thread) (q : Seq → Seq) : (s.updSeq t q).csr = s.csr := by cases t <;> rfl
@[simp] theorem State.updSeq_windows (s : State) (t : Thread) (q : Seq → Seq) : (s.updSeq t q).windows = s.windows := by cases t <;> rfl
@[simp] theorem State.updSeq_stash (s : State) (t : Thread) (q : Seq → Seq) : (s.updSeq t q).stash = s.stash := by cases t <;> rfl
@[simp] theorem State.updSeq_tlb (s : State) (t : Thread) (q : Seq → Seq) : (s.updSeq t q).tlb = s.tlb := by cases t <;> rfl
@[simp] theorem State.updSeq_walks (s : State) (t : Thread) (q : Seq → Seq) : (s.updSeq t q).walks = s.walks := by cases t <;> rfl
@[simp] theorem State.updSeq_nv (s : State) (t : Thread) (q : Seq → Seq) : (s.updSeq t q).nv = s.nv := by cases t <;> rfl
@[simp] theorem State.updSeq_life (s : State) (t : Thread) (q : Seq → Seq) : (s.updSeq t q).life = s.life := by cases t <;> rfl
@[simp] theorem State.updSeq_bootKind (s : State) (t : Thread) (q : Seq → Seq) : (s.updSeq t q).bootKind = s.bootKind := by cases t <;> rfl
@[simp] theorem State.updSeq_bootStep (s : State) (t : Thread) (q : Seq → Seq) : (s.updSeq t q).bootStep = s.bootStep := by cases t <;> rfl
@[simp] theorem State.updSeq_step (s : State) (t : Thread) (q : Seq → Seq) : (s.updSeq t q).step = s.step := by cases t <;> rfl
@[simp] theorem State.updSeq_i3c (s : State) (t : Thread) (q : Seq → Seq) : (s.updSeq t q).i3c = s.i3c := by cases t <;> rfl
@[simp] theorem State.updSeq_tap (s : State) (t : Thread) (q : Seq → Seq) : (s.updSeq t q).tap = s.tap := by cases t <;> rfl
@[simp] theorem State.updSeq_agenda (s : State) (t : Thread) (q : Seq → Seq) : (s.updSeq t q).agenda = s.agenda := by cases t <;> rfl
@[simp] theorem State.updSeq_cur (s : State) (t : Thread) (q : Seq → Seq) : (s.updSeq t q).cur = s.cur := by cases t <;> rfl
@[simp] theorem State.updSeq_ep (s : State) (t : Thread) (q : Seq → Seq) : (s.updSeq t q).ep = s.ep := by cases t <;> rfl
@[simp] theorem State.updSeq_free (s : State) (t : Thread) (q : Seq → Seq) : (s.updSeq t q).free = s.free := by cases t <;> rfl

@[simp] theorem State.setXd_time (s : State) (i : BitVec 5) (v : W64) (d : Dep) : (s.setXd i v d).time = s.time := by
  unfold State.setXd; split <;> simp
@[simp] theorem State.setXd_powered (s : State) (i : BitVec 5) (v : W64) (d : Dep) : (s.setXd i v d).powered = s.powered := by
  unfold State.setXd; split <;> simp
@[simp] theorem State.setXd_vfs (s : State) (i : BitVec 5) (v : W64) (d : Dep) : (s.setXd i v d).vfs = s.vfs := by
  unfold State.setXd; split <;> simp
@[simp] theorem State.setXd_groups (s : State) (i : BitVec 5) (v : W64) (d : Dep) : (s.setXd i v d).groups = s.groups := by
  unfold State.setXd; split <;> simp
@[simp] theorem State.setXd_strips (s : State) (i : BitVec 5) (v : W64) (d : Dep) : (s.setXd i v d).strips = s.strips := by
  unfold State.setXd; split <;> simp
@[simp] theorem State.setXd_chans (s : State) (i : BitVec 5) (v : W64) (d : Dep) : (s.setXd i v d).chans = s.chans := by
  unfold State.setXd; split <;> simp
@[simp] theorem State.setXd_mem (s : State) (i : BitVec 5) (v : W64) (d : Dep) : (s.setXd i v d).mem = s.mem := by
  unfold State.setXd; split <;> simp
@[simp] theorem State.setXd_past (s : State) (i : BitVec 5) (v : W64) (d : Dep) : (s.setXd i v d).past = s.past := by
  unfold State.setXd; split <;> simp
@[simp] theorem State.setXd_pages (s : State) (i : BitVec 5) (v : W64) (d : Dep) : (s.setXd i v d).pages = s.pages := by
  unfold State.setXd; split <;> simp
@[simp] theorem State.setXd_nodes (s : State) (i : BitVec 5) (v : W64) (d : Dep) : (s.setXd i v d).nodes = s.nodes := by
  unfold State.setXd; split <;> simp
@[simp] theorem State.setXd_roots (s : State) (i : BitVec 5) (v : W64) (d : Dep) : (s.setXd i v d).roots = s.roots := by
  unfold State.setXd; split <;> simp
@[simp] theorem State.setXd_tags (s : State) (i : BitVec 5) (v : W64) (d : Dep) : (s.setXd i v d).tags = s.tags := by
  unfold State.setXd; split <;> simp
@[simp] theorem State.setXd_vfKeys (s : State) (i : BitVec 5) (v : W64) (d : Dep) : (s.setXd i v d).vfKeys = s.vfKeys := by
  unfold State.setXd; split <;> simp
@[simp] theorem State.setXd_winKeys (s : State) (i : BitVec 5) (v : W64) (d : Dep) : (s.setXd i v d).winKeys = s.winKeys := by
  unfold State.setXd; split <;> simp
@[simp] theorem State.setXd_migKey (s : State) (i : BitVec 5) (v : W64) (d : Dep) : (s.setXd i v d).migKey = s.migKey := by
  unfold State.setXd; split <;> simp
@[simp] theorem State.setXd_treeKey (s : State) (i : BitVec 5) (v : W64) (d : Dep) : (s.setXd i v d).treeKey = s.treeKey := by
  unfold State.setXd; split <;> simp
@[simp] theorem State.setXd_linkSeq (s : State) (i : BitVec 5) (v : W64) (d : Dep) : (s.setXd i v d).linkSeq = s.linkSeq := by
  unfold State.setXd; split <;> simp
@[simp] theorem State.setXd_bad (s : State) (i : BitVec 5) (v : W64) (d : Dep) : (s.setXd i v d).bad = s.bad := by
  unfold State.setXd; split <;> simp
@[simp] theorem State.setXd_csr (s : State) (i : BitVec 5) (v : W64) (d : Dep) : (s.setXd i v d).csr = s.csr := by
  unfold State.setXd; split <;> simp
@[simp] theorem State.setXd_windows (s : State) (i : BitVec 5) (v : W64) (d : Dep) : (s.setXd i v d).windows = s.windows := by
  unfold State.setXd; split <;> simp
@[simp] theorem State.setXd_stash (s : State) (i : BitVec 5) (v : W64) (d : Dep) : (s.setXd i v d).stash = s.stash := by
  unfold State.setXd; split <;> simp
@[simp] theorem State.setXd_tlb (s : State) (i : BitVec 5) (v : W64) (d : Dep) : (s.setXd i v d).tlb = s.tlb := by
  unfold State.setXd; split <;> simp
@[simp] theorem State.setXd_walks (s : State) (i : BitVec 5) (v : W64) (d : Dep) : (s.setXd i v d).walks = s.walks := by
  unfold State.setXd; split <;> simp
@[simp] theorem State.setXd_nv (s : State) (i : BitVec 5) (v : W64) (d : Dep) : (s.setXd i v d).nv = s.nv := by
  unfold State.setXd; split <;> simp
@[simp] theorem State.setXd_life (s : State) (i : BitVec 5) (v : W64) (d : Dep) : (s.setXd i v d).life = s.life := by
  unfold State.setXd; split <;> simp
@[simp] theorem State.setXd_bootKind (s : State) (i : BitVec 5) (v : W64) (d : Dep) : (s.setXd i v d).bootKind = s.bootKind := by
  unfold State.setXd; split <;> simp
@[simp] theorem State.setXd_bootStep (s : State) (i : BitVec 5) (v : W64) (d : Dep) : (s.setXd i v d).bootStep = s.bootStep := by
  unfold State.setXd; split <;> simp
@[simp] theorem State.setXd_step (s : State) (i : BitVec 5) (v : W64) (d : Dep) : (s.setXd i v d).step = s.step := by
  unfold State.setXd; split <;> simp
@[simp] theorem State.setXd_i3c (s : State) (i : BitVec 5) (v : W64) (d : Dep) : (s.setXd i v d).i3c = s.i3c := by
  unfold State.setXd; split <;> simp
@[simp] theorem State.setXd_tap (s : State) (i : BitVec 5) (v : W64) (d : Dep) : (s.setXd i v d).tap = s.tap := by
  unfold State.setXd; split <;> simp
@[simp] theorem State.setXd_agenda (s : State) (i : BitVec 5) (v : W64) (d : Dep) : (s.setXd i v d).agenda = s.agenda := by
  unfold State.setXd; split <;> simp
@[simp] theorem State.setXd_cur (s : State) (i : BitVec 5) (v : W64) (d : Dep) : (s.setXd i v d).cur = s.cur := by
  unfold State.setXd; split <;> simp
@[simp] theorem State.setXd_ep (s : State) (i : BitVec 5) (v : W64) (d : Dep) : (s.setXd i v d).ep = s.ep := by
  unfold State.setXd; split <;> simp
@[simp] theorem State.setXd_free (s : State) (i : BitVec 5) (v : W64) (d : Dep) : (s.setXd i v d).free = s.free := by
  unfold State.setXd; split <;> simp
@[simp] theorem State.setX_time (s : State) (i : BitVec 5) (v : W64) : (s.setX i v).time = s.time := by simp [State.setX]
@[simp] theorem State.setX_powered (s : State) (i : BitVec 5) (v : W64) : (s.setX i v).powered = s.powered := by simp [State.setX]
@[simp] theorem State.setX_vfs (s : State) (i : BitVec 5) (v : W64) : (s.setX i v).vfs = s.vfs := by simp [State.setX]
@[simp] theorem State.setX_groups (s : State) (i : BitVec 5) (v : W64) : (s.setX i v).groups = s.groups := by simp [State.setX]
@[simp] theorem State.setX_strips (s : State) (i : BitVec 5) (v : W64) : (s.setX i v).strips = s.strips := by simp [State.setX]
@[simp] theorem State.setX_chans (s : State) (i : BitVec 5) (v : W64) : (s.setX i v).chans = s.chans := by simp [State.setX]
@[simp] theorem State.setX_mem (s : State) (i : BitVec 5) (v : W64) : (s.setX i v).mem = s.mem := by simp [State.setX]
@[simp] theorem State.setX_past (s : State) (i : BitVec 5) (v : W64) : (s.setX i v).past = s.past := by simp [State.setX]
@[simp] theorem State.setX_pages (s : State) (i : BitVec 5) (v : W64) : (s.setX i v).pages = s.pages := by simp [State.setX]
@[simp] theorem State.setX_nodes (s : State) (i : BitVec 5) (v : W64) : (s.setX i v).nodes = s.nodes := by simp [State.setX]
@[simp] theorem State.setX_roots (s : State) (i : BitVec 5) (v : W64) : (s.setX i v).roots = s.roots := by simp [State.setX]
@[simp] theorem State.setX_tags (s : State) (i : BitVec 5) (v : W64) : (s.setX i v).tags = s.tags := by simp [State.setX]
@[simp] theorem State.setX_vfKeys (s : State) (i : BitVec 5) (v : W64) : (s.setX i v).vfKeys = s.vfKeys := by simp [State.setX]
@[simp] theorem State.setX_winKeys (s : State) (i : BitVec 5) (v : W64) : (s.setX i v).winKeys = s.winKeys := by simp [State.setX]
@[simp] theorem State.setX_migKey (s : State) (i : BitVec 5) (v : W64) : (s.setX i v).migKey = s.migKey := by simp [State.setX]
@[simp] theorem State.setX_treeKey (s : State) (i : BitVec 5) (v : W64) : (s.setX i v).treeKey = s.treeKey := by simp [State.setX]
@[simp] theorem State.setX_linkSeq (s : State) (i : BitVec 5) (v : W64) : (s.setX i v).linkSeq = s.linkSeq := by simp [State.setX]
@[simp] theorem State.setX_bad (s : State) (i : BitVec 5) (v : W64) : (s.setX i v).bad = s.bad := by simp [State.setX]
@[simp] theorem State.setX_csr (s : State) (i : BitVec 5) (v : W64) : (s.setX i v).csr = s.csr := by simp [State.setX]
@[simp] theorem State.setX_windows (s : State) (i : BitVec 5) (v : W64) : (s.setX i v).windows = s.windows := by simp [State.setX]
@[simp] theorem State.setX_stash (s : State) (i : BitVec 5) (v : W64) : (s.setX i v).stash = s.stash := by simp [State.setX]
@[simp] theorem State.setX_tlb (s : State) (i : BitVec 5) (v : W64) : (s.setX i v).tlb = s.tlb := by simp [State.setX]
@[simp] theorem State.setX_walks (s : State) (i : BitVec 5) (v : W64) : (s.setX i v).walks = s.walks := by simp [State.setX]
@[simp] theorem State.setX_nv (s : State) (i : BitVec 5) (v : W64) : (s.setX i v).nv = s.nv := by simp [State.setX]
@[simp] theorem State.setX_life (s : State) (i : BitVec 5) (v : W64) : (s.setX i v).life = s.life := by simp [State.setX]
@[simp] theorem State.setX_bootKind (s : State) (i : BitVec 5) (v : W64) : (s.setX i v).bootKind = s.bootKind := by simp [State.setX]
@[simp] theorem State.setX_bootStep (s : State) (i : BitVec 5) (v : W64) : (s.setX i v).bootStep = s.bootStep := by simp [State.setX]
@[simp] theorem State.setX_step (s : State) (i : BitVec 5) (v : W64) : (s.setX i v).step = s.step := by simp [State.setX]
@[simp] theorem State.setX_i3c (s : State) (i : BitVec 5) (v : W64) : (s.setX i v).i3c = s.i3c := by simp [State.setX]
@[simp] theorem State.setX_tap (s : State) (i : BitVec 5) (v : W64) : (s.setX i v).tap = s.tap := by simp [State.setX]
@[simp] theorem State.setX_agenda (s : State) (i : BitVec 5) (v : W64) : (s.setX i v).agenda = s.agenda := by simp [State.setX]
@[simp] theorem State.setX_cur (s : State) (i : BitVec 5) (v : W64) : (s.setX i v).cur = s.cur := by simp [State.setX]
@[simp] theorem State.setX_ep (s : State) (i : BitVec 5) (v : W64) : (s.setX i v).ep = s.ep := by simp [State.setX]
@[simp] theorem State.setX_free (s : State) (i : BitVec 5) (v : W64) : (s.setX i v).free = s.free := by simp [State.setX]
@[simp] theorem State.endWait_time (s : State) (t : Thread) : (s.endWait t).time = s.time := by cases t <;> rfl
@[simp] theorem State.endWait_powered (s : State) (t : Thread) : (s.endWait t).powered = s.powered := by cases t <;> rfl
@[simp] theorem State.endWait_dies (s : State) (t : Thread) : (s.endWait t).dies = s.dies := by cases t <;> rfl
@[simp] theorem State.endWait_vfs (s : State) (t : Thread) : (s.endWait t).vfs = s.vfs := by cases t <;> rfl
@[simp] theorem State.endWait_groups (s : State) (t : Thread) : (s.endWait t).groups = s.groups := by cases t <;> rfl
@[simp] theorem State.endWait_strips (s : State) (t : Thread) : (s.endWait t).strips = s.strips := by cases t <;> rfl
@[simp] theorem State.endWait_chans (s : State) (t : Thread) : (s.endWait t).chans = s.chans := by cases t <;> rfl
@[simp] theorem State.endWait_mem (s : State) (t : Thread) : (s.endWait t).mem = s.mem := by cases t <;> rfl
@[simp] theorem State.endWait_past (s : State) (t : Thread) : (s.endWait t).past = s.past := by cases t <;> rfl
@[simp] theorem State.endWait_pages (s : State) (t : Thread) : (s.endWait t).pages = s.pages := by cases t <;> rfl
@[simp] theorem State.endWait_nodes (s : State) (t : Thread) : (s.endWait t).nodes = s.nodes := by cases t <;> rfl
@[simp] theorem State.endWait_roots (s : State) (t : Thread) : (s.endWait t).roots = s.roots := by cases t <;> rfl
@[simp] theorem State.endWait_tags (s : State) (t : Thread) : (s.endWait t).tags = s.tags := by cases t <;> rfl
@[simp] theorem State.endWait_vfKeys (s : State) (t : Thread) : (s.endWait t).vfKeys = s.vfKeys := by cases t <;> rfl
@[simp] theorem State.endWait_winKeys (s : State) (t : Thread) : (s.endWait t).winKeys = s.winKeys := by cases t <;> rfl
@[simp] theorem State.endWait_migKey (s : State) (t : Thread) : (s.endWait t).migKey = s.migKey := by cases t <;> rfl
@[simp] theorem State.endWait_treeKey (s : State) (t : Thread) : (s.endWait t).treeKey = s.treeKey := by cases t <;> rfl
@[simp] theorem State.endWait_linkSeq (s : State) (t : Thread) : (s.endWait t).linkSeq = s.linkSeq := by cases t <;> rfl
@[simp] theorem State.endWait_bad (s : State) (t : Thread) : (s.endWait t).bad = s.bad := by cases t <;> rfl
@[simp] theorem State.endWait_csr (s : State) (t : Thread) : (s.endWait t).csr = s.csr := by cases t <;> rfl
@[simp] theorem State.endWait_windows (s : State) (t : Thread) : (s.endWait t).windows = s.windows := by cases t <;> rfl
@[simp] theorem State.endWait_stash (s : State) (t : Thread) : (s.endWait t).stash = s.stash := by cases t <;> rfl
@[simp] theorem State.endWait_tlb (s : State) (t : Thread) : (s.endWait t).tlb = s.tlb := by cases t <;> rfl
@[simp] theorem State.endWait_walks (s : State) (t : Thread) : (s.endWait t).walks = s.walks := by cases t <;> rfl
@[simp] theorem State.endWait_nv (s : State) (t : Thread) : (s.endWait t).nv = s.nv := by cases t <;> rfl
@[simp] theorem State.endWait_life (s : State) (t : Thread) : (s.endWait t).life = s.life := by cases t <;> rfl
@[simp] theorem State.endWait_bootKind (s : State) (t : Thread) : (s.endWait t).bootKind = s.bootKind := by cases t <;> rfl
@[simp] theorem State.endWait_bootStep (s : State) (t : Thread) : (s.endWait t).bootStep = s.bootStep := by cases t <;> rfl
@[simp] theorem State.endWait_step (s : State) (t : Thread) : (s.endWait t).step = s.step := by cases t <;> rfl
@[simp] theorem State.endWait_i3c (s : State) (t : Thread) : (s.endWait t).i3c = s.i3c := by cases t <;> rfl
@[simp] theorem State.endWait_tap (s : State) (t : Thread) : (s.endWait t).tap = s.tap := by cases t <;> rfl
@[simp] theorem State.endWait_agenda (s : State) (t : Thread) : (s.endWait t).agenda = s.agenda := by cases t <;> rfl
@[simp] theorem State.endWait_cur (s : State) (t : Thread) : (s.endWait t).cur = s.cur := by cases t <;> rfl
@[simp] theorem State.endWait_ep (s : State) (t : Thread) : (s.endWait t).ep = s.ep := by cases t <;> rfl
@[simp] theorem State.endWait_free (s : State) (t : Thread) : (s.endWait t).free = s.free := by cases t <;> rfl
@[simp] theorem State.goto_time (s : State) (v : W64) : (s.goto v).time = s.time := by simp [State.goto]
@[simp] theorem State.goto_powered (s : State) (v : W64) : (s.goto v).powered = s.powered := by simp [State.goto]
@[simp] theorem State.goto_vfs (s : State) (v : W64) : (s.goto v).vfs = s.vfs := by simp [State.goto]
@[simp] theorem State.goto_groups (s : State) (v : W64) : (s.goto v).groups = s.groups := by simp [State.goto]
@[simp] theorem State.goto_strips (s : State) (v : W64) : (s.goto v).strips = s.strips := by simp [State.goto]
@[simp] theorem State.goto_chans (s : State) (v : W64) : (s.goto v).chans = s.chans := by simp [State.goto]
@[simp] theorem State.goto_mem (s : State) (v : W64) : (s.goto v).mem = s.mem := by simp [State.goto]
@[simp] theorem State.goto_past (s : State) (v : W64) : (s.goto v).past = s.past := by simp [State.goto]
@[simp] theorem State.goto_pages (s : State) (v : W64) : (s.goto v).pages = s.pages := by simp [State.goto]
@[simp] theorem State.goto_nodes (s : State) (v : W64) : (s.goto v).nodes = s.nodes := by simp [State.goto]
@[simp] theorem State.goto_roots (s : State) (v : W64) : (s.goto v).roots = s.roots := by simp [State.goto]
@[simp] theorem State.goto_tags (s : State) (v : W64) : (s.goto v).tags = s.tags := by simp [State.goto]
@[simp] theorem State.goto_vfKeys (s : State) (v : W64) : (s.goto v).vfKeys = s.vfKeys := by simp [State.goto]
@[simp] theorem State.goto_winKeys (s : State) (v : W64) : (s.goto v).winKeys = s.winKeys := by simp [State.goto]
@[simp] theorem State.goto_migKey (s : State) (v : W64) : (s.goto v).migKey = s.migKey := by simp [State.goto]
@[simp] theorem State.goto_treeKey (s : State) (v : W64) : (s.goto v).treeKey = s.treeKey := by simp [State.goto]
@[simp] theorem State.goto_linkSeq (s : State) (v : W64) : (s.goto v).linkSeq = s.linkSeq := by simp [State.goto]
@[simp] theorem State.goto_bad (s : State) (v : W64) : (s.goto v).bad = s.bad := by simp [State.goto]
@[simp] theorem State.goto_csr (s : State) (v : W64) : (s.goto v).csr = s.csr := by simp [State.goto]
@[simp] theorem State.goto_windows (s : State) (v : W64) : (s.goto v).windows = s.windows := by simp [State.goto]
@[simp] theorem State.goto_stash (s : State) (v : W64) : (s.goto v).stash = s.stash := by simp [State.goto]
@[simp] theorem State.goto_tlb (s : State) (v : W64) : (s.goto v).tlb = s.tlb := by simp [State.goto]
@[simp] theorem State.goto_walks (s : State) (v : W64) : (s.goto v).walks = s.walks := by simp [State.goto]
@[simp] theorem State.goto_nv (s : State) (v : W64) : (s.goto v).nv = s.nv := by simp [State.goto]
@[simp] theorem State.goto_life (s : State) (v : W64) : (s.goto v).life = s.life := by simp [State.goto]
@[simp] theorem State.goto_bootKind (s : State) (v : W64) : (s.goto v).bootKind = s.bootKind := by simp [State.goto]
@[simp] theorem State.goto_bootStep (s : State) (v : W64) : (s.goto v).bootStep = s.bootStep := by simp [State.goto]
@[simp] theorem State.goto_step (s : State) (v : W64) : (s.goto v).step = s.step := by simp [State.goto]
@[simp] theorem State.goto_i3c (s : State) (v : W64) : (s.goto v).i3c = s.i3c := by simp [State.goto]
@[simp] theorem State.goto_tap (s : State) (v : W64) : (s.goto v).tap = s.tap := by simp [State.goto]
@[simp] theorem State.goto_agenda (s : State) (v : W64) : (s.goto v).agenda = s.agenda := by simp [State.goto]
@[simp] theorem State.goto_cur (s : State) (v : W64) : (s.goto v).cur = s.cur := by simp [State.goto]
@[simp] theorem State.goto_ep (s : State) (v : W64) : (s.goto v).ep = s.ep := by simp [State.goto]
@[simp] theorem State.goto_free (s : State) (v : W64) : (s.goto v).free = s.free := by simp [State.goto]
@[simp] theorem State.done_time (s : State) : s.done.time = s.time := by simp [State.done]
@[simp] theorem State.done_powered (s : State) : s.done.powered = s.powered := by simp [State.done]
@[simp] theorem State.done_vfs (s : State) : s.done.vfs = s.vfs := by simp [State.done]
@[simp] theorem State.done_groups (s : State) : s.done.groups = s.groups := by simp [State.done]
@[simp] theorem State.done_strips (s : State) : s.done.strips = s.strips := by simp [State.done]
@[simp] theorem State.done_chans (s : State) : s.done.chans = s.chans := by simp [State.done]
@[simp] theorem State.done_mem (s : State) : s.done.mem = s.mem := by simp [State.done]
@[simp] theorem State.done_past (s : State) : s.done.past = s.past := by simp [State.done]
@[simp] theorem State.done_pages (s : State) : s.done.pages = s.pages := by simp [State.done]
@[simp] theorem State.done_nodes (s : State) : s.done.nodes = s.nodes := by simp [State.done]
@[simp] theorem State.done_roots (s : State) : s.done.roots = s.roots := by simp [State.done]
@[simp] theorem State.done_tags (s : State) : s.done.tags = s.tags := by simp [State.done]
@[simp] theorem State.done_vfKeys (s : State) : s.done.vfKeys = s.vfKeys := by simp [State.done]
@[simp] theorem State.done_winKeys (s : State) : s.done.winKeys = s.winKeys := by simp [State.done]
@[simp] theorem State.done_migKey (s : State) : s.done.migKey = s.migKey := by simp [State.done]
@[simp] theorem State.done_treeKey (s : State) : s.done.treeKey = s.treeKey := by simp [State.done]
@[simp] theorem State.done_linkSeq (s : State) : s.done.linkSeq = s.linkSeq := by simp [State.done]
@[simp] theorem State.done_bad (s : State) : s.done.bad = s.bad := by simp [State.done]
@[simp] theorem State.done_csr (s : State) : s.done.csr = s.csr := by simp [State.done]
@[simp] theorem State.done_windows (s : State) : s.done.windows = s.windows := by simp [State.done]
@[simp] theorem State.done_stash (s : State) : s.done.stash = s.stash := by simp [State.done]
@[simp] theorem State.done_tlb (s : State) : s.done.tlb = s.tlb := by simp [State.done]
@[simp] theorem State.done_walks (s : State) : s.done.walks = s.walks := by simp [State.done]
@[simp] theorem State.done_nv (s : State) : s.done.nv = s.nv := by simp [State.done]
@[simp] theorem State.done_life (s : State) : s.done.life = s.life := by simp [State.done]
@[simp] theorem State.done_bootKind (s : State) : s.done.bootKind = s.bootKind := by simp [State.done]
@[simp] theorem State.done_bootStep (s : State) : s.done.bootStep = s.bootStep := by simp [State.done]
@[simp] theorem State.done_step (s : State) : s.done.step = s.step := by simp [State.done]
@[simp] theorem State.done_i3c (s : State) : s.done.i3c = s.i3c := by simp [State.done]
@[simp] theorem State.done_tap (s : State) : s.done.tap = s.tap := by simp [State.done]
@[simp] theorem State.done_agenda (s : State) : s.done.agenda = s.agenda := by simp [State.done]
@[simp] theorem State.done_cur (s : State) : s.done.cur = s.cur := by simp [State.done]
@[simp] theorem State.done_ep (s : State) : s.done.ep = s.ep := by simp [State.done]
@[simp] theorem State.done_free (s : State) : s.done.free = s.free := by simp [State.done]

end Sys2Proof.Machine
end

