-- ==== Sys2Proof/Laws/Tab.lean ====
section
/-! SUPPORT. Laws of sparse tables: reading after writing and removing, and the canonical form. -/

namespace Sys2Proof.Machine

variable {α : Type}

@[simp] theorem tfind_tput_same (t : Tab α) (n : Nat) (v : α) : tfind (tput t n v) n = some v := by
  induction t with
  | nil => simp [tput, tfind]
  | cons e t ih =>
    obtain ⟨k, w⟩ := e
    simp only [tput]
    split
    · simp [tfind]
    · split
      · simp [tfind]
      · rename_i h; simp [tfind, h, ih]

theorem tfind_tput_ne (t : Tab α) {n m : Nat} (v : α) (h : m ≠ n) : tfind (tput t n v) m = tfind t m := by
  induction t with
  | nil => simp [tput, tfind, Ne.symm h]
  | cons e t ih =>
    obtain ⟨k, w⟩ := e
    simp only [tput]
    split
    · simp [tfind, Ne.symm h]
    · split
      · rename_i hk; subst hk; simp [tfind, Ne.symm h]
      · simp only [tfind, ih]

@[simp] theorem tfind_tdel_same (t : Tab α) (n : Nat) : tfind (tdel t n) n = none := by
  induction t with
  | nil => rfl
  | cons e t ih =>
    obtain ⟨k, w⟩ := e
    simp only [tdel]
    split
    · exact ih
    · rename_i h; simp [tfind, h, ih]

theorem tfind_tdel_ne (t : Tab α) {n m : Nat} (h : m ≠ n) : tfind (tdel t n) m = tfind t m := by
  induction t with
  | nil => rfl
  | cons e t ih =>
    obtain ⟨k, w⟩ := e
    simp only [tdel]
    split
    · rename_i hk; subst hk; simp [tfind, Ne.symm h, ih]
    · simp only [tfind, ih]

@[simp] theorem tget_tput_same (d : α) (t : Tab α) (n : Nat) (v : α) : tget d (tput t n v) n = v := by simp [tget]

theorem tget_tput_ne (d : α) (t : Tab α) {n m : Nat} (v : α) (h : m ≠ n) : tget d (tput t n v) m = tget d t m := by
  simp [tget, tfind_tput_ne t v h]

theorem tget_tput (d : α) (t : Tab α) (n m : Nat) (v : α) : tget d (tput t n v) m = if m = n then v else tget d t m := by
  split
  · rename_i h; subst h; simp
  · rename_i h; exact tget_tput_ne d t v h

@[simp] theorem tget_tset_same [DecidableEq α] (d : α) (t : Tab α) (n : Nat) (v : α) : tget d (tset d t n v) n = v := by
  unfold tset
  split
  · rename_i h; simp [tget, h]
  · simp

theorem tget_tset_ne [DecidableEq α] (d : α) (t : Tab α) {n m : Nat} (v : α) (h : m ≠ n) :
    tget d (tset d t n v) m = tget d t m := by
  unfold tset
  split
  · simp [tget, tfind_tdel_ne t h]
  · exact tget_tput_ne d t v h

/-- The first key of a table, above a bound. -/
def headAbove (b : Nat) : Tab α → Prop
  | [] => True
  | (k, _) :: _ => b < k

theorem twf_cons [DecidableEq α] (d : α) (k : Nat) (v : α) (t : Tab α) :
    twf d ((k, v) :: t) = true ↔ v ≠ d ∧ headAbove k t ∧ twf d t = true := by
  cases t with
  | nil => simp [twf, headAbove]
  | cons e t => obtain ⟨k', v'⟩ := e; simp [twf, headAbove, and_assoc]

theorem headAbove_mono {b c : Nat} (t : Tab α) (h : c ≤ b) (ht : headAbove b t) : headAbove c t := by
  cases t with
  | nil => trivial
  | cons e t => exact Nat.lt_of_le_of_lt h ht

theorem headAbove_tput {b n : Nat} (t : Tab α) (v : α) (ht : headAbove b t) (hn : b < n) : headAbove b (tput t n v) := by
  cases t with
  | nil => exact hn
  | cons e t =>
    obtain ⟨k, w⟩ := e
    simp only [tput]
    split
    · exact hn
    · split
      · exact hn
      · exact ht

theorem twf_tail [DecidableEq α] {d : α} {e : Nat × α} {t : Tab α} (h : twf d (e :: t) = true) : twf d t = true :=
  ((twf_cons d e.1 e.2 t).1 h).2.2

theorem headAbove_tdel [DecidableEq α] {d : α} {b n : Nat} (t : Tab α) (hw : twf d t = true) (ht : headAbove b t) :
    headAbove b (tdel t n) := by
  induction t generalizing b with
  | nil => trivial
  | cons e t ih =>
    obtain ⟨k, w⟩ := e
    obtain ⟨-, h2, h3⟩ := (twf_cons d k w t).1 hw
    simp only [tdel]
    split
    · exact headAbove_mono _ (Nat.le_of_lt ht) (ih h3 h2)
    · exact ht

theorem twf_tdel [DecidableEq α] (d : α) (t : Tab α) (n : Nat) (h : twf d t = true) : twf d (tdel t n) = true := by
  induction t with
  | nil => rfl
  | cons e t ih =>
    obtain ⟨k, w⟩ := e
    obtain ⟨h1, h2, h3⟩ := (twf_cons d k w t).1 h
    simp only [tdel]
    split
    · exact ih h3
    · exact (twf_cons d _ _ _).2 ⟨h1, headAbove_tdel t h3 h2, ih h3⟩

theorem twf_tput [DecidableEq α] (d : α) (t : Tab α) (n : Nat) (v : α) (hv : v ≠ d) (h : twf d t = true) :
    twf d (tput t n v) = true := by
  induction t with
  | nil => simp [tput, twf, hv]
  | cons e t ih =>
    obtain ⟨k, w⟩ := e
    obtain ⟨h1, h2, h3⟩ := (twf_cons d k w t).1 h
    simp only [tput]
    split
    · rename_i hk; exact (twf_cons d _ _ _).2 ⟨hv, hk, h⟩
    · split
      · rename_i hk; subst hk; exact (twf_cons d _ _ _).2 ⟨hv, h2, h3⟩
      · exact (twf_cons d _ _ _).2 ⟨h1, headAbove_tput t v h2 (by omega), ih h3⟩

theorem twf_tset [DecidableEq α] (d : α) (t : Tab α) (n : Nat) (v : α) (h : twf d t = true) : twf d (tset d t n v) = true := by
  unfold tset
  split
  · exact twf_tdel d t n h
  · rename_i hv; exact twf_tput d t n v hv h

theorem headAbove_filter [DecidableEq α] {d : α} {b : Nat} (p : Nat × α → Bool) (t : Tab α) (hw : twf d t = true)
    (ht : headAbove b t) : headAbove b (t.filter p) := by
  induction t generalizing b with
  | nil => trivial
  | cons e t ih =>
    obtain ⟨k, w⟩ := e
    obtain ⟨-, h2, h3⟩ := (twf_cons d k w t).1 hw
    simp only [List.filter_cons]
    split
    · exact ht
    · exact headAbove_mono _ (Nat.le_of_lt ht) (ih h3 h2)

theorem twf_filter [DecidableEq α] (d : α) (p : Nat × α → Bool) (t : Tab α) (h : twf d t = true) :
    twf d (t.filter p) = true := by
  induction t with
  | nil => rfl
  | cons e t ih =>
    obtain ⟨k, w⟩ := e
    obtain ⟨h1, h2, h3⟩ := (twf_cons d k w t).1 h
    simp only [List.filter_cons]
    split
    · exact (twf_cons d _ _ _).2 ⟨h1, headAbove_filter p t h3 h2, ih h3⟩
    · exact ih h3

/-- A second write of an entry is the only one. -/
@[simp] theorem tput_tput (t : Tab α) (n : Nat) (v w : α) : tput (tput t n v) n w = tput t n w := by
  induction t with
  | nil => simp [tput]
  | cons e r ih =>
    obtain ⟨k, x⟩ := e
    simp only [tput]
    split <;> (try split) <;> simp_all [tput] <;> omega

theorem tfind_tmap (f : Nat → α → α) (t : Tab α) (n : Nat) : tfind (tmap f t) n = (tfind t n).map (f n) := by
  induction t with
  | nil => rfl
  | cons e t ih =>
    obtain ⟨k, w⟩ := e
    simp only [tmap, tfind]
    split
    · rename_i h; subst h; rfl
    · exact ih

/-- A filter on keys keeps the entries it names and drops the others. -/
theorem tfind_filter (p : Nat → Bool) (t : Tab α) (n : Nat) :
    tfind (t.filter fun e => p e.1) n = if p n then tfind t n else none := by
  induction t with
  | nil => simp [tfind]
  | cons e t ih =>
    obtain ⟨k, w⟩ := e
    by_cases hk : k = n
    · subst hk
      by_cases hp : p k = true
      · simp [hp, tfind]
      · simp [hp, ih]
    · by_cases hp : p k = true
      · simp [hp, tfind, hk, ih]
      · simp [hp, tfind, hk, ih]

end Sys2Proof.Machine
end

