-- ==== Sys2Proof/Laws/Ref.lean ====
section
/-! SUPPORT. Reading a part of the device after an update of a part: the same one, another one, and one of another kind. -/

namespace Sys2Proof.Machine

@[simp] theorem State.ring_setRing_same (s : State) (r : Nat) (x : Ring) : (s.setRing r x).ring r = x := by simp [State.ring, State.setRing]

theorem State.ring_setRing_ne (s : State) {r n : Nat} (x : Ring) (h : n ≠ r) : (s.setRing r x).ring n = s.ring n := by
  simp [State.ring, State.setRing, tget_tput_ne _ _ _ h]

@[simp] theorem State.ring_updRing_same (s : State) (r : Nat) (f : Ring → Ring) : (s.updRing r f).ring r = f (s.ring r) := by simp [State.updRing]

theorem State.ring_updRing_ne (s : State) {r n : Nat} (f : Ring → Ring) (h : n ≠ r) : (s.updRing r f).ring n = s.ring n := by
  simp [State.updRing, State.ring_setRing_ne _ _ h]

@[simp] theorem State.die_setDie_same (s : State) (d : Nat) (x : Die) : (s.setDie d x).die d = x := by simp [State.die, State.setDie]

theorem State.die_setDie_ne (s : State) {d n : Nat} (x : Die) (h : n ≠ d) : (s.setDie d x).die n = s.die n := by
  simp [State.die, State.setDie, tget_tput_ne _ _ _ h]

@[simp] theorem State.die_updDie_same (s : State) (d : Nat) (f : Die → Die) : (s.updDie d f).die d = f (s.die d) := by simp [State.updDie]

theorem State.die_updDie_ne (s : State) {d n : Nat} (f : Die → Die) (h : n ≠ d) : (s.updDie d f).die n = s.die n := by
  simp [State.updDie, State.die_setDie_ne _ _ h]

@[simp] theorem State.vfOf_setVf_same (s : State) (v : Nat) (x : Vf) : (s.setVf v x).vfOf v = x := by simp [State.vfOf, State.setVf]

theorem State.vfOf_setVf_ne (s : State) {v n : Nat} (x : Vf) (h : n ≠ v) : (s.setVf v x).vfOf n = s.vfOf n := by
  simp [State.vfOf, State.setVf, tget_tput_ne _ _ _ h]

@[simp] theorem State.vfOf_updVf_same (s : State) (v : Nat) (f : Vf → Vf) : (s.updVf v f).vfOf v = f (s.vfOf v) := by simp [State.updVf]

theorem State.vfOf_updVf_ne (s : State) {v n : Nat} (f : Vf → Vf) (h : n ≠ v) : (s.updVf v f).vfOf n = s.vfOf n := by
  simp [State.updVf, State.vfOf_setVf_ne _ _ h]

@[simp] theorem State.strip_setStrip_same (s : State) (b : Nat) (x : Strip) : (s.setStrip b x).strip b = x := by simp [State.strip, State.setStrip]

theorem State.strip_setStrip_ne (s : State) {b n : Nat} (x : Strip) (h : n ≠ b) : (s.setStrip b x).strip n = s.strip n := by
  simp [State.strip, State.setStrip, tget_tput_ne _ _ _ h]

@[simp] theorem State.strip_updStrip_same (s : State) (b : Nat) (f : Strip → Strip) : (s.updStrip b f).strip b = f (s.strip b) := by
  simp [State.updStrip]

theorem State.strip_updStrip_ne (s : State) {b n : Nat} (f : Strip → Strip) (h : n ≠ b) : (s.updStrip b f).strip n = s.strip n := by
  simp [State.updStrip, State.strip_setStrip_ne _ _ h]

@[simp] theorem State.group_setGroup_same (s : State) (g : Nat) (x : Group) : (s.setGroup g x).group? g = some x := by
  simp [State.group?, State.setGroup]

theorem State.group_setGroup_ne (s : State) {g n : Nat} (x : Group) (h : n ≠ g) : (s.setGroup g x).group? n = s.group? n := by
  simp [State.group?, State.setGroup, tfind_tput_ne _ _ h]

@[simp] theorem State.die_setRing (s : State) (r : Nat) (x : Ring) (n : Nat) : (s.setRing r x).die n = s.die n := rfl
@[simp] theorem State.vfOf_setRing (s : State) (r : Nat) (x : Ring) (n : Nat) : (s.setRing r x).vfOf n = s.vfOf n := rfl
@[simp] theorem State.strip_setRing (s : State) (r : Nat) (x : Ring) (n : Nat) : (s.setRing r x).strip n = s.strip n := rfl
@[simp] theorem State.group_setRing (s : State) (r : Nat) (x : Ring) (n : Nat) : (s.setRing r x).group? n = s.group? n := rfl
@[simp] theorem State.byte_setRing (s : State) (r : Nat) (x : Ring) (n : Nat) : (s.setRing r x).byte n = s.byte n := rfl

@[simp] theorem State.die_updRing (s : State) (r : Nat) (f : Ring → Ring) (n : Nat) : (s.updRing r f).die n = s.die n := rfl
@[simp] theorem State.vfOf_updRing (s : State) (r : Nat) (f : Ring → Ring) (n : Nat) : (s.updRing r f).vfOf n = s.vfOf n := rfl
@[simp] theorem State.strip_updRing (s : State) (r : Nat) (f : Ring → Ring) (n : Nat) : (s.updRing r f).strip n = s.strip n := rfl
@[simp] theorem State.group_updRing (s : State) (r : Nat) (f : Ring → Ring) (n : Nat) : (s.updRing r f).group? n = s.group? n := rfl
@[simp] theorem State.byte_updRing (s : State) (r : Nat) (f : Ring → Ring) (n : Nat) : (s.updRing r f).byte n = s.byte n := rfl

@[simp] theorem State.ring_setDie (s : State) (d : Nat) (x : Die) (n : Nat) : (s.setDie d x).ring n = s.ring n := rfl
@[simp] theorem State.vfOf_setDie (s : State) (d : Nat) (x : Die) (n : Nat) : (s.setDie d x).vfOf n = s.vfOf n := rfl
@[simp] theorem State.strip_setDie (s : State) (d : Nat) (x : Die) (n : Nat) : (s.setDie d x).strip n = s.strip n := rfl
@[simp] theorem State.group_setDie (s : State) (d : Nat) (x : Die) (n : Nat) : (s.setDie d x).group? n = s.group? n := rfl
@[simp] theorem State.byte_setDie (s : State) (d : Nat) (x : Die) (n : Nat) : (s.setDie d x).byte n = s.byte n := rfl

@[simp] theorem State.ring_updDie (s : State) (d : Nat) (f : Die → Die) (n : Nat) : (s.updDie d f).ring n = s.ring n := rfl
@[simp] theorem State.vfOf_updDie (s : State) (d : Nat) (f : Die → Die) (n : Nat) : (s.updDie d f).vfOf n = s.vfOf n := rfl
@[simp] theorem State.strip_updDie (s : State) (d : Nat) (f : Die → Die) (n : Nat) : (s.updDie d f).strip n = s.strip n := rfl
@[simp] theorem State.group_updDie (s : State) (d : Nat) (f : Die → Die) (n : Nat) : (s.updDie d f).group? n = s.group? n := rfl
@[simp] theorem State.byte_updDie (s : State) (d : Nat) (f : Die → Die) (n : Nat) : (s.updDie d f).byte n = s.byte n := rfl

@[simp] theorem State.ring_setVf (s : State) (v : Nat) (x : Vf) (n : Nat) : (s.setVf v x).ring n = s.ring n := rfl
@[simp] theorem State.die_setVf (s : State) (v : Nat) (x : Vf) (n : Nat) : (s.setVf v x).die n = s.die n := rfl
@[simp] theorem State.strip_setVf (s : State) (v : Nat) (x : Vf) (n : Nat) : (s.setVf v x).strip n = s.strip n := rfl
@[simp] theorem State.group_setVf (s : State) (v : Nat) (x : Vf) (n : Nat) : (s.setVf v x).group? n = s.group? n := rfl
@[simp] theorem State.byte_setVf (s : State) (v : Nat) (x : Vf) (n : Nat) : (s.setVf v x).byte n = s.byte n := rfl

@[simp] theorem State.ring_updVf (s : State) (v : Nat) (f : Vf → Vf) (n : Nat) : (s.updVf v f).ring n = s.ring n := rfl
@[simp] theorem State.die_updVf (s : State) (v : Nat) (f : Vf → Vf) (n : Nat) : (s.updVf v f).die n = s.die n := rfl
@[simp] theorem State.strip_updVf (s : State) (v : Nat) (f : Vf → Vf) (n : Nat) : (s.updVf v f).strip n = s.strip n := rfl
@[simp] theorem State.group_updVf (s : State) (v : Nat) (f : Vf → Vf) (n : Nat) : (s.updVf v f).group? n = s.group? n := rfl
@[simp] theorem State.byte_updVf (s : State) (v : Nat) (f : Vf → Vf) (n : Nat) : (s.updVf v f).byte n = s.byte n := rfl

@[simp] theorem State.ring_setStrip (s : State) (b : Nat) (x : Strip) (n : Nat) : (s.setStrip b x).ring n = s.ring n := rfl
@[simp] theorem State.die_setStrip (s : State) (b : Nat) (x : Strip) (n : Nat) : (s.setStrip b x).die n = s.die n := rfl
@[simp] theorem State.vfOf_setStrip (s : State) (b : Nat) (x : Strip) (n : Nat) : (s.setStrip b x).vfOf n = s.vfOf n := rfl
@[simp] theorem State.group_setStrip (s : State) (b : Nat) (x : Strip) (n : Nat) : (s.setStrip b x).group? n = s.group? n := rfl
@[simp] theorem State.byte_setStrip (s : State) (b : Nat) (x : Strip) (n : Nat) : (s.setStrip b x).byte n = s.byte n := rfl

@[simp] theorem State.ring_updStrip (s : State) (b : Nat) (f : Strip → Strip) (n : Nat) : (s.updStrip b f).ring n = s.ring n := rfl
@[simp] theorem State.die_updStrip (s : State) (b : Nat) (f : Strip → Strip) (n : Nat) : (s.updStrip b f).die n = s.die n := rfl
@[simp] theorem State.vfOf_updStrip (s : State) (b : Nat) (f : Strip → Strip) (n : Nat) : (s.updStrip b f).vfOf n = s.vfOf n := rfl
@[simp] theorem State.group_updStrip (s : State) (b : Nat) (f : Strip → Strip) (n : Nat) : (s.updStrip b f).group? n = s.group? n := rfl
@[simp] theorem State.byte_updStrip (s : State) (b : Nat) (f : Strip → Strip) (n : Nat) : (s.updStrip b f).byte n = s.byte n := rfl

@[simp] theorem State.ring_setGroup (s : State) (g : Nat) (x : Group) (n : Nat) : (s.setGroup g x).ring n = s.ring n := rfl
@[simp] theorem State.die_setGroup (s : State) (g : Nat) (x : Group) (n : Nat) : (s.setGroup g x).die n = s.die n := rfl
@[simp] theorem State.vfOf_setGroup (s : State) (g : Nat) (x : Group) (n : Nat) : (s.setGroup g x).vfOf n = s.vfOf n := rfl
@[simp] theorem State.strip_setGroup (s : State) (g : Nat) (x : Group) (n : Nat) : (s.setGroup g x).strip n = s.strip n := rfl
@[simp] theorem State.byte_setGroup (s : State) (g : Nat) (x : Group) (n : Nat) : (s.setGroup g x).byte n = s.byte n := rfl

@[simp] theorem State.ring_putByte (s : State) (k : Nat) (b : Byte) (n : Nat) : (s.putByte k b).ring n = s.ring n := rfl
@[simp] theorem State.die_putByte (s : State) (k : Nat) (b : Byte) (n : Nat) : (s.putByte k b).die n = s.die n := rfl
@[simp] theorem State.vfOf_putByte (s : State) (k : Nat) (b : Byte) (n : Nat) : (s.putByte k b).vfOf n = s.vfOf n := rfl
@[simp] theorem State.strip_putByte (s : State) (k : Nat) (b : Byte) (n : Nat) : (s.putByte k b).strip n = s.strip n := rfl
@[simp] theorem State.group_putByte (s : State) (k : Nat) (b : Byte) (n : Nat) : (s.putByte k b).group? n = s.group? n := rfl

@[simp] theorem State.rcsr_setRcsr_same (s : State) (r n : Nat) (v : W64) : (s.setRcsr r n v).rcsr r n = v := by
  simp [State.rcsr, State.setRcsr]

theorem State.rcsr_setRcsr_ne (s : State) {r n q m : Nat} (v : W64) (h : q ≠ r ∨ m ≠ n) : (s.setRcsr r n v).rcsr q m = s.rcsr q m := by
  unfold State.rcsr State.setRcsr
  by_cases hr : q = r
  · subst hr
    rcases h with h | h
    · exact absurd rfl h
    · simp [tget_tput_ne _ _ _ h]
  · rw [State.ring_updRing_ne _ _ hr]

@[simp] theorem State.dcsr_setDcsr_same (s : State) (d n : Nat) (v : W64) : (s.setDcsr d n v).dcsr d n = v := by
  simp [State.dcsr, State.setDcsr]

theorem State.dcsr_setDcsr_ne (s : State) {d n q m : Nat} (v : W64) (h : q ≠ d ∨ m ≠ n) : (s.setDcsr d n v).dcsr q m = s.dcsr q m := by
  unfold State.dcsr State.setDcsr
  by_cases hr : q = d
  · subst hr
    rcases h with h | h
    · exact absurd rfl h
    · simp [tget_tput_ne _ _ _ h]
  · rw [State.die_updDie_ne _ _ hr]

end Sys2Proof.Machine
end

