-- ==== Sys2Proof/Laws/Memory.lean ====
section
/-! SUPPORT. Memory: reading after writing, a write leaves every other byte, and every memory operation keeps the canonical form. -/

namespace Sys2Proof.Machine

@[simp] theorem State.byte_putByte_same (s : State) (k : Nat) (b : Byte) : (s.putByte k b).byte k = b := by
  simp [State.byte, State.putByte]

theorem State.byte_putByte_ne (s : State) {k n : Nat} (b : Byte) (h : n ≠ k) : (s.putByte k b).byte n = s.byte n := by
  simp [State.byte, State.putByte, tget_tset_ne _ _ _ h]

/-- A run of bytes leaves every byte outside it. -/
theorem State.byte_putBytes_out (s : State) (k : Nat) (l : List Byte) {n : Nat} (h : n < k ∨ k + l.length ≤ n) :
    (s.putBytes k l).byte n = s.byte n := by
  induction l generalizing s k with
  | nil => rfl
  | cons b t ih =>
    simp only [List.length_cons] at h
    rw [State.putBytes, ih _ _ (by omega), State.byte_putByte_ne _ _ (by omega)]

/-- A run of bytes reads as written. -/
theorem State.byte_putBytes_in (s : State) (k : Nat) (l : List Byte) {i : Nat} (h : i < l.length) :
    (s.putBytes k l).byte (k + i) = l[i] := by
  induction l generalizing s k i with
  | nil => simp at h
  | cons b t ih =>
    rw [State.putBytes]
    cases i with
    | zero =>
      rw [State.byte_putBytes_out _ _ _ (by omega)]
      simp
    | succ j =>
      simp only [List.length_cons] at h
      have := ih (s.putByte k b) (k + 1) (i := j) (by omega)
      rw [show k + (j + 1) = k + 1 + j by omega, this]
      rfl

/-- Bytes written at a list of places leave every other place. -/
theorem State.byte_putBytesAt_out (s : State) (ks : List Nat) (l : List Byte) {n : Nat} (h : n ∉ ks) :
    (s.putBytesAt ks l).byte n = s.byte n := by
  induction ks generalizing s l with
  | nil => simp [State.putBytesAt]
  | cons k t ih =>
    cases l with
    | nil => simp [State.putBytesAt]
    | cons b l =>
      simp only [List.mem_cons, not_or] at h
      rw [State.putBytesAt, ih _ _ h.2, State.byte_putByte_ne _ _ h.1]

/-- Bytes written at places that differ read as written. -/
theorem State.byte_putBytesAt_in (s : State) (ks : List Nat) (l : List Byte) (hd : ks.Nodup) {i : Nat} (hk : i < ks.length)
    (hl : i < l.length) : (s.putBytesAt ks l).byte ks[i] = l[i] := by
  induction ks generalizing s l i with
  | nil => simp at hk
  | cons k t ih =>
    cases l with
    | nil => simp at hl
    | cons b l =>
      rw [State.putBytesAt]
      cases i with
      | zero =>
        simp only [List.getElem_cons_zero]
        rw [State.byte_putBytesAt_out _ _ _ (List.nodup_cons.1 hd).1]
        simp
      | succ j =>
        simp only [List.length_cons] at hk hl
        exact ih _ _ (List.nodup_cons.1 hd).2 (by omega) (by omega)

theorem memWf_putByte (s : State) (k : Nat) (b : Byte) (h : memWf s.mem = true) : memWf (s.putByte k b).mem = true :=
  twf_tset 0 s.mem k b h

theorem memWf_putBytes (s : State) (k : Nat) (l : List Byte) (h : memWf s.mem = true) : memWf (s.putBytes k l).mem = true := by
  induction l generalizing s k with
  | nil => exact h
  | cons b t ih => exact ih _ _ (memWf_putByte s k b h)

theorem memWf_putBytesAt (s : State) (ks : List Nat) (l : List Byte) (h : memWf s.mem = true) :
    memWf (s.putBytesAt ks l).mem = true := by
  induction ks generalizing s l with
  | nil => simpa [State.putBytesAt] using h
  | cons k t ih =>
    cases l with
    | nil => simpa [State.putBytesAt] using h
    | cons b l => exact ih _ _ (memWf_putByte s k b h)

theorem memWf_putNum (s : State) (k n v : Nat) (h : memWf s.mem = true) : memWf (s.putNum k n v).mem = true :=
  memWf_putBytes s k _ h

theorem memWf_filter (p : Host.Cell → Bool) (m : List Host.Cell) (h : memWf m = true) : memWf (m.filter p) = true :=
  twf_filter 0 p m h

/-- The counter tree lies beside memory. -/
@[simp] theorem State.setCtrBlock_mem (s : State) (level g b : Nat) (x : CtrBlock) : (s.setCtrBlock level g b x).mem = s.mem := by
  unfold State.setCtrBlock; split <;> rfl

/-- A fold whose every step leaves memory leaves memory. -/
theorem foldl_mem {α : Type} (f : State → α → State) (h : ∀ s x, (f s x).mem = s.mem) (s : State) (l : List α) :
    (l.foldl f s).mem = s.mem := by
  induction l generalizing s with
  | nil => rfl
  | cons x t ih => rw [List.foldl_cons, ih, h]

@[simp] theorem State.retag_mem (s : State) (level g b i : Nat) (all : Bool) : (s.retag level g b i all).mem = s.mem := by
  unfold State.retag
  refine foldl_mem _ (fun s x => ?_) _ _
  dsimp only
  split
  · split <;> rfl
  · simp

@[simp] theorem State.bumpTree_mem (s : State) (pa : Nat) : (s.bumpTree pa).mem = s.mem := by
  unfold State.bumpTree
  simp only [State.setCtrBlock_mem]
  exact foldl_mem _ (fun s x => by simp) _ _

@[simp] theorem State.sealLine_mem (s : State) (p : Nat × MemAttr) : (s.sealLine p).mem = s.mem := by
  unfold State.sealLine
  dsimp only
  split
  · simp
  · rfl

theorem State.sealLines_mem (s : State) (l : List (Nat × MemAttr)) : (l.foldl State.sealLine s).mem = s.mem :=
  foldl_mem _ State.sealLine_mem s l

@[simp] theorem State.transfers_mem (s : State) (ps : List (Nat × MemAttr)) : (s.transfers ps).mem = s.mem := rfl

/-- A write that is remembered with what it replaced stores its bytes as any other. -/
theorem State.putSeen_mem (s : State) (who : Agent) (lag : Bool) (sync : Tab Dep) (ps : List (Nat × MemAttr)) (bs : List Byte) :
    (s.putSeen who lag sync ps bs).mem = (s.putBytesAt (ps.map (·.1)) bs).mem := by
  suffices h : ∀ (bs : List Byte) (s u : State), s.mem = u.mem →
      (s.putSeen who lag sync ps bs).mem = (u.putBytesAt (ps.map (·.1)) bs).mem from h bs s s rfl
  induction ps with
  | nil => intro bs s u h; simpa [State.putSeen, State.putBytesAt] using h
  | cons p t ih =>
    intro bs s u h
    cases bs with
    | nil => simpa [State.putSeen, State.putBytesAt] using h
    | cons b l => exact ih l _ _ (by simp [State.putByte, h])

/-- A write either fails or stores its bytes; no other byte changes. -/
theorem State.writeAt_ok {s t : State} {who : Agent} {lag : Bool} {sync : Tab Dep} {ps : List (Nat × MemAttr)} {bs : List Byte}
    (h : s.writeAt who lag sync ps bs = .ok t) : t.mem = (s.putBytesAt (ps.map (·.1)) bs).mem := by
  unfold State.writeAt at h
  split at h
  · cases h
  · split at h
    · cases h
    · cases h
      rw [State.transfers_mem, State.sealLines_mem, State.putSeen_mem]

/-- Memory keeps its canonical form under a write that is remembered. -/
theorem memWf_putSeen (s : State) (who : Agent) (lag : Bool) (sync : Tab Dep) (ps : List (Nat × MemAttr)) (bs : List Byte)
    (h : memWf s.mem = true) : memWf (s.putSeen who lag sync ps bs).mem = true := by
  rw [State.putSeen_mem]
  exact memWf_putBytesAt _ _ _ h

theorem State.byte_writeAt_out {s t : State} {who : Agent} {lag : Bool} {sync : Tab Dep} {ps : List (Nat × MemAttr)} {bs : List Byte} (h : s.writeAt who lag sync ps bs = .ok t) {n : Nat}
    (hn : n ∉ ps.map (·.1)) : t.byte n = s.byte n := by
  have := State.byte_putBytesAt_out s (ps.map (·.1)) bs hn
  unfold State.byte at this ⊢
  rw [State.writeAt_ok h, this]

theorem memWf_writeAt {s t : State} {who : Agent} {lag : Bool} {sync : Tab Dep} {ps : List (Nat × MemAttr)} {bs : List Byte} (h : s.writeAt who lag sync ps bs = .ok t)
    (hm : memWf s.mem = true) : memWf t.mem = true := by
  rw [State.writeAt_ok h]
  exact memWf_putBytesAt _ _ _ hm

end Sys2Proof.Machine
end

