-- ==== Sys2Proof/Laws/Access.lean ====
section
/-! SUPPORT. Laws of accesses: the SRAMs answer every access, the apertures' places, and the fields of blocks of bytes. -/

namespace Sys2Proof.Machine

/-- Memory answers every place of the SRAMs that holds no uncorrectable error and whose ring is not rail-gated (R426, R428). -/
theorem State.placesErr_sram (s : State) (ps : List (Nat × MemAttr)) (hb : s.bad = []) (h : ∀ p ∈ ps, p.2 = .sram ∧ s.railGated p.1 = false) :
    s.placesErr ps = none := by
  unfold State.placesErr
  rw [List.findSome?_eq_none_iff]
  intro p hp
  unfold State.placeErr
  simp [hb, (h p hp).1, (h p hp).2]

/-- The parts of a span make up the span. -/
theorem partsOf_flatten (ps : List (Nat × MemAttr)) : (partsOf ps).flatten = ps := by
  induction ps with
  | nil => rfl
  | cons p t ih =>
    rw [partsOf]
    split
    · rename_i q l r e
      rw [e] at ih
      split <;> simp_all
    · simp_all

/-- A map over numbered elements that leaves the number out of account. -/
theorem map_zipIdx_fst {α β : Type} (f : α → β) (l : List α) (n : Nat) : ((l.zipIdx n).map fun x => f x.1) = l.map f := by
  induction l generalizing n with
  | nil => rfl
  | cons x t ih => simp [ih]

/-- Where no write is remembered, a reader observes memory as it is. -/
theorem State.observeParts_now (s : State) (rd : Reader) (ps : List (Nat × MemAttr)) (hp : s.past = []) :
    s.observeParts rd ps = ps.map fun p => (s.byte p.1, none) := by
  have h (j : Nat) (l : List (Nat × MemAttr)) : s.observe rd j l = l.map fun p => (s.byte p.1, none) := by
    simp [State.observe, hp, State.asOf]
  unfold State.observeParts
  simp only [h]
  rw [map_zipIdx_fst, ← List.map_flatten, partsOf_flatten]

/-- A read of the SRAMs gives their bytes. -/
theorem State.readAt_sram (s : State) (rd : Reader) (ps : List (Nat × MemAttr)) (hb : s.bad = []) (hp : s.past = [])
    (h : ∀ p ∈ ps, p.2 = .sram ∧ s.railGated p.1 = false) : s.readAt rd ps = .ok (ps.map fun p => (s.byte p.1, none)) := by
  unfold State.readAt
  rw [State.placesErr_sram s ps hb h, State.observeParts_now s rd ps hp]

/-- A write of the SRAMs succeeds. -/
theorem State.writeAt_sram (s : State) (who : Agent) (lag : Bool) (sync : Tab Dep) (ps : List (Nat × MemAttr)) (bs : List Byte) (hb : s.bad = [])
    (h : ∀ p ∈ ps, p.2 = .sram ∧ 2 ^ 39 ≤ p.1 ∧ s.railGated p.1 = false) : ∃ t, s.writeAt who lag sync ps bs = .ok t := by
  unfold State.writeAt
  rw [State.placesErr_sram s ps hb fun p hp => ⟨(h p hp).1, (h p hp).2.2⟩]
  have f : (ps.find? fun p => isHbm p.1 && s.treeFull p.1) = none := by
    rw [List.find?_eq_none]
    intro p hp
    have := (h p hp).2.1
    simp [isHbm]
    omega
  simp only [f]
  exact ⟨_, rfl⟩

/-- An address of CAMP in the banks of a strip's lowest ring (R97). -/
theorem State.ringPlace_camp (s : State) (c : XCtx) (a : Acc) (o : Nat) (ho : o < 2 ^ 22) (hl : 0 < (s.ring c.ring).slen) :
    s.ringPlace c a (BitVec.ofNat 64 (0xFFFFFFFFC0000000 + o)) = .ok (campKey (s.ring c.ring).sbase o, .sram) := by
  have h : (BitVec.ofNat 64 (0xFFFFFFFFC0000000 + o)).toNat = 0xFFFFFFFFC0000000 + o := by
    rw [BitVec.toNat_ofNat]; omega
  unfold State.ringPlace
  simp only [h]
  rw [if_neg (by omega), if_neg (by omega), if_neg (by omega), if_pos (by omega)]
  have e : 0xFFFFFFFFC0000000 + o - 0xFFFFFFFFC0000000 = o := by omega
  have d : o / 2 ^ 22 = 0 := by omega
  have m : o % 2 ^ 22 = o := by omega
  rw [e, d, m, if_pos hl, Nat.add_zero]

/-- Writing bytes leaves the rings. -/
theorem State.putBytesAt_rings (s : State) (ks : List Nat) (l : List Byte) : (s.putBytesAt ks l).rings = s.rings := by
  induction ks generalizing s l with
  | nil => simp [State.putBytesAt]
  | cons k t ih =>
    cases l with
    | nil => simp [State.putBytesAt]
    | cons b l => rw [State.putBytesAt, ih]; rfl

/-- Writing bytes leaves the lines with uncorrectable data. -/
theorem State.putBytesAt_bad (s : State) (ks : List Nat) (l : List Byte) : (s.putBytesAt ks l).bad = s.bad := by
  induction ks generalizing s l with
  | nil => simp [State.putBytesAt]
  | cons k t ih =>
    cases l with
    | nil => simp [State.putBytesAt]
    | cons b l => rw [State.putBytesAt, ih]; rfl

/-- Writing bytes leaves the values that earlier writes replaced. -/
theorem State.putBytesAt_past (s : State) (ks : List Nat) (l : List Byte) : (s.putBytesAt ks l).past = s.past := by
  induction ks generalizing s l with
  | nil => simp [State.putBytesAt]
  | cons k t ih =>
    cases l with
    | nil => simp [State.putBytesAt]
    | cons b l => rw [State.putBytesAt, ih]; rfl

/-- Bytes written at places that differ are what a read of those places gives. -/
theorem State.bytesAt_putBytesAt (s : State) (ks : List Nat) (l : List Byte) (hd : ks.Nodup) (hl : ks.length = l.length) :
    (s.putBytesAt ks l).bytesAt ks = l := by
  unfold State.bytesAt
  apply List.ext_getElem
  · simpa using hl
  · intro i h1 h2
    simp only [List.length_map] at h1
    simp only [List.getElem_map]
    exact State.byte_putBytesAt_in s ks l hd h1 h2

/-- The bytes of a block that lie in its first part. -/
theorem slice_append_left (l m : List Byte) (o n : Nat) (h : o + n ≤ l.length) : slice (l ++ m) o n = slice l o n := by
  unfold slice
  apply List.map_congr_left
  intro i hi
  simp only [List.mem_range] at hi
  simp only [List.getD_eq_getElem?_getD]
  rw [List.getElem?_append_left (by omega)]

theorem field_append_left (l m : List Byte) (o n : Nat) (h : o + n ≤ l.length) : field (l ++ m) o n = field l o n := by
  unfold field
  rw [slice_append_left l m o n h]

/-- A block of zeros reads zeros everywhere. -/
theorem slice_zeros (m o n : Nat) : slice (List.replicate m 0) o n = List.replicate n 0 := by
  unfold slice
  rw [List.eq_replicate_iff]
  refine ⟨by simp, ?_⟩
  intro b hb
  simp only [List.mem_map, List.mem_range] at hb
  obtain ⟨i, _, rfl⟩ := hb
  simp only [List.getD_eq_getElem?_getD, List.getElem?_replicate]
  split <;> rfl

@[simp] theorem zeroBytes_zeros (m o n : Nat) : zeroBytes (List.replicate m 0) o n = true := by
  unfold zeroBytes
  rw [slice_zeros]
  simp

theorem leNat_zeros (n : Nat) : leNat (List.replicate n 0) = 0 := by
  induction n with
  | zero => rfl
  | succ n ih => rw [List.replicate_succ, leNat, ih]; rfl

@[simp] theorem field_zeros (m o n : Nat) : field (List.replicate m 0) o n = 0 := by
  unfold field
  rw [slice_zeros, leNat_zeros]

/-- A part of a block that lies in the zeros behind its first part. -/
theorem take_drop_zeros (l : List Byte) (m o n : Nat) (h : l.length ≤ o) (hn : o + n ≤ l.length + m) :
    ((l ++ List.replicate m 0).drop o).take n = List.replicate n 0 := by
  rw [List.drop_append, List.drop_eq_nil_of_le h, List.nil_append, List.drop_replicate, List.take_replicate]
  congr 1
  omega

end Sys2Proof.Machine
end

