-- ==== Sys2Proof/Laws/Bits.lean ====
section
/-! SUPPORT. Reading a field of a word that is put together from its fields. -/

namespace Sys2Proof.Laws

theorem field_low {w v s n : Nat} (x : BitVec w) (y : BitVec v) (h : s + n ≤ v) :
    (x ++ y).extractLsb' s n = y.extractLsb' s n := by
  ext i hi
  simp only [BitVec.getElem_extractLsb', BitVec.getLsbD_append]
  rw [if_pos (by omega)]

theorem field_high {w v s n : Nat} (x : BitVec w) (y : BitVec v) (h : v ≤ s) :
    (x ++ y).extractLsb' s n = x.extractLsb' (s - v) n := by
  ext i hi
  simp only [BitVec.getElem_extractLsb', BitVec.getLsbD_append]
  rw [if_neg (by omega)]
  congr 1
  omega

theorem field_self {w : Nat} (x : BitVec w) : x.extractLsb' 0 w = x := by
  ext i hi
  simp

/-- An 11-bit immediate in two fields (R181). -/
theorem field_join (i : BitVec 11) : i.extractLsb' 6 5 ++ i.extractLsb' 0 6 = i := by
  ext n hn
  simp only [BitVec.getElem_append, BitVec.getElem_extractLsb']
  split
  · simp [BitVec.getLsbD_eq_getElem hn]
  · rw [show 6 + (n - 6) = n by omega, BitVec.getLsbD_eq_getElem hn]

theorem bits_eq (w : W32) (hi lo : Nat) : wordBits w hi lo = (w.extractLsb' lo (hi + 1 - lo)).toNat := by
  simp [wordBits, BitVec.extractLsb'_toNat, Nat.shiftRight_eq_div_pow]

theorem bits_of {w : W32} {hi lo c : Nat} {x : BitVec (hi + 1 - lo)} (h : w.extractLsb' lo (hi + 1 - lo) = x) (hx : x.toNat = c) :
    wordBits w hi lo = c := by
  rw [bits_eq, h, hx]

end Sys2Proof.Laws
end

