-- ==== Sys2Proof/Laws/Seq.lean ====
section
/-! SUPPORT. The registers of a thread after an update, and what each shared sequencer operation can answer. -/

namespace Sys2Proof.Machine

@[simp] theorem State.seqOf_updSeq_same (s : State) (t : Thread) (f : Seq → Seq) : (s.updSeq t f).seqOf t = f (s.seqOf t) := by
  cases t <;> simp [State.seqOf, State.updSeq]

theorem State.seqOf_updSeq_ne (s : State) {t u : Thread} (f : Seq → Seq) (h : u ≠ t) : (s.updSeq t f).seqOf u = s.seqOf u := by
  cases t <;> cases u <;> simp_all [State.seqOf, State.updSeq, State.ring_updRing_ne, State.die_updDie_ne]

@[simp] theorem State.me_updSeq (s : State) (f : Seq → Seq) : (s.updSeq s.cur f).me = f s.me := by simp [State.me]

@[simp] theorem State.seqOf_endWait (s : State) (t u : Thread) : (s.endWait t).seqOf u = s.seqOf u := by
  cases t <;> cases u <;> simp [State.seqOf, State.endWait]
  rename_i r q
  by_cases h : q = r
  · subst h; simp
  · rw [State.ring_updRing_ne _ _ h]

@[simp] theorem State.me_endWait (s : State) (t : Thread) : (s.endWait t).me = s.me := by simp [State.me]

/-- x0 reads 0 (R195). -/
@[simp] theorem State.x_zero (s : State) : s.x 0 = 0 := by simp [State.x]

/-- A write to x0 is discarded (R195). -/
@[simp] theorem State.setXd_zero (s : State) (v : W64) (e : Dep) : s.setXd 0 v e = s := by simp [State.setXd]

@[simp] theorem State.setX_zero (s : State) (v : W64) : s.setX 0 v = s := s.setXd_zero v Dep.zero

theorem State.x_setXd_same (s : State) {d : BitVec 5} (v : W64) (e : Dep) (h : d ≠ 0) : (s.setXd d v e).x d = v := by
  unfold State.x State.setXd
  rw [if_neg h, if_neg h]
  simp

theorem State.x_setXd_ne (s : State) {d i : BitVec 5} (v : W64) (e : Dep) (h : i ≠ d) : (s.setXd d v e).x i = s.x i := by
  unfold State.x State.setXd
  split
  · rfl
  · split
    · rfl
    · have : i.toNat ≠ d.toNat := fun e => h (BitVec.eq_of_toNat_eq e)
      simp [tget_tput_ne _ _ _ this]

theorem State.x_setX_same (s : State) {d : BitVec 5} (v : W64) (h : d ≠ 0) : (s.setX d v).x d = v := s.x_setXd_same v Dep.zero h

theorem State.x_setX_ne (s : State) {d i : BitVec 5} (v : W64) (h : i ≠ d) : (s.setX d v).x i = s.x i := s.x_setXd_ne v Dep.zero h

@[simp] theorem State.me_goto (s : State) (a : W64) : (s.goto a).me = { s.me with pc := a, instret := s.me.instret + 1 } := by
  have h : (s.endWait s.cur).cur = s.cur := by simp
  show ((s.endWait s.cur).updSeq s.cur _).seqOf ((s.endWait s.cur).updSeq s.cur _).cur = _
  rw [State.updSeq_cur, h, State.seqOf_updSeq_same, State.seqOf_endWait]
  rfl

@[simp] theorem State.pc_goto (s : State) (a : W64) : (s.goto a).pc = a := by simp [State.pc]

@[simp] theorem State.x_goto (s : State) (a : W64) (i : BitVec 5) : (s.goto a).x i = s.x i := by simp [State.x]

@[simp] theorem State.pc_done (s : State) : s.done.pc = s.pc + 4 := by simp [State.done]

@[simp] theorem State.x_done (s : State) (i : BitVec 5) : s.done.x i = s.x i := by simp [State.done]

@[simp] theorem State.mem_done (s : State) : s.done.mem = s.mem := by simp [State.done]

@[simp] theorem State.cur_done (s : State) : s.done.cur = s.cur := by simp [State.done]

/-- A register form either waits, leaving the state, or writes its destination and goes on. -/
theorem regOp_cases (d : BitVec 5) (srcs : List (BitVec 5)) (v : State → W64) (s : State) :
    (s.pendAny (d :: srcs) = true ∧ regOp d srcs v s = .next s) ∨
      (s.pendAny (d :: srcs) = false ∧ regOp d srcs v s = .next (s.setXd d (v s) (s.depOf srcs)).done) := by
  unfold regOp
  cases s.pendAny (d :: srcs) <;> simp

/-- A load waits, traps on its failed check, or becomes outstanding. -/
theorem loadOp_cases (sg : Bool) (d b : BitVec 5) (z o c : BitVec 2) (i : BitVec 10) (s : State) :
    loadOp sg d b z o c i s = .next s ∨
      (∃ e, s.access .load (s.ea b z i) (2 ^ z.toNat) (if o = 0 then none else some (2 ^ z.toNat)) = .error e ∧
        loadOp sg d b z o c i s = .next (s.accTrapTo d e)) ∨
      (∃ l : PendLoad, l.rd = d ∧ l.kind = .load sg ∧ l.seq = s.nextSeqNo ∧ loadOp sg d b z o c i s = .next (s.issueLoad l).done) := by
  unfold loadOp
  split
  · exact .inl rfl
  · simp only
    split
    · rename_i e he; exact .inr (.inl ⟨e, he, rfl⟩)
    · split
      · exact .inl rfl
      · exact .inr (.inr ⟨_, rfl, rfl, rfl, rfl⟩)

/-- A store waits, traps on its failed check, or retires into the store buffer: memory is as it was. -/
theorem storeOp_cases (d b : BitVec 5) (z o c : BitVec 2) (i : BitVec 10) (s : State) :
    storeOp d b z o c i s = .next s ∨
      (∃ e, s.access .store (s.ea b z i) (2 ^ z.toNat) (if o = 0 then none else some (2 ^ z.toNat)) = .error e ∧
        storeOp d b z o c i s = .next (s.accTrap e)) ∨
      (∃ q w, q.data = leBytes (2 ^ z.toNat) (s.x d).toNat ∧ q.seq = s.nextSeqNo ∧ storeOp d b z o c i s = .next (s.issueStore q w).done) := by
  unfold storeOp
  split
  · exact .inl rfl
  · simp only
    split
    · rename_i e he; exact .inr (.inl ⟨e, he, rfl⟩)
    · split
      · exact .inl rfl
      · exact .inr (.inr ⟨_, _, rfl, rfl, rfl⟩)

/-- An atomic waits, traps on its failed check, or becomes outstanding. -/
theorem amoOp_cases (k d a b : BitVec 5) (c o : BitVec 2) (z : BitVec 1) (s : State) :
    amoOp k d a b c o z s = .next s ∨
      (∃ e, s.access .amo (s.x a) (4 * 2 ^ z.toNat) (some (4 * 2 ^ z.toNat)) = .error e ∧ amoOp k d a b c o z s = .next (s.accTrapTo d e)) ∨
      (∃ l : PendLoad, l.rd = d ∧ l.kind = .amo k (s.x b) (s.x d) ∧ l.seq = s.nextSeqNo ∧ amoOp k d a b c o z s = .next (s.issueLoad l).done) := by
  unfold amoOp
  split
  · exact .inl rfl
  · simp only
    split
    · rename_i e he; exact .inr (.inl ⟨e, he, rfl⟩)
    · split
      · exact .inl rfl
      · exact .inr (.inr ⟨_, rfl, rfl, rfl, rfl⟩)

/-- A jump traps where R202 rejects its target, and otherwise links and goes there. -/
theorem jumpTo_cases (a : W64) (l : Option (BitVec 5)) (s : State) :
    (badTarget a = true ∧ jumpTo a l s = .next (s.trap 0x12 a)) ∨
      (badTarget a = false ∧ jumpTo a l s = .next ((match l with
        | some d => s.setX d (s.pc + 4)
        | none => s).goto a)) := by
  unfold jumpTo
  cases h : badTarget a
  · right; cases l <;> simp
  · left; simp

/-- A word of R210 to R229 does nothing in a bubble or behind a false gate, and otherwise runs its body. -/
theorem veWord_cases (g : BitVec 2) (srcs : List (BitVec 5)) (body : Ops → State → State) (s : State) :
    (s.view = none ∧ veWord g srcs body s = s) ∨
      (∃ w, s.view = some w ∧ gateOpen w.el.q g = false ∧ veWord g srcs body s = s) ∨
      (∃ w, s.view = some w ∧ gateOpen w.el.q g = true ∧ veWord g srcs body s = veBody srcs body w s) := by
  unfold veWord
  cases h : s.view with
  | none => exact .inl ⟨rfl, rfl⟩
  | some w =>
    right
    cases hg : gateOpen w.el.q g
    · exact .inl ⟨w, rfl, hg, by simp [hg]⟩
    · exact .inr ⟨w, rfl, hg, by simp [hg]⟩

end Sys2Proof.Machine
end

