-- ==== Sys2Proof/Laws/Frame.lean ====
section
/-! SUPPORT. The frames of completing instructions: two updates of one record are one, an update is what it does to the record as it
stands, and the instructions that complete with a register written meet OnlySeqRegs. -/

namespace Sys2Proof.Machine

/-- Two updates of one ring are one. -/
theorem State.updRing_updRing (s : State) (r : Nat) (f g : Ring → Ring) : (s.updRing r f).updRing r g = s.updRing r fun x => g (f x) := by
  simp [State.updRing, State.setRing, State.ring, tput_tput]

/-- Two updates of one die are one. -/
theorem State.updDie_updDie (s : State) (d : Nat) (f g : Die → Die) : (s.updDie d f).updDie d g = s.updDie d fun x => g (f x) := by
  simp [State.updDie, State.setDie, State.die, tput_tput]

/-- An update is what it does to the ring as it stands. -/
theorem State.updRing_congr (s : State) (r : Nat) {f g : Ring → Ring} (h : f (s.ring r) = g (s.ring r)) : s.updRing r f = s.updRing r g := by
  simp [State.updRing, h]

/-- An update is what it does to the die as it stands. -/
theorem State.updDie_congr (s : State) (d : Nat) {f g : Die → Die} (h : f (s.die d) = g (s.die d)) : s.updDie d f = s.updDie d g := by
  simp [State.updDie, h]

/-- Two updates of one thread's registers are one. -/
theorem State.updSeq_updSeq (s : State) (t : Thread) (f g : Seq → Seq) : (s.updSeq t f).updSeq t g = s.updSeq t fun q => g (f q) := by
  cases t <;> simp [State.updSeq, State.updRing_updRing, State.updDie_updDie]

/-- An update is what it does to the registers as they stand. -/
theorem State.updSeq_congr (s : State) (t : Thread) {f g : Seq → Seq} (h : f (s.seqOf t) = g (s.seqOf t)) : s.updSeq t f = s.updSeq t g := by
  cases t with
  | ring r =>
    have h' : f (s.ring r).seq = g (s.ring r).seq := h
    simp only [State.updSeq]
    exact State.updRing_congr s r (by simp only [h'])
  | core d =>
    have h' : f (s.die d).core = g (s.die d).core := h
    simp only [State.updSeq]
    exact State.updDie_congr s d (by simp only [h'])

/-- The end of a wait and an update of the registers stand in either order. -/
theorem State.endWait_updSeq (s : State) (t : Thread) (f : Seq → Seq) : (s.updSeq t f).endWait t = (s.endWait t).updSeq t f := by
  cases t <;> simp [State.updSeq, State.endWait, State.updRing_updRing]

/-- A register write that completes changes only the thread's registers. -/
theorem onlySeqRegs_setXd (s : State) (d : BitVec 5) (v a : W64) (e : Dep) : OnlySeqRegs s ((s.setXd d v e).goto a) := by
  unfold State.goto State.setXd
  by_cases h : d = 0
  · refine ⟨s.me.x, s.me.deps, a, ?_⟩
    simp only [h, if_true]
    exact State.updSeq_congr _ _ (by simp [State.me])
  · refine ⟨tput s.me.x d.toNat v, tset Dep.zero s.me.deps d.toNat e, a, ?_⟩
    simp only [if_neg h, State.updSeq_cur, State.endWait_updSeq, State.updSeq_updSeq]
    exact State.updSeq_congr _ _ (by simp [State.me])

theorem onlySeqRegs_setX (s : State) (d : BitVec 5) (v a : W64) : OnlySeqRegs s ((s.setX d v).goto a) := onlySeqRegs_setXd s d v a Dep.zero

/-- An instruction that writes no register and completes changes only the thread's registers. -/
theorem onlySeqRegs_goto (s : State) (a : W64) : OnlySeqRegs s (s.goto a) := by
  have h := onlySeqRegs_setX s 0 0 a
  rwa [State.setX_zero] at h

/-- A register write leaves the pc. -/
@[simp] theorem State.pc_setXd (s : State) (d : BitVec 5) (v : W64) (e : Dep) : (s.setXd d v e).pc = s.pc := by
  simp only [State.pc, State.setXd]
  split
  · rfl
  · simp

@[simp] theorem State.pc_setX (s : State) (d : BitVec 5) (v : W64) : (s.setX d v).pc = s.pc := s.pc_setXd d v Dep.zero

/-- What regOp does once nothing that it names is outstanding. -/
theorem regOp_done {d : BitVec 5} {srcs : List (BitVec 5)} {f : State → W64} {s : State} (h : s.pendAny (d :: srcs) = false) :
    ∃ t, regOp d srcs f s = .next t ∧ OnlySeqRegs s t ∧ t.x d = (if d = 0 then 0 else f s) ∧ (∀ r, r ≠ d → t.x r = s.x r) ∧
      t.pc = s.pc + 4 ∧ ∀ k, t.byte k = s.byte k := by
  refine ⟨(s.setXd d (f s) (s.depOf srcs)).done, by simp [regOp, h], onlySeqRegs_setXd _ _ _ _ _, ?_, ?_, ?_, ?_⟩
  · rw [State.x_done]
    by_cases hd : d = 0
    · rw [if_pos hd, hd, State.x_zero]
    · rw [if_neg hd, State.x_setXd_same _ _ _ hd]
  · intro r hr
    simp [State.x_setXd_ne _ _ _ hr]
  · rw [State.pc_done, State.pc_setXd]
  · intro k
    simp [State.byte]

end Sys2Proof.Machine
end

