-- ==== Sys2Proof/Laws/PerInstr.lean ====
section
/-! SUPPORT. The encoding of every instruction: an event has no word, and a word form that is well formed decodes from its word. -/

namespace Sys2Proof.Laws

/-- An event row has no word; a word form decodes, by its reader, from the word that encodes it (R180 to R186, R195 to R201). -/
def Encoding.Statement (i : Instr) : Prop :=
  match encode i with
  | none => i.isEvent = true
  | some w => i.isEvent = false ∧ (i.wf = true → (if i.isElem then decodeElem w else decodeSeq w) = .ok i)

theorem Encoding.elem_ok {i : Instr} {w : W32} (he : encode i = some w) (hv : i.isEvent = false) (hk : i.isElem = true)
    (hr : rawElem w = some i) : Encoding.Statement i := by
  simp only [Encoding.Statement, he]
  exact ⟨hv, fun hw => by simp [hk, decodeElem, checkWord, hr, he, hw]⟩

theorem Encoding.seq_ok {i : Instr} {w : W32} (he : encode i = some w) (hv : i.isEvent = false) (hk : i.isElem = false)
    (hr : rawSeq w = some i) : Encoding.Statement i := by
  simp only [Encoding.Statement, he]
  exact ⟨hv, fun hw => by simp [hk, decodeSeq, checkWord, hr, he, hw]⟩

theorem word_11_5_5_5_2_4 (x0 : BitVec 11) (x1 x2 x3 : BitVec 5) (x4 : BitVec 2) (x5 : BitVec 4) :
    let w : W32 := x0 ++ x1 ++ x2 ++ x3 ++ x4 ++ x5
    (w.extractLsb' 25 7 = x0.extractLsb' 4 7) ∧
      (w.extractLsb' 16 5 = x1) ∧
      (w.extractLsb' 11 5 = x2) ∧
      (w.extractLsb' 6 5 = x3) ∧
      (w.extractLsb' 4 2 = x4) :=
  ⟨(@field_high 28 4 25 7 _ _ (by decide)).trans ((@field_high 26 2 21 7 _ _ (by decide)).trans ((@field_high 21 5 19 7 _ _ (by decide)).trans ((@field_high 16 5 14 7 _ _ (by decide)).trans (@field_high 11 5 9 7 _ _ (by decide))))),
   (@field_high 28 4 16 5 _ _ (by decide)).trans ((@field_high 26 2 12 5 _ _ (by decide)).trans ((@field_high 21 5 10 5 _ _ (by decide)).trans ((@field_high 16 5 5 5 _ _ (by decide)).trans ((@field_low 11 5 0 5 _ _ (by decide)).trans (field_self _))))),
   (@field_high 28 4 11 5 _ _ (by decide)).trans ((@field_high 26 2 7 5 _ _ (by decide)).trans ((@field_high 21 5 5 5 _ _ (by decide)).trans ((@field_low 16 5 0 5 _ _ (by decide)).trans (field_self _)))),
   (@field_high 28 4 6 5 _ _ (by decide)).trans ((@field_high 26 2 2 5 _ _ (by decide)).trans ((@field_low 21 5 0 5 _ _ (by decide)).trans (field_self _))),
   (@field_high 28 4 4 2 _ _ (by decide)).trans ((@field_low 26 2 0 2 _ _ (by decide)).trans (field_self _))⟩

theorem word_7_4_5_5_5_2_1_3 (x0 : BitVec 7) (x1 : BitVec 4) (x2 x3 x4 : BitVec 5) (x5 : BitVec 2) (x6 : BitVec 1) (x7 : BitVec 3) :
    let w : W32 := x0 ++ x1 ++ x2 ++ x3 ++ x4 ++ x5 ++ x6 ++ x7
    (w.extractLsb' 25 7 = x0) ∧
      (w.extractLsb' 21 4 = x1) ∧
      (w.extractLsb' 16 5 = x2) ∧
      (w.extractLsb' 11 5 = x3) ∧
      (w.extractLsb' 6 5 = x4) ∧
      (w.extractLsb' 4 2 = x5) ∧
      (w.extractLsb' 3 1 = x6) :=
  ⟨(@field_high 29 3 25 7 _ _ (by decide)).trans ((@field_high 28 1 22 7 _ _ (by decide)).trans ((@field_high 26 2 21 7 _ _ (by decide)).trans ((@field_high 21 5 19 7 _ _ (by decide)).trans ((@field_high 16 5 14 7 _ _ (by decide)).trans ((@field_high 11 5 9 7 _ _ (by decide)).trans ((@field_high 7 4 4 7 _ _ (by decide)).trans (field_self _))))))),
   (@field_high 29 3 21 4 _ _ (by decide)).trans ((@field_high 28 1 18 4 _ _ (by decide)).trans ((@field_high 26 2 17 4 _ _ (by decide)).trans ((@field_high 21 5 15 4 _ _ (by decide)).trans ((@field_high 16 5 10 4 _ _ (by decide)).trans ((@field_high 11 5 5 4 _ _ (by decide)).trans ((@field_low 7 4 0 4 _ _ (by decide)).trans (field_self _))))))),
   (@field_high 29 3 16 5 _ _ (by decide)).trans ((@field_high 28 1 13 5 _ _ (by decide)).trans ((@field_high 26 2 12 5 _ _ (by decide)).trans ((@field_high 21 5 10 5 _ _ (by decide)).trans ((@field_high 16 5 5 5 _ _ (by decide)).trans ((@field_low 11 5 0 5 _ _ (by decide)).trans (field_self _)))))),
   (@field_high 29 3 11 5 _ _ (by decide)).trans ((@field_high 28 1 8 5 _ _ (by decide)).trans ((@field_high 26 2 7 5 _ _ (by decide)).trans ((@field_high 21 5 5 5 _ _ (by decide)).trans ((@field_low 16 5 0 5 _ _ (by decide)).trans (field_self _))))),
   (@field_high 29 3 6 5 _ _ (by decide)).trans ((@field_high 28 1 3 5 _ _ (by decide)).trans ((@field_high 26 2 2 5 _ _ (by decide)).trans ((@field_low 21 5 0 5 _ _ (by decide)).trans (field_self _)))),
   (@field_high 29 3 4 2 _ _ (by decide)).trans ((@field_high 28 1 1 2 _ _ (by decide)).trans ((@field_low 26 2 0 2 _ _ (by decide)).trans (field_self _))),
   (@field_high 29 3 3 1 _ _ (by decide)).trans ((@field_low 28 1 0 1 _ _ (by decide)).trans (field_self _))⟩

theorem word_7_4_5_5_5_2_4 (x0 : BitVec 7) (x1 : BitVec 4) (x2 x3 x4 : BitVec 5) (x5 : BitVec 2) (x6 : BitVec 4) :
    let w : W32 := x0 ++ x1 ++ x2 ++ x3 ++ x4 ++ x5 ++ x6
    (w.extractLsb' 25 7 = x0) ∧
      (w.extractLsb' 21 4 = x1) ∧
      (w.extractLsb' 16 5 = x2) ∧
      (w.extractLsb' 11 5 = x3) ∧
      (w.extractLsb' 6 5 = x4) ∧
      (w.extractLsb' 4 2 = x5) :=
  ⟨(@field_high 28 4 25 7 _ _ (by decide)).trans ((@field_high 26 2 21 7 _ _ (by decide)).trans ((@field_high 21 5 19 7 _ _ (by decide)).trans ((@field_high 16 5 14 7 _ _ (by decide)).trans ((@field_high 11 5 9 7 _ _ (by decide)).trans ((@field_high 7 4 4 7 _ _ (by decide)).trans (field_self _)))))),
   (@field_high 28 4 21 4 _ _ (by decide)).trans ((@field_high 26 2 17 4 _ _ (by decide)).trans ((@field_high 21 5 15 4 _ _ (by decide)).trans ((@field_high 16 5 10 4 _ _ (by decide)).trans ((@field_high 11 5 5 4 _ _ (by decide)).trans ((@field_low 7 4 0 4 _ _ (by decide)).trans (field_self _)))))),
   (@field_high 28 4 16 5 _ _ (by decide)).trans ((@field_high 26 2 12 5 _ _ (by decide)).trans ((@field_high 21 5 10 5 _ _ (by decide)).trans ((@field_high 16 5 5 5 _ _ (by decide)).trans ((@field_low 11 5 0 5 _ _ (by decide)).trans (field_self _))))),
   (@field_high 28 4 11 5 _ _ (by decide)).trans ((@field_high 26 2 7 5 _ _ (by decide)).trans ((@field_high 21 5 5 5 _ _ (by decide)).trans ((@field_low 16 5 0 5 _ _ (by decide)).trans (field_self _)))),
   (@field_high 28 4 6 5 _ _ (by decide)).trans ((@field_high 26 2 2 5 _ _ (by decide)).trans ((@field_low 21 5 0 5 _ _ (by decide)).trans (field_self _))),
   (@field_high 28 4 4 2 _ _ (by decide)).trans ((@field_low 26 2 0 2 _ _ (by decide)).trans (field_self _))⟩

theorem word_10_1_5_5_5_6 (x0 : BitVec 10) (x1 : BitVec 1) (x2 x3 x4 : BitVec 5) (x5 : BitVec 6) :
    let w : W32 := x0 ++ x1 ++ x2 ++ x3 ++ x4 ++ x5
    (w.extractLsb' 25 7 = x0.extractLsb' 3 7) ∧
      (w.extractLsb' 21 1 = x1) ∧
      (w.extractLsb' 16 5 = x2) ∧
      (w.extractLsb' 11 5 = x3) ∧
      (w.extractLsb' 0 6 = x5) ∧
      (w.extractLsb' 6 5 = x4) :=
  ⟨(@field_high 26 6 25 7 _ _ (by decide)).trans ((@field_high 21 5 19 7 _ _ (by decide)).trans ((@field_high 16 5 14 7 _ _ (by decide)).trans ((@field_high 11 5 9 7 _ _ (by decide)).trans (@field_high 10 1 4 7 _ _ (by decide))))),
   (@field_high 26 6 21 1 _ _ (by decide)).trans ((@field_high 21 5 15 1 _ _ (by decide)).trans ((@field_high 16 5 10 1 _ _ (by decide)).trans ((@field_high 11 5 5 1 _ _ (by decide)).trans ((@field_low 10 1 0 1 _ _ (by decide)).trans (field_self _))))),
   (@field_high 26 6 16 5 _ _ (by decide)).trans ((@field_high 21 5 10 5 _ _ (by decide)).trans ((@field_high 16 5 5 5 _ _ (by decide)).trans ((@field_low 11 5 0 5 _ _ (by decide)).trans (field_self _)))),
   (@field_high 26 6 11 5 _ _ (by decide)).trans ((@field_high 21 5 5 5 _ _ (by decide)).trans ((@field_low 16 5 0 5 _ _ (by decide)).trans (field_self _))),
   (@field_low 26 6 0 6 _ _ (by decide)).trans (field_self _),
   (@field_high 26 6 6 5 _ _ (by decide)).trans ((@field_low 21 5 0 5 _ _ (by decide)).trans (field_self _))⟩

theorem word_11_5_5_5_6 (x0 : BitVec 11) (x1 x2 x3 : BitVec 5) (x4 : BitVec 6) :
    let w : W32 := x0 ++ x1 ++ x2 ++ x3 ++ x4
    (w.extractLsb' 25 7 = x0.extractLsb' 4 7) ∧
      (w.extractLsb' 16 5 = x1) ∧
      (w.extractLsb' 11 5 = x2) ∧
      (w.extractLsb' 0 6 = x4) ∧
      (w.extractLsb' 6 5 = x3) :=
  ⟨(@field_high 26 6 25 7 _ _ (by decide)).trans ((@field_high 21 5 19 7 _ _ (by decide)).trans ((@field_high 16 5 14 7 _ _ (by decide)).trans (@field_high 11 5 9 7 _ _ (by decide)))),
   (@field_high 26 6 16 5 _ _ (by decide)).trans ((@field_high 21 5 10 5 _ _ (by decide)).trans ((@field_high 16 5 5 5 _ _ (by decide)).trans ((@field_low 11 5 0 5 _ _ (by decide)).trans (field_self _)))),
   (@field_high 26 6 11 5 _ _ (by decide)).trans ((@field_high 21 5 5 5 _ _ (by decide)).trans ((@field_low 16 5 0 5 _ _ (by decide)).trans (field_self _))),
   (@field_low 26 6 0 6 _ _ (by decide)).trans (field_self _),
   (@field_high 26 6 6 5 _ _ (by decide)).trans ((@field_low 21 5 0 5 _ _ (by decide)).trans (field_self _))⟩

theorem word_7_4_5_5_3_2_2_4 (x0 : BitVec 7) (x1 : BitVec 4) (x2 x3 : BitVec 5) (x4 : BitVec 3) (x5 x6 : BitVec 2) (x7 : BitVec 4) :
    let w : W32 := x0 ++ x1 ++ x2 ++ x3 ++ x4 ++ x5 ++ x6 ++ x7
    (w.extractLsb' 25 7 = x0) ∧
      (w.extractLsb' 21 4 = x1) ∧
      (w.extractLsb' 16 5 = x2) ∧
      (w.extractLsb' 11 5 = x3) ∧
      (w.extractLsb' 6 2 = x5) ∧
      (w.extractLsb' 4 2 = x6) :=
  ⟨(@field_high 28 4 25 7 _ _ (by decide)).trans ((@field_high 26 2 21 7 _ _ (by decide)).trans ((@field_high 24 2 19 7 _ _ (by decide)).trans ((@field_high 21 3 17 7 _ _ (by decide)).trans ((@field_high 16 5 14 7 _ _ (by decide)).trans ((@field_high 11 5 9 7 _ _ (by decide)).trans ((@field_high 7 4 4 7 _ _ (by decide)).trans (field_self _))))))),
   (@field_high 28 4 21 4 _ _ (by decide)).trans ((@field_high 26 2 17 4 _ _ (by decide)).trans ((@field_high 24 2 15 4 _ _ (by decide)).trans ((@field_high 21 3 13 4 _ _ (by decide)).trans ((@field_high 16 5 10 4 _ _ (by decide)).trans ((@field_high 11 5 5 4 _ _ (by decide)).trans ((@field_low 7 4 0 4 _ _ (by decide)).trans (field_self _))))))),
   (@field_high 28 4 16 5 _ _ (by decide)).trans ((@field_high 26 2 12 5 _ _ (by decide)).trans ((@field_high 24 2 10 5 _ _ (by decide)).trans ((@field_high 21 3 8 5 _ _ (by decide)).trans ((@field_high 16 5 5 5 _ _ (by decide)).trans ((@field_low 11 5 0 5 _ _ (by decide)).trans (field_self _)))))),
   (@field_high 28 4 11 5 _ _ (by decide)).trans ((@field_high 26 2 7 5 _ _ (by decide)).trans ((@field_high 24 2 5 5 _ _ (by decide)).trans ((@field_high 21 3 3 5 _ _ (by decide)).trans ((@field_low 16 5 0 5 _ _ (by decide)).trans (field_self _))))),
   (@field_high 28 4 6 2 _ _ (by decide)).trans ((@field_high 26 2 2 2 _ _ (by decide)).trans ((@field_low 24 2 0 2 _ _ (by decide)).trans (field_self _))),
   (@field_high 28 4 4 2 _ _ (by decide)).trans ((@field_low 26 2 0 2 _ _ (by decide)).trans (field_self _))⟩

theorem word_8_3_3_2_3_2_3_2_2_4 (x0 : BitVec 8) (x1 x2 : BitVec 3) (x3 : BitVec 2) (x4 : BitVec 3) (x5 : BitVec 2) (x6 : BitVec 3) (x7 x8 : BitVec 2) (x9 : BitVec 4) :
    let w : W32 := x0 ++ x1 ++ x2 ++ x3 ++ x4 ++ x5 ++ x6 ++ x7 ++ x8 ++ x9
    (w.extractLsb' 25 7 = x0.extractLsb' 1 7) ∧
      (w.extractLsb' 21 3 = x1) ∧
      (w.extractLsb' 16 2 = x3) ∧
      (w.extractLsb' 11 2 = x5) ∧
      (w.extractLsb' 6 2 = x7) ∧
      (w.extractLsb' 4 2 = x8) :=
  ⟨(@field_high 28 4 25 7 _ _ (by decide)).trans ((@field_high 26 2 21 7 _ _ (by decide)).trans ((@field_high 24 2 19 7 _ _ (by decide)).trans ((@field_high 21 3 17 7 _ _ (by decide)).trans ((@field_high 19 2 14 7 _ _ (by decide)).trans ((@field_high 16 3 12 7 _ _ (by decide)).trans ((@field_high 14 2 9 7 _ _ (by decide)).trans ((@field_high 11 3 7 7 _ _ (by decide)).trans (@field_high 8 3 4 7 _ _ (by decide))))))))),
   (@field_high 28 4 21 3 _ _ (by decide)).trans ((@field_high 26 2 17 3 _ _ (by decide)).trans ((@field_high 24 2 15 3 _ _ (by decide)).trans ((@field_high 21 3 13 3 _ _ (by decide)).trans ((@field_high 19 2 10 3 _ _ (by decide)).trans ((@field_high 16 3 8 3 _ _ (by decide)).trans ((@field_high 14 2 5 3 _ _ (by decide)).trans ((@field_high 11 3 3 3 _ _ (by decide)).trans ((@field_low 8 3 0 3 _ _ (by decide)).trans (field_self _))))))))),
   (@field_high 28 4 16 2 _ _ (by decide)).trans ((@field_high 26 2 12 2 _ _ (by decide)).trans ((@field_high 24 2 10 2 _ _ (by decide)).trans ((@field_high 21 3 8 2 _ _ (by decide)).trans ((@field_high 19 2 5 2 _ _ (by decide)).trans ((@field_high 16 3 3 2 _ _ (by decide)).trans ((@field_low 14 2 0 2 _ _ (by decide)).trans (field_self _))))))),
   (@field_high 28 4 11 2 _ _ (by decide)).trans ((@field_high 26 2 7 2 _ _ (by decide)).trans ((@field_high 24 2 5 2 _ _ (by decide)).trans ((@field_high 21 3 3 2 _ _ (by decide)).trans ((@field_low 19 2 0 2 _ _ (by decide)).trans (field_self _))))),
   (@field_high 28 4 6 2 _ _ (by decide)).trans ((@field_high 26 2 2 2 _ _ (by decide)).trans ((@field_low 24 2 0 2 _ _ (by decide)).trans (field_self _))),
   (@field_high 28 4 4 2 _ _ (by decide)).trans ((@field_low 26 2 0 2 _ _ (by decide)).trans (field_self _))⟩

theorem word_9_2_5_5_5_2_4 (x0 : BitVec 9) (x1 : BitVec 2) (x2 x3 x4 : BitVec 5) (x5 : BitVec 2) (x6 : BitVec 4) :
    let w : W32 := x0 ++ x1 ++ x2 ++ x3 ++ x4 ++ x5 ++ x6
    (w.extractLsb' 25 7 = x0.extractLsb' 2 7) ∧
      (w.extractLsb' 21 2 = x1) ∧
      (w.extractLsb' 16 5 = x2) ∧
      (w.extractLsb' 11 5 = x3) ∧
      (w.extractLsb' 6 5 = x4) ∧
      (w.extractLsb' 4 2 = x5) :=
  ⟨(@field_high 28 4 25 7 _ _ (by decide)).trans ((@field_high 26 2 21 7 _ _ (by decide)).trans ((@field_high 21 5 19 7 _ _ (by decide)).trans ((@field_high 16 5 14 7 _ _ (by decide)).trans ((@field_high 11 5 9 7 _ _ (by decide)).trans (@field_high 9 2 4 7 _ _ (by decide)))))),
   (@field_high 28 4 21 2 _ _ (by decide)).trans ((@field_high 26 2 17 2 _ _ (by decide)).trans ((@field_high 21 5 15 2 _ _ (by decide)).trans ((@field_high 16 5 10 2 _ _ (by decide)).trans ((@field_high 11 5 5 2 _ _ (by decide)).trans ((@field_low 9 2 0 2 _ _ (by decide)).trans (field_self _)))))),
   (@field_high 28 4 16 5 _ _ (by decide)).trans ((@field_high 26 2 12 5 _ _ (by decide)).trans ((@field_high 21 5 10 5 _ _ (by decide)).trans ((@field_high 16 5 5 5 _ _ (by decide)).trans ((@field_low 11 5 0 5 _ _ (by decide)).trans (field_self _))))),
   (@field_high 28 4 11 5 _ _ (by decide)).trans ((@field_high 26 2 7 5 _ _ (by decide)).trans ((@field_high 21 5 5 5 _ _ (by decide)).trans ((@field_low 16 5 0 5 _ _ (by decide)).trans (field_self _)))),
   (@field_high 28 4 6 5 _ _ (by decide)).trans ((@field_high 26 2 2 5 _ _ (by decide)).trans ((@field_low 21 5 0 5 _ _ (by decide)).trans (field_self _))),
   (@field_high 28 4 4 2 _ _ (by decide)).trans ((@field_low 26 2 0 2 _ _ (by decide)).trans (field_self _))⟩

theorem word_24_2_2_4 (x0 : BitVec 24) (x1 x2 : BitVec 2) (x3 : BitVec 4) :
    let w : W32 := x0 ++ x1 ++ x2 ++ x3
    (w.extractLsb' 25 7 = x0.extractLsb' 17 7) ∧
      (w.extractLsb' 6 2 = x1) ∧
      (w.extractLsb' 4 2 = x2) :=
  ⟨(@field_high 28 4 25 7 _ _ (by decide)).trans ((@field_high 26 2 21 7 _ _ (by decide)).trans (@field_high 24 2 19 7 _ _ (by decide))),
   (@field_high 28 4 6 2 _ _ (by decide)).trans ((@field_high 26 2 2 2 _ _ (by decide)).trans ((@field_low 24 2 0 2 _ _ (by decide)).trans (field_self _))),
   (@field_high 28 4 4 2 _ _ (by decide)).trans ((@field_low 26 2 0 2 _ _ (by decide)).trans (field_self _))⟩

theorem word_11_5_8_2_6 (x0 : BitVec 11) (x1 : BitVec 5) (x2 : BitVec 8) (x3 : BitVec 2) (x4 : BitVec 6) :
    let w : W32 := x0 ++ x1 ++ x2 ++ x3 ++ x4
    (w.extractLsb' 25 7 = x0.extractLsb' 4 7) ∧
      (w.extractLsb' 16 5 = x1) ∧
      (w.extractLsb' 6 2 = x3) :=
  ⟨(@field_high 26 6 25 7 _ _ (by decide)).trans ((@field_high 24 2 19 7 _ _ (by decide)).trans ((@field_high 16 8 17 7 _ _ (by decide)).trans (@field_high 11 5 9 7 _ _ (by decide)))),
   (@field_high 26 6 16 5 _ _ (by decide)).trans ((@field_high 24 2 10 5 _ _ (by decide)).trans ((@field_high 16 8 8 5 _ _ (by decide)).trans ((@field_low 11 5 0 5 _ _ (by decide)).trans (field_self _)))),
   (@field_high 26 6 6 2 _ _ (by decide)).trans ((@field_low 24 2 0 2 _ _ (by decide)).trans (field_self _))⟩

theorem word_7_4_5_5_5_2_1_2_1 (x0 : BitVec 7) (x1 : BitVec 4) (x2 x3 x4 : BitVec 5) (x5 : BitVec 2) (x6 : BitVec 1) (x7 : BitVec 2) (x8 : BitVec 1) :
    let w : W32 := x0 ++ x1 ++ x2 ++ x3 ++ x4 ++ x5 ++ x6 ++ x7 ++ x8
    (w.extractLsb' 25 7 = x0) ∧
      (w.extractLsb' 21 4 = x1) ∧
      (w.extractLsb' 16 5 = x2) ∧
      (w.extractLsb' 11 5 = x3) ∧
      (w.extractLsb' 6 5 = x4) ∧
      (w.extractLsb' 4 2 = x5) ∧
      (w.extractLsb' 3 1 = x6) ∧
      (w.extractLsb' 1 2 = x7) ∧
      (w.extractLsb' 0 1 = x8) :=
  ⟨(@field_high 31 1 25 7 _ _ (by decide)).trans ((@field_high 29 2 24 7 _ _ (by decide)).trans ((@field_high 28 1 22 7 _ _ (by decide)).trans ((@field_high 26 2 21 7 _ _ (by decide)).trans ((@field_high 21 5 19 7 _ _ (by decide)).trans ((@field_high 16 5 14 7 _ _ (by decide)).trans ((@field_high 11 5 9 7 _ _ (by decide)).trans ((@field_high 7 4 4 7 _ _ (by decide)).trans (field_self _)))))))),
   (@field_high 31 1 21 4 _ _ (by decide)).trans ((@field_high 29 2 20 4 _ _ (by decide)).trans ((@field_high 28 1 18 4 _ _ (by decide)).trans ((@field_high 26 2 17 4 _ _ (by decide)).trans ((@field_high 21 5 15 4 _ _ (by decide)).trans ((@field_high 16 5 10 4 _ _ (by decide)).trans ((@field_high 11 5 5 4 _ _ (by decide)).trans ((@field_low 7 4 0 4 _ _ (by decide)).trans (field_self _)))))))),
   (@field_high 31 1 16 5 _ _ (by decide)).trans ((@field_high 29 2 15 5 _ _ (by decide)).trans ((@field_high 28 1 13 5 _ _ (by decide)).trans ((@field_high 26 2 12 5 _ _ (by decide)).trans ((@field_high 21 5 10 5 _ _ (by decide)).trans ((@field_high 16 5 5 5 _ _ (by decide)).trans ((@field_low 11 5 0 5 _ _ (by decide)).trans (field_self _))))))),
   (@field_high 31 1 11 5 _ _ (by decide)).trans ((@field_high 29 2 10 5 _ _ (by decide)).trans ((@field_high 28 1 8 5 _ _ (by decide)).trans ((@field_high 26 2 7 5 _ _ (by decide)).trans ((@field_high 21 5 5 5 _ _ (by decide)).trans ((@field_low 16 5 0 5 _ _ (by decide)).trans (field_self _)))))),
   (@field_high 31 1 6 5 _ _ (by decide)).trans ((@field_high 29 2 5 5 _ _ (by decide)).trans ((@field_high 28 1 3 5 _ _ (by decide)).trans ((@field_high 26 2 2 5 _ _ (by decide)).trans ((@field_low 21 5 0 5 _ _ (by decide)).trans (field_self _))))),
   (@field_high 31 1 4 2 _ _ (by decide)).trans ((@field_high 29 2 3 2 _ _ (by decide)).trans ((@field_high 28 1 1 2 _ _ (by decide)).trans ((@field_low 26 2 0 2 _ _ (by decide)).trans (field_self _)))),
   (@field_high 31 1 3 1 _ _ (by decide)).trans ((@field_high 29 2 2 1 _ _ (by decide)).trans ((@field_low 28 1 0 1 _ _ (by decide)).trans (field_self _))),
   (@field_high 31 1 1 2 _ _ (by decide)).trans ((@field_low 29 2 0 2 _ _ (by decide)).trans (field_self _)),
   (@field_low 31 1 0 1 _ _ (by decide)).trans (field_self _)⟩

theorem word_7_4_5_1_4_5_2_1_2_1 (x0 : BitVec 7) (x1 : BitVec 4) (x2 : BitVec 5) (x3 : BitVec 1) (x4 : BitVec 4) (x5 : BitVec 5) (x6 : BitVec 2) (x7 : BitVec 1) (x8 : BitVec 2) (x9 : BitVec 1) :
    let w : W32 := x0 ++ x1 ++ x2 ++ x3 ++ x4 ++ x5 ++ x6 ++ x7 ++ x8 ++ x9
    (w.extractLsb' 25 7 = x0) ∧
      (w.extractLsb' 21 4 = x1) ∧
      (w.extractLsb' 16 5 = x2) ∧
      (w.extractLsb' 11 4 = x4) ∧
      (w.extractLsb' 6 5 = x5) ∧
      (w.extractLsb' 4 2 = x6) ∧
      (w.extractLsb' 3 1 = x7) ∧
      (w.extractLsb' 1 2 = x8) ∧
      (w.extractLsb' 0 1 = x9) :=
  ⟨(@field_high 31 1 25 7 _ _ (by decide)).trans ((@field_high 29 2 24 7 _ _ (by decide)).trans ((@field_high 28 1 22 7 _ _ (by decide)).trans ((@field_high 26 2 21 7 _ _ (by decide)).trans ((@field_high 21 5 19 7 _ _ (by decide)).trans ((@field_high 17 4 14 7 _ _ (by decide)).trans ((@field_high 16 1 10 7 _ _ (by decide)).trans ((@field_high 11 5 9 7 _ _ (by decide)).trans ((@field_high 7 4 4 7 _ _ (by decide)).trans (field_self _))))))))),
   (@field_high 31 1 21 4 _ _ (by decide)).trans ((@field_high 29 2 20 4 _ _ (by decide)).trans ((@field_high 28 1 18 4 _ _ (by decide)).trans ((@field_high 26 2 17 4 _ _ (by decide)).trans ((@field_high 21 5 15 4 _ _ (by decide)).trans ((@field_high 17 4 10 4 _ _ (by decide)).trans ((@field_high 16 1 6 4 _ _ (by decide)).trans ((@field_high 11 5 5 4 _ _ (by decide)).trans ((@field_low 7 4 0 4 _ _ (by decide)).trans (field_self _))))))))),
   (@field_high 31 1 16 5 _ _ (by decide)).trans ((@field_high 29 2 15 5 _ _ (by decide)).trans ((@field_high 28 1 13 5 _ _ (by decide)).trans ((@field_high 26 2 12 5 _ _ (by decide)).trans ((@field_high 21 5 10 5 _ _ (by decide)).trans ((@field_high 17 4 5 5 _ _ (by decide)).trans ((@field_high 16 1 1 5 _ _ (by decide)).trans ((@field_low 11 5 0 5 _ _ (by decide)).trans (field_self _)))))))),
   (@field_high 31 1 11 4 _ _ (by decide)).trans ((@field_high 29 2 10 4 _ _ (by decide)).trans ((@field_high 28 1 8 4 _ _ (by decide)).trans ((@field_high 26 2 7 4 _ _ (by decide)).trans ((@field_high 21 5 5 4 _ _ (by decide)).trans ((@field_low 17 4 0 4 _ _ (by decide)).trans (field_self _)))))),
   (@field_high 31 1 6 5 _ _ (by decide)).trans ((@field_high 29 2 5 5 _ _ (by decide)).trans ((@field_high 28 1 3 5 _ _ (by decide)).trans ((@field_high 26 2 2 5 _ _ (by decide)).trans ((@field_low 21 5 0 5 _ _ (by decide)).trans (field_self _))))),
   (@field_high 31 1 4 2 _ _ (by decide)).trans ((@field_high 29 2 3 2 _ _ (by decide)).trans ((@field_high 28 1 1 2 _ _ (by decide)).trans ((@field_low 26 2 0 2 _ _ (by decide)).trans (field_self _)))),
   (@field_high 31 1 3 1 _ _ (by decide)).trans ((@field_high 29 2 2 1 _ _ (by decide)).trans ((@field_low 28 1 0 1 _ _ (by decide)).trans (field_self _))),
   (@field_high 31 1 1 2 _ _ (by decide)).trans ((@field_low 29 2 0 2 _ _ (by decide)).trans (field_self _)),
   (@field_low 31 1 0 1 _ _ (by decide)).trans (field_self _)⟩

theorem word_11_5_5_5_2_1_2_1 (x0 : BitVec 11) (x1 x2 x3 : BitVec 5) (x4 : BitVec 2) (x5 : BitVec 1) (x6 : BitVec 2) (x7 : BitVec 1) :
    let w : W32 := x0 ++ x1 ++ x2 ++ x3 ++ x4 ++ x5 ++ x6 ++ x7
    (w.extractLsb' 25 7 = x0.extractLsb' 4 7) ∧
      (w.extractLsb' 16 5 = x1) ∧
      (w.extractLsb' 11 5 = x2) ∧
      (w.extractLsb' 6 5 = x3) ∧
      (w.extractLsb' 4 2 = x4) ∧
      (w.extractLsb' 1 2 = x6) :=
  ⟨(@field_high 31 1 25 7 _ _ (by decide)).trans ((@field_high 29 2 24 7 _ _ (by decide)).trans ((@field_high 28 1 22 7 _ _ (by decide)).trans ((@field_high 26 2 21 7 _ _ (by decide)).trans ((@field_high 21 5 19 7 _ _ (by decide)).trans ((@field_high 16 5 14 7 _ _ (by decide)).trans (@field_high 11 5 9 7 _ _ (by decide))))))),
   (@field_high 31 1 16 5 _ _ (by decide)).trans ((@field_high 29 2 15 5 _ _ (by decide)).trans ((@field_high 28 1 13 5 _ _ (by decide)).trans ((@field_high 26 2 12 5 _ _ (by decide)).trans ((@field_high 21 5 10 5 _ _ (by decide)).trans ((@field_high 16 5 5 5 _ _ (by decide)).trans ((@field_low 11 5 0 5 _ _ (by decide)).trans (field_self _))))))),
   (@field_high 31 1 11 5 _ _ (by decide)).trans ((@field_high 29 2 10 5 _ _ (by decide)).trans ((@field_high 28 1 8 5 _ _ (by decide)).trans ((@field_high 26 2 7 5 _ _ (by decide)).trans ((@field_high 21 5 5 5 _ _ (by decide)).trans ((@field_low 16 5 0 5 _ _ (by decide)).trans (field_self _)))))),
   (@field_high 31 1 6 5 _ _ (by decide)).trans ((@field_high 29 2 5 5 _ _ (by decide)).trans ((@field_high 28 1 3 5 _ _ (by decide)).trans ((@field_high 26 2 2 5 _ _ (by decide)).trans ((@field_low 21 5 0 5 _ _ (by decide)).trans (field_self _))))),
   (@field_high 31 1 4 2 _ _ (by decide)).trans ((@field_high 29 2 3 2 _ _ (by decide)).trans ((@field_high 28 1 1 2 _ _ (by decide)).trans ((@field_low 26 2 0 2 _ _ (by decide)).trans (field_self _)))),
   (@field_high 31 1 1 2 _ _ (by decide)).trans ((@field_low 29 2 0 2 _ _ (by decide)).trans (field_self _))⟩

theorem word_11_5_5_5_2_1_3 (x0 : BitVec 11) (x1 x2 x3 : BitVec 5) (x4 : BitVec 2) (x5 : BitVec 1) (x6 : BitVec 3) :
    let w : W32 := x0 ++ x1 ++ x2 ++ x3 ++ x4 ++ x5 ++ x6
    (w.extractLsb' 25 7 = x0.extractLsb' 4 7) ∧
      (w.extractLsb' 16 5 = x1) ∧
      (w.extractLsb' 11 5 = x2) ∧
      (w.extractLsb' 6 5 = x3) ∧
      (w.extractLsb' 4 2 = x4) ∧
      (w.extractLsb' 3 1 = x5) :=
  ⟨(@field_high 29 3 25 7 _ _ (by decide)).trans ((@field_high 28 1 22 7 _ _ (by decide)).trans ((@field_high 26 2 21 7 _ _ (by decide)).trans ((@field_high 21 5 19 7 _ _ (by decide)).trans ((@field_high 16 5 14 7 _ _ (by decide)).trans (@field_high 11 5 9 7 _ _ (by decide)))))),
   (@field_high 29 3 16 5 _ _ (by decide)).trans ((@field_high 28 1 13 5 _ _ (by decide)).trans ((@field_high 26 2 12 5 _ _ (by decide)).trans ((@field_high 21 5 10 5 _ _ (by decide)).trans ((@field_high 16 5 5 5 _ _ (by decide)).trans ((@field_low 11 5 0 5 _ _ (by decide)).trans (field_self _)))))),
   (@field_high 29 3 11 5 _ _ (by decide)).trans ((@field_high 28 1 8 5 _ _ (by decide)).trans ((@field_high 26 2 7 5 _ _ (by decide)).trans ((@field_high 21 5 5 5 _ _ (by decide)).trans ((@field_low 16 5 0 5 _ _ (by decide)).trans (field_self _))))),
   (@field_high 29 3 6 5 _ _ (by decide)).trans ((@field_high 28 1 3 5 _ _ (by decide)).trans ((@field_high 26 2 2 5 _ _ (by decide)).trans ((@field_low 21 5 0 5 _ _ (by decide)).trans (field_self _)))),
   (@field_high 29 3 4 2 _ _ (by decide)).trans ((@field_high 28 1 1 2 _ _ (by decide)).trans ((@field_low 26 2 0 2 _ _ (by decide)).trans (field_self _))),
   (@field_high 29 3 3 1 _ _ (by decide)).trans ((@field_low 28 1 0 1 _ _ (by decide)).trans (field_self _))⟩

theorem word_10_1_5_5_5_2_4 (x0 : BitVec 10) (x1 : BitVec 1) (x2 x3 x4 : BitVec 5) (x5 : BitVec 2) (x6 : BitVec 4) :
    let w : W32 := x0 ++ x1 ++ x2 ++ x3 ++ x4 ++ x5 ++ x6
    (w.extractLsb' 25 7 = x0.extractLsb' 3 7) ∧
      (w.extractLsb' 21 1 = x1) ∧
      (w.extractLsb' 16 5 = x2) ∧
      (w.extractLsb' 11 5 = x3) ∧
      (w.extractLsb' 6 5 = x4) ∧
      (w.extractLsb' 4 2 = x5) :=
  ⟨(@field_high 28 4 25 7 _ _ (by decide)).trans ((@field_high 26 2 21 7 _ _ (by decide)).trans ((@field_high 21 5 19 7 _ _ (by decide)).trans ((@field_high 16 5 14 7 _ _ (by decide)).trans ((@field_high 11 5 9 7 _ _ (by decide)).trans (@field_high 10 1 4 7 _ _ (by decide)))))),
   (@field_high 28 4 21 1 _ _ (by decide)).trans ((@field_high 26 2 17 1 _ _ (by decide)).trans ((@field_high 21 5 15 1 _ _ (by decide)).trans ((@field_high 16 5 10 1 _ _ (by decide)).trans ((@field_high 11 5 5 1 _ _ (by decide)).trans ((@field_low 10 1 0 1 _ _ (by decide)).trans (field_self _)))))),
   (@field_high 28 4 16 5 _ _ (by decide)).trans ((@field_high 26 2 12 5 _ _ (by decide)).trans ((@field_high 21 5 10 5 _ _ (by decide)).trans ((@field_high 16 5 5 5 _ _ (by decide)).trans ((@field_low 11 5 0 5 _ _ (by decide)).trans (field_self _))))),
   (@field_high 28 4 11 5 _ _ (by decide)).trans ((@field_high 26 2 7 5 _ _ (by decide)).trans ((@field_high 21 5 5 5 _ _ (by decide)).trans ((@field_low 16 5 0 5 _ _ (by decide)).trans (field_self _)))),
   (@field_high 28 4 6 5 _ _ (by decide)).trans ((@field_high 26 2 2 5 _ _ (by decide)).trans ((@field_low 21 5 0 5 _ _ (by decide)).trans (field_self _))),
   (@field_high 28 4 4 2 _ _ (by decide)).trans ((@field_low 26 2 0 2 _ _ (by decide)).trans (field_self _))⟩

theorem word_11_5_5_3_2_2_4 (x0 : BitVec 11) (x1 x2 : BitVec 5) (x3 : BitVec 3) (x4 x5 : BitVec 2) (x6 : BitVec 4) :
    let w : W32 := x0 ++ x1 ++ x2 ++ x3 ++ x4 ++ x5 ++ x6
    (w.extractLsb' 25 7 = x0.extractLsb' 4 7) ∧
      (w.extractLsb' 16 5 = x1) ∧
      (w.extractLsb' 11 5 = x2) ∧
      (w.extractLsb' 6 2 = x4) ∧
      (w.extractLsb' 4 2 = x5) :=
  ⟨(@field_high 28 4 25 7 _ _ (by decide)).trans ((@field_high 26 2 21 7 _ _ (by decide)).trans ((@field_high 24 2 19 7 _ _ (by decide)).trans ((@field_high 21 3 17 7 _ _ (by decide)).trans ((@field_high 16 5 14 7 _ _ (by decide)).trans (@field_high 11 5 9 7 _ _ (by decide)))))),
   (@field_high 28 4 16 5 _ _ (by decide)).trans ((@field_high 26 2 12 5 _ _ (by decide)).trans ((@field_high 24 2 10 5 _ _ (by decide)).trans ((@field_high 21 3 8 5 _ _ (by decide)).trans ((@field_high 16 5 5 5 _ _ (by decide)).trans ((@field_low 11 5 0 5 _ _ (by decide)).trans (field_self _)))))),
   (@field_high 28 4 11 5 _ _ (by decide)).trans ((@field_high 26 2 7 5 _ _ (by decide)).trans ((@field_high 24 2 5 5 _ _ (by decide)).trans ((@field_high 21 3 3 5 _ _ (by decide)).trans ((@field_low 16 5 0 5 _ _ (by decide)).trans (field_self _))))),
   (@field_high 28 4 6 2 _ _ (by decide)).trans ((@field_high 26 2 2 2 _ _ (by decide)).trans ((@field_low 24 2 0 2 _ _ (by decide)).trans (field_self _))),
   (@field_high 28 4 4 2 _ _ (by decide)).trans ((@field_low 26 2 0 2 _ _ (by decide)).trans (field_self _))⟩

theorem word_7_4_2_1_1_1_2_1_3_1_9 (x0 : BitVec 7) (x1 : BitVec 4) (x2 : BitVec 2) (x3 x4 x5 : BitVec 1) (x6 : BitVec 2) (x7 : BitVec 1) (x8 : BitVec 3) (x9 : BitVec 1) (x10 : BitVec 9) :
    let w : W32 := x0 ++ x1 ++ x2 ++ x3 ++ x4 ++ x5 ++ x6 ++ x7 ++ x8 ++ x9 ++ x10
    (w.extractLsb' 25 7 = x0) ∧
      (w.extractLsb' 21 4 = x1) ∧
      (w.extractLsb' 19 2 = x2) ∧
      (w.extractLsb' 18 1 = x3) ∧
      (w.extractLsb' 17 1 = x4) ∧
      (w.extractLsb' 16 1 = x5) ∧
      (w.extractLsb' 14 2 = x6) ∧
      (w.extractLsb' 13 1 = x7) ∧
      (w.extractLsb' 10 3 = x8) ∧
      (w.extractLsb' 9 1 = x9) :=
  ⟨(@field_high 23 9 25 7 _ _ (by decide)).trans ((@field_high 22 1 16 7 _ _ (by decide)).trans ((@field_high 19 3 15 7 _ _ (by decide)).trans ((@field_high 18 1 12 7 _ _ (by decide)).trans ((@field_high 16 2 11 7 _ _ (by decide)).trans ((@field_high 15 1 9 7 _ _ (by decide)).trans ((@field_high 14 1 8 7 _ _ (by decide)).trans ((@field_high 13 1 7 7 _ _ (by decide)).trans ((@field_high 11 2 6 7 _ _ (by decide)).trans ((@field_high 7 4 4 7 _ _ (by decide)).trans (field_self _)))))))))),
   (@field_high 23 9 21 4 _ _ (by decide)).trans ((@field_high 22 1 12 4 _ _ (by decide)).trans ((@field_high 19 3 11 4 _ _ (by decide)).trans ((@field_high 18 1 8 4 _ _ (by decide)).trans ((@field_high 16 2 7 4 _ _ (by decide)).trans ((@field_high 15 1 5 4 _ _ (by decide)).trans ((@field_high 14 1 4 4 _ _ (by decide)).trans ((@field_high 13 1 3 4 _ _ (by decide)).trans ((@field_high 11 2 2 4 _ _ (by decide)).trans ((@field_low 7 4 0 4 _ _ (by decide)).trans (field_self _)))))))))),
   (@field_high 23 9 19 2 _ _ (by decide)).trans ((@field_high 22 1 10 2 _ _ (by decide)).trans ((@field_high 19 3 9 2 _ _ (by decide)).trans ((@field_high 18 1 6 2 _ _ (by decide)).trans ((@field_high 16 2 5 2 _ _ (by decide)).trans ((@field_high 15 1 3 2 _ _ (by decide)).trans ((@field_high 14 1 2 2 _ _ (by decide)).trans ((@field_high 13 1 1 2 _ _ (by decide)).trans ((@field_low 11 2 0 2 _ _ (by decide)).trans (field_self _))))))))),
   (@field_high 23 9 18 1 _ _ (by decide)).trans ((@field_high 22 1 9 1 _ _ (by decide)).trans ((@field_high 19 3 8 1 _ _ (by decide)).trans ((@field_high 18 1 5 1 _ _ (by decide)).trans ((@field_high 16 2 4 1 _ _ (by decide)).trans ((@field_high 15 1 2 1 _ _ (by decide)).trans ((@field_high 14 1 1 1 _ _ (by decide)).trans ((@field_low 13 1 0 1 _ _ (by decide)).trans (field_self _)))))))),
   (@field_high 23 9 17 1 _ _ (by decide)).trans ((@field_high 22 1 8 1 _ _ (by decide)).trans ((@field_high 19 3 7 1 _ _ (by decide)).trans ((@field_high 18 1 4 1 _ _ (by decide)).trans ((@field_high 16 2 3 1 _ _ (by decide)).trans ((@field_high 15 1 1 1 _ _ (by decide)).trans ((@field_low 14 1 0 1 _ _ (by decide)).trans (field_self _))))))),
   (@field_high 23 9 16 1 _ _ (by decide)).trans ((@field_high 22 1 7 1 _ _ (by decide)).trans ((@field_high 19 3 6 1 _ _ (by decide)).trans ((@field_high 18 1 3 1 _ _ (by decide)).trans ((@field_high 16 2 2 1 _ _ (by decide)).trans ((@field_low 15 1 0 1 _ _ (by decide)).trans (field_self _)))))),
   (@field_high 23 9 14 2 _ _ (by decide)).trans ((@field_high 22 1 5 2 _ _ (by decide)).trans ((@field_high 19 3 4 2 _ _ (by decide)).trans ((@field_high 18 1 1 2 _ _ (by decide)).trans ((@field_low 16 2 0 2 _ _ (by decide)).trans (field_self _))))),
   (@field_high 23 9 13 1 _ _ (by decide)).trans ((@field_high 22 1 4 1 _ _ (by decide)).trans ((@field_high 19 3 3 1 _ _ (by decide)).trans ((@field_low 18 1 0 1 _ _ (by decide)).trans (field_self _)))),
   (@field_high 23 9 10 3 _ _ (by decide)).trans ((@field_high 22 1 1 3 _ _ (by decide)).trans ((@field_low 19 3 0 3 _ _ (by decide)).trans (field_self _))),
   (@field_high 23 9 9 1 _ _ (by decide)).trans ((@field_low 22 1 0 1 _ _ (by decide)).trans (field_self _))⟩

theorem word_11_2_19 (x0 : BitVec 11) (x1 : BitVec 2) (x2 : BitVec 19) :
    let w : W32 := x0 ++ x1 ++ x2
    (w.extractLsb' 25 7 = x0.extractLsb' 4 7) ∧
      (w.extractLsb' 19 2 = x1) :=
  ⟨(@field_high 13 19 25 7 _ _ (by decide)).trans (@field_high 11 2 6 7 _ _ (by decide)),
   (@field_high 13 19 19 2 _ _ (by decide)).trans ((@field_low 11 2 0 2 _ _ (by decide)).trans (field_self _))⟩

theorem word_11_2_6_3_1_9 (x0 : BitVec 11) (x1 : BitVec 2) (x2 : BitVec 6) (x3 : BitVec 3) (x4 : BitVec 1) (x5 : BitVec 9) :
    let w : W32 := x0 ++ x1 ++ x2 ++ x3 ++ x4 ++ x5
    (w.extractLsb' 25 7 = x0.extractLsb' 4 7) ∧
      (w.extractLsb' 19 2 = x1) ∧
      (w.extractLsb' 10 3 = x3) ∧
      (w.extractLsb' 9 1 = x4) :=
  ⟨(@field_high 23 9 25 7 _ _ (by decide)).trans ((@field_high 22 1 16 7 _ _ (by decide)).trans ((@field_high 19 3 15 7 _ _ (by decide)).trans ((@field_high 13 6 12 7 _ _ (by decide)).trans (@field_high 11 2 6 7 _ _ (by decide))))),
   (@field_high 23 9 19 2 _ _ (by decide)).trans ((@field_high 22 1 10 2 _ _ (by decide)).trans ((@field_high 19 3 9 2 _ _ (by decide)).trans ((@field_high 13 6 6 2 _ _ (by decide)).trans ((@field_low 11 2 0 2 _ _ (by decide)).trans (field_self _))))),
   (@field_high 23 9 10 3 _ _ (by decide)).trans ((@field_high 22 1 1 3 _ _ (by decide)).trans ((@field_low 19 3 0 3 _ _ (by decide)).trans (field_self _))),
   (@field_high 23 9 9 1 _ _ (by decide)).trans ((@field_low 22 1 0 1 _ _ (by decide)).trans (field_self _))⟩

theorem word_11_2_10_9 (x0 : BitVec 11) (x1 : BitVec 2) (x2 : BitVec 10) (x3 : BitVec 9) :
    let w : W32 := x0 ++ x1 ++ x2 ++ x3
    (w.extractLsb' 25 7 = x0.extractLsb' 4 7) ∧
      (w.extractLsb' 19 2 = x1) ∧
      (w.extractLsb' 0 9 = x3) :=
  ⟨(@field_high 23 9 25 7 _ _ (by decide)).trans ((@field_high 13 10 16 7 _ _ (by decide)).trans (@field_high 11 2 6 7 _ _ (by decide))),
   (@field_high 23 9 19 2 _ _ (by decide)).trans ((@field_high 13 10 10 2 _ _ (by decide)).trans ((@field_low 11 2 0 2 _ _ (by decide)).trans (field_self _))),
   (@field_low 23 9 0 9 _ _ (by decide)).trans (field_self _)⟩

theorem word_6_5_5_5_11 (x0 : BitVec 6) (x1 x2 x3 : BitVec 5) (x4 : BitVec 11) :
    let w : W32 := x0 ++ x1 ++ x2 ++ x3 ++ x4
    (w.extractLsb' 26 6 = x0) ∧
      (w.extractLsb' 0 11 = x4) ∧
      (w.extractLsb' 21 5 = x1) ∧
      (w.extractLsb' 16 5 = x2) ∧
      (w.extractLsb' 11 5 = x3) :=
  ⟨(@field_high 21 11 26 6 _ _ (by decide)).trans ((@field_high 16 5 15 6 _ _ (by decide)).trans ((@field_high 11 5 10 6 _ _ (by decide)).trans ((@field_high 6 5 5 6 _ _ (by decide)).trans (field_self _)))),
   (@field_low 21 11 0 11 _ _ (by decide)).trans (field_self _),
   (@field_high 21 11 21 5 _ _ (by decide)).trans ((@field_high 16 5 10 5 _ _ (by decide)).trans ((@field_high 11 5 5 5 _ _ (by decide)).trans ((@field_low 6 5 0 5 _ _ (by decide)).trans (field_self _)))),
   (@field_high 21 11 16 5 _ _ (by decide)).trans ((@field_high 16 5 5 5 _ _ (by decide)).trans ((@field_low 11 5 0 5 _ _ (by decide)).trans (field_self _))),
   (@field_high 21 11 11 5 _ _ (by decide)).trans ((@field_low 16 5 0 5 _ _ (by decide)).trans (field_self _))⟩

theorem word_6_5_5_16 (x0 : BitVec 6) (x1 x2 : BitVec 5) (x3 : BitVec 16) :
    let w : W32 := x0 ++ x1 ++ x2 ++ x3
    (w.extractLsb' 26 6 = x0) ∧
      (w.extractLsb' 0 11 = x3.extractLsb' 0 11) ∧
      (w.extractLsb' 21 5 = x1) ∧
      (w.extractLsb' 16 5 = x2) ∧
      (w.extractLsb' 0 16 = x3) ∧
      (w.extractLsb' 0 4 = x3.extractLsb' 0 4) :=
  ⟨(@field_high 16 16 26 6 _ _ (by decide)).trans ((@field_high 11 5 10 6 _ _ (by decide)).trans ((@field_high 6 5 5 6 _ _ (by decide)).trans (field_self _))),
   @field_low 16 16 0 11 _ _ (by decide),
   (@field_high 16 16 21 5 _ _ (by decide)).trans ((@field_high 11 5 5 5 _ _ (by decide)).trans ((@field_low 6 5 0 5 _ _ (by decide)).trans (field_self _))),
   (@field_high 16 16 16 5 _ _ (by decide)).trans ((@field_low 11 5 0 5 _ _ (by decide)).trans (field_self _)),
   (@field_low 16 16 0 16 _ _ (by decide)).trans (field_self _),
   @field_low 16 16 0 4 _ _ (by decide)⟩

theorem word_6_5_5_10_6 (x0 : BitVec 6) (x1 x2 : BitVec 5) (x3 : BitVec 10) (x4 : BitVec 6) :
    let w : W32 := x0 ++ x1 ++ x2 ++ x3 ++ x4
    (w.extractLsb' 26 6 = x0) ∧
      (w.extractLsb' 14 2 = x3.extractLsb' 8 2) ∧
      (w.extractLsb' 21 5 = x1) ∧
      (w.extractLsb' 16 5 = x2) ∧
      (w.extractLsb' 0 6 = x4) :=
  ⟨(@field_high 26 6 26 6 _ _ (by decide)).trans ((@field_high 16 10 20 6 _ _ (by decide)).trans ((@field_high 11 5 10 6 _ _ (by decide)).trans ((@field_high 6 5 5 6 _ _ (by decide)).trans (field_self _)))),
   (@field_high 26 6 14 2 _ _ (by decide)).trans (@field_low 16 10 8 2 _ _ (by decide)),
   (@field_high 26 6 21 5 _ _ (by decide)).trans ((@field_high 16 10 15 5 _ _ (by decide)).trans ((@field_high 11 5 5 5 _ _ (by decide)).trans ((@field_low 6 5 0 5 _ _ (by decide)).trans (field_self _)))),
   (@field_high 26 6 16 5 _ _ (by decide)).trans ((@field_high 16 10 10 5 _ _ (by decide)).trans ((@field_low 11 5 0 5 _ _ (by decide)).trans (field_self _))),
   (@field_low 26 6 0 6 _ _ (by decide)).trans (field_self _)⟩

theorem word_6_5_5_2_2_2_10 (x0 : BitVec 6) (x1 x2 : BitVec 5) (x3 x4 x5 : BitVec 2) (x6 : BitVec 10) :
    let w : W32 := x0 ++ x1 ++ x2 ++ x3 ++ x4 ++ x5 ++ x6
    (w.extractLsb' 26 6 = x0) ∧
      (w.extractLsb' 21 5 = x1) ∧
      (w.extractLsb' 16 5 = x2) ∧
      (w.extractLsb' 14 2 = x3) ∧
      (w.extractLsb' 12 2 = x4) ∧
      (w.extractLsb' 10 2 = x5) ∧
      (w.extractLsb' 0 10 = x6) :=
  ⟨(@field_high 22 10 26 6 _ _ (by decide)).trans ((@field_high 20 2 16 6 _ _ (by decide)).trans ((@field_high 18 2 14 6 _ _ (by decide)).trans ((@field_high 16 2 12 6 _ _ (by decide)).trans ((@field_high 11 5 10 6 _ _ (by decide)).trans ((@field_high 6 5 5 6 _ _ (by decide)).trans (field_self _)))))),
   (@field_high 22 10 21 5 _ _ (by decide)).trans ((@field_high 20 2 11 5 _ _ (by decide)).trans ((@field_high 18 2 9 5 _ _ (by decide)).trans ((@field_high 16 2 7 5 _ _ (by decide)).trans ((@field_high 11 5 5 5 _ _ (by decide)).trans ((@field_low 6 5 0 5 _ _ (by decide)).trans (field_self _)))))),
   (@field_high 22 10 16 5 _ _ (by decide)).trans ((@field_high 20 2 6 5 _ _ (by decide)).trans ((@field_high 18 2 4 5 _ _ (by decide)).trans ((@field_high 16 2 2 5 _ _ (by decide)).trans ((@field_low 11 5 0 5 _ _ (by decide)).trans (field_self _))))),
   (@field_high 22 10 14 2 _ _ (by decide)).trans ((@field_high 20 2 4 2 _ _ (by decide)).trans ((@field_high 18 2 2 2 _ _ (by decide)).trans ((@field_low 16 2 0 2 _ _ (by decide)).trans (field_self _)))),
   (@field_high 22 10 12 2 _ _ (by decide)).trans ((@field_high 20 2 2 2 _ _ (by decide)).trans ((@field_low 18 2 0 2 _ _ (by decide)).trans (field_self _))),
   (@field_high 22 10 10 2 _ _ (by decide)).trans ((@field_low 20 2 0 2 _ _ (by decide)).trans (field_self _)),
   (@field_low 22 10 0 10 _ _ (by decide)).trans (field_self _)⟩

theorem word_6_5_5_5_2_2_1_1_5 (x0 : BitVec 6) (x1 x2 x3 : BitVec 5) (x4 x5 : BitVec 2) (x6 x7 : BitVec 1) (x8 : BitVec 5) :
    let w : W32 := x0 ++ x1 ++ x2 ++ x3 ++ x4 ++ x5 ++ x6 ++ x7 ++ x8
    (w.extractLsb' 26 6 = x0) ∧
      (w.extractLsb' 0 5 = x8) ∧
      (w.extractLsb' 21 5 = x1) ∧
      (w.extractLsb' 16 5 = x2) ∧
      (w.extractLsb' 11 5 = x3) ∧
      (w.extractLsb' 9 2 = x4) ∧
      (w.extractLsb' 7 2 = x5) ∧
      (w.extractLsb' 5 1 = x7) :=
  ⟨(@field_high 27 5 26 6 _ _ (by decide)).trans ((@field_high 26 1 21 6 _ _ (by decide)).trans ((@field_high 25 1 20 6 _ _ (by decide)).trans ((@field_high 23 2 19 6 _ _ (by decide)).trans ((@field_high 21 2 17 6 _ _ (by decide)).trans ((@field_high 16 5 15 6 _ _ (by decide)).trans ((@field_high 11 5 10 6 _ _ (by decide)).trans ((@field_high 6 5 5 6 _ _ (by decide)).trans (field_self _)))))))),
   (@field_low 27 5 0 5 _ _ (by decide)).trans (field_self _),
   (@field_high 27 5 21 5 _ _ (by decide)).trans ((@field_high 26 1 16 5 _ _ (by decide)).trans ((@field_high 25 1 15 5 _ _ (by decide)).trans ((@field_high 23 2 14 5 _ _ (by decide)).trans ((@field_high 21 2 12 5 _ _ (by decide)).trans ((@field_high 16 5 10 5 _ _ (by decide)).trans ((@field_high 11 5 5 5 _ _ (by decide)).trans ((@field_low 6 5 0 5 _ _ (by decide)).trans (field_self _)))))))),
   (@field_high 27 5 16 5 _ _ (by decide)).trans ((@field_high 26 1 11 5 _ _ (by decide)).trans ((@field_high 25 1 10 5 _ _ (by decide)).trans ((@field_high 23 2 9 5 _ _ (by decide)).trans ((@field_high 21 2 7 5 _ _ (by decide)).trans ((@field_high 16 5 5 5 _ _ (by decide)).trans ((@field_low 11 5 0 5 _ _ (by decide)).trans (field_self _))))))),
   (@field_high 27 5 11 5 _ _ (by decide)).trans ((@field_high 26 1 6 5 _ _ (by decide)).trans ((@field_high 25 1 5 5 _ _ (by decide)).trans ((@field_high 23 2 4 5 _ _ (by decide)).trans ((@field_high 21 2 2 5 _ _ (by decide)).trans ((@field_low 16 5 0 5 _ _ (by decide)).trans (field_self _)))))),
   (@field_high 27 5 9 2 _ _ (by decide)).trans ((@field_high 26 1 4 2 _ _ (by decide)).trans ((@field_high 25 1 3 2 _ _ (by decide)).trans ((@field_high 23 2 2 2 _ _ (by decide)).trans ((@field_low 21 2 0 2 _ _ (by decide)).trans (field_self _))))),
   (@field_high 27 5 7 2 _ _ (by decide)).trans ((@field_high 26 1 2 2 _ _ (by decide)).trans ((@field_high 25 1 1 2 _ _ (by decide)).trans ((@field_low 23 2 0 2 _ _ (by decide)).trans (field_self _)))),
   (@field_high 27 5 5 1 _ _ (by decide)).trans ((@field_low 26 1 0 1 _ _ (by decide)).trans (field_self _))⟩

theorem word_6_26 (x0 : BitVec 6) (x1 : BitVec 26) :
    let w : W32 := x0 ++ x1
    (w.extractLsb' 26 6 = x0) ∧
      (w.extractLsb' 0 26 = x1) :=
  ⟨(@field_high 6 26 26 6 _ _ (by decide)).trans (field_self _),
   (@field_low 6 26 0 26 _ _ (by decide)).trans (field_self _)⟩

theorem word_30_2 (x0 : BitVec 30) (x1 : BitVec 2) :
    let w : W32 := x0 ++ x1
    (w.extractLsb' 26 6 = x0.extractLsb' 24 6) ∧
      (w.extractLsb' 2 1 = x0.extractLsb' 0 1) ∧
      (w.extractLsb' 0 2 = x1) :=
  ⟨@field_high 30 2 26 6 _ _ (by decide),
   @field_high 30 2 2 1 _ _ (by decide),
   (@field_low 30 2 0 2 _ _ (by decide)).trans (field_self _)⟩

theorem word_11_5_5_9_2 (x0 : BitVec 11) (x1 x2 : BitVec 5) (x3 : BitVec 9) (x4 : BitVec 2) :
    let w : W32 := x0 ++ x1 ++ x2 ++ x3 ++ x4
    (w.extractLsb' 26 6 = x0.extractLsb' 5 6) ∧
      (w.extractLsb' 2 1 = x3.extractLsb' 0 1) ∧
      (w.extractLsb' 16 5 = x1) ∧
      (w.extractLsb' 11 5 = x2) ∧
      (w.extractLsb' 0 2 = x4) :=
  ⟨(@field_high 30 2 26 6 _ _ (by decide)).trans ((@field_high 21 9 24 6 _ _ (by decide)).trans ((@field_high 16 5 15 6 _ _ (by decide)).trans (@field_high 11 5 10 6 _ _ (by decide)))),
   (@field_high 30 2 2 1 _ _ (by decide)).trans (@field_low 21 9 0 1 _ _ (by decide)),
   (@field_high 30 2 16 5 _ _ (by decide)).trans ((@field_high 21 9 14 5 _ _ (by decide)).trans ((@field_high 16 5 5 5 _ _ (by decide)).trans ((@field_low 11 5 0 5 _ _ (by decide)).trans (field_self _)))),
   (@field_high 30 2 11 5 _ _ (by decide)).trans ((@field_high 21 9 9 5 _ _ (by decide)).trans ((@field_low 16 5 0 5 _ _ (by decide)).trans (field_self _))),
   (@field_low 30 2 0 2 _ _ (by decide)).trans (field_self _)⟩

theorem word_6_5_7_14 (x0 : BitVec 6) (x1 : BitVec 5) (x2 : BitVec 7) (x3 : BitVec 14) :
    let w : W32 := x0 ++ x1 ++ x2 ++ x3
    (w.extractLsb' 26 6 = x0) ∧
      (w.extractLsb' 21 5 = x1) ∧
      (w.extractLsb' 0 14 = x3) :=
  ⟨(@field_high 18 14 26 6 _ _ (by decide)).trans ((@field_high 11 7 12 6 _ _ (by decide)).trans ((@field_high 6 5 5 6 _ _ (by decide)).trans (field_self _))),
   (@field_high 18 14 21 5 _ _ (by decide)).trans ((@field_high 11 7 7 5 _ _ (by decide)).trans ((@field_low 6 5 0 5 _ _ (by decide)).trans (field_self _))),
   (@field_low 18 14 0 14 _ _ (by decide)).trans (field_self _)⟩

theorem word_11_5_2_14 (x0 : BitVec 11) (x1 : BitVec 5) (x2 : BitVec 2) (x3 : BitVec 14) :
    let w : W32 := x0 ++ x1 ++ x2 ++ x3
    (w.extractLsb' 26 6 = x0.extractLsb' 5 6) ∧
      (w.extractLsb' 16 5 = x1) ∧
      (w.extractLsb' 0 14 = x3) :=
  ⟨(@field_high 18 14 26 6 _ _ (by decide)).trans ((@field_high 16 2 12 6 _ _ (by decide)).trans (@field_high 11 5 10 6 _ _ (by decide))),
   (@field_high 18 14 16 5 _ _ (by decide)).trans ((@field_high 16 2 2 5 _ _ (by decide)).trans ((@field_low 11 5 0 5 _ _ (by decide)).trans (field_self _))),
   (@field_low 18 14 0 14 _ _ (by decide)).trans (field_self _)⟩

theorem word_16_16 (x0 x1 : BitVec 16) :
    let w : W32 := x0 ++ x1
    (w.extractLsb' 26 6 = x0.extractLsb' 10 6) ∧
      (w.extractLsb' 0 16 = x1) :=
  ⟨@field_high 16 16 26 6 _ _ (by decide),
   (@field_low 16 16 0 16 _ _ (by decide)).trans (field_self _)⟩

theorem word_6_5_5_4_8_4 (x0 : BitVec 6) (x1 x2 : BitVec 5) (x3 : BitVec 4) (x4 : BitVec 8) (x5 : BitVec 4) :
    let w : W32 := x0 ++ x1 ++ x2 ++ x3 ++ x4 ++ x5
    (w.extractLsb' 26 6 = x0) ∧
      (w.extractLsb' 21 5 = x1) ∧
      (w.extractLsb' 16 5 = x2) ∧
      (w.extractLsb' 12 4 = x3) ∧
      (w.extractLsb' 4 8 = x4) ∧
      (w.extractLsb' 0 4 = x5) :=
  ⟨(@field_high 28 4 26 6 _ _ (by decide)).trans ((@field_high 20 8 22 6 _ _ (by decide)).trans ((@field_high 16 4 14 6 _ _ (by decide)).trans ((@field_high 11 5 10 6 _ _ (by decide)).trans ((@field_high 6 5 5 6 _ _ (by decide)).trans (field_self _))))),
   (@field_high 28 4 21 5 _ _ (by decide)).trans ((@field_high 20 8 17 5 _ _ (by decide)).trans ((@field_high 16 4 9 5 _ _ (by decide)).trans ((@field_high 11 5 5 5 _ _ (by decide)).trans ((@field_low 6 5 0 5 _ _ (by decide)).trans (field_self _))))),
   (@field_high 28 4 16 5 _ _ (by decide)).trans ((@field_high 20 8 12 5 _ _ (by decide)).trans ((@field_high 16 4 4 5 _ _ (by decide)).trans ((@field_low 11 5 0 5 _ _ (by decide)).trans (field_self _)))),
   (@field_high 28 4 12 4 _ _ (by decide)).trans ((@field_high 20 8 8 4 _ _ (by decide)).trans ((@field_low 16 4 0 4 _ _ (by decide)).trans (field_self _))),
   (@field_high 28 4 4 8 _ _ (by decide)).trans ((@field_low 20 8 0 8 _ _ (by decide)).trans (field_self _)),
   (@field_low 28 4 0 4 _ _ (by decide)).trans (field_self _)⟩

theorem word_11_5_16 (x0 : BitVec 11) (x1 : BitVec 5) (x2 : BitVec 16) :
    let w : W32 := x0 ++ x1 ++ x2
    (w.extractLsb' 26 6 = x0.extractLsb' 5 6) ∧
      (w.extractLsb' 16 5 = x1) ∧
      (w.extractLsb' 0 4 = x2.extractLsb' 0 4) ∧
      (w.extractLsb' 0 11 = x2.extractLsb' 0 11) :=
  ⟨(@field_high 16 16 26 6 _ _ (by decide)).trans (@field_high 11 5 10 6 _ _ (by decide)),
   (@field_high 16 16 16 5 _ _ (by decide)).trans ((@field_low 11 5 0 5 _ _ (by decide)).trans (field_self _)),
   @field_low 16 16 0 4 _ _ (by decide),
   @field_low 16 16 0 11 _ _ (by decide)⟩

theorem word_6_5_21 (x0 : BitVec 6) (x1 : BitVec 5) (x2 : BitVec 21) :
    let w : W32 := x0 ++ x1 ++ x2
    (w.extractLsb' 26 6 = x0) ∧
      (w.extractLsb' 0 4 = x2.extractLsb' 0 4) ∧
      (w.extractLsb' 21 5 = x1) :=
  ⟨(@field_high 11 21 26 6 _ _ (by decide)).trans ((@field_high 6 5 5 6 _ _ (by decide)).trans (field_self _)),
   @field_low 11 21 0 4 _ _ (by decide),
   (@field_high 11 21 21 5 _ _ (by decide)).trans ((@field_low 6 5 0 5 _ _ (by decide)).trans (field_self _))⟩

theorem word_11_5_12_4 (x0 : BitVec 11) (x1 : BitVec 5) (x2 : BitVec 12) (x3 : BitVec 4) :
    let w : W32 := x0 ++ x1 ++ x2 ++ x3
    (w.extractLsb' 26 6 = x0.extractLsb' 5 6) ∧
      (w.extractLsb' 16 5 = x1) ∧
      (w.extractLsb' 0 4 = x3) :=
  ⟨(@field_high 28 4 26 6 _ _ (by decide)).trans ((@field_high 16 12 22 6 _ _ (by decide)).trans (@field_high 11 5 10 6 _ _ (by decide))),
   (@field_high 28 4 16 5 _ _ (by decide)).trans ((@field_high 16 12 12 5 _ _ (by decide)).trans ((@field_low 11 5 0 5 _ _ (by decide)).trans (field_self _))),
   (@field_low 28 4 0 4 _ _ (by decide)).trans (field_self _)⟩

theorem word_6_5_17_4 (x0 : BitVec 6) (x1 : BitVec 5) (x2 : BitVec 17) (x3 : BitVec 4) :
    let w : W32 := x0 ++ x1 ++ x2 ++ x3
    (w.extractLsb' 26 6 = x0) ∧
      (w.extractLsb' 21 5 = x1) ∧
      (w.extractLsb' 0 4 = x3) :=
  ⟨(@field_high 28 4 26 6 _ _ (by decide)).trans ((@field_high 11 17 22 6 _ _ (by decide)).trans ((@field_high 6 5 5 6 _ _ (by decide)).trans (field_self _))),
   (@field_high 28 4 21 5 _ _ (by decide)).trans ((@field_high 11 17 17 5 _ _ (by decide)).trans ((@field_low 6 5 0 5 _ _ (by decide)).trans (field_self _))),
   (@field_low 28 4 0 4 _ _ (by decide)).trans (field_self _)⟩

theorem word_20_8_4 (x0 : BitVec 20) (x1 : BitVec 8) (x2 : BitVec 4) :
    let w : W32 := x0 ++ x1 ++ x2
    (w.extractLsb' 26 6 = x0.extractLsb' 14 6) ∧
      (w.extractLsb' 4 8 = x1) :=
  ⟨(@field_high 28 4 26 6 _ _ (by decide)).trans (@field_high 20 8 22 6 _ _ (by decide)),
   (@field_high 28 4 4 8 _ _ (by decide)).trans ((@field_low 20 8 0 8 _ _ (by decide)).trans (field_self _))⟩

theorem word_11_5_1_3_12 (x0 : BitVec 11) (x1 : BitVec 5) (x2 : BitVec 1) (x3 : BitVec 3) (x4 : BitVec 12) :
    let w : W32 := x0 ++ x1 ++ x2 ++ x3 ++ x4
    (w.extractLsb' 26 6 = x0.extractLsb' 5 6) ∧
      (w.extractLsb' 16 5 = x1) ∧
      (w.extractLsb' 12 3 = x3) :=
  ⟨(@field_high 20 12 26 6 _ _ (by decide)).trans ((@field_high 17 3 14 6 _ _ (by decide)).trans ((@field_high 16 1 11 6 _ _ (by decide)).trans (@field_high 11 5 10 6 _ _ (by decide)))),
   (@field_high 20 12 16 5 _ _ (by decide)).trans ((@field_high 17 3 4 5 _ _ (by decide)).trans ((@field_high 16 1 1 5 _ _ (by decide)).trans ((@field_low 11 5 0 5 _ _ (by decide)).trans (field_self _)))),
   (@field_high 20 12 12 3 _ _ (by decide)).trans ((@field_low 17 3 0 3 _ _ (by decide)).trans (field_self _))⟩

theorem word_11_5_4_8_4 (x0 : BitVec 11) (x1 : BitVec 5) (x2 : BitVec 4) (x3 : BitVec 8) (x4 : BitVec 4) :
    let w : W32 := x0 ++ x1 ++ x2 ++ x3 ++ x4
    (w.extractLsb' 26 6 = x0.extractLsb' 5 6) ∧
      (w.extractLsb' 0 4 = x4) ∧
      (w.extractLsb' 16 5 = x1) ∧
      (w.extractLsb' 12 4 = x2) ∧
      (w.extractLsb' 4 8 = x3) :=
  ⟨(@field_high 28 4 26 6 _ _ (by decide)).trans ((@field_high 20 8 22 6 _ _ (by decide)).trans ((@field_high 16 4 14 6 _ _ (by decide)).trans (@field_high 11 5 10 6 _ _ (by decide)))),
   (@field_low 28 4 0 4 _ _ (by decide)).trans (field_self _),
   (@field_high 28 4 16 5 _ _ (by decide)).trans ((@field_high 20 8 12 5 _ _ (by decide)).trans ((@field_high 16 4 4 5 _ _ (by decide)).trans ((@field_low 11 5 0 5 _ _ (by decide)).trans (field_self _)))),
   (@field_high 28 4 12 4 _ _ (by decide)).trans ((@field_high 20 8 8 4 _ _ (by decide)).trans ((@field_low 16 4 0 4 _ _ (by decide)).trans (field_self _))),
   (@field_high 28 4 4 8 _ _ (by decide)).trans ((@field_low 20 8 0 8 _ _ (by decide)).trans (field_self _))⟩

theorem word_11_5_5_11 (x0 : BitVec 11) (x1 x2 : BitVec 5) (x3 : BitVec 11) :
    let w : W32 := x0 ++ x1 ++ x2 ++ x3
    (w.extractLsb' 26 6 = x0.extractLsb' 5 6) ∧
      (w.extractLsb' 0 11 = x3) ∧
      (w.extractLsb' 16 5 = x1) ∧
      (w.extractLsb' 11 5 = x2) :=
  ⟨(@field_high 21 11 26 6 _ _ (by decide)).trans ((@field_high 16 5 15 6 _ _ (by decide)).trans (@field_high 11 5 10 6 _ _ (by decide))),
   (@field_low 21 11 0 11 _ _ (by decide)).trans (field_self _),
   (@field_high 21 11 16 5 _ _ (by decide)).trans ((@field_high 16 5 5 5 _ _ (by decide)).trans ((@field_low 11 5 0 5 _ _ (by decide)).trans (field_self _))),
   (@field_high 21 11 11 5 _ _ (by decide)).trans ((@field_low 16 5 0 5 _ _ (by decide)).trans (field_self _))⟩

theorem Encoding.itemTimeBoundary (g : Nat) : Encoding.Statement (.itemTimeBoundary g) := rfl

theorem Encoding.itemAdmission (g : Nat) : Encoding.Statement (.itemAdmission g) := rfl

theorem Encoding.slotSwitch (r : Nat) : Encoding.Statement (.slotSwitch r) := rfl

theorem Encoding.scrJobStep (r : Nat) : Encoding.Statement (.scrJobStep r) := rfl

theorem Encoding.phaseRetirement (g : Nat) : Encoding.Statement (.phaseRetirement g) := rfl

theorem Encoding.mergeDeadlock (g : Nat) : Encoding.Statement (.mergeDeadlock g) := rfl

theorem Encoding.agLineRequest (r ag : Nat) : Encoding.Statement (.agLineRequest r ag) := rfl

theorem Encoding.agLineCompletion (r ag k : Nat) : Encoding.Statement (.agLineCompletion r ag k) := rfl

theorem Encoding.prqHeldPlacement (die : Nat) : Encoding.Statement (.prqHeldPlacement die) := rfl

theorem Encoding.bankLoadWriteback (g : Nat) : Encoding.Statement (.bankLoadWriteback g) := rfl

theorem Encoding.accDrain (g blk : Nat) : Encoding.Statement (.accDrain g blk) := rfl

theorem Encoding.tileDecision (g : Nat) : Encoding.Statement (.tileDecision g) := rfl

theorem Encoding.copyAccept (r : Nat) : Encoding.Statement (.copyAccept r) := rfl

theorem Encoding.billetFire (r : Nat) : Encoding.Statement (.billetFire r) := rfl

theorem Encoding.copyComplete (r k : Nat) : Encoding.Statement (.copyComplete r k) := rfl

theorem Encoding.remoteRetryExhausted (r k : Nat) : Encoding.Statement (.remoteRetryExhausted r k) := rfl

theorem Encoding.asyncMaskSatisfied (r k : Nat) : Encoding.Statement (.asyncMaskSatisfied r k) := rfl

theorem Encoding.ploadAccept (r k : Nat) : Encoding.Statement (.ploadAccept r k) := rfl

theorem Encoding.loadWriteback (th k part : Nat) : Encoding.Statement (.loadWriteback th k part) := rfl

theorem Encoding.storePerform (th k : Nat) : Encoding.Statement (.storePerform th k) := rfl

theorem Encoding.supervisorTimer (r : Nat) : Encoding.Statement (.supervisorTimer r) := rfl

theorem Encoding.hypervisorTimer (die : Nat) : Encoding.Statement (.hypervisorTimer die) := rfl

theorem Encoding.sweepmaxOverrun (g : Nat) : Encoding.Statement (.sweepmaxOverrun g) := rfl

theorem Encoding.preemptionCapture (r : Nat) : Encoding.Statement (.preemptionCapture r) := rfl

theorem Encoding.tenantSwitch (r : Nat) : Encoding.Statement (.tenantSwitch r) := rfl

theorem Encoding.tsentEnable (idx : Nat) (v : BitVec 64) : Encoding.Statement (.tsentEnable idx v) := rfl

theorem Encoding.rnoteWrite (v : BitVec 64) : Encoding.Statement (.rnoteWrite v) := rfl

theorem Encoding.hevtRead (rd : BitVec 5) : Encoding.Statement (.hevtRead rd) := rfl

theorem Encoding.prqpopRead (rd : BitVec 5) : Encoding.Statement (.prqpopRead rd) := rfl

theorem Encoding.wmemWrite (half : Nat) (v : BitVec 64) : Encoding.Statement (.wmemWrite half v) := rfl

theorem Encoding.powerTransitionComplete (r : Nat) : Encoding.Statement (.powerTransitionComplete r) := rfl

theorem Encoding.tokenWake (r q : Nat) (tok : BitVec 32) : Encoding.Statement (.tokenWake r q tok) := rfl

theorem Encoding.powerOnStart (failStep : Nat) : Encoding.Statement (.powerOnStart failStep) := rfl

theorem Encoding.bootctlCold (failStep : Nat) : Encoding.Statement (.bootctlCold failStep) := rfl

theorem Encoding.bootctlWarm (failStep : Nat) : Encoding.Statement (.bootctlWarm failStep) := rfl

theorem Encoding.i3cStartRequest (cold : Bool) (failStep : Nat) : Encoding.Statement (.i3cStartRequest cold failStep) := rfl

theorem Encoding.i3cRead (idx : Nat) : Encoding.Statement (.i3cRead idx) := rfl

theorem Encoding.droopTrip (die : Nat) : Encoding.Statement (.droopTrip die) := rfl

theorem Encoding.fclkRaise (die : Nat) : Encoding.Statement (.fclkRaise die) := rfl

theorem Encoding.linkStateChange (die link : Nat) (up : Bool) : Encoding.Statement (.linkStateChange die link up) := rfl

theorem Encoding.lqtailWrite (v : BitVec 64) : Encoding.Statement (.lqtailWrite v) := rfl

theorem Encoding.doorbellWrite (addr : Nat) (v : BitVec 64) : Encoding.Statement (.doorbellWrite addr v) := rfl

theorem Encoding.launchConsume (vf : Nat) : Encoding.Statement (.launchConsume vf) := rfl

theorem Encoding.ldoneWrite (v : BitVec 64) : Encoding.Statement (.ldoneWrite v) := rfl

theorem Encoding.rdbgdRead (rd : BitVec 5) : Encoding.Statement (.rdbgdRead rd) := rfl

theorem Encoding.rdbgdWrite (v : BitVec 64) : Encoding.Statement (.rdbgdWrite v) := rfl

theorem Encoding.registerWrite (n : Nat) (v : BitVec 64) : Encoding.Statement (.registerWrite n v) := rfl

theorem Encoding.mov (a b d : BitVec 5) (g : BitVec 2) : Encoding.Statement (.mov a b d g) := by
  obtain ⟨h0, h1, h2, h3, h4⟩ := word_11_5_5_5_2_4 0x10#11 a b d g 0x0#4
  refine Encoding.elem_ok rfl rfl rfl ?_
  unfold rawElem
  rewrite [bits_of (hi := 31) (lo := 25) (c := 1) h0 (by decide)]
  show some _ = some _
  rw [h1, h2, h3, h4]

theorem Encoding.veAdd (t : BitVec 4) (a b d : BitVec 5) (g : BitVec 2) (s : BitVec 1) : Encoding.Statement (.veAdd t a b d g s) := by
  obtain ⟨h0, h1, h2, h3, h4, h5, h6⟩ := word_7_4_5_5_5_2_1_3 0x2#7 t a b d g s 0x0#3
  refine Encoding.elem_ok rfl rfl rfl ?_
  unfold rawElem
  rewrite [bits_of (hi := 31) (lo := 25) (c := 2) h0 (by decide)]
  show some _ = some _
  rw [h1, h2, h3, h4, h5, h6]

theorem Encoding.veSub (t : BitVec 4) (a b d : BitVec 5) (g : BitVec 2) (s : BitVec 1) : Encoding.Statement (.veSub t a b d g s) := by
  obtain ⟨h0, h1, h2, h3, h4, h5, h6⟩ := word_7_4_5_5_5_2_1_3 0x3#7 t a b d g s 0x0#3
  refine Encoding.elem_ok rfl rfl rfl ?_
  unfold rawElem
  rewrite [bits_of (hi := 31) (lo := 25) (c := 3) h0 (by decide)]
  show some _ = some _
  rw [h1, h2, h3, h4, h5, h6]

theorem Encoding.veMul (t : BitVec 4) (a b d : BitVec 5) (g : BitVec 2) (s : BitVec 1) : Encoding.Statement (.veMul t a b d g s) := by
  obtain ⟨h0, h1, h2, h3, h4, h5, h6⟩ := word_7_4_5_5_5_2_1_3 0x4#7 t a b d g s 0x0#3
  refine Encoding.elem_ok rfl rfl rfl ?_
  unfold rawElem
  rewrite [bits_of (hi := 31) (lo := 25) (c := 4) h0 (by decide)]
  show some _ = some _
  rw [h1, h2, h3, h4, h5, h6]

theorem Encoding.veMulh (t : BitVec 4) (a b d : BitVec 5) (g : BitVec 2) : Encoding.Statement (.veMulh t a b d g) := by
  obtain ⟨h0, h1, h2, h3, h4, h5⟩ := word_7_4_5_5_5_2_4 0x5#7 t a b d g 0x0#4
  refine Encoding.elem_ok rfl rfl rfl ?_
  unfold rawElem
  rewrite [bits_of (hi := 31) (lo := 25) (c := 5) h0 (by decide)]
  show some _ = some _
  rw [h1, h2, h3, h4, h5]

theorem Encoding.mad (t : BitVec 4) (a b d : BitVec 5) (g : BitVec 2) (s : BitVec 1) : Encoding.Statement (.mad t a b d g s) := by
  obtain ⟨h0, h1, h2, h3, h4, h5, h6⟩ := word_7_4_5_5_5_2_1_3 0x6#7 t a b d g s 0x0#3
  refine Encoding.elem_ok rfl rfl rfl ?_
  unfold rawElem
  rewrite [bits_of (hi := 31) (lo := 25) (c := 6) h0 (by decide)]
  show some _ = some _
  rw [h1, h2, h3, h4, h5, h6]

theorem Encoding.veMin (t : BitVec 4) (a b d : BitVec 5) (g : BitVec 2) : Encoding.Statement (.veMin t a b d g) := by
  obtain ⟨h0, h1, h2, h3, h4, h5⟩ := word_7_4_5_5_5_2_4 0x7#7 t a b d g 0x0#4
  refine Encoding.elem_ok rfl rfl rfl ?_
  unfold rawElem
  rewrite [bits_of (hi := 31) (lo := 25) (c := 7) h0 (by decide)]
  show some _ = some _
  rw [h1, h2, h3, h4, h5]

theorem Encoding.veMax (t : BitVec 4) (a b d : BitVec 5) (g : BitVec 2) : Encoding.Statement (.veMax t a b d g) := by
  obtain ⟨h0, h1, h2, h3, h4, h5⟩ := word_7_4_5_5_5_2_4 0x8#7 t a b d g 0x0#4
  refine Encoding.elem_ok rfl rfl rfl ?_
  unfold rawElem
  rewrite [bits_of (hi := 31) (lo := 25) (c := 8) h0 (by decide)]
  show some _ = some _
  rw [h1, h2, h3, h4, h5]

theorem Encoding.abs (t : BitVec 4) (a b d : BitVec 5) (g : BitVec 2) (s : BitVec 1) : Encoding.Statement (.abs t a b d g s) := by
  obtain ⟨h0, h1, h2, h3, h4, h5, h6⟩ := word_7_4_5_5_5_2_1_3 0x9#7 t a b d g s 0x0#3
  refine Encoding.elem_ok rfl rfl rfl ?_
  unfold rawElem
  rewrite [bits_of (hi := 31) (lo := 25) (c := 9) h0 (by decide)]
  show some _ = some _
  rw [h1, h2, h3, h4, h5, h6]

theorem Encoding.neg (t : BitVec 4) (a b d : BitVec 5) (g : BitVec 2) (s : BitVec 1) : Encoding.Statement (.neg t a b d g s) := by
  obtain ⟨h0, h1, h2, h3, h4, h5, h6⟩ := word_7_4_5_5_5_2_1_3 0xA#7 t a b d g s 0x0#3
  refine Encoding.elem_ok rfl rfl rfl ?_
  unfold rawElem
  rewrite [bits_of (hi := 31) (lo := 25) (c := 10) h0 (by decide)]
  show some _ = some _
  rw [h1, h2, h3, h4, h5, h6]

theorem Encoding.veAnd (a b d : BitVec 5) (g : BitVec 2) : Encoding.Statement (.veAnd a b d g) := by
  obtain ⟨h0, h1, h2, h3, h4⟩ := word_11_5_5_5_2_4 0xB1#11 a b d g 0x0#4
  refine Encoding.elem_ok rfl rfl rfl ?_
  unfold rawElem
  rewrite [bits_of (hi := 31) (lo := 25) (c := 11) h0 (by decide)]
  show some _ = some _
  rw [h1, h2, h3, h4]

theorem Encoding.veOr (a b d : BitVec 5) (g : BitVec 2) : Encoding.Statement (.veOr a b d g) := by
  obtain ⟨h0, h1, h2, h3, h4⟩ := word_11_5_5_5_2_4 0xC1#11 a b d g 0x0#4
  refine Encoding.elem_ok rfl rfl rfl ?_
  unfold rawElem
  rewrite [bits_of (hi := 31) (lo := 25) (c := 12) h0 (by decide)]
  show some _ = some _
  rw [h1, h2, h3, h4]

theorem Encoding.veXor (a b d : BitVec 5) (g : BitVec 2) : Encoding.Statement (.veXor a b d g) := by
  obtain ⟨h0, h1, h2, h3, h4⟩ := word_11_5_5_5_2_4 0xD1#11 a b d g 0x0#4
  refine Encoding.elem_ok rfl rfl rfl ?_
  unfold rawElem
  rewrite [bits_of (hi := 31) (lo := 25) (c := 13) h0 (by decide)]
  show some _ = some _
  rw [h1, h2, h3, h4]

theorem Encoding.veAndn (a b d : BitVec 5) (g : BitVec 2) : Encoding.Statement (.veAndn a b d g) := by
  obtain ⟨h0, h1, h2, h3, h4⟩ := word_11_5_5_5_2_4 0xE1#11 a b d g 0x0#4
  refine Encoding.elem_ok rfl rfl rfl ?_
  unfold rawElem
  rewrite [bits_of (hi := 31) (lo := 25) (c := 14) h0 (by decide)]
  show some _ = some _
  rw [h1, h2, h3, h4]

theorem Encoding.not (a b d : BitVec 5) (g : BitVec 2) : Encoding.Statement (.not a b d g) := by
  obtain ⟨h0, h1, h2, h3, h4⟩ := word_11_5_5_5_2_4 0xF1#11 a b d g 0x0#4
  refine Encoding.elem_ok rfl rfl rfl ?_
  unfold rawElem
  rewrite [bits_of (hi := 31) (lo := 25) (c := 15) h0 (by decide)]
  show some _ = some _
  rw [h1, h2, h3, h4]

theorem Encoding.shl (t : BitVec 4) (a b d : BitVec 5) (g : BitVec 2) (s : BitVec 1) : Encoding.Statement (.shl t a b d g s) := by
  obtain ⟨h0, h1, h2, h3, h4, h5, h6⟩ := word_7_4_5_5_5_2_1_3 0x10#7 t a b d g s 0x0#3
  refine Encoding.elem_ok rfl rfl rfl ?_
  unfold rawElem
  rewrite [bits_of (hi := 31) (lo := 25) (c := 16) h0 (by decide)]
  show some _ = some _
  rw [h1, h2, h3, h4, h5, h6]

theorem Encoding.shr (t : BitVec 4) (a b d : BitVec 5) (g : BitVec 2) : Encoding.Statement (.shr t a b d g) := by
  obtain ⟨h0, h1, h2, h3, h4, h5⟩ := word_7_4_5_5_5_2_4 0x11#7 t a b d g 0x0#4
  refine Encoding.elem_ok rfl rfl rfl ?_
  unfold rawElem
  rewrite [bits_of (hi := 31) (lo := 25) (c := 17) h0 (by decide)]
  show some _ = some _
  rw [h1, h2, h3, h4, h5]

theorem Encoding.rol (t : BitVec 4) (a b d : BitVec 5) (g : BitVec 2) : Encoding.Statement (.rol t a b d g) := by
  obtain ⟨h0, h1, h2, h3, h4, h5⟩ := word_7_4_5_5_5_2_4 0x12#7 t a b d g 0x0#4
  refine Encoding.elem_ok rfl rfl rfl ?_
  unfold rawElem
  rewrite [bits_of (hi := 31) (lo := 25) (c := 18) h0 (by decide)]
  show some _ = some _
  rw [h1, h2, h3, h4, h5]

theorem Encoding.veClz (t : BitVec 4) (a b d : BitVec 5) (g : BitVec 2) : Encoding.Statement (.veClz t a b d g) := by
  obtain ⟨h0, h1, h2, h3, h4, h5⟩ := word_7_4_5_5_5_2_4 0x13#7 t a b d g 0x0#4
  refine Encoding.elem_ok rfl rfl rfl ?_
  unfold rawElem
  rewrite [bits_of (hi := 31) (lo := 25) (c := 19) h0 (by decide)]
  show some _ = some _
  rw [h1, h2, h3, h4, h5]

theorem Encoding.vePopc (t : BitVec 4) (a b d : BitVec 5) (g : BitVec 2) : Encoding.Statement (.vePopc t a b d g) := by
  obtain ⟨h0, h1, h2, h3, h4, h5⟩ := word_7_4_5_5_5_2_4 0x14#7 t a b d g 0x0#4
  refine Encoding.elem_ok rfl rfl rfl ?_
  unfold rawElem
  rewrite [bits_of (hi := 31) (lo := 25) (c := 20) h0 (by decide)]
  show some _ = some _
  rw [h1, h2, h3, h4, h5]

theorem Encoding.avg (t : BitVec 4) (a b d : BitVec 5) (g : BitVec 2) : Encoding.Statement (.avg t a b d g) := by
  obtain ⟨h0, h1, h2, h3, h4, h5⟩ := word_7_4_5_5_5_2_4 0x15#7 t a b d g 0x0#4
  refine Encoding.elem_ok rfl rfl rfl ?_
  unfold rawElem
  rewrite [bits_of (hi := 31) (lo := 25) (c := 21) h0 (by decide)]
  show some _ = some _
  rw [h1, h2, h3, h4, h5]

theorem Encoding.veAddi (t : BitVec 1) (a : BitVec 5) (i : BitVec 11) (d : BitVec 5) : Encoding.Statement (.veAddi t a i d) := by
  obtain ⟨h0, h1, h2, h3, h4, h5⟩ := word_10_1_5_5_5_6 0xB0#10 t a ((i.extractLsb' 6 5)) d ((i.extractLsb' 0 6))
  refine Encoding.elem_ok rfl rfl rfl ?_
  unfold rawElem
  rewrite [bits_of (hi := 31) (lo := 25) (c := 22) h0 (by decide)]
  show some _ = some _
  rw [h1, h2, h3, h4, h5, field_join]

theorem Encoding.movi (a : BitVec 5) (i : BitVec 11) (d : BitVec 5) : Encoding.Statement (.movi a i d) := by
  obtain ⟨h0, h1, h2, h3, h4⟩ := word_11_5_5_5_6 0x170#11 a ((i.extractLsb' 6 5)) d ((i.extractLsb' 0 6))
  refine Encoding.elem_ok rfl rfl rfl ?_
  unfold rawElem
  rewrite [bits_of (hi := 31) (lo := 25) (c := 23) h0 (by decide)]
  show some _ = some _
  rw [h1, h2, h3, h4, field_join]

theorem Encoding.cmpEq (t : BitVec 4) (a b : BitVec 5) (q g : BitVec 2) : Encoding.Statement (.cmpEq t a b q g) := by
  obtain ⟨h0, h1, h2, h3, h4, h5⟩ := word_7_4_5_5_3_2_2_4 0x18#7 t a b 0x0#3 q g 0x0#4
  refine Encoding.elem_ok rfl rfl rfl ?_
  unfold rawElem
  rewrite [bits_of (hi := 31) (lo := 25) (c := 24) h0 (by decide)]
  show some _ = some _
  rw [h1, h2, h3, h4, h5]

theorem Encoding.cmpNe (t : BitVec 4) (a b : BitVec 5) (q g : BitVec 2) : Encoding.Statement (.cmpNe t a b q g) := by
  obtain ⟨h0, h1, h2, h3, h4, h5⟩ := word_7_4_5_5_3_2_2_4 0x19#7 t a b 0x0#3 q g 0x0#4
  refine Encoding.elem_ok rfl rfl rfl ?_
  unfold rawElem
  rewrite [bits_of (hi := 31) (lo := 25) (c := 25) h0 (by decide)]
  show some _ = some _
  rw [h1, h2, h3, h4, h5]

theorem Encoding.cmpLt (t : BitVec 4) (a b : BitVec 5) (q g : BitVec 2) : Encoding.Statement (.cmpLt t a b q g) := by
  obtain ⟨h0, h1, h2, h3, h4, h5⟩ := word_7_4_5_5_3_2_2_4 0x1A#7 t a b 0x0#3 q g 0x0#4
  refine Encoding.elem_ok rfl rfl rfl ?_
  unfold rawElem
  rewrite [bits_of (hi := 31) (lo := 25) (c := 26) h0 (by decide)]
  show some _ = some _
  rw [h1, h2, h3, h4, h5]

theorem Encoding.cmpLe (t : BitVec 4) (a b : BitVec 5) (q g : BitVec 2) : Encoding.Statement (.cmpLe t a b q g) := by
  obtain ⟨h0, h1, h2, h3, h4, h5⟩ := word_7_4_5_5_3_2_2_4 0x1B#7 t a b 0x0#3 q g 0x0#4
  refine Encoding.elem_ok rfl rfl rfl ?_
  unfold rawElem
  rewrite [bits_of (hi := 31) (lo := 25) (c := 27) h0 (by decide)]
  show some _ = some _
  rw [h1, h2, h3, h4, h5]

theorem Encoding.cmpGt (t : BitVec 4) (a b : BitVec 5) (q g : BitVec 2) : Encoding.Statement (.cmpGt t a b q g) := by
  obtain ⟨h0, h1, h2, h3, h4, h5⟩ := word_7_4_5_5_3_2_2_4 0x1C#7 t a b 0x0#3 q g 0x0#4
  refine Encoding.elem_ok rfl rfl rfl ?_
  unfold rawElem
  rewrite [bits_of (hi := 31) (lo := 25) (c := 28) h0 (by decide)]
  show some _ = some _
  rw [h1, h2, h3, h4, h5]

theorem Encoding.cmpGe (t : BitVec 4) (a b : BitVec 5) (q g : BitVec 2) : Encoding.Statement (.cmpGe t a b q g) := by
  obtain ⟨h0, h1, h2, h3, h4, h5⟩ := word_7_4_5_5_3_2_2_4 0x1D#7 t a b 0x0#3 q g 0x0#4
  refine Encoding.elem_ok rfl rfl rfl ?_
  unfold rawElem
  rewrite [bits_of (hi := 31) (lo := 25) (c := 29) h0 (by decide)]
  show some _ = some _
  rw [h1, h2, h3, h4, h5]

theorem Encoding.cmpUn (t : BitVec 4) (a b : BitVec 5) (q g : BitVec 2) : Encoding.Statement (.cmpUn t a b q g) := by
  obtain ⟨h0, h1, h2, h3, h4, h5⟩ := word_7_4_5_5_3_2_2_4 0x1E#7 t a b 0x0#3 q g 0x0#4
  refine Encoding.elem_ok rfl rfl rfl ?_
  unfold rawElem
  rewrite [bits_of (hi := 31) (lo := 25) (c := 30) h0 (by decide)]
  show some _ = some _
  rw [h1, h2, h3, h4, h5]

theorem Encoding.plog (f : BitVec 3) (a b q g : BitVec 2) : Encoding.Statement (.plog f a b q g) := by
  obtain ⟨h0, h1, h2, h3, h4, h5⟩ := word_8_3_3_2_3_2_3_2_2_4 0x3E#8 f 0x0#3 a 0x0#3 b 0x0#3 q g 0x0#4
  refine Encoding.elem_ok rfl rfl rfl ?_
  unfold rawElem
  rewrite [bits_of (hi := 31) (lo := 25) (c := 31) h0 (by decide)]
  show some _ = some _
  rw [h1, h2, h3, h4, h5]

theorem Encoding.sel (p : BitVec 2) (a b d : BitVec 5) (g : BitVec 2) : Encoding.Statement (.sel p a b d g) := by
  obtain ⟨h0, h1, h2, h3, h4, h5⟩ := word_9_2_5_5_5_2_4 0x80#9 p a b d g 0x0#4
  refine Encoding.elem_ok rfl rfl rfl ?_
  unfold rawElem
  rewrite [bits_of (hi := 31) (lo := 25) (c := 32) h0 (by decide)]
  show some _ = some _
  rw [h1, h2, h3, h4, h5]

theorem Encoding.clamp (t : BitVec 4) (a b d : BitVec 5) (g : BitVec 2) : Encoding.Statement (.clamp t a b d g) := by
  obtain ⟨h0, h1, h2, h3, h4, h5⟩ := word_7_4_5_5_5_2_4 0x21#7 t a b d g 0x0#4
  refine Encoding.elem_ok rfl rfl rfl ?_
  unfold rawElem
  rewrite [bits_of (hi := 31) (lo := 25) (c := 33) h0 (by decide)]
  show some _ = some _
  rw [h1, h2, h3, h4, h5]

theorem Encoding.gate (q g : BitVec 2) : Encoding.Statement (.gate q g) := by
  obtain ⟨h0, h1, h2⟩ := word_24_2_2_4 0x441FF8#24 q g 0x0#4
  refine Encoding.elem_ok rfl rfl rfl ?_
  unfold rawElem
  rewrite [bits_of (hi := 31) (lo := 25) (c := 34) h0 (by decide)]
  show some _ = some _
  rw [h1, h2]

theorem Encoding.steer (a : BitVec 5) (q : BitVec 2) : Encoding.Statement (.steer a q) := by
  obtain ⟨h0, h1, h2⟩ := word_11_5_8_2_6 0x230#11 a 0xF8#8 q 0x0#6
  refine Encoding.elem_ok rfl rfl rfl ?_
  unfold rawElem
  rewrite [bits_of (hi := 31) (lo := 25) (c := 35) h0 (by decide)]
  show some _ = some _
  rw [h1, h2]

theorem Encoding.fadd (t : BitVec 4) (a b d : BitVec 5) (g : BitVec 2) (s : BitVec 1) (r : BitVec 2) : Encoding.Statement (.fadd t a b d g s r) := by
  obtain ⟨h0, h1, h2, h3, h4, h5, h6, h7, -⟩ := word_7_4_5_5_5_2_1_2_1 0x24#7 t a b d g s r 0x0#1
  refine Encoding.elem_ok rfl rfl rfl ?_
  unfold rawElem
  rewrite [bits_of (hi := 31) (lo := 25) (c := 36) h0 (by decide)]
  show some _ = some _
  rw [h1, h2, h3, h4, h5, h6, h7]

theorem Encoding.fsub (t : BitVec 4) (a b d : BitVec 5) (g : BitVec 2) (s : BitVec 1) (r : BitVec 2) : Encoding.Statement (.fsub t a b d g s r) := by
  obtain ⟨h0, h1, h2, h3, h4, h5, h6, h7, -⟩ := word_7_4_5_5_5_2_1_2_1 0x25#7 t a b d g s r 0x0#1
  refine Encoding.elem_ok rfl rfl rfl ?_
  unfold rawElem
  rewrite [bits_of (hi := 31) (lo := 25) (c := 37) h0 (by decide)]
  show some _ = some _
  rw [h1, h2, h3, h4, h5, h6, h7]

theorem Encoding.fmul (t : BitVec 4) (a b d : BitVec 5) (g : BitVec 2) (s : BitVec 1) (r : BitVec 2) : Encoding.Statement (.fmul t a b d g s r) := by
  obtain ⟨h0, h1, h2, h3, h4, h5, h6, h7, -⟩ := word_7_4_5_5_5_2_1_2_1 0x26#7 t a b d g s r 0x0#1
  refine Encoding.elem_ok rfl rfl rfl ?_
  unfold rawElem
  rewrite [bits_of (hi := 31) (lo := 25) (c := 38) h0 (by decide)]
  show some _ = some _
  rw [h1, h2, h3, h4, h5, h6, h7]

theorem Encoding.fma (t : BitVec 4) (a b d : BitVec 5) (g : BitVec 2) (s : BitVec 1) (r : BitVec 2) : Encoding.Statement (.fma t a b d g s r) := by
  obtain ⟨h0, h1, h2, h3, h4, h5, h6, h7, -⟩ := word_7_4_5_5_5_2_1_2_1 0x27#7 t a b d g s r 0x0#1
  refine Encoding.elem_ok rfl rfl rfl ?_
  unfold rawElem
  rewrite [bits_of (hi := 31) (lo := 25) (c := 39) h0 (by decide)]
  show some _ = some _
  rw [h1, h2, h3, h4, h5, h6, h7]

theorem Encoding.fms (t : BitVec 4) (a b d : BitVec 5) (g : BitVec 2) (s : BitVec 1) (r : BitVec 2) : Encoding.Statement (.fms t a b d g s r) := by
  obtain ⟨h0, h1, h2, h3, h4, h5, h6, h7, -⟩ := word_7_4_5_5_5_2_1_2_1 0x28#7 t a b d g s r 0x0#1
  refine Encoding.elem_ok rfl rfl rfl ?_
  unfold rawElem
  rewrite [bits_of (hi := 31) (lo := 25) (c := 40) h0 (by decide)]
  show some _ = some _
  rw [h1, h2, h3, h4, h5, h6, h7]

theorem Encoding.fmin (t : BitVec 4) (a b d : BitVec 5) (g : BitVec 2) : Encoding.Statement (.fmin t a b d g) := by
  obtain ⟨h0, h1, h2, h3, h4, h5⟩ := word_7_4_5_5_5_2_4 0x29#7 t a b d g 0x0#4
  refine Encoding.elem_ok rfl rfl rfl ?_
  unfold rawElem
  rewrite [bits_of (hi := 31) (lo := 25) (c := 41) h0 (by decide)]
  show some _ = some _
  rw [h1, h2, h3, h4, h5]

theorem Encoding.fmax (t : BitVec 4) (a b d : BitVec 5) (g : BitVec 2) : Encoding.Statement (.fmax t a b d g) := by
  obtain ⟨h0, h1, h2, h3, h4, h5⟩ := word_7_4_5_5_5_2_4 0x2A#7 t a b d g 0x0#4
  refine Encoding.elem_ok rfl rfl rfl ?_
  unfold rawElem
  rewrite [bits_of (hi := 31) (lo := 25) (c := 42) h0 (by decide)]
  show some _ = some _
  rw [h1, h2, h3, h4, h5]

theorem Encoding.fabs (t : BitVec 4) (a b d : BitVec 5) (g : BitVec 2) : Encoding.Statement (.fabs t a b d g) := by
  obtain ⟨h0, h1, h2, h3, h4, h5⟩ := word_7_4_5_5_5_2_4 0x2B#7 t a b d g 0x0#4
  refine Encoding.elem_ok rfl rfl rfl ?_
  unfold rawElem
  rewrite [bits_of (hi := 31) (lo := 25) (c := 43) h0 (by decide)]
  show some _ = some _
  rw [h1, h2, h3, h4, h5]

theorem Encoding.fneg (t : BitVec 4) (a b d : BitVec 5) (g : BitVec 2) : Encoding.Statement (.fneg t a b d g) := by
  obtain ⟨h0, h1, h2, h3, h4, h5⟩ := word_7_4_5_5_5_2_4 0x2C#7 t a b d g 0x0#4
  refine Encoding.elem_ok rfl rfl rfl ?_
  unfold rawElem
  rewrite [bits_of (hi := 31) (lo := 25) (c := 44) h0 (by decide)]
  show some _ = some _
  rw [h1, h2, h3, h4, h5]

theorem Encoding.frnd (t : BitVec 4) (a b d : BitVec 5) (g r : BitVec 2) : Encoding.Statement (.frnd t a b d g r) := by
  obtain ⟨h0, h1, h2, h3, h4, h5, -, h7, -⟩ := word_7_4_5_5_5_2_1_2_1 0x2D#7 t a b d g 0x0#1 r 0x0#1
  refine Encoding.elem_ok rfl rfl rfl ?_
  unfold rawElem
  rewrite [bits_of (hi := 31) (lo := 25) (c := 45) h0 (by decide)]
  show some _ = some _
  rw [h1, h2, h3, h4, h5, h7]

theorem Encoding.fclamp (t : BitVec 4) (a b d : BitVec 5) (g : BitVec 2) : Encoding.Statement (.fclamp t a b d g) := by
  obtain ⟨h0, h1, h2, h3, h4, h5⟩ := word_7_4_5_5_5_2_4 0x2E#7 t a b d g 0x0#4
  refine Encoding.elem_ok rfl rfl rfl ?_
  unfold rawElem
  rewrite [bits_of (hi := 31) (lo := 25) (c := 46) h0 (by decide)]
  show some _ = some _
  rw [h1, h2, h3, h4, h5]

theorem Encoding.cvt (t : BitVec 4) (a : BitVec 5) (c : BitVec 4) (d : BitVec 5) (g : BitVec 2) (s : BitVec 1) (r : BitVec 2) (x : BitVec 1) : Encoding.Statement (.cvt t a c d g s r x) := by
  obtain ⟨h0, h1, h2, h3, h4, h5, h6, h7, h8⟩ := word_7_4_5_1_4_5_2_1_2_1 0x30#7 t a 0x0#1 c d g s r x
  refine Encoding.elem_ok rfl rfl rfl ?_
  unfold rawElem
  rewrite [bits_of (hi := 31) (lo := 25) (c := 48) h0 (by decide)]
  show some _ = some _
  rw [h1, h2, h3, h4, h5, h6, h7, h8]

theorem Encoding.pack (t : BitVec 4) (a b d : BitVec 5) (g : BitVec 2) (s : BitVec 1) (r : BitVec 2) (x : BitVec 1) : Encoding.Statement (.pack t a b d g s r x) := by
  obtain ⟨h0, h1, h2, h3, h4, h5, h6, h7, h8⟩ := word_7_4_5_5_5_2_1_2_1 0x31#7 t a b d g s r x
  refine Encoding.elem_ok rfl rfl rfl ?_
  unfold rawElem
  rewrite [bits_of (hi := 31) (lo := 25) (c := 49) h0 (by decide)]
  show some _ = some _
  rw [h1, h2, h3, h4, h5, h6, h7, h8]

theorem Encoding.unpklo (t : BitVec 4) (a b d : BitVec 5) (g : BitVec 2) : Encoding.Statement (.unpklo t a b d g) := by
  obtain ⟨h0, h1, h2, h3, h4, h5⟩ := word_7_4_5_5_5_2_4 0x32#7 t a b d g 0x0#4
  refine Encoding.elem_ok rfl rfl rfl ?_
  unfold rawElem
  rewrite [bits_of (hi := 31) (lo := 25) (c := 50) h0 (by decide)]
  show some _ = some _
  rw [h1, h2, h3, h4, h5]

theorem Encoding.unpkhi (t : BitVec 4) (a b d : BitVec 5) (g : BitVec 2) : Encoding.Statement (.unpkhi t a b d g) := by
  obtain ⟨h0, h1, h2, h3, h4, h5⟩ := word_7_4_5_5_5_2_4 0x33#7 t a b d g 0x0#4
  refine Encoding.elem_ok rfl rfl rfl ?_
  unfold rawElem
  rewrite [bits_of (hi := 31) (lo := 25) (c := 51) h0 (by decide)]
  show some _ = some _
  rw [h1, h2, h3, h4, h5]

theorem Encoding.exp2 (a b d : BitVec 5) (g r : BitVec 2) : Encoding.Statement (.exp2 a b d g r) := by
  obtain ⟨h0, h1, h2, h3, h4, h5⟩ := word_11_5_5_5_2_1_2_1 0x348#11 a b d g 0x0#1 r 0x0#1
  refine Encoding.elem_ok rfl rfl rfl ?_
  unfold rawElem
  rewrite [bits_of (hi := 31) (lo := 25) (c := 52) h0 (by decide)]
  show some _ = some _
  rw [h1, h2, h3, h4, h5]

theorem Encoding.log2 (a b d : BitVec 5) (g r : BitVec 2) : Encoding.Statement (.log2 a b d g r) := by
  obtain ⟨h0, h1, h2, h3, h4, h5⟩ := word_11_5_5_5_2_1_2_1 0x358#11 a b d g 0x0#1 r 0x0#1
  refine Encoding.elem_ok rfl rfl rfl ?_
  unfold rawElem
  rewrite [bits_of (hi := 31) (lo := 25) (c := 53) h0 (by decide)]
  show some _ = some _
  rw [h1, h2, h3, h4, h5]

theorem Encoding.rcp (a b d : BitVec 5) (g r : BitVec 2) : Encoding.Statement (.rcp a b d g r) := by
  obtain ⟨h0, h1, h2, h3, h4, h5⟩ := word_11_5_5_5_2_1_2_1 0x368#11 a b d g 0x0#1 r 0x0#1
  refine Encoding.elem_ok rfl rfl rfl ?_
  unfold rawElem
  rewrite [bits_of (hi := 31) (lo := 25) (c := 54) h0 (by decide)]
  show some _ = some _
  rw [h1, h2, h3, h4, h5]

theorem Encoding.rsq (a b d : BitVec 5) (g r : BitVec 2) : Encoding.Statement (.rsq a b d g r) := by
  obtain ⟨h0, h1, h2, h3, h4, h5⟩ := word_11_5_5_5_2_1_2_1 0x378#11 a b d g 0x0#1 r 0x0#1
  refine Encoding.elem_ok rfl rfl rfl ?_
  unfold rawElem
  rewrite [bits_of (hi := 31) (lo := 25) (c := 55) h0 (by decide)]
  show some _ = some _
  rw [h1, h2, h3, h4, h5]

theorem Encoding.tanh (a b d : BitVec 5) (g r : BitVec 2) : Encoding.Statement (.tanh a b d g r) := by
  obtain ⟨h0, h1, h2, h3, h4, h5⟩ := word_11_5_5_5_2_1_2_1 0x388#11 a b d g 0x0#1 r 0x0#1
  refine Encoding.elem_ok rfl rfl rfl ?_
  unfold rawElem
  rewrite [bits_of (hi := 31) (lo := 25) (c := 56) h0 (by decide)]
  show some _ = some _
  rw [h1, h2, h3, h4, h5]

theorem Encoding.dot (t : BitVec 4) (a b d : BitVec 5) (g : BitVec 2) (s : BitVec 1) (r : BitVec 2) : Encoding.Statement (.dot t a b d g s r) := by
  obtain ⟨h0, h1, h2, h3, h4, h5, h6, h7, -⟩ := word_7_4_5_5_5_2_1_2_1 0x39#7 t a b d g s r 0x0#1
  refine Encoding.elem_ok rfl rfl rfl ?_
  unfold rawElem
  rewrite [bits_of (hi := 31) (lo := 25) (c := 57) h0 (by decide)]
  show some _ = some _
  rw [h1, h2, h3, h4, h5, h6, h7]

theorem Encoding.dotx (a b d : BitVec 5) (g : BitVec 2) (s : BitVec 1) : Encoding.Statement (.dotx a b d g s) := by
  obtain ⟨h0, h1, h2, h3, h4, h5⟩ := word_11_5_5_5_2_1_3 0x3A4#11 a b d g s 0x0#3
  refine Encoding.elem_ok rfl rfl rfl ?_
  unfold rawElem
  rewrite [bits_of (hi := 31) (lo := 25) (c := 58) h0 (by decide)]
  show some _ = some _
  rw [h1, h2, h3, h4, h5]

theorem Encoding.ldb (a b d : BitVec 5) (g : BitVec 2) : Encoding.Statement (.ldb a b d g) := by
  obtain ⟨h0, h1, h2, h3, h4⟩ := word_11_5_5_5_2_4 0x400#11 a b d g 0x0#4
  refine Encoding.elem_ok rfl rfl rfl ?_
  unfold rawElem
  rewrite [bits_of (hi := 31) (lo := 25) (c := 64) h0 (by decide)]
  show some _ = some _
  rw [h1, h2, h3, h4]

theorem Encoding.stb (a b d : BitVec 5) (g : BitVec 2) : Encoding.Statement (.stb a b d g) := by
  obtain ⟨h0, h1, h2, h3, h4⟩ := word_11_5_5_5_2_4 0x410#11 a b d g 0x0#4
  refine Encoding.elem_ok rfl rfl rfl ?_
  unfold rawElem
  rewrite [bits_of (hi := 31) (lo := 25) (c := 65) h0 (by decide)]
  show some _ = some _
  rw [h1, h2, h3, h4]

theorem Encoding.ldbi (a : BitVec 5) (i : BitVec 11) (d : BitVec 5) : Encoding.Statement (.ldbi a i d) := by
  obtain ⟨h0, h1, h2, h3, h4⟩ := word_11_5_5_5_6 0x420#11 a ((i.extractLsb' 6 5)) d ((i.extractLsb' 0 6))
  refine Encoding.elem_ok rfl rfl rfl ?_
  unfold rawElem
  rewrite [bits_of (hi := 31) (lo := 25) (c := 66) h0 (by decide)]
  show some _ = some _
  rw [h1, h2, h3, h4, field_join]

theorem Encoding.stbi (a : BitVec 5) (i : BitVec 11) (d : BitVec 5) : Encoding.Statement (.stbi a i d) := by
  obtain ⟨h0, h1, h2, h3, h4⟩ := word_11_5_5_5_6 0x430#11 a ((i.extractLsb' 6 5)) d ((i.extractLsb' 0 6))
  refine Encoding.elem_ok rfl rfl rfl ?_
  unfold rawElem
  rewrite [bits_of (hi := 31) (lo := 25) (c := 67) h0 (by decide)]
  show some _ = some _
  rw [h1, h2, h3, h4, field_join]

theorem Encoding.atadd (a b d : BitVec 5) (g : BitVec 2) : Encoding.Statement (.atadd a b d g) := by
  obtain ⟨h0, h1, h2, h3, h4⟩ := word_11_5_5_5_2_4 0x440#11 a b d g 0x0#4
  refine Encoding.elem_ok rfl rfl rfl ?_
  unfold rawElem
  rewrite [bits_of (hi := 31) (lo := 25) (c := 68) h0 (by decide)]
  show some _ = some _
  rw [h1, h2, h3, h4]

theorem Encoding.atmin (t : BitVec 1) (a b d : BitVec 5) (g : BitVec 2) : Encoding.Statement (.atmin t a b d g) := by
  obtain ⟨h0, h1, h2, h3, h4, h5⟩ := word_10_1_5_5_5_2_4 0x228#10 t a b d g 0x0#4
  refine Encoding.elem_ok rfl rfl rfl ?_
  unfold rawElem
  rewrite [bits_of (hi := 31) (lo := 25) (c := 69) h0 (by decide)]
  show some _ = some _
  rw [h1, h2, h3, h4, h5]

theorem Encoding.atmax (t : BitVec 1) (a b d : BitVec 5) (g : BitVec 2) : Encoding.Statement (.atmax t a b d g) := by
  obtain ⟨h0, h1, h2, h3, h4, h5⟩ := word_10_1_5_5_5_2_4 0x230#10 t a b d g 0x0#4
  refine Encoding.elem_ok rfl rfl rfl ?_
  unfold rawElem
  rewrite [bits_of (hi := 31) (lo := 25) (c := 70) h0 (by decide)]
  show some _ = some _
  rw [h1, h2, h3, h4, h5]

theorem Encoding.atxchg (a b d : BitVec 5) (g : BitVec 2) : Encoding.Statement (.atxchg a b d g) := by
  obtain ⟨h0, h1, h2, h3, h4⟩ := word_11_5_5_5_2_4 0x470#11 a b d g 0x0#4
  refine Encoding.elem_ok rfl rfl rfl ?_
  unfold rawElem
  rewrite [bits_of (hi := 31) (lo := 25) (c := 71) h0 (by decide)]
  show some _ = some _
  rw [h1, h2, h3, h4]

theorem Encoding.atcas (a b d : BitVec 5) (g : BitVec 2) : Encoding.Statement (.atcas a b d g) := by
  obtain ⟨h0, h1, h2, h3, h4⟩ := word_11_5_5_5_2_4 0x480#11 a b d g 0x0#4
  refine Encoding.elem_ok rfl rfl rfl ?_
  unfold rawElem
  rewrite [bits_of (hi := 31) (lo := 25) (c := 72) h0 (by decide)]
  show some _ = some _
  rw [h1, h2, h3, h4]

theorem Encoding.ldt (a b d : BitVec 5) (g : BitVec 2) : Encoding.Statement (.ldt a b d g) := by
  obtain ⟨h0, h1, h2, h3, h4⟩ := word_11_5_5_5_2_4 0x490#11 a b d g 0x0#4
  refine Encoding.elem_ok rfl rfl rfl ?_
  unfold rawElem
  rewrite [bits_of (hi := 31) (lo := 25) (c := 73) h0 (by decide)]
  show some _ = some _
  rw [h1, h2, h3, h4]

theorem Encoding.stt (a b d : BitVec 5) (g : BitVec 2) : Encoding.Statement (.stt a b d g) := by
  obtain ⟨h0, h1, h2, h3, h4⟩ := word_11_5_5_5_2_4 0x4A0#11 a b d g 0x0#4
  refine Encoding.elem_ok rfl rfl rfl ?_
  unfold rawElem
  rewrite [bits_of (hi := 31) (lo := 25) (c := 74) h0 (by decide)]
  show some _ = some _
  rw [h1, h2, h3, h4]

theorem Encoding.emit (a b d : BitVec 5) (g : BitVec 2) : Encoding.Statement (.emit a b d g) := by
  obtain ⟨h0, h1, h2, h3, h4⟩ := word_11_5_5_5_2_4 0x4C0#11 a b d g 0x0#4
  refine Encoding.elem_ok rfl rfl rfl ?_
  unfold rawElem
  rewrite [bits_of (hi := 31) (lo := 25) (c := 76) h0 (by decide)]
  show some _ = some _
  rw [h1, h2, h3, h4]

theorem Encoding.dropw (a b d : BitVec 5) (g : BitVec 2) : Encoding.Statement (.dropw a b d g) := by
  obtain ⟨h0, h1, h2, h3, h4⟩ := word_11_5_5_5_2_4 0x4D0#11 a b d g 0x0#4
  refine Encoding.elem_ok rfl rfl rfl ?_
  unfold rawElem
  rewrite [bits_of (hi := 31) (lo := 25) (c := 77) h0 (by decide)]
  show some _ = some _
  rw [h1, h2, h3, h4]

theorem Encoding.pcnt (a b d : BitVec 5) (g : BitVec 2) : Encoding.Statement (.pcnt a b d g) := by
  obtain ⟨h0, h1, h2, h3, h4⟩ := word_11_5_5_5_2_4 0x4E0#11 a b d g 0x0#4
  refine Encoding.elem_ok rfl rfl rfl ?_
  unfold rawElem
  rewrite [bits_of (hi := 31) (lo := 25) (c := 78) h0 (by decide)]
  show some _ = some _
  rw [h1, h2, h3, h4]

theorem Encoding.eos (a b : BitVec 5) (q g : BitVec 2) : Encoding.Statement (.eos a b q g) := by
  obtain ⟨h0, h1, h2, h3, h4⟩ := word_11_5_5_3_2_2_4 0x4F0#11 a b 0x0#3 q g 0x0#4
  refine Encoding.elem_ok rfl rfl rfl ?_
  unfold rawElem
  rewrite [bits_of (hi := 31) (lo := 25) (c := 79) h0 (by decide)]
  show some _ = some _
  rw [h1, h2, h3, h4]

theorem Encoding.mma (f : BitVec 4) (k : BitVec 2) (a b o : BitVec 1) (l : BitVec 2) (e : BitVec 1) (d : BitVec 3) (s : BitVec 1) : Encoding.Statement (.mma f k a b o l e d s) := by
  obtain ⟨h0, h1, h2, h3, h4, h5, h6, h7, h8, h9⟩ := word_7_4_2_1_1_1_2_1_3_1_9 0x60#7 f k a b o l e d s 0x0#9
  refine Encoding.elem_ok rfl rfl rfl ?_
  unfold rawElem
  rewrite [bits_of (hi := 31) (lo := 25) (c := 96) h0 (by decide)]
  show some _ = some _
  rw [h1, h2, h3, h4, h5, h6, h7, h8, h9]

theorem Encoding.mmx (f : BitVec 4) (k : BitVec 2) (a b o : BitVec 1) (l : BitVec 2) (e : BitVec 1) (d : BitVec 3) (s : BitVec 1) : Encoding.Statement (.mmx f k a b o l e d s) := by
  obtain ⟨h0, h1, h2, h3, h4, h5, h6, h7, h8, h9⟩ := word_7_4_2_1_1_1_2_1_3_1_9 0x61#7 f k a b o l e d s 0x0#9
  refine Encoding.elem_ok rfl rfl rfl ?_
  unfold rawElem
  rewrite [bits_of (hi := 31) (lo := 25) (c := 97) h0 (by decide)]
  show some _ = some _
  rw [h1, h2, h3, h4, h5, h6, h7, h8, h9]

theorem Encoding.azero (k : BitVec 2) : Encoding.Statement (.azero k) := by
  obtain ⟨h0, h1⟩ := word_11_2_19 0x620#11 k 0x0#19
  refine Encoding.elem_ok rfl rfl rfl ?_
  unfold rawElem
  rewrite [bits_of (hi := 31) (lo := 25) (c := 98) h0 (by decide)]
  show some _ = some _
  rw [h1]

theorem Encoding.adrain (k : BitVec 2) (d : BitVec 3) (s : BitVec 1) : Encoding.Statement (.adrain k d s) := by
  obtain ⟨h0, h1, h2, h3⟩ := word_11_2_6_3_1_9 0x630#11 k 0x0#6 d s 0x0#9
  refine Encoding.elem_ok rfl rfl rfl ?_
  unfold rawElem
  rewrite [bits_of (hi := 31) (lo := 25) (c := 99) h0 (by decide)]
  show some _ = some _
  rw [h1, h2, h3]

theorem Encoding.aload (k : BitVec 2) : Encoding.Statement (.aload k) := by
  obtain ⟨h0, h1⟩ := word_11_2_19 0x640#11 k 0x40000#19
  refine Encoding.elem_ok rfl rfl rfl ?_
  unfold rawElem
  rewrite [bits_of (hi := 31) (lo := 25) (c := 100) h0 (by decide)]
  show some _ = some _
  rw [h1]

theorem Encoding.ascale (k : BitVec 2) (i : BitVec 9) : Encoding.Statement (.ascale k i) := by
  obtain ⟨h0, h1, h2⟩ := word_11_2_10_9 0x650#11 k 0x0#10 i
  refine Encoding.elem_ok rfl rfl rfl ?_
  unfold rawElem
  rewrite [bits_of (hi := 31) (lo := 25) (c := 101) h0 (by decide)]
  show some _ = some _
  rw [h1, h2]

theorem Encoding.add (d a b : BitVec 5) : Encoding.Statement (.add d a b) := by
  obtain ⟨h0, h1, h2, h3, h4⟩ := word_6_5_5_5_11 0x0#6 d a b 0x0#11
  refine Encoding.seq_ok rfl rfl rfl ?_
  unfold rawSeq
  rewrite [bits_of (hi := 31) (lo := 26) (c := 0) h0 (by decide)]
  change seqOf00 (wordBits _ 10 0) _ = _
  rewrite [bits_of (hi := 10) (lo := 0) (c := 0) h1 (by decide)]
  show some _ = some _
  rw [h2, h3, h4]

theorem Encoding.sub (d a b : BitVec 5) : Encoding.Statement (.sub d a b) := by
  obtain ⟨h0, h1, h2, h3, h4⟩ := word_6_5_5_5_11 0x0#6 d a b 0x1#11
  refine Encoding.seq_ok rfl rfl rfl ?_
  unfold rawSeq
  rewrite [bits_of (hi := 31) (lo := 26) (c := 0) h0 (by decide)]
  change seqOf00 (wordBits _ 10 0) _ = _
  rewrite [bits_of (hi := 10) (lo := 0) (c := 1) h1 (by decide)]
  show some _ = some _
  rw [h2, h3, h4]

theorem Encoding.and (d a b : BitVec 5) : Encoding.Statement (.and d a b) := by
  obtain ⟨h0, h1, h2, h3, h4⟩ := word_6_5_5_5_11 0x0#6 d a b 0x2#11
  refine Encoding.seq_ok rfl rfl rfl ?_
  unfold rawSeq
  rewrite [bits_of (hi := 31) (lo := 26) (c := 0) h0 (by decide)]
  change seqOf00 (wordBits _ 10 0) _ = _
  rewrite [bits_of (hi := 10) (lo := 0) (c := 2) h1 (by decide)]
  show some _ = some _
  rw [h2, h3, h4]

theorem Encoding.or (d a b : BitVec 5) : Encoding.Statement (.or d a b) := by
  obtain ⟨h0, h1, h2, h3, h4⟩ := word_6_5_5_5_11 0x0#6 d a b 0x3#11
  refine Encoding.seq_ok rfl rfl rfl ?_
  unfold rawSeq
  rewrite [bits_of (hi := 31) (lo := 26) (c := 0) h0 (by decide)]
  change seqOf00 (wordBits _ 10 0) _ = _
  rewrite [bits_of (hi := 10) (lo := 0) (c := 3) h1 (by decide)]
  show some _ = some _
  rw [h2, h3, h4]

theorem Encoding.xor (d a b : BitVec 5) : Encoding.Statement (.xor d a b) := by
  obtain ⟨h0, h1, h2, h3, h4⟩ := word_6_5_5_5_11 0x0#6 d a b 0x4#11
  refine Encoding.seq_ok rfl rfl rfl ?_
  unfold rawSeq
  rewrite [bits_of (hi := 31) (lo := 26) (c := 0) h0 (by decide)]
  change seqOf00 (wordBits _ 10 0) _ = _
  rewrite [bits_of (hi := 10) (lo := 0) (c := 4) h1 (by decide)]
  show some _ = some _
  rw [h2, h3, h4]

theorem Encoding.andn (d a b : BitVec 5) : Encoding.Statement (.andn d a b) := by
  obtain ⟨h0, h1, h2, h3, h4⟩ := word_6_5_5_5_11 0x0#6 d a b 0x5#11
  refine Encoding.seq_ok rfl rfl rfl ?_
  unfold rawSeq
  rewrite [bits_of (hi := 31) (lo := 26) (c := 0) h0 (by decide)]
  change seqOf00 (wordBits _ 10 0) _ = _
  rewrite [bits_of (hi := 10) (lo := 0) (c := 5) h1 (by decide)]
  show some _ = some _
  rw [h2, h3, h4]

theorem Encoding.sll (d a b : BitVec 5) : Encoding.Statement (.sll d a b) := by
  obtain ⟨h0, h1, h2, h3, h4⟩ := word_6_5_5_5_11 0x0#6 d a b 0x6#11
  refine Encoding.seq_ok rfl rfl rfl ?_
  unfold rawSeq
  rewrite [bits_of (hi := 31) (lo := 26) (c := 0) h0 (by decide)]
  change seqOf00 (wordBits _ 10 0) _ = _
  rewrite [bits_of (hi := 10) (lo := 0) (c := 6) h1 (by decide)]
  show some _ = some _
  rw [h2, h3, h4]

theorem Encoding.srl (d a b : BitVec 5) : Encoding.Statement (.srl d a b) := by
  obtain ⟨h0, h1, h2, h3, h4⟩ := word_6_5_5_5_11 0x0#6 d a b 0x7#11
  refine Encoding.seq_ok rfl rfl rfl ?_
  unfold rawSeq
  rewrite [bits_of (hi := 31) (lo := 26) (c := 0) h0 (by decide)]
  change seqOf00 (wordBits _ 10 0) _ = _
  rewrite [bits_of (hi := 10) (lo := 0) (c := 7) h1 (by decide)]
  show some _ = some _
  rw [h2, h3, h4]

theorem Encoding.sra (d a b : BitVec 5) : Encoding.Statement (.sra d a b) := by
  obtain ⟨h0, h1, h2, h3, h4⟩ := word_6_5_5_5_11 0x0#6 d a b 0x8#11
  refine Encoding.seq_ok rfl rfl rfl ?_
  unfold rawSeq
  rewrite [bits_of (hi := 31) (lo := 26) (c := 0) h0 (by decide)]
  change seqOf00 (wordBits _ 10 0) _ = _
  rewrite [bits_of (hi := 10) (lo := 0) (c := 8) h1 (by decide)]
  show some _ = some _
  rw [h2, h3, h4]

theorem Encoding.slt (d a b : BitVec 5) : Encoding.Statement (.slt d a b) := by
  obtain ⟨h0, h1, h2, h3, h4⟩ := word_6_5_5_5_11 0x0#6 d a b 0x9#11
  refine Encoding.seq_ok rfl rfl rfl ?_
  unfold rawSeq
  rewrite [bits_of (hi := 31) (lo := 26) (c := 0) h0 (by decide)]
  change seqOf00 (wordBits _ 10 0) _ = _
  rewrite [bits_of (hi := 10) (lo := 0) (c := 9) h1 (by decide)]
  show some _ = some _
  rw [h2, h3, h4]

theorem Encoding.sltn (d a b : BitVec 5) : Encoding.Statement (.sltn d a b) := by
  obtain ⟨h0, h1, h2, h3, h4⟩ := word_6_5_5_5_11 0x0#6 d a b 0xA#11
  refine Encoding.seq_ok rfl rfl rfl ?_
  unfold rawSeq
  rewrite [bits_of (hi := 31) (lo := 26) (c := 0) h0 (by decide)]
  change seqOf00 (wordBits _ 10 0) _ = _
  rewrite [bits_of (hi := 10) (lo := 0) (c := 10) h1 (by decide)]
  show some _ = some _
  rw [h2, h3, h4]

theorem Encoding.min (d a b : BitVec 5) : Encoding.Statement (.min d a b) := by
  obtain ⟨h0, h1, h2, h3, h4⟩ := word_6_5_5_5_11 0x0#6 d a b 0xB#11
  refine Encoding.seq_ok rfl rfl rfl ?_
  unfold rawSeq
  rewrite [bits_of (hi := 31) (lo := 26) (c := 0) h0 (by decide)]
  change seqOf00 (wordBits _ 10 0) _ = _
  rewrite [bits_of (hi := 10) (lo := 0) (c := 11) h1 (by decide)]
  show some _ = some _
  rw [h2, h3, h4]

theorem Encoding.max (d a b : BitVec 5) : Encoding.Statement (.max d a b) := by
  obtain ⟨h0, h1, h2, h3, h4⟩ := word_6_5_5_5_11 0x0#6 d a b 0xC#11
  refine Encoding.seq_ok rfl rfl rfl ?_
  unfold rawSeq
  rewrite [bits_of (hi := 31) (lo := 26) (c := 0) h0 (by decide)]
  change seqOf00 (wordBits _ 10 0) _ = _
  rewrite [bits_of (hi := 10) (lo := 0) (c := 12) h1 (by decide)]
  show some _ = some _
  rw [h2, h3, h4]

theorem Encoding.minn (d a b : BitVec 5) : Encoding.Statement (.minn d a b) := by
  obtain ⟨h0, h1, h2, h3, h4⟩ := word_6_5_5_5_11 0x0#6 d a b 0xD#11
  refine Encoding.seq_ok rfl rfl rfl ?_
  unfold rawSeq
  rewrite [bits_of (hi := 31) (lo := 26) (c := 0) h0 (by decide)]
  change seqOf00 (wordBits _ 10 0) _ = _
  rewrite [bits_of (hi := 10) (lo := 0) (c := 13) h1 (by decide)]
  show some _ = some _
  rw [h2, h3, h4]

theorem Encoding.maxn (d a b : BitVec 5) : Encoding.Statement (.maxn d a b) := by
  obtain ⟨h0, h1, h2, h3, h4⟩ := word_6_5_5_5_11 0x0#6 d a b 0xE#11
  refine Encoding.seq_ok rfl rfl rfl ?_
  unfold rawSeq
  rewrite [bits_of (hi := 31) (lo := 26) (c := 0) h0 (by decide)]
  change seqOf00 (wordBits _ 10 0) _ = _
  rewrite [bits_of (hi := 10) (lo := 0) (c := 14) h1 (by decide)]
  show some _ = some _
  rw [h2, h3, h4]

theorem Encoding.mul (d a b : BitVec 5) : Encoding.Statement (.mul d a b) := by
  obtain ⟨h0, h1, h2, h3, h4⟩ := word_6_5_5_5_11 0x0#6 d a b 0xF#11
  refine Encoding.seq_ok rfl rfl rfl ?_
  unfold rawSeq
  rewrite [bits_of (hi := 31) (lo := 26) (c := 0) h0 (by decide)]
  change seqOf00 (wordBits _ 10 0) _ = _
  rewrite [bits_of (hi := 10) (lo := 0) (c := 15) h1 (by decide)]
  show some _ = some _
  rw [h2, h3, h4]

theorem Encoding.mulh (d a b : BitVec 5) : Encoding.Statement (.mulh d a b) := by
  obtain ⟨h0, h1, h2, h3, h4⟩ := word_6_5_5_5_11 0x0#6 d a b 0x10#11
  refine Encoding.seq_ok rfl rfl rfl ?_
  unfold rawSeq
  rewrite [bits_of (hi := 31) (lo := 26) (c := 0) h0 (by decide)]
  change seqOf00 (wordBits _ 10 0) _ = _
  rewrite [bits_of (hi := 10) (lo := 0) (c := 16) h1 (by decide)]
  show some _ = some _
  rw [h2, h3, h4]

theorem Encoding.mulhn (d a b : BitVec 5) : Encoding.Statement (.mulhn d a b) := by
  obtain ⟨h0, h1, h2, h3, h4⟩ := word_6_5_5_5_11 0x0#6 d a b 0x11#11
  refine Encoding.seq_ok rfl rfl rfl ?_
  unfold rawSeq
  rewrite [bits_of (hi := 31) (lo := 26) (c := 0) h0 (by decide)]
  change seqOf00 (wordBits _ 10 0) _ = _
  rewrite [bits_of (hi := 10) (lo := 0) (c := 17) h1 (by decide)]
  show some _ = some _
  rw [h2, h3, h4]

theorem Encoding.div (d a b : BitVec 5) : Encoding.Statement (.div d a b) := by
  obtain ⟨h0, h1, h2, h3, h4⟩ := word_6_5_5_5_11 0x0#6 d a b 0x12#11
  refine Encoding.seq_ok rfl rfl rfl ?_
  unfold rawSeq
  rewrite [bits_of (hi := 31) (lo := 26) (c := 0) h0 (by decide)]
  change seqOf00 (wordBits _ 10 0) _ = _
  rewrite [bits_of (hi := 10) (lo := 0) (c := 18) h1 (by decide)]
  show some _ = some _
  rw [h2, h3, h4]

theorem Encoding.divn (d a b : BitVec 5) : Encoding.Statement (.divn d a b) := by
  obtain ⟨h0, h1, h2, h3, h4⟩ := word_6_5_5_5_11 0x0#6 d a b 0x13#11
  refine Encoding.seq_ok rfl rfl rfl ?_
  unfold rawSeq
  rewrite [bits_of (hi := 31) (lo := 26) (c := 0) h0 (by decide)]
  change seqOf00 (wordBits _ 10 0) _ = _
  rewrite [bits_of (hi := 10) (lo := 0) (c := 19) h1 (by decide)]
  show some _ = some _
  rw [h2, h3, h4]

theorem Encoding.rem (d a b : BitVec 5) : Encoding.Statement (.rem d a b) := by
  obtain ⟨h0, h1, h2, h3, h4⟩ := word_6_5_5_5_11 0x0#6 d a b 0x14#11
  refine Encoding.seq_ok rfl rfl rfl ?_
  unfold rawSeq
  rewrite [bits_of (hi := 31) (lo := 26) (c := 0) h0 (by decide)]
  change seqOf00 (wordBits _ 10 0) _ = _
  rewrite [bits_of (hi := 10) (lo := 0) (c := 20) h1 (by decide)]
  show some _ = some _
  rw [h2, h3, h4]

theorem Encoding.remn (d a b : BitVec 5) : Encoding.Statement (.remn d a b) := by
  obtain ⟨h0, h1, h2, h3, h4⟩ := word_6_5_5_5_11 0x0#6 d a b 0x15#11
  refine Encoding.seq_ok rfl rfl rfl ?_
  unfold rawSeq
  rewrite [bits_of (hi := 31) (lo := 26) (c := 0) h0 (by decide)]
  change seqOf00 (wordBits _ 10 0) _ = _
  rewrite [bits_of (hi := 10) (lo := 0) (c := 21) h1 (by decide)]
  show some _ = some _
  rw [h2, h3, h4]

theorem Encoding.clz (d a : BitVec 5) : Encoding.Statement (.clz d a) := by
  obtain ⟨h0, h1, h2, h3, -, -⟩ := word_6_5_5_16 0x0#6 d a 0x16#16
  refine Encoding.seq_ok rfl rfl rfl ?_
  unfold rawSeq
  rewrite [bits_of (hi := 31) (lo := 26) (c := 0) h0 (by decide)]
  change seqOf00 (wordBits _ 10 0) _ = _
  rewrite [bits_of (hi := 10) (lo := 0) (c := 22) h1 (by decide)]
  show some _ = some _
  rw [h2, h3]

theorem Encoding.ctz (d a : BitVec 5) : Encoding.Statement (.ctz d a) := by
  obtain ⟨h0, h1, h2, h3, -, -⟩ := word_6_5_5_16 0x0#6 d a 0x17#16
  refine Encoding.seq_ok rfl rfl rfl ?_
  unfold rawSeq
  rewrite [bits_of (hi := 31) (lo := 26) (c := 0) h0 (by decide)]
  change seqOf00 (wordBits _ 10 0) _ = _
  rewrite [bits_of (hi := 10) (lo := 0) (c := 23) h1 (by decide)]
  show some _ = some _
  rw [h2, h3]

theorem Encoding.popc (d a : BitVec 5) : Encoding.Statement (.popc d a) := by
  obtain ⟨h0, h1, h2, h3, -, -⟩ := word_6_5_5_16 0x0#6 d a 0x18#16
  refine Encoding.seq_ok rfl rfl rfl ?_
  unfold rawSeq
  rewrite [bits_of (hi := 31) (lo := 26) (c := 0) h0 (by decide)]
  change seqOf00 (wordBits _ 10 0) _ = _
  rewrite [bits_of (hi := 10) (lo := 0) (c := 24) h1 (by decide)]
  show some _ = some _
  rw [h2, h3]

theorem Encoding.sextW (d a : BitVec 5) : Encoding.Statement (.sextW d a) := by
  obtain ⟨h0, h1, h2, h3, -, -⟩ := word_6_5_5_16 0x0#6 d a 0x19#16
  refine Encoding.seq_ok rfl rfl rfl ?_
  unfold rawSeq
  rewrite [bits_of (hi := 31) (lo := 26) (c := 0) h0 (by decide)]
  change seqOf00 (wordBits _ 10 0) _ = _
  rewrite [bits_of (hi := 10) (lo := 0) (c := 25) h1 (by decide)]
  show some _ = some _
  rw [h2, h3]

theorem Encoding.zextW (d a : BitVec 5) : Encoding.Statement (.zextW d a) := by
  obtain ⟨h0, h1, h2, h3, -, -⟩ := word_6_5_5_16 0x0#6 d a 0x1A#16
  refine Encoding.seq_ok rfl rfl rfl ?_
  unfold rawSeq
  rewrite [bits_of (hi := 31) (lo := 26) (c := 0) h0 (by decide)]
  change seqOf00 (wordBits _ 10 0) _ = _
  rewrite [bits_of (hi := 10) (lo := 0) (c := 26) h1 (by decide)]
  show some _ = some _
  rw [h2, h3]

theorem Encoding.addw (d a b : BitVec 5) : Encoding.Statement (.addw d a b) := by
  obtain ⟨h0, h1, h2, h3, h4⟩ := word_6_5_5_5_11 0x0#6 d a b 0x1B#11
  refine Encoding.seq_ok rfl rfl rfl ?_
  unfold rawSeq
  rewrite [bits_of (hi := 31) (lo := 26) (c := 0) h0 (by decide)]
  change seqOf00 (wordBits _ 10 0) _ = _
  rewrite [bits_of (hi := 10) (lo := 0) (c := 27) h1 (by decide)]
  show some _ = some _
  rw [h2, h3, h4]

theorem Encoding.addi (d a : BitVec 5) (i : BitVec 16) : Encoding.Statement (.addi d a i) := by
  obtain ⟨h0, -, h2, h3, h4, -⟩ := word_6_5_5_16 0x1#6 d a i
  refine Encoding.seq_ok rfl rfl rfl ?_
  unfold rawSeq
  rewrite [bits_of (hi := 31) (lo := 26) (c := 1) h0 (by decide)]
  show some _ = some _
  rw [h2, h3, h4]

theorem Encoding.andi (d a : BitVec 5) (i : BitVec 16) : Encoding.Statement (.andi d a i) := by
  obtain ⟨h0, -, h2, h3, h4, -⟩ := word_6_5_5_16 0x2#6 d a i
  refine Encoding.seq_ok rfl rfl rfl ?_
  unfold rawSeq
  rewrite [bits_of (hi := 31) (lo := 26) (c := 2) h0 (by decide)]
  show some _ = some _
  rw [h2, h3, h4]

theorem Encoding.ori (d a : BitVec 5) (i : BitVec 16) : Encoding.Statement (.ori d a i) := by
  obtain ⟨h0, -, h2, h3, h4, -⟩ := word_6_5_5_16 0x3#6 d a i
  refine Encoding.seq_ok rfl rfl rfl ?_
  unfold rawSeq
  rewrite [bits_of (hi := 31) (lo := 26) (c := 3) h0 (by decide)]
  show some _ = some _
  rw [h2, h3, h4]

theorem Encoding.xori (d a : BitVec 5) (i : BitVec 16) : Encoding.Statement (.xori d a i) := by
  obtain ⟨h0, -, h2, h3, h4, -⟩ := word_6_5_5_16 0x4#6 d a i
  refine Encoding.seq_ok rfl rfl rfl ?_
  unfold rawSeq
  rewrite [bits_of (hi := 31) (lo := 26) (c := 4) h0 (by decide)]
  show some _ = some _
  rw [h2, h3, h4]

theorem Encoding.slti (d a : BitVec 5) (i : BitVec 16) : Encoding.Statement (.slti d a i) := by
  obtain ⟨h0, -, h2, h3, h4, -⟩ := word_6_5_5_16 0x5#6 d a i
  refine Encoding.seq_ok rfl rfl rfl ?_
  unfold rawSeq
  rewrite [bits_of (hi := 31) (lo := 26) (c := 5) h0 (by decide)]
  show some _ = some _
  rw [h2, h3, h4]

theorem Encoding.sltni (d a : BitVec 5) (i : BitVec 16) : Encoding.Statement (.sltni d a i) := by
  obtain ⟨h0, -, h2, h3, h4, -⟩ := word_6_5_5_16 0x6#6 d a i
  refine Encoding.seq_ok rfl rfl rfl ?_
  unfold rawSeq
  rewrite [bits_of (hi := 31) (lo := 26) (c := 6) h0 (by decide)]
  show some _ = some _
  rw [h2, h3, h4]

theorem Encoding.shiSll (d a : BitVec 5) (h : BitVec 6) : Encoding.Statement (.shiSll d a h) := by
  obtain ⟨h0, h1, h2, h3, h4⟩ := word_6_5_5_10_6 0x7#6 d a 0x0#10 h
  refine Encoding.seq_ok rfl rfl rfl ?_
  unfold rawSeq
  rewrite [bits_of (hi := 31) (lo := 26) (c := 7) h0 (by decide)]
  change seqOf07 (wordBits _ 15 14) _ = _
  rewrite [bits_of (hi := 15) (lo := 14) (c := 0) h1 (by decide)]
  show some _ = some _
  rw [h2, h3, h4]

theorem Encoding.shiSrl (d a : BitVec 5) (h : BitVec 6) : Encoding.Statement (.shiSrl d a h) := by
  obtain ⟨h0, h1, h2, h3, h4⟩ := word_6_5_5_10_6 0x7#6 d a 0x100#10 h
  refine Encoding.seq_ok rfl rfl rfl ?_
  unfold rawSeq
  rewrite [bits_of (hi := 31) (lo := 26) (c := 7) h0 (by decide)]
  change seqOf07 (wordBits _ 15 14) _ = _
  rewrite [bits_of (hi := 15) (lo := 14) (c := 1) h1 (by decide)]
  show some _ = some _
  rw [h2, h3, h4]

theorem Encoding.shiSra (d a : BitVec 5) (h : BitVec 6) : Encoding.Statement (.shiSra d a h) := by
  obtain ⟨h0, h1, h2, h3, h4⟩ := word_6_5_5_10_6 0x7#6 d a 0x200#10 h
  refine Encoding.seq_ok rfl rfl rfl ?_
  unfold rawSeq
  rewrite [bits_of (hi := 31) (lo := 26) (c := 7) h0 (by decide)]
  change seqOf07 (wordBits _ 15 14) _ = _
  rewrite [bits_of (hi := 15) (lo := 14) (c := 2) h1 (by decide)]
  show some _ = some _
  rw [h2, h3, h4]

theorem Encoding.lui (d : BitVec 5) (i : BitVec 16) : Encoding.Statement (.lui d i) := by
  obtain ⟨h0, -, h2, -, h4, -⟩ := word_6_5_5_16 0x8#6 d 0x0#5 i
  refine Encoding.seq_ok rfl rfl rfl ?_
  unfold rawSeq
  rewrite [bits_of (hi := 31) (lo := 26) (c := 8) h0 (by decide)]
  show some _ = some _
  rw [h2, h4]

theorem Encoding.auipc (d : BitVec 5) (i : BitVec 16) : Encoding.Statement (.auipc d i) := by
  obtain ⟨h0, -, h2, -, h4, -⟩ := word_6_5_5_16 0x9#6 d 0x0#5 i
  refine Encoding.seq_ok rfl rfl rfl ?_
  unfold rawSeq
  rewrite [bits_of (hi := 31) (lo := 26) (c := 9) h0 (by decide)]
  show some _ = some _
  rw [h2, h4]

theorem Encoding.ld (d b : BitVec 5) (z o c : BitVec 2) (i : BitVec 10) : Encoding.Statement (.ld d b z o c i) := by
  obtain ⟨h0, h1, h2, h3, h4, h5, h6⟩ := word_6_5_5_2_2_2_10 0x10#6 d b z o c i
  refine Encoding.seq_ok rfl rfl rfl ?_
  unfold rawSeq
  rewrite [bits_of (hi := 31) (lo := 26) (c := 16) h0 (by decide)]
  show some _ = some _
  rw [h1, h2, h3, h4, h5, h6]

theorem Encoding.ldn (d b : BitVec 5) (z o c : BitVec 2) (i : BitVec 10) : Encoding.Statement (.ldn d b z o c i) := by
  obtain ⟨h0, h1, h2, h3, h4, h5, h6⟩ := word_6_5_5_2_2_2_10 0x11#6 d b z o c i
  refine Encoding.seq_ok rfl rfl rfl ?_
  unfold rawSeq
  rewrite [bits_of (hi := 31) (lo := 26) (c := 17) h0 (by decide)]
  show some _ = some _
  rw [h1, h2, h3, h4, h5, h6]

theorem Encoding.st (d b : BitVec 5) (z o c : BitVec 2) (i : BitVec 10) : Encoding.Statement (.st d b z o c i) := by
  obtain ⟨h0, h1, h2, h3, h4, h5, h6⟩ := word_6_5_5_2_2_2_10 0x12#6 d b z o c i
  refine Encoding.seq_ok rfl rfl rfl ?_
  unfold rawSeq
  rewrite [bits_of (hi := 31) (lo := 26) (c := 18) h0 (by decide)]
  show some _ = some _
  rw [h1, h2, h3, h4, h5, h6]

theorem Encoding.amoAdd (d a b : BitVec 5) (c o : BitVec 2) (z : BitVec 1) : Encoding.Statement (.amoAdd d a b c o z) := by
  obtain ⟨h0, h1, h2, h3, h4, h5, h6, h7⟩ := word_6_5_5_5_2_2_1_1_5 0x13#6 d a b c o 0x1#1 z 0x0#5
  refine Encoding.seq_ok rfl rfl rfl ?_
  unfold rawSeq
  rewrite [bits_of (hi := 31) (lo := 26) (c := 19) h0 (by decide)]
  change seqOf13 (wordBits _ 4 0) _ = _
  rewrite [bits_of (hi := 4) (lo := 0) (c := 0) h1 (by decide)]
  show some _ = some _
  rw [h2, h3, h4, h5, h6, h7]

theorem Encoding.amoAnd (d a b : BitVec 5) (c o : BitVec 2) (z : BitVec 1) : Encoding.Statement (.amoAnd d a b c o z) := by
  obtain ⟨h0, h1, h2, h3, h4, h5, h6, h7⟩ := word_6_5_5_5_2_2_1_1_5 0x13#6 d a b c o 0x1#1 z 0x1#5
  refine Encoding.seq_ok rfl rfl rfl ?_
  unfold rawSeq
  rewrite [bits_of (hi := 31) (lo := 26) (c := 19) h0 (by decide)]
  change seqOf13 (wordBits _ 4 0) _ = _
  rewrite [bits_of (hi := 4) (lo := 0) (c := 1) h1 (by decide)]
  show some _ = some _
  rw [h2, h3, h4, h5, h6, h7]

theorem Encoding.amoOr (d a b : BitVec 5) (c o : BitVec 2) (z : BitVec 1) : Encoding.Statement (.amoOr d a b c o z) := by
  obtain ⟨h0, h1, h2, h3, h4, h5, h6, h7⟩ := word_6_5_5_5_2_2_1_1_5 0x13#6 d a b c o 0x1#1 z 0x2#5
  refine Encoding.seq_ok rfl rfl rfl ?_
  unfold rawSeq
  rewrite [bits_of (hi := 31) (lo := 26) (c := 19) h0 (by decide)]
  change seqOf13 (wordBits _ 4 0) _ = _
  rewrite [bits_of (hi := 4) (lo := 0) (c := 2) h1 (by decide)]
  show some _ = some _
  rw [h2, h3, h4, h5, h6, h7]

theorem Encoding.amoXor (d a b : BitVec 5) (c o : BitVec 2) (z : BitVec 1) : Encoding.Statement (.amoXor d a b c o z) := by
  obtain ⟨h0, h1, h2, h3, h4, h5, h6, h7⟩ := word_6_5_5_5_2_2_1_1_5 0x13#6 d a b c o 0x1#1 z 0x3#5
  refine Encoding.seq_ok rfl rfl rfl ?_
  unfold rawSeq
  rewrite [bits_of (hi := 31) (lo := 26) (c := 19) h0 (by decide)]
  change seqOf13 (wordBits _ 4 0) _ = _
  rewrite [bits_of (hi := 4) (lo := 0) (c := 3) h1 (by decide)]
  show some _ = some _
  rw [h2, h3, h4, h5, h6, h7]

theorem Encoding.amoMin (d a b : BitVec 5) (c o : BitVec 2) (z : BitVec 1) : Encoding.Statement (.amoMin d a b c o z) := by
  obtain ⟨h0, h1, h2, h3, h4, h5, h6, h7⟩ := word_6_5_5_5_2_2_1_1_5 0x13#6 d a b c o 0x1#1 z 0x4#5
  refine Encoding.seq_ok rfl rfl rfl ?_
  unfold rawSeq
  rewrite [bits_of (hi := 31) (lo := 26) (c := 19) h0 (by decide)]
  change seqOf13 (wordBits _ 4 0) _ = _
  rewrite [bits_of (hi := 4) (lo := 0) (c := 4) h1 (by decide)]
  show some _ = some _
  rw [h2, h3, h4, h5, h6, h7]

theorem Encoding.amoMax (d a b : BitVec 5) (c o : BitVec 2) (z : BitVec 1) : Encoding.Statement (.amoMax d a b c o z) := by
  obtain ⟨h0, h1, h2, h3, h4, h5, h6, h7⟩ := word_6_5_5_5_2_2_1_1_5 0x13#6 d a b c o 0x1#1 z 0x5#5
  refine Encoding.seq_ok rfl rfl rfl ?_
  unfold rawSeq
  rewrite [bits_of (hi := 31) (lo := 26) (c := 19) h0 (by decide)]
  change seqOf13 (wordBits _ 4 0) _ = _
  rewrite [bits_of (hi := 4) (lo := 0) (c := 5) h1 (by decide)]
  show some _ = some _
  rw [h2, h3, h4, h5, h6, h7]

theorem Encoding.amoMinn (d a b : BitVec 5) (c o : BitVec 2) (z : BitVec 1) : Encoding.Statement (.amoMinn d a b c o z) := by
  obtain ⟨h0, h1, h2, h3, h4, h5, h6, h7⟩ := word_6_5_5_5_2_2_1_1_5 0x13#6 d a b c o 0x1#1 z 0x6#5
  refine Encoding.seq_ok rfl rfl rfl ?_
  unfold rawSeq
  rewrite [bits_of (hi := 31) (lo := 26) (c := 19) h0 (by decide)]
  change seqOf13 (wordBits _ 4 0) _ = _
  rewrite [bits_of (hi := 4) (lo := 0) (c := 6) h1 (by decide)]
  show some _ = some _
  rw [h2, h3, h4, h5, h6, h7]

theorem Encoding.amoMaxn (d a b : BitVec 5) (c o : BitVec 2) (z : BitVec 1) : Encoding.Statement (.amoMaxn d a b c o z) := by
  obtain ⟨h0, h1, h2, h3, h4, h5, h6, h7⟩ := word_6_5_5_5_2_2_1_1_5 0x13#6 d a b c o 0x1#1 z 0x7#5
  refine Encoding.seq_ok rfl rfl rfl ?_
  unfold rawSeq
  rewrite [bits_of (hi := 31) (lo := 26) (c := 19) h0 (by decide)]
  change seqOf13 (wordBits _ 4 0) _ = _
  rewrite [bits_of (hi := 4) (lo := 0) (c := 7) h1 (by decide)]
  show some _ = some _
  rw [h2, h3, h4, h5, h6, h7]

theorem Encoding.amoSwap (d a b : BitVec 5) (c o : BitVec 2) (z : BitVec 1) : Encoding.Statement (.amoSwap d a b c o z) := by
  obtain ⟨h0, h1, h2, h3, h4, h5, h6, h7⟩ := word_6_5_5_5_2_2_1_1_5 0x13#6 d a b c o 0x1#1 z 0x8#5
  refine Encoding.seq_ok rfl rfl rfl ?_
  unfold rawSeq
  rewrite [bits_of (hi := 31) (lo := 26) (c := 19) h0 (by decide)]
  change seqOf13 (wordBits _ 4 0) _ = _
  rewrite [bits_of (hi := 4) (lo := 0) (c := 8) h1 (by decide)]
  show some _ = some _
  rw [h2, h3, h4, h5, h6, h7]

theorem Encoding.amoCas (d a b : BitVec 5) (c o : BitVec 2) (z : BitVec 1) : Encoding.Statement (.amoCas d a b c o z) := by
  obtain ⟨h0, h1, h2, h3, h4, h5, h6, h7⟩ := word_6_5_5_5_2_2_1_1_5 0x13#6 d a b c o 0x1#1 z 0x9#5
  refine Encoding.seq_ok rfl rfl rfl ?_
  unfold rawSeq
  rewrite [bits_of (hi := 31) (lo := 26) (c := 19) h0 (by decide)]
  change seqOf13 (wordBits _ 4 0) _ = _
  rewrite [bits_of (hi := 4) (lo := 0) (c := 9) h1 (by decide)]
  show some _ = some _
  rw [h2, h3, h4, h5, h6, h7]

theorem Encoding.beq (a b : BitVec 5) (i : BitVec 16) : Encoding.Statement (.beq a b i) := by
  obtain ⟨h0, -, h2, h3, h4, -⟩ := word_6_5_5_16 0x18#6 a b i
  refine Encoding.seq_ok rfl rfl rfl ?_
  unfold rawSeq
  rewrite [bits_of (hi := 31) (lo := 26) (c := 24) h0 (by decide)]
  show some _ = some _
  rw [h2, h3, h4]

theorem Encoding.bne (a b : BitVec 5) (i : BitVec 16) : Encoding.Statement (.bne a b i) := by
  obtain ⟨h0, -, h2, h3, h4, -⟩ := word_6_5_5_16 0x19#6 a b i
  refine Encoding.seq_ok rfl rfl rfl ?_
  unfold rawSeq
  rewrite [bits_of (hi := 31) (lo := 26) (c := 25) h0 (by decide)]
  show some _ = some _
  rw [h2, h3, h4]

theorem Encoding.blt (a b : BitVec 5) (i : BitVec 16) : Encoding.Statement (.blt a b i) := by
  obtain ⟨h0, -, h2, h3, h4, -⟩ := word_6_5_5_16 0x1A#6 a b i
  refine Encoding.seq_ok rfl rfl rfl ?_
  unfold rawSeq
  rewrite [bits_of (hi := 31) (lo := 26) (c := 26) h0 (by decide)]
  show some _ = some _
  rw [h2, h3, h4]

theorem Encoding.bge (a b : BitVec 5) (i : BitVec 16) : Encoding.Statement (.bge a b i) := by
  obtain ⟨h0, -, h2, h3, h4, -⟩ := word_6_5_5_16 0x1B#6 a b i
  refine Encoding.seq_ok rfl rfl rfl ?_
  unfold rawSeq
  rewrite [bits_of (hi := 31) (lo := 26) (c := 27) h0 (by decide)]
  show some _ = some _
  rw [h2, h3, h4]

theorem Encoding.bltn (a b : BitVec 5) (i : BitVec 16) : Encoding.Statement (.bltn a b i) := by
  obtain ⟨h0, -, h2, h3, h4, -⟩ := word_6_5_5_16 0x1C#6 a b i
  refine Encoding.seq_ok rfl rfl rfl ?_
  unfold rawSeq
  rewrite [bits_of (hi := 31) (lo := 26) (c := 28) h0 (by decide)]
  show some _ = some _
  rw [h2, h3, h4]

theorem Encoding.bgen (a b : BitVec 5) (i : BitVec 16) : Encoding.Statement (.bgen a b i) := by
  obtain ⟨h0, -, h2, h3, h4, -⟩ := word_6_5_5_16 0x1D#6 a b i
  refine Encoding.seq_ok rfl rfl rfl ?_
  unfold rawSeq
  rewrite [bits_of (hi := 31) (lo := 26) (c := 29) h0 (by decide)]
  show some _ = some _
  rw [h2, h3, h4]

theorem Encoding.j (i : BitVec 26) : Encoding.Statement (.j i) := by
  obtain ⟨h0, h1⟩ := word_6_26 0x1E#6 i
  refine Encoding.seq_ok rfl rfl rfl ?_
  unfold rawSeq
  rewrite [bits_of (hi := 31) (lo := 26) (c := 30) h0 (by decide)]
  show some _ = some _
  rw [h1]

theorem Encoding.jal (i : BitVec 26) : Encoding.Statement (.jal i) := by
  obtain ⟨h0, h1⟩ := word_6_26 0x1F#6 i
  refine Encoding.seq_ok rfl rfl rfl ?_
  unfold rawSeq
  rewrite [bits_of (hi := 31) (lo := 26) (c := 31) h0 (by decide)]
  show some _ = some _
  rw [h1]

theorem Encoding.jalr (d a : BitVec 5) (i : BitVec 16) : Encoding.Statement (.jalr d a i) := by
  obtain ⟨h0, -, h2, h3, h4, -⟩ := word_6_5_5_16 0x20#6 d a i
  refine Encoding.seq_ok rfl rfl rfl ?_
  unfold rawSeq
  rewrite [bits_of (hi := 31) (lo := 26) (c := 32) h0 (by decide)]
  show some _ = some _
  rw [h2, h3, h4]

theorem Encoding.jtab (d a : BitVec 5) (i : BitVec 16) : Encoding.Statement (.jtab d a i) := by
  obtain ⟨h0, -, h2, h3, h4, -⟩ := word_6_5_5_16 0x21#6 d a i
  refine Encoding.seq_ok rfl rfl rfl ?_
  unfold rawSeq
  rewrite [bits_of (hi := 31) (lo := 26) (c := 33) h0 (by decide)]
  show some _ = some _
  rw [h2, h3, h4]

theorem Encoding.fence (c : BitVec 2) : Encoding.Statement (.fence c) := by
  obtain ⟨h0, h1, h2⟩ := word_30_2 0x22000000#30 c
  refine Encoding.seq_ok rfl rfl rfl ?_
  unfold rawSeq
  rewrite [bits_of (hi := 31) (lo := 26) (c := 34) h0 (by decide)]
  change seqOf22 (wordBits _ 2 2) _ = _
  rewrite [bits_of (hi := 2) (lo := 2) (c := 0) h1 (by decide)]
  show some _ = some _
  rw [h2]

theorem Encoding.fenceRg (a b : BitVec 5) (c : BitVec 2) : Encoding.Statement (.fenceRg a b c) := by
  obtain ⟨h0, h1, h2, h3, h4⟩ := word_11_5_5_9_2 0x440#11 a b 0x1#9 c
  refine Encoding.seq_ok rfl rfl rfl ?_
  unfold rawSeq
  rewrite [bits_of (hi := 31) (lo := 26) (c := 34) h0 (by decide)]
  change seqOf22 (wordBits _ 2 2) _ = _
  rewrite [bits_of (hi := 2) (lo := 2) (c := 1) h1 (by decide)]
  show some _ = some _
  rw [h2, h3, h4]

theorem Encoding.csrr (d : BitVec 5) (n : BitVec 14) : Encoding.Statement (.csrr d n) := by
  obtain ⟨h0, h1, h2⟩ := word_6_5_7_14 0x23#6 d 0x0#7 n
  refine Encoding.seq_ok rfl rfl rfl ?_
  unfold rawSeq
  rewrite [bits_of (hi := 31) (lo := 26) (c := 35) h0 (by decide)]
  show some _ = some _
  rw [h1, h2]

theorem Encoding.csrw (a : BitVec 5) (n : BitVec 14) : Encoding.Statement (.csrw a n) := by
  obtain ⟨h0, h1, h2⟩ := word_11_5_2_14 0x480#11 a 0x0#2 n
  refine Encoding.seq_ok rfl rfl rfl ?_
  unfold rawSeq
  rewrite [bits_of (hi := 31) (lo := 26) (c := 36) h0 (by decide)]
  show some _ = some _
  rw [h1, h2]

theorem Encoding.trap (i : BitVec 16) : Encoding.Statement (.trap i) := by
  obtain ⟨h0, h1⟩ := word_16_16 0x9400#16 i
  refine Encoding.seq_ok rfl rfl rfl ?_
  unfold rawSeq
  rewrite [bits_of (hi := 31) (lo := 26) (c := 37) h0 (by decide)]
  show some _ = some _
  rw [h1]

theorem Encoding.pload (d a : BitVec 5) (s : BitVec 4) (w : BitVec 8) : Encoding.Statement (.pload d a s w) := by
  obtain ⟨h0, h1, h2, h3, h4, -⟩ := word_6_5_5_4_8_4 0x28#6 d a s w 0x0#4
  refine Encoding.seq_ok rfl rfl rfl ?_
  unfold rawSeq
  rewrite [bits_of (hi := 31) (lo := 26) (c := 40) h0 (by decide)]
  show some _ = some _
  rw [h1, h2, h3, h4]

theorem Encoding.pwait (a : BitVec 5) : Encoding.Statement (.pwait a) := by
  obtain ⟨h0, h1, -, -⟩ := word_11_5_16 0x520#11 a 0x8000#16
  refine Encoding.seq_ok rfl rfl rfl ?_
  unfold rawSeq
  rewrite [bits_of (hi := 31) (lo := 26) (c := 41) h0 (by decide)]
  show some _ = some _
  rw [h1]

theorem Encoding.cpy (d a : BitVec 5) (s : BitVec 4) (w : BitVec 8) : Encoding.Statement (.cpy d a s w) := by
  obtain ⟨h0, h1, h2, h3, h4, h5⟩ := word_6_5_5_4_8_4 0x2A#6 d a s w 0x0#4
  refine Encoding.seq_ok rfl rfl rfl ?_
  unfold rawSeq
  rewrite [bits_of (hi := 31) (lo := 26) (c := 42) h0 (by decide)]
  change seqOf2A (wordBits _ 3 0) _ = _
  rewrite [bits_of (hi := 3) (lo := 0) (c := 0) h5 (by decide)]
  show some _ = some _
  rw [h1, h2, h3, h4]

theorem Encoding.cpyB (d a : BitVec 5) (s : BitVec 4) (w : BitVec 8) : Encoding.Statement (.cpyB d a s w) := by
  obtain ⟨h0, h1, h2, h3, h4, h5⟩ := word_6_5_5_4_8_4 0x2A#6 d a s w 0x1#4
  refine Encoding.seq_ok rfl rfl rfl ?_
  unfold rawSeq
  rewrite [bits_of (hi := 31) (lo := 26) (c := 42) h0 (by decide)]
  change seqOf2A (wordBits _ 3 0) _ = _
  rewrite [bits_of (hi := 3) (lo := 0) (c := 1) h5 (by decide)]
  show some _ = some _
  rw [h1, h2, h3, h4]

theorem Encoding.billetArm (d a : BitVec 5) : Encoding.Statement (.billetArm d a) := by
  obtain ⟨h0, -, h2, h3, -, h5⟩ := word_6_5_5_16 0x2B#6 d a 0x8000#16
  refine Encoding.seq_ok rfl rfl rfl ?_
  unfold rawSeq
  rewrite [bits_of (hi := 31) (lo := 26) (c := 43) h0 (by decide)]
  change seqOf2B (wordBits _ 3 0) _ = _
  rewrite [bits_of (hi := 3) (lo := 0) (c := 0) h5 (by decide)]
  show some _ = some _
  rw [h2, h3]

theorem Encoding.billetDisarm (d : BitVec 5) : Encoding.Statement (.billetDisarm d) := by
  obtain ⟨h0, h1, h2⟩ := word_6_5_21 0x2B#6 d 0x8001#21
  refine Encoding.seq_ok rfl rfl rfl ?_
  unfold rawSeq
  rewrite [bits_of (hi := 31) (lo := 26) (c := 43) h0 (by decide)]
  change seqOf2B (wordBits _ 3 0) _ = _
  rewrite [bits_of (hi := 3) (lo := 0) (c := 1) h1 (by decide)]
  show some _ = some _
  rw [h2]

theorem Encoding.tqpush (a : BitVec 5) (n : BitVec 4) : Encoding.Statement (.tqpush a n) := by
  obtain ⟨h0, h1, h2⟩ := word_11_5_12_4 0x580#11 a 0x800#12 n
  refine Encoding.seq_ok rfl rfl rfl ?_
  unfold rawSeq
  rewrite [bits_of (hi := 31) (lo := 26) (c := 44) h0 (by decide)]
  show some _ = some _
  rw [h1, h2]

theorem Encoding.tqcnt (d : BitVec 5) (n : BitVec 4) : Encoding.Statement (.tqcnt d n) := by
  obtain ⟨h0, h1, h2⟩ := word_6_5_17_4 0x2D#6 d 0x800#17 n
  refine Encoding.seq_ok rfl rfl rfl ?_
  unfold rawSeq
  rewrite [bits_of (hi := 31) (lo := 26) (c := 45) h0 (by decide)]
  show some _ = some _
  rw [h1, h2]

theorem Encoding.waitd (w : BitVec 8) : Encoding.Statement (.waitd w) := by
  obtain ⟨h0, h1⟩ := word_20_8_4 0xB8008#20 w 0x0#4
  refine Encoding.seq_ok rfl rfl rfl ?_
  unfold rawSeq
  rewrite [bits_of (hi := 31) (lo := 26) (c := 46) h0 (by decide)]
  show some _ = some _
  rw [h1]

theorem Encoding.waitt (a : BitVec 5) (s : BitVec 3) : Encoding.Statement (.waitt a s) := by
  obtain ⟨h0, h1, h2⟩ := word_11_5_1_3_12 0x5E0#11 a 0x0#1 s 0x0#12
  refine Encoding.seq_ok rfl rfl rfl ?_
  unfold rawSeq
  rewrite [bits_of (hi := 31) (lo := 26) (c := 47) h0 (by decide)]
  show some _ = some _
  rw [h1, h2]

theorem Encoding.crnDef (d a : BitVec 5) : Encoding.Statement (.crnDef d a) := by
  obtain ⟨h0, -, h2, h3, -, h5⟩ := word_6_5_5_16 0x30#6 d a 0x8000#16
  refine Encoding.seq_ok rfl rfl rfl ?_
  unfold rawSeq
  rewrite [bits_of (hi := 31) (lo := 26) (c := 48) h0 (by decide)]
  change seqOf30 (wordBits _ 3 0) _ = _
  rewrite [bits_of (hi := 3) (lo := 0) (c := 0) h5 (by decide)]
  show some _ = some _
  rw [h2, h3]

theorem Encoding.crnStep (a : BitVec 5) (s : BitVec 4) (w : BitVec 8) : Encoding.Statement (.crnStep a s w) := by
  obtain ⟨h0, h1, h2, h3, h4⟩ := word_11_5_4_8_4 0x600#11 a s w 0x1#4
  refine Encoding.seq_ok rfl rfl rfl ?_
  unfold rawSeq
  rewrite [bits_of (hi := 31) (lo := 26) (c := 48) h0 (by decide)]
  change seqOf30 (wordBits _ 3 0) _ = _
  rewrite [bits_of (hi := 3) (lo := 0) (c := 1) h1 (by decide)]
  show some _ = some _
  rw [h2, h3, h4]

theorem Encoding.crnForce (a : BitVec 5) : Encoding.Statement (.crnForce a) := by
  obtain ⟨h0, h1, h2, -⟩ := word_11_5_16 0x600#11 a 0x8002#16
  refine Encoding.seq_ok rfl rfl rfl ?_
  unfold rawSeq
  rewrite [bits_of (hi := 31) (lo := 26) (c := 48) h0 (by decide)]
  change seqOf30 (wordBits _ 3 0) _ = _
  rewrite [bits_of (hi := 3) (lo := 0) (c := 2) h2 (by decide)]
  show some _ = some _
  rw [h1]

theorem Encoding.crnMap (d a : BitVec 5) : Encoding.Statement (.crnMap d a) := by
  obtain ⟨h0, -, h2, h3, -, h5⟩ := word_6_5_5_16 0x30#6 d a 0x8003#16
  refine Encoding.seq_ok rfl rfl rfl ?_
  unfold rawSeq
  rewrite [bits_of (hi := 31) (lo := 26) (c := 48) h0 (by decide)]
  change seqOf30 (wordBits _ 3 0) _ = _
  rewrite [bits_of (hi := 3) (lo := 0) (c := 3) h5 (by decide)]
  show some _ = some _
  rw [h2, h3]

theorem Encoding.crnUndef (a : BitVec 5) : Encoding.Statement (.crnUndef a) := by
  obtain ⟨h0, h1, h2, -⟩ := word_11_5_16 0x600#11 a 0x8004#16
  refine Encoding.seq_ok rfl rfl rfl ?_
  unfold rawSeq
  rewrite [bits_of (hi := 31) (lo := 26) (c := 48) h0 (by decide)]
  change seqOf30 (wordBits _ 3 0) _ = _
  rewrite [bits_of (hi := 3) (lo := 0) (c := 4) h2 (by decide)]
  show some _ = some _
  rw [h1]

theorem Encoding.crnStat (d a : BitVec 5) : Encoding.Statement (.crnStat d a) := by
  obtain ⟨h0, -, h2, h3, -, h5⟩ := word_6_5_5_16 0x30#6 d a 0x8005#16
  refine Encoding.seq_ok rfl rfl rfl ?_
  unfold rawSeq
  rewrite [bits_of (hi := 31) (lo := 26) (c := 48) h0 (by decide)]
  change seqOf30 (wordBits _ 3 0) _ = _
  rewrite [bits_of (hi := 3) (lo := 0) (c := 5) h5 (by decide)]
  show some _ = some _
  rw [h2, h3]

theorem Encoding.cset (d a : BitVec 5) : Encoding.Statement (.cset d a) := by
  obtain ⟨h0, -, h2, h3, -, -⟩ := word_6_5_5_16 0x31#6 d a 0x8000#16
  refine Encoding.seq_ok rfl rfl rfl ?_
  unfold rawSeq
  rewrite [bits_of (hi := 31) (lo := 26) (c := 49) h0 (by decide)]
  show some _ = some _
  rw [h2, h3]

theorem Encoding.mark (a : BitVec 5) : Encoding.Statement (.mark a) := by
  obtain ⟨h0, h1, -, -⟩ := word_11_5_16 0x640#11 a 0x8000#16
  refine Encoding.seq_ok rfl rfl rfl ?_
  unfold rawSeq
  rewrite [bits_of (hi := 31) (lo := 26) (c := 50) h0 (by decide)]
  show some _ = some _
  rw [h1]

theorem Encoding.wopen (d a : BitVec 5) : Encoding.Statement (.wopen d a) := by
  obtain ⟨h0, -, h2, h3, -, -⟩ := word_6_5_5_16 0x33#6 d a 0x8000#16
  refine Encoding.seq_ok rfl rfl rfl ?_
  unfold rawSeq
  rewrite [bits_of (hi := 31) (lo := 26) (c := 51) h0 (by decide)]
  show some _ = some _
  rw [h2, h3]

theorem Encoding.wseal (a : BitVec 5) : Encoding.Statement (.wseal a) := by
  obtain ⟨h0, h1, -, -⟩ := word_11_5_16 0x680#11 a 0x8000#16
  refine Encoding.seq_ok rfl rfl rfl ?_
  unfold rawSeq
  rewrite [bits_of (hi := 31) (lo := 26) (c := 52) h0 (by decide)]
  show some _ = some _
  rw [h1]

theorem Encoding.launch (a : BitVec 5) : Encoding.Statement (.launch a) := by
  obtain ⟨h0, h1, -, -⟩ := word_11_5_16 0x6A0#11 a 0x8000#16
  refine Encoding.seq_ok rfl rfl rfl ?_
  unfold rawSeq
  rewrite [bits_of (hi := 31) (lo := 26) (c := 53) h0 (by decide)]
  show some _ = some _
  rw [h1]

theorem Encoding.pstat (d a : BitVec 5) : Encoding.Statement (.pstat d a) := by
  obtain ⟨h0, -, h2, h3, -, -⟩ := word_6_5_5_16 0x36#6 d a 0x8000#16
  refine Encoding.seq_ok rfl rfl rfl ?_
  unfold rawSeq
  rewrite [bits_of (hi := 31) (lo := 26) (c := 54) h0 (by decide)]
  show some _ = some _
  rw [h2, h3]

theorem Encoding.halt (d a : BitVec 5) : Encoding.Statement (.halt d a) := by
  obtain ⟨h0, h1, h2, h3, -, -⟩ := word_6_5_5_16 0x38#6 d a 0x3#16
  refine Encoding.seq_ok rfl rfl rfl ?_
  unfold rawSeq
  rewrite [bits_of (hi := 31) (lo := 26) (c := 56) h0 (by decide)]
  change seqOf38 (wordBits _ 10 0) _ = _
  rewrite [bits_of (hi := 10) (lo := 0) (c := 3) h1 (by decide)]
  show some _ = some _
  rw [h2, h3]

theorem Encoding.tlbiVa (a b : BitVec 5) : Encoding.Statement (.tlbiVa a b) := by
  obtain ⟨h0, h1, h2, h3⟩ := word_11_5_5_11 0x700#11 a b 0x4#11
  refine Encoding.seq_ok rfl rfl rfl ?_
  unfold rawSeq
  rewrite [bits_of (hi := 31) (lo := 26) (c := 56) h0 (by decide)]
  change seqOf38 (wordBits _ 10 0) _ = _
  rewrite [bits_of (hi := 10) (lo := 0) (c := 4) h1 (by decide)]
  show some _ = some _
  rw [h2, h3]

theorem Encoding.tlbiAsid (a : BitVec 5) : Encoding.Statement (.tlbiAsid a) := by
  obtain ⟨h0, h1, -, h3⟩ := word_11_5_16 0x700#11 a 0x5#16
  refine Encoding.seq_ok rfl rfl rfl ?_
  unfold rawSeq
  rewrite [bits_of (hi := 31) (lo := 26) (c := 56) h0 (by decide)]
  change seqOf38 (wordBits _ 10 0) _ = _
  rewrite [bits_of (hi := 10) (lo := 0) (c := 5) h3 (by decide)]
  show some _ = some _
  rw [h1]

theorem Encoding.tlbiVf (a : BitVec 5) : Encoding.Statement (.tlbiVf a) := by
  obtain ⟨h0, h1, -, h3⟩ := word_11_5_16 0x700#11 a 0x6#16
  refine Encoding.seq_ok rfl rfl rfl ?_
  unfold rawSeq
  rewrite [bits_of (hi := 31) (lo := 26) (c := 56) h0 (by decide)]
  change seqOf38 (wordBits _ 10 0) _ = _
  rewrite [bits_of (hi := 10) (lo := 0) (c := 6) h3 (by decide)]
  show some _ = some _
  rw [h1]

theorem Encoding.isave (d a b : BitVec 5) : Encoding.Statement (.isave d a b) := by
  obtain ⟨h0, h1, h2, h3, h4⟩ := word_6_5_5_5_11 0x38#6 d a b 0x8#11
  refine Encoding.seq_ok rfl rfl rfl ?_
  unfold rawSeq
  rewrite [bits_of (hi := 31) (lo := 26) (c := 56) h0 (by decide)]
  change seqOf38 (wordBits _ 10 0) _ = _
  rewrite [bits_of (hi := 10) (lo := 0) (c := 8) h1 (by decide)]
  show some _ = some _
  rw [h2, h3, h4]

theorem Encoding.irest (d a : BitVec 5) : Encoding.Statement (.irest d a) := by
  obtain ⟨h0, h1, h2, h3, -, -⟩ := word_6_5_5_16 0x38#6 d a 0x9#16
  refine Encoding.seq_ok rfl rfl rfl ?_
  unfold rawSeq
  rewrite [bits_of (hi := 31) (lo := 26) (c := 56) h0 (by decide)]
  change seqOf38 (wordBits _ 10 0) _ = _
  rewrite [bits_of (hi := 10) (lo := 0) (c := 9) h1 (by decide)]
  show some _ = some _
  rw [h2, h3]

theorem Encoding.gcfg (d a : BitVec 5) : Encoding.Statement (.gcfg d a) := by
  obtain ⟨h0, h1, h2, h3, -, -⟩ := word_6_5_5_16 0x38#6 d a 0xA#16
  refine Encoding.seq_ok rfl rfl rfl ?_
  unfold rawSeq
  rewrite [bits_of (hi := 31) (lo := 26) (c := 56) h0 (by decide)]
  change seqOf38 (wordBits _ 10 0) _ = _
  rewrite [bits_of (hi := 10) (lo := 0) (c := 10) h1 (by decide)]
  show some _ = some _
  rw [h2, h3]

theorem Encoding.ccfg (d a : BitVec 5) : Encoding.Statement (.ccfg d a) := by
  obtain ⟨h0, h1, h2, h3, -, -⟩ := word_6_5_5_16 0x38#6 d a 0xB#16
  refine Encoding.seq_ok rfl rfl rfl ?_
  unfold rawSeq
  rewrite [bits_of (hi := 31) (lo := 26) (c := 56) h0 (by decide)]
  change seqOf38 (wordBits _ 10 0) _ = _
  rewrite [bits_of (hi := 10) (lo := 0) (c := 11) h1 (by decide)]
  show some _ = some _
  rw [h2, h3]

theorem Encoding.scrub (d a : BitVec 5) : Encoding.Statement (.scrub d a) := by
  obtain ⟨h0, h1, h2, h3, -, -⟩ := word_6_5_5_16 0x38#6 d a 0xC#16
  refine Encoding.seq_ok rfl rfl rfl ?_
  unfold rawSeq
  rewrite [bits_of (hi := 31) (lo := 26) (c := 56) h0 (by decide)]
  change seqOf38 (wordBits _ 10 0) _ = _
  rewrite [bits_of (hi := 10) (lo := 0) (c := 12) h1 (by decide)]
  show some _ = some _
  rw [h2, h3]

theorem Encoding.dret (d a : BitVec 5) : Encoding.Statement (.dret d a) := by
  obtain ⟨h0, h1, h2, h3, -, -⟩ := word_6_5_5_16 0x38#6 d a 0xD#16
  refine Encoding.seq_ok rfl rfl rfl ?_
  unfold rawSeq
  rewrite [bits_of (hi := 31) (lo := 26) (c := 56) h0 (by decide)]
  change seqOf38 (wordBits _ 10 0) _ = _
  rewrite [bits_of (hi := 10) (lo := 0) (c := 13) h1 (by decide)]
  show some _ = some _
  rw [h2, h3]

theorem Encoding.illegalInstruction (w : BitVec 32) : Encoding.Statement (.illegalInstruction w) := rfl

theorem Encoding.clockStretch (die m : Nat) : Encoding.Statement (.clockStretch die m) := rfl

theorem Encoding.laneRepair (die : Nat) : Encoding.Statement (.laneRepair die) := rfl

theorem Encoding.testAccessPortInstruction (ir : TapInstr) : Encoding.Statement (.testAccessPortInstruction ir) := rfl

theorem Encoding.waitSatisfied : Encoding.Statement .waitSatisfied := rfl

theorem Encoding.interrupt : Encoding.Statement .interrupt := rfl

theorem Encoding.rctlPreq : Encoding.Statement .rctlPreq := rfl

theorem Encoding.rctlResume : Encoding.Statement .rctlResume := rfl

theorem Encoding.rctlResumeInject : Encoding.Statement .rctlResumeInject := rfl

theorem Encoding.prqRetry : Encoding.Statement .prqRetry := rfl

theorem Encoding.prqFail : Encoding.Statement .prqFail := rfl

theorem Encoding.prqForward : Encoding.Statement .prqForward := rfl

theorem Encoding.sprqRetry : Encoding.Statement .sprqRetry := rfl

theorem Encoding.sprqFail : Encoding.Statement .sprqFail := rfl

theorem Encoding.kctlLoad : Encoding.Statement .kctlLoad := rfl

theorem Encoding.kctlDraw : Encoding.Statement .kctlDraw := rfl

theorem Encoding.kctlDestroy : Encoding.Statement .kctlDestroy := rfl

theorem Encoding.kctlLoadMigration : Encoding.Statement .kctlLoadMigration := rfl

theorem Encoding.kctlStopVf : Encoding.Statement .kctlStopVf := rfl

theorem Encoding.kinitctlGo : Encoding.Statement .kinitctlGo := rfl

theorem Encoding.wvalidSet : Encoding.Statement .wvalidSet := rfl

theorem Encoding.wvalidClear : Encoding.Statement .wvalidClear := rfl

theorem Encoding.rimgctlDump : Encoding.Statement .rimgctlDump := rfl

theorem Encoding.rimgctlRest : Encoding.Statement .rimgctlRest := rfl

theorem Encoding.rpwrQuiesce : Encoding.Statement .rpwrQuiesce := rfl

theorem Encoding.rpwrSave : Encoding.Statement .rpwrSave := rfl

theorem Encoding.rpwrGateClock : Encoding.Statement .rpwrGateClock := rfl

theorem Encoding.rpwrGateRail : Encoding.Statement .rpwrGateRail := rfl

theorem Encoding.rpwrWake : Encoding.Statement .rpwrWake := rfl

theorem Encoding.lifetimeStoreWrite : Encoding.Statement .lifetimeStoreWrite := rfl

theorem Encoding.orderlyPowerDown : Encoding.Statement .orderlyPowerDown := rfl

theorem Encoding.qpstatClear : Encoding.Statement .qpstatClear := rfl

theorem Encoding.nop : Encoding.Statement .nop := ⟨rfl, fun _ => rfl⟩

theorem Encoding.mpass : Encoding.Statement .mpass := ⟨rfl, fun _ => rfl⟩

theorem Encoding.sret : Encoding.Statement .sret := ⟨rfl, fun _ => rfl⟩

theorem Encoding.hret : Encoding.Statement .hret := ⟨rfl, fun _ => rfl⟩

theorem Encoding.wfi : Encoding.Statement .wfi := ⟨rfl, fun _ => rfl⟩

theorem Encoding.tlbiAll : Encoding.Statement .tlbiAll := ⟨rfl, fun _ => rfl⟩

theorem Encoding.instructionFetchFault : Encoding.Statement .instructionFetchFault := rfl

theorem Encoding.managementCoreInterrupt : Encoding.Statement .managementCoreInterrupt := rfl

theorem Encoding.channelInitComplete : Encoding.Statement .channelInitComplete := rfl

theorem Encoding.powerFailure : Encoding.Statement .powerFailure := rfl

end Sys2Proof.Laws
end

