-- ==== Sys2Proof/Laws/Ports.lean ====
section
/-! SUPPORT. The window of a merge: which records it takes, and which it offers (R143, R145, R146). -/

namespace Sys2Proof.Machine

/-- Of the records that fall due while record h is the next to offer, a window of D records takes number h + n exactly if n < D: R146's D ≥ Δ + 1 is what
lets all of h to h + Δ in, and with D ≤ Δ record h + D waits outside. -/
theorem State.outSpace_merge (s : State) (g : Group) (key : Nat) (p ip : Port) (off size k n : Nat) (hk : p.kind = .pool off size)
    (hf : g.fedBy off = some (k, ip)) (hm : g.merges (k / 4) = true) (hn : n < 65536) :
    s.outSpace g key p (some (ip.head + BitVec.ofNat 16 n)) = if n < ip.decl.d then size / 4 else 0 := by
  have h : (ip.head + BitVec.ofNat 16 n - ip.head).toNat = n := by bv_omega
  simp only [State.outSpace, hk, hf, hm, ↓reduceIte, h]

/-- A merge offers record h, and no later one before it. -/
theorem State.nextOffer_merge (s : State) (g : Group) (key : Nat) (p : Port) (hm : g.merges (key / 4) = true) :
    s.nextOffer g key p = (tfind p.win p.head.toNat).map fun ws => (some p.head, ws) := by
  simp only [State.nextOffer, hm, ↓reduceIte]
  cases tfind p.win p.head.toNat <;> rfl

end Sys2Proof.Machine
end

