-- ==== Sys2Proof/Tests/Slice0.lean ====
section
/-! SUPPORT. Tests: ill-formed terms are refused, words of the spec decode, steps on small states give what the spec's rules and examples
state, and witnesses that the hypotheses of every statement can be met. -/

namespace Sys2Proof.Tests

open Sys2Proof Sys2Proof.Machine

-- one theorem after another: many kernel evaluations at once want more threads than a check may start
set_option Elab.async false

/-! ## An ill-formed term for each check -/

/-- R182: an element's destination is k0 to k15, out or none. -/
theorem test_wf_dest : (Instr.mov 1 0 18 0).wf = false ∧ (Instr.veAnd 1 2 31 0).wf = false ∧ (Instr.veAddi 0 1 3 18).wf = false ∧
    (Instr.movi 0 3 18).wf = false ∧ (Instr.sel 0 1 2 18 0).wf = false ∧ (Instr.exp2 8 31 18 0 0).wf = false ∧ (Instr.ldb 1 31 18 0).wf = false ∧
    (Instr.emit 1 31 18 0).wf = false ∧ (Instr.pcnt 31 31 18 0).wf = false := by decide

/-- R186, R214: a word that reads its old d takes a register for it. -/
theorem test_wf_dest_register : (Instr.mad 0 1 2 16 0 0).wf = false ∧ (Instr.clamp 0 1 2 17 0).wf = false ∧ (Instr.fma 8 1 2 16 0 0 0).wf = false ∧
    (Instr.fclamp 8 1 2 17 0).wf = false ∧ (Instr.dot 9 1 2 16 0 0 0).wf = false ∧ (Instr.dotx 1 2 16 0 0).wf = false ∧
    (Instr.atcas 1 2 16 0).wf = false := by decide

/-- R183, R186: the types each operation admits. -/
theorem test_wf_type : (Instr.veAdd 8 1 2 3 0 0).wf = false ∧ (Instr.veMul 6 1 2 3 0 0).wf = false ∧ (Instr.abs 1 1 31 3 0 0).wf = false ∧
    (Instr.veClz 0 1 31 3 0).wf = false ∧ (Instr.cmpEq 11 1 2 0 0).wf = false ∧ (Instr.cmpUn 7 1 2 0 0).wf = false ∧
    (Instr.fadd 7 1 2 3 0 0 0).wf = false ∧ (Instr.fadd 11 1 2 3 0 0 0).wf = false ∧ (Instr.pack 0 1 2 3 0 0 0 0).wf = false ∧
    (Instr.unpklo 8 1 31 3 0).wf = false ∧ (Instr.dot 13 1 2 3 0 0 0).wf = false := by decide

/-- R86, R90: a direction or stochastic rounding where the word does not round, and both at once. -/
theorem test_wf_rounding : (Instr.cvt 0 1 2 3 0 0 1 0).wf = false ∧ (Instr.cvt 0 1 8 3 0 0 0 1).wf = false ∧ (Instr.cvt 10 1 8 3 0 0 1 1).wf = false ∧
    (Instr.pack 2 1 2 3 0 0 1 0).wf = false ∧ (Instr.dot 2 1 2 3 0 0 1).wf = false := by decide

/-- R212, R229: dropw does not name the port it drops from. -/
theorem test_wf_dropw : (Instr.dropw 30 31 3 0).wf = false ∧ (Instr.dropw 1 31 18 0).wf = false := by decide

/-- R231, R232, R237, R239: a matrix word's format, drain format and exponent. -/
theorem test_wf_matrix : (Instr.mma 9 0 0 0 0 0 0 0 0).wf = false ∧ (Instr.mma 0 0 0 0 0 0 1 5 0).wf = false ∧ (Instr.mma 0 0 0 0 0 0 0 1 0).wf = false ∧
    (Instr.mma 0 0 0 0 0 0 0 0 1).wf = false ∧ (Instr.mmx 1 0 0 0 0 0 0 0 0).wf = false ∧ (Instr.mmx 7 0 0 0 0 0 0 0 0).wf = false ∧
    (Instr.adrain 0 5 0).wf = false ∧ (Instr.ascale 0 0x100).wf = false := by decide

/-- R116, R251, R256: the orders a load, a store and an atomic admit, and a scope without one. -/
theorem test_wf_order : (Instr.ld 1 2 0 2 0 0).wf = false ∧ (Instr.ldn 1 2 0 0 1 0).wf = false ∧ (Instr.st 1 2 0 1 0 0).wf = false ∧
    (Instr.st 1 2 0 0 1 0).wf = false ∧ (Instr.amoAdd 1 2 3 1 0 0).wf = false := by decide

/-- R199, R267: a set slot above 8. -/
theorem test_wf_slot : (Instr.pload 1 2 9 0).wf = false ∧ (Instr.cpy 1 2 9 0).wf = false ∧ (Instr.cpyB 1 2 15 0).wf = false ∧
    (Instr.crnStep 2 9 0).wf = false := by decide

/-! ## Words that the spec writes out -/

/-- The sequencer instruction of a word. -/
def seqWord (w : W32) : Option Instr := (decodeSeq w).toOption

/-- The element instruction of a word. -/
def elemWord (w : W32) : Option Instr := (decodeElem w).toOption

/-- R186, R214: add.s32 k2, k1, c0; addi.s32 k4, k4, -3; add.u8x4... with saturation. -/
theorem test_decode_integer_words : elemWord 0x04018080 = some (.veAdd 0 1 16 2 0 0) ∧ elemWord 0x2C04F93D = some (.veAddi 0 4 0x7FD 4) ∧
    elemWord 0x04819148 = some (.veAdd 4 1 18 5 0 1) ∧ elemWord 0x04018C00 = some (.veAdd 0 1 17 16 0 0) := by decide

/-- R186, R217, R219, R222, R223: (q0) fma.f32.rtz k3, in, c1; cmp.lt.f32 q1, in, c0; sel.q1 k3, k0, c1; pack.bf16x2 k6, k1, k2;
cvt.bf16x2.f32.sr k2, in. -/
theorem test_decode_float_words : elemWord 0x4F1E88D2 = some (.fma 8 30 17 3 1 0 1) ∧ elemWord 0x351E8040 = some (.cmpLt 8 30 16 1 0) ∧
    elemWord 0x402088C0 = some (.sel 1 0 17 3 0) ∧ elemWord 0x63411180 = some (.pack 10 1 2 6 0 0 0 0) ∧
    elemWord 0x615E4081 = some (.cvt 10 30 8 2 0 0 0 1) := by decide

/-- R241, R243: gate.s32 q2 and steer.s32 q1, k3. -/
theorem test_decode_gate_steer : elemWord 0x441FF880 = some (.gate 2 0) ∧ elemWord 0x4603F840 = some (.steer 3 1) := by decide

/-- R186, R239: mma.bf16.drain acc1, feed, n; mmx.e4m3.drain.bf16.sat acc2, feed, feed; azero acc3; adrain.bf16 acc0; aload acc2;
ascale acc1, -3; mpass. -/
theorem test_decode_matrix_words : elemWord 0xC00C2000 = some (.mma 0 1 1 0 0 0 1 0 0) ∧ elemWord 0xC2562600 = some (.mmx 2 2 1 1 0 0 1 1 1) ∧
    elemWord 0xC4180000 = some (.azero 3) ∧ elemWord 0xC6000400 = some (.adrain 0 1 0) ∧ elemWord 0xC8140000 = some (.aload 2) ∧
    elemWord 0xCA0801FD = some (.ascale 1 0x1FD) ∧ elemWord 0xCC000000 = some .mpass := by decide

/-- R195, R249, R250: add x3, x1, x2; div x3, x1, x2; srl x2, x3, 40; lui x5, 0xC000; addi x12, x0, -1; andi x7, x5, 0x3FF. -/
theorem test_decode_scalar_words : seqWord 0x00611000 = some (.add 3 1 2) ∧ seqWord 0x00611012 = some (.div 3 1 2) ∧
    seqWord 0x1C434028 = some (.shiSrl 2 3 40) ∧ seqWord 0x20A0C000 = some (.lui 5 0xC000) ∧ seqWord 0x0580FFFF = some (.addi 12 0 0xFFFF) ∧
    seqWord 0x08E503FF = some (.andi 7 5 0x3FF) := by decide

/-- R195, R251, R256: ld.d.acq.strip x5, [x2+16]; st.w.rel.dev x3, [x4-8]; amo.cas.d.ar.dev x4, [x7], x9; amo.add.d.ar.strip x7, [x5], x6. -/
theorem test_decode_memory_words : seqWord 0x40A2D402 = some (.ld 5 2 3 1 1 2) ∧ seqWord 0x4864ABFE = some (.st 3 4 2 2 2 0x3FE) ∧
    seqWord 0x4C874DE9 = some (.amoCas 4 7 9 2 3 1) ∧ seqWord 0x4CE533E0 = some (.amoAdd 7 5 6 1 3 1) := by decide

/-- R257, R258 and the spec's listings: beq x15, x0, +3; bne x18, x24, -1; blt x13, x16, -9; j +2; j -15; jalr x0, x31, 0. -/
theorem test_decode_control_words : seqWord 0x61E00003 = some (.beq 15 0 3) ∧ seqWord 0x6658FFFF = some (.bne 18 24 0xFFFF) ∧
    seqWord 0x69B0FFF7 = some (.blt 13 16 0xFFF7) ∧ seqWord 0x78000002 = some (.j 2) ∧ seqWord 0x7BFFFFF1 = some (.j 0x3FFFFF1) ∧
    seqWord 0x801F0000 = some (.jalr 0 31 0) := by decide

/-- R260, R261, R264: fence.rg.strip x4, x5; csrr x5, SEPC; csrw LDONE, x12; trap 0x21. -/
theorem test_decode_csr_words : seqWord 0x88042805 = some (.fenceRg 4 5 1) ∧ seqWord 0x8CA01003 = some (.csrr 5 0x1003) ∧
    seqWord 0x900C0030 = some (.csrw 12 0x030) ∧ seqWord 0x94000021 = some (.trap 0x21) := by decide

/-- R267, R273: each form's example. -/
theorem test_decode_engine_words : seqWord 0xA0891010 = some (.pload 4 9 1 1) ∧ seqWord 0xA4048000 = some (.pwait 4) ∧
    seqWord 0xA8EC2030 = some (.cpy 7 12 2 3) ∧ seqWord 0xA9093001 = some (.cpyB 8 9 3 0) ∧ seqWord 0xAC6A8000 = some (.billetArm 3 10) ∧
    seqWord 0xAC608001 = some (.billetDisarm 3) ∧ seqWord 0xB0038005 = some (.tqpush 3 5) ∧ seqWord 0xB4808005 = some (.tqcnt 4 5) ∧
    seqWord 0xB8008060 = some (.waitd 6) ∧ seqWord 0xBC072000 = some (.waitt 7 2) := by decide

/-- R273: the Cairn forms, and the forms of constants, windows and launches. -/
theorem test_decode_graph_words : seqWord 0xC0438000 = some (.crnDef 2 3) ∧ seqWord 0xC0034001 = some (.crnStep 3 4 0) ∧
    seqWord 0xC0038002 = some (.crnForce 3) ∧ seqWord 0xC0A38003 = some (.crnMap 5 3) ∧ seqWord 0xC0038004 = some (.crnUndef 3) ∧
    seqWord 0xC0A38005 = some (.crnStat 5 3) ∧ seqWord 0xC4858000 = some (.cset 4 5) ∧ seqWord 0xC8068000 = some (.mark 6) ∧
    seqWord 0xCC438000 = some (.wopen 2 3) ∧ seqWord 0xD0038000 = some (.wseal 3) ∧ seqWord 0xD4098000 = some (.launch 9) ∧
    seqWord 0xD8A48000 = some (.pstat 5 4) := by decide

/-- R330: the privileged forms. -/
theorem test_decode_privileged_words : seqWord 0xE0000000 = some .sret ∧ seqWord 0xE0000001 = some .hret ∧ seqWord 0xE0000002 = some .wfi ∧
    seqWord 0xE0650003 = some (.halt 3 5) ∧ seqWord 0xE0053004 = some (.tlbiVa 5 6) ∧ seqWord 0xE08A5808 = some (.isave 4 10 11) ∧
    seqWord 0xE08A0009 = some (.irest 4 10) ∧ seqWord 0xE065000D = some (.dret 3 5) := by decide

/-- R195, R201, R273: words that no form accepts: a reserved op, an unassigned function, a set slot above 8. -/
theorem test_decode_refuses : seqWord 0xFC000000 = none ∧ seqWord 0x0061103F = none ∧ seqWord 0xA0899000 = none ∧ elemWord 0xFE000000 = none := by
  decide

/-- The first words of the spec's R186, R195 and R212, run through the table's numbering. -/
theorem test_decode_table_word : decodeTableWord 32 0x04018080 = some (.veAdd 0 1 16 2 0 0) ∧ decodeTableWord 32 0xA0891010 = some (.pload 4 9 1 1) := by
  decide

/-! ## Small states -/

/-- An Except that holds a value with a property. -/
def okIs {ε α : Type} (e : Except ε α) (p : α → Bool) : Bool :=
  match e with
  | .ok v => p v
  | .error _ => false

/-- An Except that holds an error with a property. -/
def errIs {ε α : Type} (e : Except ε α) (p : ε → Bool) : Bool :=
  match e with
  | .ok _ => false
  | .error x => p x

/-- An Option that holds a value with a property. -/
def someIs {α : Type} (o : Option α) (p : α → Bool) : Bool :=
  match o with
  | some v => p v
  | none => false

/-- The next state of an outcome, with a property. -/
def nextIs (o : Host.Outcome State Fault Refusal) (p : State → Bool) : Bool :=
  match o with
  | .next t => p t
  | .fault _ => false
  | .refused _ => false

/-- A sequencer at pc 0x1000. -/
def seqAt (x : Tab W64) : Seq := { Seq.reset with pc := 0x1000, x := x }

/-- Stage-2 tables of ring 0's strip at 1 MiB: the first 512 MiB of its addresses may be read and executed, the next read and written. -/
def tables : List Host.Cell := [(0x100000, 3), (0x100002, 0x20), (0x200000, 0x15), (0x200008, 0x0D), (0x20000B, 0x20)]

/-- Ring 0, the strip of VF 0, running at pc 0x1000, with HDELEG delegating all and STVEC at 0x2000. -/
def ringAt (lvl : Level) (x : Tab W64) : Ring :=
  { Ring.reset with seq := seqAt x, level := lvl, run := .run, vf := some 0, owner := some 0, slen := 1, carvew := 95,
                    csr := [(0x1002, 0x2000), (0x2103, 0x8000000010), (0x2104, 0xFFFF)] }

/-- The device that runs a ring as its ring 0, with bytes at places below 1 MiB. -/
def onRing (x : Ring) (code : List Host.Cell) : State :=
  { State.reset with cur := .ring 0, vfKeys := [(0, 1)], rings := [(0, x)], mem := code ++ tables }

/-- Management core 0 at pc 0x1000. -/
def onCore (x : Tab W64) : State := { State.reset with cur := .core 0, dies := [(0, { Die.reset with core := seqAt x })] }

/-- The bytes of add x3, x1, x2 (0x0061_1000) at 0x1000. -/
def addCode : List Host.Cell := [(0x1001, 0x10), (0x1002, 0x61)]

/-- VF 0's strip of ring 0 has its supply, and the thread is the first to move. -/
def addTurn : State := { onRing (ringAt .u [(1, 5), (2, 7)]) addCode with agenda := [.thread (.ring 0)] }

/-! ## Witnesses of the statements about sequencer instructions -/

theorem test_witness_MemoryFormKept : memWf addTurn.mem = true ∧ (∃ t, step addTurn = .next t) := ⟨by decide +kernel, ⟨_, rfl⟩⟩

theorem test_witness_DecodeSound : decodeSeq 0x00611000 = .ok (.add 3 1 2) ∧ decodeElem 0x04018080 = .ok (.veAdd 0 1 16 2 0 0) := ⟨rfl, rfl⟩

theorem test_witness_EncodeDecode : (Instr.add 3 1 2).wf = true ∧ encode (.add 3 1 2) = some 0x00611000 ∧
    (Instr.mma 8 3 1 1 1 3 1 4 1).wf = true ∧ (encode (.mma 8 3 1 1 1 3 1 4 1)).isSome = true := by decide

theorem test_witness_StepRunsDecoded_thread : addTurn.powered = true ∧ addTurn.agenda = [.thread (.ring 0)] ∧
    (addTurn.turnOf (.ring 0)).takesNext (.ring 0) ∧
    (addTurn.turnOf (.ring 0)).fetchErr (.ring 0) ((addTurn.turnOf (.ring 0)).levelOf (.ring 0)) ((addTurn.turnOf (.ring 0)).seqOf (.ring 0)).pc = none ∧
    (addTurn.turnOf (.ring 0)).placesErr ((addTurn.turnOf (.ring 0)).fetchPlaces (.ring 0)) = none ∧
    leNat (((addTurn.turnOf (.ring 0)).fetchPlaces (.ring 0)).map fun p => (addTurn.turnOf (.ring 0)).byte p.1) = 0x00611000 ∧
    (addTurn.turnOf (.ring 0)).stoppedNow = false :=
  ⟨rfl, rfl, ⟨by decide, by decide, by decide, by decide⟩, by decide +kernel, by decide +kernel, by decide +kernel, by decide⟩

/-- A step of the turn runs add: x3 := 12. -/
theorem test_step_runs_add : nextIs (step addTurn) (fun t => (t.ring 0).seq.x == [(1, 5), (2, 7), (3, 12)] && (t.ring 0).seq.pc == 0x1004) = true := by
  decide +kernel

theorem test_witness_StepTakesEvents :
    (let s := { onRing { ringAt .s [] with run := .wfi } [] with agenda := [.thread (.ring 0)] }
     s.powered = true ∧ (s.turnOf (.ring 0)).ringStill 0 = false ∧ ((s.turnOf (.ring 0)).ring 0).run = .wfi) ∧
    (let s := { onRing { ringAt .u [] with csr := [(0x1002, 0x2000), (0x1009, 2), (0x100A, 2), (0x2103, 0x8000000010)] } []
                  with agenda := [.thread (.ring 0)] }
     (s.turnOf (.ring 0)).ringStill 0 = false ∧ ((s.turnOf (.ring 0)).strip (s.ring 0).sbase).capture = false ∧
       (s.turnOf (.ring 0)).ringInt 0 = some 1) ∧
    (let s := { onCore [] with agenda := [.thread (.core 0)], dies := [(0, { Die.reset with waiting := true })] }
     (s.die 0).stopped = false ∧ (s.die 0).waiting = true) ∧
    (let s := { onCore [] with agenda := [.thread (.core 0)], dies := [(0, { Die.reset with csr := [(0x2006, 0x21), (0x2008, 0)] })] }
     (s.die 0).waiting = false ∧ ((s.turnOf (.core 0)).coreInt 0).isSome = true) ∧
    (let s := { onRing { ringAt .s [] with csr := [] } [] with agenda := [.thread (.ring 0)] }
     ((s.turnOf (.ring 0)).fetchErr (.ring 0) .s 0x1000).isSome = true ∧ (s.turnOf (.ring 0)).ringStill 0 = false ∧
       (s.turnOf (.ring 0)).ringInt 0 = none) ∧
    freeEvent (.agLineRequest 0 0) = true := by decide +kernel

theorem test_witness_StepGoesOn : HasSupply State.reset ∧ ({ State.reset with powered := false } : State).powered = false ∧
    (∀ th f, ({ State.reset with powered := false, agenda := [.fabric 0] } : State).nextAct.1 ≠ .event th (.powerOnStart f)) :=
  ⟨rfl, rfl, fun _ _ h => by cases h⟩

theorem test_witness_ScalarResults : (scalarResult (.add 3 1 2) addTurn).isSome = true ∧ addTurn.pendAny [3, 1, 2] = false ∧
    (scalarResult (.lui 0 5) addTurn).isSome = true ∧ addTurn.pendAny [0] = false := by decide

/-- A load of x3 that has not returned. -/
def pendingLoad : PendLoad :=
  { seq := 0, kind := .load true, rd := 3, nb := 4, acq := true, rel := false, scope := 1, va := 0x2000, locs := [0x2000, 0x2001, 0x2002, 0x2003],
    attrs := [.own, .own, .own, .own], dep := Dep.zero, got := [], took := Dep.zero }

/-- A buffered store of a word. -/
def heldStore : BufStore :=
  { seq := 0, rel := false, scope := 0, va := 0x2000, locs := [0x2000, 0x2001, 0x2002, 0x2003], attrs := [.own, .own, .own, .own],
    data := [1, 2, 3, 0x84] }

/-- Core 0 with outstanding loads, buffered stores and some registers. -/
def coreWith (x : Tab W64) (l : List PendLoad) (b : List BufStore) : State :=
  { State.reset with cur := .core 0, dies := [(0, { Die.reset with core := { seqAt x with loads := l, stores := b, nextSeq := 1 } })] }

theorem test_witness_WaitsForPending :
    (let s := coreWith [] [pendingLoad] []
     (scalarResult (.add 3 1 2) s).isSome = true ∧ s.pendAny [3, 1, 2] = true ∧ (branchResult (.beq 3 0 1) s).isSome = true ∧ s.pendAny [3, 0] = true ∧
       pendingLoad.orders = true ∧ s.noPeer s.cur pendingLoad.scope.toNat = false ∧ pendingLoad ∈ s.me.loads ∧ pendingLoad.seq < s.me.nextSeq ∧ isWin pendingLoad.attrs = false ∧
       okIs (s.access .load 0x2008 4 none) (fun ps => !isWin (ps.map (·.2))) = true ∧
       okIs (s.access .store 0x2008 4 none) (fun ps => !isWin (ps.map (·.2))) = true ∧
       okIs (s.access .amo 0x2008 4 (some 4)) (fun ps => !isWin (ps.map (·.2))) = true ∧ s.me.busy = true ∧ s.me.ranges = []) ∧
    (let s := coreWith [] [] [heldStore]
     heldStore ∈ s.me.stores ∧ heldStore.seq < s.me.nextSeq ∧ isWin heldStore.attrs = false ∧ heldStore.locs ≠ [] ∧
       nextIs (exec (.fence 0) s) (fun t => t.me.ranges.any fun f => f.seq == 1 && f.scope == 0 && f.done == none) = true ∧
       nextIs (exec (.fence 0) (onCore [])) (fun t => t.me.ranges == []) = true) ∧
    (let s := coreWith [(1, 0x2003), (2, 1)] [] [heldStore]
     s.pendAny [1, 2] = false ∧
       nextIs (exec (.fenceRg 1 2 1) s) (fun t => t.me.ranges.any fun f => f.base == 0x2003 && f.len == 1 && f.done == none) = true) ∧
    (let s := coreWith [(1, 0x2004), (2, 1)] [] [heldStore]
     nextIs (exec (.fenceRg 1 2 1) s) (fun t => t.me.ranges.any fun f => f.base == 0x2004 && f.done != none) = true) ∧
    (coreWith [] [pendingLoad] []).pendAny [3, 1] = true ∧ (onCore []).me.loads = [] ∧ (onCore []).me.stores = [] ∧
    (loadForm (.ld 3 1 2 0 0 0)).isSome = true ∧ (amoForm (.amoAdd 3 1 2 0 0 0)).isSome = true := by decide +kernel

/-- Taken and untaken branches at both ends of the range, and a target that fails R202. -/
theorem test_witness_Branches :
    (let s := { onCore [(1, 5), (2, 5)] with dies := [(0, { Die.reset with core := { seqAt [(1, 5), (2, 5)] with pc := 0x40000 } })] }
     branchResult (.beq 1 2 0x8000) s = some ([1, 2], -131072, true) ∧ branchResult (.bne 1 2 0x7FFF) s = some ([1, 2], 131068, false) ∧
       s.pendAny [1, 2] = false ∧ (s.pc + BitVec.ofInt 64 (-131072)).toNat < 2 ^ 54 ∧ (s.pc + BitVec.ofInt 64 (-131072)).toNat % 4 = 0) ∧
    (let s := onCore []
     branchResult (.beq 1 2 0x8000) s = some ([1, 2], -131072, true) ∧ 2 ^ 54 ≤ (s.pc + BitVec.ofInt 64 (-131072)).toNat) := by decide +kernel

theorem test_witness_Jumps :
    (let s := onCore [(5, 0x1FFC), (6, 0x1FFD)]
     let far := s.pc + BitVec.ofInt 64 (4 * (0x2000000 : BitVec 26).toInt)
     (s.pc + BitVec.ofInt 64 (4 * (2 : BitVec 26).toInt)).toNat = 0x1008 ∧ 2 ^ 54 ≤ far.toNat ∧ s.pendAny [1] = false ∧ s.pendAny [0, 5] = false ∧
       (s.x 5 + (0 : BitVec 16).signExtend 64).toNat % 4 = 0 ∧ (s.x 6 + (0 : BitVec 16).signExtend 64).toNat % 4 ≠ 0) := by decide +kernel

/-- jalr links with x[a] as it stood before, when d = a (R258). -/
theorem test_jalr_same_register : nextIs (exec (.jalr 5 5 0) (onCore [(5, 0x2000)])) (fun t => t.pc == 0x2000 && t.x 5 == 0x1004) = true := by
  decide +kernel

theorem test_witness_Jtab :
    (let s := onCore [(4, 0x2000), (5, 3)]
     s.pendAny [4, 5] = false ∧ (3 : BitVec 16).toNat ≤ (s.x 5).toNat ∧ (s.x 5).toNat < (4 : BitVec 16).toNat ∧
       okIs (s.access .load (s.x 4 + 4 * s.x 5) 4 (some 4)) (fun ps => someIs (s.readNow [4, 5] (s.x 4 + 4 * s.x 5) ps)
         (fun p => p.1 == [0, 0, 0, 0] && !p.2.stoppedNow)) = true) ∧
    (let s := onCore [(4, 0x2001), (5, 1)]
     errIs (s.access .load (s.x 4 + 4 * s.x 5) 4 (some 4)) (fun e => e.cause == (0x13, 0x2005)) = true) := by decide +kernel

theorem test_witness_MemoryIssue :
    (let s := onCore [(1, 0x2003), (2, 0x2000)]
     s.pendAny [3, 1] = false ∧ okIs (s.access .load (s.x 1 + BitVec.ofInt 64 0) 8 (alignOf 0 3))
         (fun ps => ps.length == 8 && !s.acqHolds false ps) = true ∧
       okIs (s.access .store (s.x 1 + BitVec.ofInt 64 (-4)) 4 (alignOf 0 2))
         (fun ps => ps.length == 4 && !s.acqHolds true ps) = true ∧ s.pendAny [3, 2, 1] = false ∧
       okIs (s.access .amo (s.x 2) 8 (some 8)) (fun ps => ps.length == 8 && !s.acqHolds false ps) = true) ∧
    (loadForm (.ld 3 1 3 0 0 0)).isSome = true ∧ (amoForm (.amoCas 3 2 1 0 0 1)).isSome = true := by decide +kernel

theorem test_witness_LoadReturns :
    (let s := coreWith [] [pendingLoad] []
     (s.seqOf (threadOf 128)).loads[0]? = some pendingLoad ∧ loadReady (s.seqOf (threadOf 128)) pendingLoad = true ∧
       s.bankBusy (threadOf 128) pendingLoad.locs = false ∧
       okIs (s.readFor (threadOf 128) 0 pendingLoad.dep 0x2000 (pendingLoad.locs.zip pendingLoad.attrs)) (fun g => g.bytes.length == 4) = true) ∧
    pendingLoad.va.toNat % pendingLoad.nb = 0 := by decide +kernel

/-- A signed word load takes the newest older buffered store's bytes, and extends their sign (R111, R251). -/
theorem test_load_forwards :
    nextIs (exec (.loadWriteback 128 0 0) (coreWith [] [{ pendingLoad with seq := 1 }] [heldStore])) (fun t => t.x 3 == 0xFFFFFFFF84030201) = true := by
  decide +kernel

theorem test_witness_StorePerforms :
    (let s := coreWith [] [] [heldStore]
     (s.seqOf (threadOf 128)).stores[0]? = some heldStore ∧ olderLoad (s.seqOf (threadOf 128)) 0 heldStore.locs = false ∧
       (((s.seqOf (threadOf 128)).stores.take 0).any fun o => overlap o.locs heldStore.locs) = false ∧ isWin heldStore.attrs = false ∧
       (s.seqOf (threadOf 128)).barred 0 0x2000 4 = false ∧ s.relWaits (threadOf 128) 0 2 = false ∧
       s.bankBusy (threadOf 128) heldStore.locs = false ∧
       okIs ((s.updSeq (threadOf 128) fun q => { q with stores := q.stores.eraseIdx 0 }).writeFor (threadOf 128) true 2 0 0x2000 []
         (heldStore.locs.zip heldStore.attrs) heldStore.data) (fun t => t.byte 0x2003 == 0x84) = true) ∧
    heldStore.locs.Nodup ∧ heldStore.attrs.length = heldStore.locs.length ∧ heldStore.data.length = heldStore.locs.length := by decide +kernel

/-- An atomic on a word. -/
def pendingAmo (kind : BitVec 5) (z c : W64) : PendLoad := { pendingLoad with kind := .amo kind z c, acq := false }

theorem test_witness_AmoPerforms :
    (let s := { coreWith [] [pendingAmo 9 7 5] [] with mem := [(0x2000, 5)] }
     (s.seqOf (threadOf 128)).loads[0]? = some (pendingAmo 9 7 5) ∧ loadReady (s.seqOf (threadOf 128)) (pendingAmo 9 7 5) = true ∧
       s.bankBusy (threadOf 128) pendingLoad.locs = false ∧ pendingLoad.locs.Nodup ∧ pendingLoad.attrs.length = pendingLoad.nb ∧
       s.placesErr (pendingLoad.locs.zip pendingLoad.attrs) = none ∧ (pendingLoad.locs.all fun p => isHbm p && !s.treeFull p) = true ∧
       leNat ((s.amoSees (threadOf 128) (pendingAmo 9 7 5)).map (·.1)) = 5 ∧ s.relWaits (threadOf 128) 0 1 = false) ∧
    (let s := coreWith [] [pendingAmo 9 7 5] []
     leNat ((s.amoSees (threadOf 128) (pendingAmo 9 7 5)).map (·.1)) = 0) := by decide +kernel

/-- amo.cas writes only where the comparison holds; amo.min is signed (R256). -/
theorem test_amo_values :
    nextIs (exec (.loadWriteback 128 0 0) { coreWith [] [pendingAmo 9 7 5] [] with mem := [(0x2000, 5)] }) (fun t => t.byte 0x2000 == 7 && t.x 3 == 5) = true ∧
    nextIs (exec (.loadWriteback 128 0 0) { coreWith [] [pendingAmo 9 7 5] [] with mem := [(0x2000, 6)] }) (fun t => t.byte 0x2000 == 6 && t.x 3 == 6) = true ∧
    nextIs (exec (.loadWriteback 128 0 0) { coreWith [] [pendingAmo 4 0xFFFFFFFF 0] [] with mem := [(0x2000, 5)] })
      (fun t => t.byte 0x2003 == 0xFF && t.x 3 == 5) = true := by decide +kernel

theorem test_witness_BadAccessTraps :
    errIs ((onCore [(1, 0x40000000000000)]).access .load 0x40000000000000 4 none) (fun e => e.cause == (0x12, 0x40000000000000)) = true ∧
    errIs ((onCore [(1, 0x2001)]).access .amo 0x2001 8 (some 8)) (fun e => e.cause == (0x13, 0x2001)) = true ∧
    errIs ((onRing (ringAt .u [(1, 0x1000)]) []).access .store 0x1000 4 none) (fun e => e.cause.1 == 0x17) = true ∧
    (onCore [(1, 0x2001)]).pendAny [3, 1, 2] = false := by decide +kernel

/-! ## Witnesses of the statements about CSRs, traps and interrupts -/

theorem test_witness_CsrReads :
    (let s := onRing (ringAt .s []) []
     s.csrTrap (0x000 : BitVec 14).toNat false = none ∧ s.csrTrap (0x100B : BitVec 14).toNat false = none ∧ s.pendAny [5] = false) ∧
    (let s := onCore []
     s.csrTrap (0x2006 : BitVec 14).toNat false = none ∧ s.csrTrap (0x2123 : BitVec 14).toNat false = none ∧ s.pendAny [0] = false) := by decide +kernel

/-- csrr x5, TIME (R7, R262). -/
theorem test_csrr_time : nextIs (exec (.csrr 5 0x000) { onRing (ringAt .u []) [] with time := 77 }) (fun t => t.x 5 == 77) = true := by decide +kernel

theorem test_witness_CsrWrites :
    (let s := onRing (ringAt .s [(1, 5)]) []
     s.csrTrap (0x1001 : BitVec 14).toNat true = none ∧ s.csrTrap (0x100A : BitVec 14).toNat true = none ∧ s.pendAny [1] = false) ∧
    (let s := onCore [(1, 5)]
     s.csrTrap (0x2002 : BitVec 14).toNat true = none ∧ s.csrTrap (0x2008 : BitVec 14).toNat true = none ∧ s.pendAny [1] = false) := by decide +kernel

/-- SSTATUS keeps bits 3 to 0 only, and UTVEC keeps no bit 1 (R299, R322). -/
theorem test_csrw_masks :
    nextIs (exec (.csrw 1 0x1001) (onRing (ringAt .s [(1, 0xFFFF)]) [])) (fun t => t.rcsr 0 0x1001 == 0xF) = true ∧
    nextIs (exec (.csrw 1 0x028) (onRing (ringAt .u [(1, 0xFFFF)]) [])) (fun t => t.rcsr 0 0x028 == 0xFFFD) = true := by decide +kernel

/-- A graph with a user handler at 0x3000. -/
def handled : Ring := { ringAt .u [] with csr := [(0x028, 0x3001), (0x1002, 0x2000), (0x2103, 0x8000000010), (0x2104, 0xFFFF)] }

theorem test_witness_UserTrapEntry :
    (let s := onRing handled []
     (s.ring 0).level = .u ∧ bit (s.rcsr 0 0x028) 0 = true ∧ bit (s.rcsr 0 0x02C) 0 = false ∧ bit (s.rcsr 0 0x1007) 1 = false ∧
       (s.utvec 0).toNat < 2 ^ 54 ∧ s.pend (.ring 0) 31 = false) := by decide +kernel

/-- trap 0x21 to the user's handler (R264, R300). -/
theorem test_user_trap : nextIs (exec (.trap 0x21) (onRing handled []))
    (fun t => t.pc == 0x3000 && t.x 31 == 0x1004 && t.rcsr 0 0x02A == 1 && t.rcsr 0 0x02B == 0x21 && t.rcsr 0 0x02C == 1) = true := by decide +kernel

theorem test_witness_SupervisorTrapEntry :
    (let s := onRing (ringAt .u []) []
     s.userTaken 0 1 = false ∧ s.badHandler 0 = false ∧ bit (s.rcsr 0 0x2104) 0 = true) ∧
    (let s := onRing { ringAt .u [] with seq := { seqAt [] with pc := 0x40000000000000 } } []
     s.fetchErr (.ring 0) (s.ring 0).level s.pc = some (.addr 0x40000000000000) ∧ s.hOnly 0 (AccErr.addr 0).cause.1 = false ∧
       s.badHandler 0 = false) := by decide +kernel

/-- An illegal instruction from U with HDELEG set goes to S with SSTATUS.spl 0 (R324, R325). -/
theorem test_illegal_to_s : nextIs (exec (.illegalInstruction 0xFC000000) (onRing { ringAt .u [] with csr := [(0x1001, 1), (0x1002, 0x2000), (0x2103, 0x8000000010), (0x2104, 1)] } []))
    (fun t => t.pc == 0x2000 && t.rcsr 0 0x1003 == 0x1000 && t.rcsr 0 0x1004 == 0x10 && t.rcsr 0 0x1005 == 0xFC000000 && t.rcsr 0 0x1001 == 2) = true := by
  decide +kernel

theorem test_witness_ParkAndCoreTraps :
    (let s := onRing { ringAt .u [] with csr := [] } []
     bit (s.rcsr 0 0x2104) 0 = false ∧ s.userTaken 0 1 = false ∧ s.badHandler 0 = true ∧ (s.die (dieOf 0)).hevt.length < 224) ∧
    ((onCore []).dcsr 0 0x2002 &&& 0xFFFFFFFFFFFFFFFC).toNat < 2 ^ 54 ∧
    (let s := { State.reset with dies := [(0, { Die.reset with csr := [(0x2002, 0x40000000000000)] })] }
     s.cur = .core 0 ∧ 2 ^ 54 ≤ (s.dcsr 0 0x2002 &&& 0xFFFFFFFFFFFFFFFC).toNat) := by decide +kernel

/-- A cause that HDELEG withholds parks the RSQ and posts one event (R325, R328). -/
theorem test_illegal_parks : nextIs (exec (.illegalInstruction 0xFC000000) (onRing { ringAt .u [] with csr := [] } []))
    (fun t => (t.ring 0).run == .parked && t.rcsr 0 0x2107 == 0x10 && (t.die 0).hevt.length == 1) = true := by decide +kernel

/-- A ring at U with SIP.hnote pending and enabled. -/
def noted : Ring := { ringAt .u [] with csr := [(0x1002, 0x2000), (0x1009, 2), (0x100A, 2), (0x2103, 0x8000000010)] }

theorem test_witness_InterruptEntry :
    (let s := onRing noted []
     s.ringInt 0 = some 1 ∧ s.badHandler 0 = false) ∧
    (let s := { onCore [] with dies := [(0, { Die.reset with csr := [(0x2006, 0x21), (0x2008, 0)] })] }
     s.coreInt 0 = some 9 ∧ (s.dcsr 0 0x2002 &&& 0xFFFFFFFFFFFFFFFC).toNat < 2 ^ 54 ∧ s.coreWake 0 = true) ∧
    (let s := onRing { noted with level := .s } []
     (s.ring 0).level ≠ .u ∧ s.ringWakes 0 = true) ∧
    (onRing (ringAt .s []) []).ringWakes 0 = false ∧ (onCore []).coreWake 0 = false := by decide +kernel

theorem test_witness_TrapReturns :
    (let s := onRing { ringAt .s [] with csr := [(0x1001, 2), (0x1003, 0x2004)] } []
     (s.ring 0).level ≠ .u ∧ (s.rcsr 0 0x1003).toNat % 4 = 0 ∧ (s.rcsr 0 0x1003).toNat < 2 ^ 54) ∧
    (let s := onRing { ringAt .s [] with csr := [(0x1003, 0x2002)] } []
     (s.rcsr 0 0x1003).toNat % 4 ≠ 0) ∧
    ((onRing (ringAt .u []) []).ring 0).level = .u ∧
    ((onCore []).dcsr 0 0x2003).toNat % 4 = 0 ∧ ((onCore []).dcsr 0 0x2003).toNat < 2 ^ 54 := by decide +kernel

/-- sret to U with the old enable (R326). -/
theorem test_sret : nextIs (exec .sret (onRing { ringAt .s [] with csr := [(0x1001, 2), (0x1003, 0x2004)] } []))
    (fun t => (t.ring 0).level == .u && t.pc == 0x2004 && t.rcsr 0 0x1001 == 3) = true := by decide +kernel

theorem test_witness_PrivilegeTraps : (onRing (ringAt .u []) []).cur = .ring 0 ∧ ((onRing (ringAt .u []) []).ring 0).level = .u ∧ (onCore []).cur = .core 0 ∧
    0x1000 ≤ (0x1000 : BitVec 14).toNat ∧ (0x1FFF : BitVec 14).toNat < 0x2000 ∧ 0x2000 ≤ (0x2000 : BitVec 14).toNat ∧
    (0x2FFF : BitVec 14).toNat < 0x3000 ∧ 0x3000 ≤ (0x3000 : BitVec 14).toNat := by decide +kernel

/-! ## Witnesses of the statements about the engines' forms -/

theorem test_witness_AsyncIssue :
    (let s := onRing (ringAt .u [(2, 0x3F0000000F)]) []
     s.pendAny [1, 2] = false ∧ s.issueHeld 0 (setOf 8) = false ∧ s.issueHeld 0 (setOf 7) = false ∧ (s.ring 0).recsFull = false ∧ fld (s.x 2) 31 4 = 0) ∧
    (let s := onRing (ringAt .u [(2, 0x10)]) []
     fld (s.x 2) 31 4 ≠ 0 ∧ fld (s.x 2) 31 7 = 0 ∧ s.region? 0 (fld (s.x 2) 5 0) = none) ∧
    (let s := onRing (ringAt .u [(2, 0x80)]) []
     fld (s.x 2) 31 7 ≠ 0) ∧
    (let s := { onRing (ringAt .u [(2, 3)]) [] with vfs := [(0, { Vf.reset with regions := [(3, regionOf [])] })] }
     s.pendAny [2] = false ∧ fld (s.x 2) 31 7 = 0 ∧ (s.region? 0 (fld (s.x 2) 5 0)).isSome = true ∧ s.issueHeld 0 (setOf 0) = false) := by decide +kernel

/-- pload x4, x9, set=d1, wait=d0 gives handle 1 and counts into slot 1 (R268, R277). -/
theorem test_pload_issues : nextIs (exec (.pload 4 9 1 1) (onRing (ringAt .u [(9, 0x20000000)]) []))
    (fun t => t.x 4 == 1 && (t.dep 0 1).out == [0] && (t.ring 0).asyncs.length == 1 && t.pc == 0x1004) = true := by decide +kernel

/-- Ring 0 with slot 1 counting operation 0, in error or not, and slot 2 done in error. -/
def slots : Ring := { ringAt .u [(7, 100)] with deps := [(1, { out := [0], err := false, code := 0 }), (2, { out := [], err := true, code := 7 })], nextOp := 1 }

theorem test_witness_Waits :
    (let s := onRing slots []
     (s.ring 0).wait = none ∧ s.satisfied 0 (s.awaits 0 1) = true ∧ s.waitErr 0 (s.awaits 0 1) = none ∧
       s.satisfied 0 (s.awaits 0 4) = true ∧ s.waitErr 0 (s.awaits 0 4) = some (2, 7) ∧ s.satisfied 0 (s.awaits 0 2) = false ∧
       s.pendAny [0] = false ∧ s.x 0 = 0 ∧ s.x 7 ≠ 0 ∧ s.time.toNat < (s.x 7).toNat ∧ s.satisfied 0 (s.awaits 0 (2 ^ (0 : BitVec 3).toNat)) = true) ∧
    (let s := { onRing slots [] with time := 100 }
     (s.x 7).toNat ≤ s.time.toNat ∧ s.satisfied 0 (s.awaits 0 (2 ^ (1 : BitVec 3).toNat)) = false) ∧
    (let w : WaitSnap := { slots := [(1, [5])], sleep := none }
     let s := onRing { slots with wait := some w } []
     (s.ring 0).run = .run ∧ (s.ring 0).halted = false ∧ s.satisfied 0 w.slots = true ∧ s.waitErr 0 w.slots = none) ∧
    (let s := onRing { ringAt .u [(4, 2), (5, 3), (6, 4), (8, 0x100000001)] with serial := 3, recs := [(2, { PhaseRec.reset with state := 5 }),
                                                                                          (3, { PhaseRec.reset with state := 6, code := 6 })] } []
     fld (s.x 4) 63 32 = 0 ∧ s.x 4 ≠ 0 ∧ (s.x 4).toNat ≤ (s.ring 0).serial ∧ (s.rec? 0 (s.x 4).toNat).map (·.state) = some 5 ∧
       (s.rec? 0 (s.x 5).toNat).map (·.state) = some 6 ∧ (s.ring 0).serial < (s.x 6).toNat ∧ fld (s.x 8) 63 32 ≠ 0) := by decide +kernel

/-- An awaited error raises cause 3 with the slot and its code (R288). -/
theorem test_waitd_error : nextIs (exec (.waitd 4) (onRing { slots with csr := [(0x028, 0x3001), (0x1002, 0x2000), (0x2103, 0x8000000010)] } []))
    (fun t => t.pc == 0x3000 && t.rcsr 0 0x02A == 3 && t.rcsr 0 0x02B == 0x702) = true := by decide +kernel

theorem test_witness_Queries :
    (let s := onRing { ringAt .u [(1, 1), (2, 2), (3, 3), (4, 5), (5, 7)] with serial := 2, recs := [(2, PhaseRec.reset)] } []
     s.handleOk 0 (s.x 1) = true ∧ s.rec? 0 (s.x 1).toNat = none ∧ s.handleOk 0 (s.x 2) = true ∧ s.rec? 0 (s.x 2).toNat = some PhaseRec.reset ∧
       s.handleOk 0 (s.x 3) = false ∧ fld (s.x 4) 63 6 = 0 ∧ s.region? 0 (s.x 4).toNat = none ∧ s.pendAny [6, 4] = false) ∧
    (let s := { onRing (ringAt .u [(4, 63)]) [] with vfs := [(0, { Vf.reset with regions := [(63, regionOf [])] })] }
     fld (s.x 4) 63 6 = 0 ∧ s.region? 0 (s.x 4).toNat = some (regionOf [])) := by decide +kernel

/-- crn.stat of the spec's example: s = 3, defined, gives 0x4_0000_0003 (R291). -/
theorem test_crn_stat : nextIs (exec (.crnStat 17 0) { onRing (ringAt .u []) [] with vfs := [(0, { Vf.reset with regions := [(0, { regionOf [] with s := 3 })] })] })
    (fun t => t.x 17 == 0x400000003) = true := by decide +kernel

theorem test_witness_TokensAndBillets :
    (let s := onRing (ringAt .u [(3, 15), (4, 16), (5, 0xFFFFFFFFC0000000)]) []
     s.pendAny [3] = false ∧ s.me.loads = [] ∧ s.me.stores = [] ∧ (tget [] (s.ring 0).tqs (15 : BitVec 4).toNat).length < 64 ∧ fld (s.x 3) 63 4 = 0 ∧
       fld (s.x 4) 63 4 ≠ 0 ∧ (s.ring 0).run ≠ .parked ∧
       okIs (s.access .load (s.x 5) 128 (some 64)) (fun ps => someIs (s.readNow [5] (s.x 5) ps) fun p => !p.2.stoppedNow && !p.2.armOk 0 15 p.1) = true) ∧
    (let s := onRing (ringAt .u [(3, 15), (5, 0xFFFFFFFFC0000000)]) []
     let l := List.replicate 28 0 ++ [1, 0, 1, 0] ++ List.replicate 40 (0 : Byte) ++ [0x1F, 8] ++ List.replicate 54 0
     let u := s.putBytesAt ((List.range 128).map fun i => campKey 0 i) l
     okIs (u.access .load (s.x 5) 128 (some 64)) (fun ps => someIs (u.readNow [5] (u.x 5) ps) fun p => decide (p.1 = l) && !p.2.stoppedNow && p.2.armOk 0 15 p.1 &&
       !p.2.spanExec (p.2.issueCtx 0 (p.2.ring 0).level) (u.x 5) 128) = true) := by decide +kernel

/-- A Cairn record: te 16, 100 tiles of one item, one map. -/
def regionBytes : List Byte :=
  List.replicate 4 0 ++ leBytes 4 16 ++ leBytes 4 100 ++ leBytes 4 1 ++ List.replicate 4 0 ++ leBytes 2 1 ++ List.replicate 42 0

/-- A region at step 3 of 130 tiles and two maps. -/
def region3 : Region := { regionOf [] with ntiles := 130, nmaps := 2, s := 3, skbase := 0x20000000 }

/-- Ring 0 with registers, and region 0 of its VF. -/
def withRegion (g : Region) (x : Tab W64) : State := { onRing (ringAt .u x) [] with vfs := [(0, { Vf.reset with regions := [(0, g)] })] }

theorem test_witness_CairnForms :
    (let s := withRegion region3 [(2, 0x40), (3, 0x1000000C0)]
     s.pendAny [0] = false ∧ s.selected 0 (s.x 0) = some region3 ∧ region3.bound = false ∧ s.selected 0 (s.x 2) = none ∧ fld (s.x 0) 63 6 = 0) ∧
    (withRegion { region3 with bound := true } []).selected 0 0 = some { region3 with bound := true } ∧
    (let s := withRegion region3 [(3, 0x200000200)]
     fld (s.x 3) 7 6 = 0 ∧ s.region? 0 (fld (s.x 3) 5 0) = some region3 ∧ 64 * fld (s.x 3) 31 8 < region3.ntiles ∧
       region3.s < fld (s.x 3) 63 32 + region3.nmaps ∧ fld (s.x 3) 63 32 < region3.s ∧
       okIs (s.access .load (region3.mapAt (fld (s.x 3) 63 32) + BitVec.ofNat 64 (8 * fld (s.x 3) 31 8)) 8 none)
         (fun ps => ps.length == 8 && !s.acqHolds false ps) = true) ∧
    regionOk regionBytes = true ∧
    (let s := (onRing (ringAt .u [(5, 0xFFFFFFFFC0000000)]) []).putBytesAt ((List.range 64).map (campKey 0)) regionBytes
     okIs (s.access .load (s.x 5) 64 (some 8)) (fun ps => someIs (s.readNow [5] (s.x 5) ps) fun p => decide (p.1 = regionBytes) && !p.2.stoppedNow) = true) := by decide +kernel

/-! ## A ring group that runs a phase -/

/-- Position p of a stripe: its words, and the ports it names. -/
def posImg (ws : List W32) : PosImg := { words := ws, wordsAt := 0, consts := none, constsAt := 0, afc := none, afcAt := 0, inp := 0, outp := 0 }

/-- A stripe with words at positions 0 and 12. -/
def stripe : StripeImg :=
  { off := 0, ii := 1, stateful := false, bmode := 0, z := 1, pmode := 0, posmask := 0x1001, smap := 0, gmap := 0,
    pos := [(0, posImg [0x04018080]), (12, posImg [0xC00C2000])], nblk := 1 }

/-- A phase image of V virtual stripes and four items a sweep. -/
def image (v : Nat) : PhaseImg :=
  { v := v, ii := 1, ftz := false, zipt := false, n := 4, count := 8, seed := 1, decls := [], stripes := List.replicate v stripe }

def ctx0 : XCtx := { ring := 0, satp := 0, s2root := 0x8000000010, lvl := .u, tlb := .second 0, front := Front.zero }

/-- The pload of the phase with serial 1. -/
def pload0 : Async :=
  { id := 0, op := .pload 0x20000000 0 1, word := 0xA0898000, set := none, await := [], rd := 4, x := ctx0, st := .group, seq := 0,
    grp := some (0, 1), ticket := 0, reset := [], held := false }

/-- A group of ring 0 with its image. -/
def grp (im : PhaseImg) : Group :=
  { first := 0, k := 1, issuer := 0, serial := 1, opId := 0, set := none, desc := [], x := ctx0, img := im, carve := 95, count := 8, draining := false,
    mark := none, ports := [], started := true, t := 0, stage := .elems, cursor := 0, hold := 0, banks := [], served := false, rsqWait := [], sweep := 0, sweepItems := 0, closed := false,
    pass := 0, passItems := 0, admitted := 0, credited := 0, exited := 0, voidFrom := none, fresh := [], lastSweep := false, wrap := [], cross := [],
    wq := [], blocks := [], upds := [], overlay := [], nextMark := 0, cairns := [], kept := [], frozen := false, frozenFor := 0, deadCycles := 0, sweepCtr := 0,
    overrun := false, preempt := false, pload := pload0 }

def item0 : Item := { n := 0, pass := 0, tag := none, void := false, marks := [], bnd := [] }

/-- A running slot of stripe v. -/
def slotOf (v : Nat) (it : Option Item) : Slot :=
  { Slot.reset with v := some v, st := .run, item := it }

/-- Ring 0 with a group, one ring slot, and an element in it; the phase's record is RUNNING. -/
def inGroup (g : Group) (sl : Slot) (e : Elem) (p : Nat) : State :=
  { onRing { ringAt .u [] with ringp := 1, group := some 0, slots := [(0, sl)], elems := [(p, e)], serial := 1,
                               recs := [(1, { PhaseRec.reset with state := 3 })] } []
      with groups := [(0, g)], ep := { g := 0, slot := 0, pos := p } }

/-- A one-stripe phase with an item in its slot; the element at position 0 holds k0 = 3, k1 = 0x10000 and q1. -/
def elem0 : Elem := { Elem.reset with k := [(0, 3), (1, 0x10000)], c := [(0, 5)], q := 2 }

def fab : State := inGroup (grp (image 1)) (slotOf 0 (some item0)) elem0 0

def view0 : View := { gk := 0, grp := grp (image 1), gs := 0, pos := 0, slot := slotOf 0 (some item0), item := item0, v := 0, el := elem0 }

theorem test_view : fab.view = some view0 := by decide +kernel

/-- An input port of the pool at virtual stripe 0. -/
def poolPort (q : List W32) : Port :=
  { decl := { v := 0, p := 0, tagged := true, t := 1, tag := 9, w := 1, d := 1, tiles := 8 }, kind := .pool 0 1024, region := none, q := q, arrived := q.length,
    delivered := 0, credTiles := 0, credits := [], eos := false, recs := [], offer := none, disc := 0, win := [], head := 0, opens := [], steered := 0,
    written := 0, countAt := 1, heldAt := 1, marks := [] }

def outPort : Port := { poolPort [] with decl := { (poolPort []).decl with p := 2 } }

/-- The group with an input port 0 and an output port 2. -/
def ported : Group := { grp (image 1) with ports := [(0, poolPort [7]), (2, outPort)] }

/-- The same, with the element at position 0 bound to both ports. -/
def portedAt : Group :=
  { ported with img := { image 1 with stripes := [{ stripe with pos := [(0, { posImg [0x04018080] with inp := 1, outp := 1 })] }] } }

theorem test_witness_ConstantUpdates :
    (let s := (inGroup ported (slotOf 0 none) elem0 0).updSeq (.ring 0) fun q => { q with x := [(1, 0), (2, 5), (3, 0)] }
     s.pendAny [1, 2] = false ∧ s.rec? 0 1 = some { PhaseRec.reset with state := 3 } ∧ (s.groupOf 0 1).map (·.1) = some 0 ∧ fld (s.x 1) 63 24 = 0 ∧
       isMe (fld (s.x 1) 20 16) = false ∧ fld (s.x 1) 15 0 < ported.img.v ∧ ported.upds.length < 16 ∧ fld (s.x 3) 63 18 = 0 ∧ fld (s.x 3) 17 16 < 2 ∧
       tfind ported.ports (portKey (fld (s.x 3) 15 0) (fld (s.x 3) 17 16)) = some (poolPort [7]) ∧
       (ported.ports.map fun e => e.2.marks.length).sum < 64) := by decide +kernel

theorem test_witness_ConstantUpdates_over : (onRing { ringAt .u [] with serial := 1 } []).curPhase 0 = .retired ∧
    (onRing (ringAt .u []) []).curPhase 0 = .none_ ∧ ∃ g, (inGroup ported (slotOf 0 none) elem0 0).curPhase 0 = .run 0 g := ⟨rfl, rfl, _, rfl⟩

/-- A window that VF 0 is a member, the writer and an opener of. -/
def win0 : Window := { Window.reset with gen := 1, wv := true, seq := 5, members := 1, opened := 1, valid := true }

theorem test_witness_Windows :
    (let s := { onRing (ringAt .u [(1, 0x100), (2, 5), (3, 6), (4, 0x200)]) [] with windows := [(0, win0)] }
     s.pendAny [2, 1] = false ∧ s.mapped (s.vfNum 0) (s.x 1) = some 0 ∧ ((s.window 0).seq - (s.x 2).truncate 32).toNat < 2 ^ 31 ∧
       2 ^ 31 ≤ ((s.window 0).seq - (s.x 3).truncate 32).toNat ∧ s.mapped (s.vfNum 0) (s.x 4) = none ∧
       (s.window 0).opened.getLsbD (s.vfNum 0) = true ∧ (s.window 0).wv = true ∧ (s.window 0).writer.toNat = s.vfNum 0 ∧ s.me.loads = [] ∧
       s.me.stores = []) := by decide +kernel

/-! ## Witnesses of the statements about launches, cores and images -/

/-- A launch record of one ring at entry 0x1000. -/
def launchRec : List Byte := leBytes 8 0x1000 ++ leBytes 8 0x44 ++ leBytes 8 0x20001000 ++ leBytes 4 8 ++ [0, 1] ++ List.replicate 18 0 ++ leBytes 8 77 ++ List.replicate 8 0

/-- VF 0 with an open queue of 16 records at 0x2000_0000. -/
def queueVf (head tail : W64) : Vf := { Vf.reset with csr := [(0x1010, 0x20000000), (0x1011, 0x4001), (0x1012, head), (0x1013, tail)] }

/-- Ring 0 idle, and a record at its queue's head. -/
def queued (rec : List Byte) : State :=
  { ({ onRing { ringAt .u [] with run := .idle } [] with vfs := [(0, queueVf 0 1)] }).putBytes 0x20000000 rec with cur := .core 0 }

theorem test_witness_Launches :
    (let s := ({ onRing (ringAt .u [(1, 0xFFFFFFFFC0000000), (2, 5)]) [] with vfs := [(0, queueVf 0 14)] }).putBytes (campKey 0 0) launchRec
     s.pendAny [1] = false ∧ okIs (s.access .load (s.x 1) 64 (some 64)) (fun ps => someIs (s.readNow [1] (s.x 1) ps) fun p =>
         decide (p.1 = launchRec) && !p.2.stoppedNow && decide (p.2.lqOpen (p.2.vfNum 0) = some 4) && !p.2.lqFull (p.2.vfNum 0) 4 && !p.2.me.busy &&
         okIs (p.2.enqueue (p.2.ctxStage2 0) (p.2.vfNum 0) 4 p.1) fun u => u.vcsr 0 0x1013 == 15) = true ∧ s.lqOpen (s.vfNum 0) = some 4 ∧ 
       fld (5 : W64) 15 0 < 2 ^ fld (s.vcsr (s.vfNum 0) 0x1011) 15 12 ∧ (s.setRcsr 0 0x030 (BitVec.ofNat 64 (fld (s.x 2) 31 0))).graphOver 0 = true ∧
       (s.ringWrite 0 0x030 (s.x 2)).graphOver 0 = true) ∧
    (let s := { onRing (ringAt .u []) [] with vfs := [(0, queueVf 0 15)] }
     s.lqFull (s.vfNum 0) 4 = true) ∧
    (let s := queued launchRec
     s.ringOfVf 0 = some 0 ∧ s.lqOpen 0 = some 4 ∧ s.lqCount 0 4 ≠ 0 ∧ (s.vfOf 0).stopped = false ∧ (s.strip (s.ring 0).sbase).capture = false ∧
       okIs (s.engRead (s.ctxStage2 0) (s.vcsr 0 0x1010 + BitVec.ofNat 64 0) 64) (fun l => l == launchRec) = true ∧ launchOk launchRec (s.ring 0).slen = true ∧
       (launchRecOf launchRec).mapped = false ∧ ((runOf 0 1).any fun n => !(s.ring n).idle || !s.offered n) = false) ∧
    launchOk (List.replicate 64 0) 1 = false ∧
    (onRing slots []).graphOver 0 = false ∧ State.reset.doorOpen = false ∧
    ({ State.reset with dies := [(0, { Die.reset with csr := [(0x2067, 1)], links := [(0, 1)] })] } : State).doorOpen = true ∧
    (0x88B5 : BitVec 16).toNat = fld (State.reset.dcsr 0 0x2020) 15 0 ∧ (0 : BitVec 16).toNat ≠ fld (State.reset.dcsr 0 0x2020) 15 0 ∧
    (∀ e, e < 64 → bit ((State.reset.die 0).lpEntry e).ent 7 = false) := by decide +kernel

/-- A launched ring starts at its entry with x1 and x9 set (R342). -/
theorem test_launch_starts : nextIs (exec (.launchConsume 0) (queued launchRec))
    (fun t => (t.ring 0).run == .run && (t.ring 0).seq.pc == 0x1000 && (t.ring 0).seq.x == [(1, 0x44), (9, 0x20001000)]) = true := by decide +kernel

/-- A packet of tenant 3 for VF 0, and its check under a key of zeros. -/
def packet : List Byte := leBytes 2 3 ++ [0, 0] ++ leBytes 4 7 ++ [0x66, 0x4C, 0x11, 0x3D] ++ leBytes 4 0 ++ launchRec

/-- Entry 63 admits tenant 3 to VF 0, and holds one token. -/
def packetDie : Die := { Die.reset with lp := [(63, { LpEntry.reset with ent := 0x80, tenant := 3, bucket := 10 ^ 6 })] }

def packetState : State := { queued launchRec with dies := [(0, packetDie)] }

theorem test_witness_LaunchPackets :
    (let s := packetState
     let p := (s.die 0).lpEntry 63
     packet.length = 80 ∧ (0x88B5 : BitVec 16).toNat = fld (s.dcsr 0 0x2020) 15 0 ∧
       ((List.range 64).find? fun e => bit ((s.die 0).lpEntry e).ent 7 && ((s.die 0).lpEntry e).tenant.toNat == field packet 0 2) = some 63 ∧
       zeroBytes packet 3 1 = true ∧ zeroBytes packet 12 4 = true ∧ field packet 2 1 = fld p.ent 6 0 ∧
       (field packet 4 4 + 2 ^ 32 - fld p.ent 39 8) % 2 ^ 32 = 7 ∧ 10 ^ 6 ≤ p.bucket ∧
       (let p2 := { p with ent := setFld p.ent 39 8 7, bucket := p.bucket - 10 ^ 6 }
        (s.setLp 0 63 p2).lqOpen 0 = some 4 ∧ (s.setLp 0 63 p2).lqFull 0 4 = false ∧
          okIs ((s.setLp 0 63 p2).packetEnqueue 0 4 (slice packet 16 64)) (fun u => u.vcsr 0 0x1013 == 2) = true)) := by decide +kernel

theorem test_witness_LaunchPackets_check : packetCheck ((packetState.die 0).lpEntry 63).key packet = slice packet 8 4 := by decide +kernel

/-- Core 0 with a 16-byte record at 0x2000. -/
def coreRec (x : Ring) (rec : List Byte) : State := ({ onCore [(2, 0x2000)] with rings := [(0, x)] }).putBytes 0x2000 rec

/-- Ring 0 unassigned, and assigned and idle. -/
def idleRing : Ring := { Ring.reset with vf := some 0, owner := some 0, slen := 1 }

def recOf (a b c d : Byte) : List Byte := [a, b, c, d] ++ List.replicate 12 0

theorem test_witness_CoreForms :
    (let s := { onCore [(2, 0), (3, 0x80)] with rings := [(0, ringAt .u []), (1, { ringAt .u [] with halted := true, vf := none })] }
     s.pendAny [1, 2] = false ∧ fld (s.x 2) 63 7 = 0 ∧ (s.ring 0).power < 3 ∧ (s.ring 0).halted = false ∧ s.haltable 0 = true ∧ (s.ring 1).halted = true ∧
       fld (s.x 3) 63 7 ≠ 0) ∧
    (let s := coreRec Ring.reset (recOf 0 1 0 0)
     s.pendAny [1, 2] = false ∧ okIs (s.access .load (s.x 2) 16 (some 16)) (fun ps => someIs (s.readNow [2] (s.x 2) ps) fun p => decide (p.1 = recOf 0 1 0 0) &&
       p.2.assignable (stripRecOf p.1) && p.2.rings == s.rings) = true ∧
       stripRecOk (recOf 0 1 0 0) = true ∧ (stripRecOf (recOf 0 1 0 0)).vf ≠ 0xFF ∧ s.assignable (stripRecOf (recOf 0 1 0 0)) = true ∧
       ((runOf 0 1).any fun r => (s.ring r).owner.any (· != 0)) = false) ∧
    stripRecOk (recOf 0 0 0 0) = false ∧
    (let s := coreRec idleRing (recOf 0 1 0xFF 0)
     stripRecOk (recOf 0 1 0xFF 0) = true ∧ (stripRecOf (recOf 0 1 0xFF 0)).vf = 0xFF ∧ s.releasable (stripRecOf (recOf 0 1 0xFF 0)) = true) ∧
    (let l := recOf 0 3 9 0
     field l 1 1 < 4 ∧ zeroBytes l 4 12 = true ∧ field l 0 1 < 128 ∧ (coreRec idleRing l).stripSel (field l 0 1) = true ∧ field l 1 1 % 2 = 1) ∧
    4 ≤ field (recOf 0 4 0 0) 1 1 ∧
    (let s := { onCore [(2, 0x300), (3, 0x80), (4, 0x400)] with rings := [(0, { Ring.reset with owner := some 0 })] }
     bit (s.x 2) 7 = false ∧ fld (s.x 2) 63 10 = 0 ∧ (s.ring 0).power < 3 ∧ s.atEase 0 = true ∧ (s.ring 0).vf = none ∧ bit (s.x 2) 8 = true ∧
       bit (s.x 2) 9 = true ∧ bit (s.x 3) 7 = true ∧ fld (s.x 4) 63 10 ≠ 0) := by decide +kernel

/-- ccfg of VF 5 to rings 0 and 1 (R338): code 0, and both rings belong to its strip. -/
theorem test_ccfg_assigns : nextIs (exec (.ccfg 3 2) (coreRec Ring.reset (recOf 0 2 5 0)))
    (fun t => t.x 3 == 0 && (t.ring 1).vf == some 5 && (t.ring 1).sbase == 0 && (t.ring 1).slen == 2) = true := by decide +kernel

/-- halt of an unassigned number above 127 returns code 1 (R330). -/
theorem test_halt_code : nextIs (exec (.halt 3 2) (onCore [(2, 0x80)])) (fun t => t.x 3 == 1) = true := by decide +kernel

theorem test_witness_Invalidations :
    (let s := onRing (ringAt .s [(1, 0x12345), (2, 7)]) []
     (s.ring 0).level ≠ .u ∧ s.pendAny [1, 2] = false ∧ s.quiet = true ∧ s.vfDrained (s.vfNum 0) = true) ∧
    (let s := onCore []
     s.pendAny [1] = false ∧ s.quiet = true ∧ s.vfDrained (fld (s.x 1) 6 0) = true ∧ s.allDrained = true) ∧
    ((coreWith [] [] [heldStore]).quiet && (coreWith [] [] [heldStore]).allDrained) = false := by decide +kernel

/-- A cached translation of ASID 7. -/
def entry7 : TlbEntry :=
  { owner := some 0, asid := some 7, page := 0x10000, size := 0x10000, pa := 0, mt := 0, win := 0, perms1 := 15, perms2 := 3, satpOn := true, home := .rsq 0 }

/-- tlbi.va removes the entry of its page and ASID, and leaves another ASID's (R333). -/
theorem test_tlbi_va : nextIs (exec (.tlbiVa 1 2) { onRing (ringAt .s [(1, 0x12345), (2, 7)]) [] with tlb := [entry7, { entry7 with asid := some 8 }] })
    (fun t => t.tlb == [{ entry7 with asid := some 8 }]) = true := by decide +kernel

theorem test_witness_Images :
    (let s := onRing (ringAt .s [(1, 0xFFFFFFFFC0000000), (2, 64)]) []
     (s.ring 0).level ≠ .u ∧ s.pendAny [3, 1, 2] = false ∧ okIs (s.spanFor 0 .store (s.x 1) (s.x 2).toNat 64) (fun ps => ps.length == 64) = true ∧
       s.atRest 0 = true ∧ okIs (s.spanFor 0 .load (s.x 1) 64 64) (fun ps => okIs (s.ownBytes 0 ps) fun h => field h 0 4 != 0x4C474349) = true) ∧
    (let s := { onCore [] with rings := [(0, { idleRing with halted := true })] }
     s.stripSel s.rsel = true ∧ (s.strip s.rsel).capture = false ∧ ((s.stripRings s.rsel).all fun n => (s.ring n).halted || (s.ring n).run == .parked) = true ∧
       areaOffset (s.rcsr s.rsel 0x2120) + 6 * 2 ^ 20 ≤ treeBase) := by decide +kernel

/-- Ring 0 at S with no scratch, and CAMP in x1. -/
def imaged : State := onRing { ringAt .s [(1, 0xFFFFFFFFC0000000), (2, 15424)] with carvew := 0 } []

/-- Places of CAMP from the strip's first byte on. -/
def campPlaces (n : Nat) : List (Nat × MemAttr) := (List.range n).map fun i => (campKey 0 0 + i, .sram)

theorem campPlaces_add (m n : Nat) : campPlaces m ++ (List.range n).map (fun i => (campKey 0 0 + m + i, MemAttr.sram)) = campPlaces (m + n) := by
  simp [campPlaces, List.range_add, Function.comp_def, Nat.add_assoc]

theorem campSpan (s : State) (hl : (s.ring 0).slen = 1) (hb : (s.ring 0).sbase = 0) (a : Acc) :
    s.spanFor 0 a 0xFFFFFFFFC0000000 15424 64 = .ok (campPlaces 15424) := by
  have p : pieces (15424 / 4096 + 2) 0xFFFFFFFFC0000000 15424 = [(BitVec.ofNat 64 (0xFFFFFFFFC0000000 + 0), 4096), (BitVec.ofNat 64 (0xFFFFFFFFC0000000 + 4096), 4096),
     (BitVec.ofNat 64 (0xFFFFFFFFC0000000 + 8192), 4096), (BitVec.ofNat 64 (0xFFFFFFFFC0000000 + 12288), 3136)] := by decide +kernel
  have at_ (o : Nat) (ho : o < 2 ^ 22) : s.ringPlace (s.ctxOf 0 (s.ring 0).level) a (BitVec.ofNat 64 (0xFFFFFFFFC0000000 + o)) = .ok (campKey 0 0 + o, .sram) := by
    rw [State.ringPlace_camp s _ a o ho (by show 0 < (s.ring 0).slen; omega)]
    show Except.ok (campKey (s.ring 0).sbase o, MemAttr.sram) = _
    rw [hb]; rfl
  unfold State.spanFor State.spanPlaces
  rw [if_neg (by decide), p]
  simp only [List.map_cons, List.map_nil]
  rw [at_ 0 (by decide), at_ 4096 (by decide), at_ 8192 (by decide), at_ 12288 (by decide)]
  simp only [firstErr, okList, List.flatten_cons, List.flatten_nil, List.append_nil]
  rw [if_neg (by decide)]
  have z := campPlaces_add 0 4096
  have z0 : campPlaces 0 = [] := rfl
  rw [z0, List.nil_append] at z
  rw [z, ← List.append_assoc, campPlaces_add (0 + 4096) 4096, ← List.append_assoc, campPlaces_add (0 + 4096 + 4096) 4096, campPlaces_add (0 + 4096 + 4096 + 4096) 3136]

/-- The header and the section table of an image of kind 3 with nothing in its sections (R389). -/
def imageHead : List Byte :=
  leBytes 4 0x4C474349 ++ leBytes 2 1 ++ [3, 0] ++ leBytes 8 15424 ++ leBytes 2 5 ++ List.replicate 46 0 ++
    ([(1, 2560, 192), (4, 6464, 2752), (5, 5184, 9216), (6, 1024, 14400), (8, 0, 15424)].map fun e => leBytes 4 e.1 ++ leBytes 4 e.2.1 ++ leBytes 8 e.2.2).flatten ++
    List.replicate 48 0

def image3 : List Byte := imageHead ++ List.replicate 15232 0

theorem head_length : imageHead.length = 192 := by decide +kernel

theorem image3_length : image3.length = 15424 := by
  rw [image3, List.length_append, head_length, List.length_replicate]

theorem image3_field (o n : Nat) (h : o + n ≤ 192) : field image3 o n = field imageHead o n :=
  field_append_left _ _ _ _ (by rw [head_length]; exact h)

theorem image3_zeros (o n : Nat) (h : o + n ≤ 192) : zeroBytes image3 o n = zeroBytes imageHead o n := by
  unfold zeroBytes
  rw [image3, slice_append_left _ _ _ _ (by rw [head_length]; exact h)]

theorem image3_section (o n : Nat) (h : 192 ≤ o) (hn : o + n ≤ 15424) : (image3.drop o).take n = List.replicate n 0 :=
  take_drop_zeros _ _ _ _ (by rw [head_length]; exact h) (by rw [head_length]; omega)

theorem image3_table : imgTable image3 = [(1, 2560, 192), (4, 6464, 2752), (5, 5184, 9216), (6, 1024, 14400), (8, 0, 15424)] := by
  unfold imgTable
  rw [image3_field 16 2 (by decide), show field imageHead 16 2 = 5 by decide +kernel]
  simp only [List.range, List.range.loop, List.map_cons, List.map_nil]
  repeat rw [image3_field _ _ (by decide)]
  decide +kernel

theorem seqBitsOk_zeros (n : Nat) : seqBitsOk (List.replicate n 0) = true := by
  unfold seqBitsOk
  simp only [field_zeros, zeroBytes_zeros]
  decide +kernel

theorem armResvOk_zeros (n : Nat) : armResvOk (List.replicate n 0) = true := by
  unfold armResvOk
  simp only [field_zeros, zeroBytes_zeros]
  decide +kernel

theorem image3_ok : (imgOk image3 [3] && field image3 18 1 == imaged.vfNum 0) = true := by
  have s1 : imgSection image3 1 = List.replicate 2560 0 := by unfold imgSection; rw [image3_table]; exact image3_section 192 2560 (by decide) (by decide)
  have s2 : imgSection image3 2 = [] := by unfold imgSection; rw [image3_table]; rfl
  have s3 : imgSection image3 3 = [] := by unfold imgSection; rw [image3_table]; rfl
  have s4 : imgSection image3 4 = List.replicate 6464 0 := by unfold imgSection; rw [image3_table]; exact image3_section 2752 6464 (by decide) (by decide)
  have s5 : imgSection image3 5 = List.replicate 5184 0 := by unfold imgSection; rw [image3_table]; exact image3_section 9216 5184 (by decide) (by decide)
  have s8 : imgSection image3 8 = [] := by unfold imgSection; rw [image3_table]; exact image3_section 15424 0 (by decide) (by decide)
  have t : tableOk image3 3 = true := by
    unfold tableOk
    rw [image3_table, image3_field 8 8 (by decide)]
    have z (i : Nat) (hi : i ∈ List.range 5) : (zeroBytes image3 (66 + 16 * i) 2 && zeroBytes image3 (76 + 16 * i) 4) =
        (zeroBytes imageHead (66 + 16 * i) 2 && zeroBytes imageHead (76 + 16 * i) 4) := by
      simp only [List.mem_range] at hi
      rw [image3_zeros _ _ (by omega), image3_zeros _ _ (by omega)]
    simp only [List.length_cons, List.length_nil]
    rw [show ((List.range (0 + 1 + 1 + 1 + 1 + 1)).all fun i => zeroBytes image3 (66 + 16 * i) 2 && zeroBytes image3 (76 + 16 * i) 4) =
      ((List.range 5).all fun i => zeroBytes imageHead (66 + 16 * i) 2 && zeroBytes imageHead (76 + 16 * i) 4) from
        by rw [Bool.eq_iff_iff, List.all_eq_true, List.all_eq_true]; exact forall_congr' fun i => forall_congr' fun hi => by rw [z i hi]]
    decide +kernel
  have r : reservedOk image3 = true := by
    unfold reservedOk
    rw [s1, s2, s3, s4, s5, image3_zeros 23 1 (by decide), image3_zeros 40 24 (by decide), image3_field 7 1 (by decide)]
    simp only [zeroBytes_zeros, field_zeros, seqBitsOk_zeros, slice_zeros, armResvOk_zeros]
    decide +kernel
  have k6 : field image3 6 1 = 3 := by rw [image3_field 6 1 (by decide)]; decide +kernel
  unfold imgOk
  dsimp only
  rw [k6, t, r, s8, s1, image3_length, image3_field 0 4 (by decide), image3_field 4 2 (by decide), image3_field 8 8 (by decide),
      image3_field 18 1 (by decide), field_zeros]
  decide +kernel

theorem campSpan64 (s : State) (hl : (s.ring 0).slen = 1) (hb : (s.ring 0).sbase = 0) (a : Acc) :
    s.spanFor 0 a 0xFFFFFFFFC0000000 64 64 = .ok (campPlaces 64) := by
  have p : pieces (64 / 4096 + 2) 0xFFFFFFFFC0000000 64 = [(BitVec.ofNat 64 (0xFFFFFFFFC0000000 + 0), 64)] := by decide +kernel
  unfold State.spanFor State.spanPlaces
  rw [if_neg (by decide), p]
  simp only [List.map_cons, List.map_nil]
  rw [State.ringPlace_camp s _ a 0 (by decide) (by show 0 < (s.ring 0).slen; omega)]
  simp only [firstErr, okList, List.flatten_cons, List.flatten_nil, List.append_nil]
  rw [if_neg (by decide), show (s.ctxOf 0 (s.ring 0).level).ring = 0 from rfl, hb]
  rfl

theorem campPlaces_sram (n : Nat) : ∀ p ∈ campPlaces n, p.2 = .sram ∧ 2 ^ 39 ≤ p.1 := by
  intro p hp
  simp only [campPlaces, List.mem_map, List.mem_range] at hp
  obtain ⟨i, _, rfl⟩ := hp
  exact ⟨rfl, by simp only [campKey]; omega⟩

/-- No place of the first 4 MiB of CAMP is gated while ring 0 has its supply. -/
theorem campPlaces_on (s : State) (hw : (s.ring 0).power < 4) (n : Nat) (hn : n ≤ 2 ^ 22) : ∀ p ∈ campPlaces n, s.railGated p.1 = false := by
  intro p hp
  simp only [campPlaces, List.mem_map, List.mem_range] at hp
  obtain ⟨i, hi, rfl⟩ := hp
  have e : sramRing (campKey 0 0 + i) = some 0 := by
    unfold sramRing campKey
    rw [if_pos (by omega)]
    exact congrArg some (by omega)
  simp only [State.railGated, e, Option.any_some, decide_eq_false_iff_not]
  omega

/-- isave has room for the image, and its buffer takes it. -/
theorem test_witness_Images_isave : ∃ ps u, imaged.spanFor 0 .store (imaged.x 1) (imaged.x 2).toNat 64 = .ok ps ∧ imaged.atRest 0 = true ∧
    (imaged.imageBytes (imaged.ring 0).sbase 0 3 (imaged.seqSection 0 (imaged.pc + 4) none 2) []).length ≤ (imaged.x 2).toNat ∧
    imaged.writeAt (.ring 0) false [] (ps.take 15424)
      (imaged.imageBytes (imaged.ring 0).sbase 0 3 (imaged.seqSection 0 (imaged.pc + 4) none 2) []) = .ok u := by
  obtain ⟨u, hu⟩ := State.writeAt_sram imaged (.ring 0) false [] ((campPlaces 15424).take 15424)
    (imaged.imageBytes (imaged.ring 0).sbase 0 3 (imaged.seqSection 0 (imaged.pc + 4) none 2) []) rfl
    fun p hp => ⟨(campPlaces_sram _ p (List.mem_of_mem_take hp)).1, (campPlaces_sram _ p (List.mem_of_mem_take hp)).2,
      campPlaces_on imaged (by decide +kernel) _ (by decide) p (List.mem_of_mem_take hp)⟩
  exact ⟨campPlaces 15424, u, campSpan imaged (by decide +kernel) (by decide +kernel) .store, by decide +kernel, by decide +kernel, hu⟩

/-- Ring 0 with the image at the start of its CAMP. -/
def withImage : State := imaged.putBytesAt ((campPlaces 15424).map (·.1)) image3

theorem withImage_rings : withImage.rings = imaged.rings := State.putBytesAt_rings _ _ _

theorem campPlaces_bytes (s : State) (n : Nat) (l : List Byte) (h : l.length = n) :
    (campPlaces n).map (fun p => (s.putBytesAt ((campPlaces n).map (·.1)) l).byte p.1) = l := by
  have d : ((campPlaces n).map (·.1)).Nodup := by
    rw [campPlaces, List.map_map]
    exact List.pairwise_map.2 (List.nodup_range.imp fun {a b} h => by show campKey 0 0 + a ≠ campKey 0 0 + b; omega)
  have e := State.bytesAt_putBytesAt s ((campPlaces n).map (·.1)) l d (by rw [List.length_map, campPlaces, List.length_map, List.length_range, h])
  rw [State.bytesAt, List.map_map] at e
  exact e

theorem campPlaces_field (s : State) (m n : Nat) (l : List Byte) (h : (campPlaces (m + n)).map (fun p => s.byte p.1) = l) (o k : Nat) (hk : o + k ≤ m) :
    field ((campPlaces m).map fun p => s.byte p.1) o k = field l o k := by
  rw [← h, ← campPlaces_add m n, List.map_append, field_append_left]
  rw [List.length_map, campPlaces, List.length_map, List.length_range]
  exact hk

theorem withImage_bytes : (campPlaces 15424).map (fun p => withImage.byte p.1) = image3 := campPlaces_bytes imaged 15424 image3 image3_length

/-- What a ring reads of its CAMP where no write is still on its way. -/
theorem campOwn (s : State) (hb : s.bad = []) (hp : s.past = []) (hw : (s.ring 0).power < 4) (n : Nat) (hn : n ≤ 2 ^ 22) :
    s.ownBytes 0 (campPlaces n) = .ok ((campPlaces n).map fun p => s.byte p.1) := by
  unfold State.ownBytes
  rw [State.readAt_sram _ _ _ hb hp fun p hp => ⟨(campPlaces_sram _ p hp).1, campPlaces_on s hw n hn p hp⟩]
  simp [Except.map]

theorem withImage_own (n : Nat) (hn : n ≤ 2 ^ 22) :
    withImage.ownBytes 0 (campPlaces n) = .ok ((campPlaces n).map fun p => withImage.byte p.1) :=
  campOwn _ (State.putBytesAt_bad _ _ _) (State.putBytesAt_past _ _ _) (by unfold State.ring; rw [withImage_rings]; decide +kernel) n hn

/-- irest reads an image that passes its checks. -/
theorem test_witness_Images_irest : ∃ ps h qs l, withImage.spanFor 0 .load 0xFFFFFFFFC0000000 64 64 = .ok ps ∧ withImage.ownBytes 0 ps = .ok h ∧
    field h 0 4 = 0x4C474349 ∧ field h 6 1 = 3 ∧ field h 8 8 = 15424 ∧ withImage.spanFor 0 .load 0xFFFFFFFFC0000000 15424 64 = .ok qs ∧
    withImage.ownBytes 0 qs = .ok l ∧ (imgOk l [3] && field l 18 1 == imaged.vfNum 0) = true := by
  have hr : withImage.ring 0 = imaged.ring 0 := by unfold State.ring; rw [withImage_rings]
  have hl : (withImage.ring 0).slen = 1 := by rw [hr]; decide +kernel
  have hb : (withImage.ring 0).sbase = 0 := by rw [hr]; decide +kernel
  have f (o n : Nat) (h : o + n ≤ 64) : field ((campPlaces 64).map fun p => withImage.byte p.1) o n = field imageHead o n := by
    rw [campPlaces_field withImage 64 15360 image3 withImage_bytes o n h, image3_field o n (by omega)]
  refine ⟨_, _, _, _, campSpan64 _ hl hb .load, withImage_own 64 (by decide), ?_, ?_, ?_, campSpan _ hl hb .load, withImage_own 15424 (by decide), ?_⟩
  · rw [f 0 4 (by decide)]; decide +kernel
  · rw [f 6 1 (by decide)]; decide +kernel
  · rw [f 8 8 (by decide)]; decide +kernel
  · rw [withImage_bytes]; exact image3_ok
/-! ## Witnesses of the statements about element words -/

/-- The values of fields and forms that each word's statement speaks of, on an element whose gate is open. -/
theorem test_witness_element_words : fab.view = some view0 ∧ gateOpen view0.el.q 0 = true ∧ gateOpen view0.el.q 1 = false ∧
    (intForm (.veAdd 0 1 16 2 0 0)).isSome = true ∧ (wordForm (.mov 1 31 2 0)).isSome = true ∧ (floatForm (.fma 8 1 17 3 0 0 1)).isSome = true ∧
    (floatForm1 (.frnd 8 1 31 2 0 0)).isSome = true ∧ (specialForm (.rcp 1 31 2 0 0)).isSome = true ∧ (compareForm (.cmpLt 8 1 16 1 0)).isSome = true ∧
    (bankLoadForm (.ldbi 31 4 2)).isSome = true ∧ (bankStoreForm (.stbi 1 4 31)).isSome = true ∧ (bankAtomicForm (.atadd 1 1 2 0)).isSome = true ∧
    (blockForm (.aload 2)).isSome = true ∧ (30 : BitVec 5) ∉ [(1 : BitVec 5), 16] ∧ (inGroup (grp (image 1)) (slotOf 0 none) elem0 0).view = none := by
  decide +kernel

/-- The write that a group queues for y, a register or a predicate of its element. -/
def wr (k : WrKind) : Wr := { late := false, due := 0, slot := 0, pos := 0, ctx := 0, item := 0, tag := none, kind := k }

theorem test_witness_ElementWrites_commit : (inGroup { grp (image 1) with wq := [wr (.k 2 7)] } (slotOf 0 (some item0)) elem0 0).group? 0 =
    some { grp (image 1) with wq := [wr (.k 2 7)] } ∧ (wr (.k 2 7)).late = false := by decide +kernel

/-- R214's example: add.s32 k2, k1, c0 with k1 = 0x1_0000 and c0 = 5 queues 0x1_0005 for y and k2. -/
theorem test_add_word : nextIs (exec (.veAdd 0 1 16 2 0 0) fab) (fun t => someIs (t.group? 0) fun g => g.wq == [wr (.y 0x10005), wr (.k 2 0x10005)]) = true := by
  decide +kernel

/-- R215: saturated lanes of s8x4: 100 + 50, 16 - 16, -128 - 1, -16 + 5 give 127, 0, -128, -11 (0xF580_007F). -/
theorem test_add_saturates : intLanes 4 true (fun x z _ => x + z) 0xF0801064 0x05FFF032 0 = 0xF580007F ∧
    intLanes 4 false (fun x z _ => x + z) 0xF0801064 0x05FFF032 0 = 0xF57F0096 := by decide +kernel

/-- Compares: a NaN makes ne and un hold and no other, and the two zeros are equal (R217). -/
theorem test_compare_nan : Rel.flt .ne .nan (.fin false 1 0) = true ∧ Rel.flt .eq .nan .nan = false ∧ Rel.flt .le .nan .nan = false ∧
    Rel.flt .un .nan (.fin false 0 0) = true ∧ Rel.flt .eq (.fin true 0 0) (.fin false 0 0) = true := by decide +kernel

/-- R223: -3.0 and 1.0 become the bf16 lanes 0xC040 and 0x3F80, and widening bf16 is exact. -/
theorem test_round_bf16 : roundF .bf16 false .rne (decodeF .b32 0xC0400000) = 0xC040 ∧ roundF .bf16 false .rne (decodeF .b32 0x3F800000) = 0x3F80 ∧
    roundF .b32 false .rne (decodeF .bf16 0x3F81) = 0x3F810000 := by decide +kernel

/-- Sums and products round once: 1 + 2^-24 to nearest even is 1, and upwards the next value (R88, R220). -/
theorem test_fadd_rounds : roundF .b32 false .rne (faddV .rne (decodeF .b32 0x3F800000) (decodeF .b32 0x33800000)) = 0x3F800000 ∧
    roundF .b32 false .rup (faddV .rup (decodeF .b32 0x3F800000) (decodeF .b32 0x33800000)) = 0x3F800001 := by decide +kernel

theorem test_witness_Compares : view0.el.q.getLsbD 1 = true ∧ gateOpen view0.el.q 2 = true ∧ gateOpen view0.el.q 1 = false ∧ (FVal.fin false 1 0) ≠ .nan := by
  decide +kernel

/-- The element at an input port with words, and an output port. -/
def fabPorts : State := inGroup portedAt (slotOf 0 (some item0)) elem0 0

theorem test_witness_PortWords : ∃ w, fabPorts.view = some w ∧ gateOpen w.el.q 0 = true ∧ w.outKey = some 2 ∧ w.inKey = some 0 ∧
    (tfind w.grp.ports 0).isSome = true := by
  refine ⟨{ gk := 0, grp := portedAt, gs := 0, pos := 0, slot := slotOf 0 (some item0), item := item0, v := 0, el := elem0 }, ?_⟩
  decide +kernel

/-- A matrix block's top stripe at position 12. -/
def fabMe : State := inGroup (grp (image 1)) (slotOf 0 (some item0)) Elem.reset 12

theorem test_witness_MatrixWords : ∃ w, fabMe.view = some w ∧ w.pos = 12 ∧ w.reads = true ∧ w.grp.blockTop w.v = w.v ∧ w.grp.blockBusy w.v = false ∧
    (fabMe.slot w.grp (w.gs + 0)).v = some (w.v + 0) ∧ (fabMe.slot w.grp (w.gs + 0)).st = .run ∧
    (∀ n, n < w.grp.blockSize w.v → (fabMe.elem w.grp (w.gs + n) 11).y.toNat % 2 ^ 24 / 8 * 8 + 2048 ≤ carveScratch w.grp.carve * 65536) := by
  refine ⟨{ gk := 0, grp := grp (image 1), gs := 0, pos := 12, slot := slotOf 0 (some item0), item := item0, v := 0, el := Elem.reset }, ?_⟩
  decide +kernel

/-- The second stripe of a block whose slot still holds the stripe before. -/
theorem test_witness_MatrixWords_away : (inGroup (grp (image 2)) (slotOf 0 (some item0)) Elem.reset 12).view.isSome = true ∧
    ((inGroup (grp (image 2)) (slotOf 0 (some item0)) Elem.reset 12).slot (grp (image 2)) 1).v ≠ some 1 := by decide +kernel

/-- aload issues once, and an element that is not at position 12 does nothing (R231, R239). -/
theorem test_aload_issues : nextIs (exec (.aload 2) fabMe) (fun t => someIs (t.group? 0) fun g => (g.blocks.map fun b => (b.op, b.acc, b.cyc)) == [(4, 2, 0)]) = true ∧
    nextIs (exec (.aload 2) fab) (fun t => t.groups == fab.groups && t.rings == fab.rings) = true := by decide +kernel

theorem test_witness_BankWords : (fab.slotPlace (grp (image 1)) 0).1 = 0 ∧ view0.void = false ∧ view0.offI 4 < carveScratch view0.grp.carve * 65536 ∧
    fab.bad = [] ∧ ¬ carveScratch view0.grp.carve * 65536 ≤ view0.offI 4 ∧
    (let s : State := { fab with bad := [poolKey 0 (view0.offI 4 / 4 * 4) / 64] }
     s.view = some view0 ∧ s.bad.contains (poolKey 0 (view0.offI 4 / 4 * 4) / 64) = true) := by
  decide +kernel

/-- stbi writes its operand at its offset, and ldbi brings it back after four cycles (R226, R228). -/
theorem test_bank_words : nextIs (exec (.stbi 1 4 31) fab) (fun t => t.num (poolKey 0 (view0.offI 4 / 4 * 4)) 4 == 0x10000) = true ∧
    nextIs (exec (.ldbi 31 4 2) fab) (fun t => someIs (t.group? 0) fun g => g.wq.all fun e => e.late && e.due == 4) = true := by decide +kernel

/-! ## Witnesses of the statements about the fabric -/

/-- A group of one stripe before its first item. -/
def fresh : Group := { grp (image 1) with started := false, stage := .entry }

/-- A two-stripe phase on one slot, in its second pass with a wrapped item. -/
def passTwo : Group := { grp (image 2) with pass := 1, passItems := 1, wrap := [{ item0 with pass := 1 }] }

theorem test_witness_ItemMoves :
    (let s := inGroup fresh (slotOf 0 none) elem0 0
     s.group? 0 = some fresh ∧ (s.slot fresh 0).item = none ∧ fresh.started = false ∧ fresh.draining = false ∧ fresh.hold = 0 ∧ s.agHeld fresh = false ∧
       fresh.cairns = [] ∧ fresh.pass = 0 ∧ fresh.closed = false ∧ fresh.final = false ∧ fresh.preempt = false ∧ s.passReady 0 0 = true ∧
       (s.slot fresh 0).v = some 0 ∧ fresh.gated 0 0 = false ∧ fresh.gated 0 1 = false ∧ fresh.steers 0 = false ∧ fresh.upds = []) ∧
    (let s := inGroup passTwo (slotOf 1 none) elem0 0
     (s.slot passTwo 0).item = none ∧ passTwo.img.ii ≠ 0 ∧ passTwo.t % passTwo.img.ii = 0 ∧ passTwo.draining = false ∧ passTwo.hold = 0 ∧
       s.agHeld passTwo = false ∧ passTwo.cairns = [] ∧ passTwo.pass ≠ 0 ∧ passTwo.wrap.map (·.pass) = [1] ∧ passTwo.passItems ≠ 0) ∧
    (let s := fab
     let g := grp (image 1)
     s.group? 0 = some g ∧ s.plen g = 1 ∧ (s.slot g 0).v = some 0 ∧ (s.slot g 0).st = .run ∧ (s.slot g 0).item = some item0 ∧ 0 + 1 = g.img.v ∧
       g.gated 0 0 = false ∧ g.gated 0 1 = false ∧ tfind g.ports (portKey 0 2) = none ∧ tfind g.ports (portKey 0 3) = none ∧ g.cross = []) := by
  decide +kernel

/-- The first item is admitted with number 0, and the record counts it (R37, R38). -/
theorem test_admission : nextIs (exec (.itemAdmission 0) (inGroup fresh (slotOf 0 none) elem0 0))
    (fun t => someIs (t.group? 0) (fun g => g.admitted == 1 && g.started && (t.slot g 0).item.isSome) && someIs (t.rec? 0 1) fun q => q.items == 1) = true := by
  decide +kernel

/-- The item leaves, and the base advances by 1 (R61). -/
theorem test_item_leaves : nextIs (exec (.itemTimeBoundary 0) fab)
    (fun t => someIs (t.group? 0) fun g => g.exited == 1 && (t.slot g 0).item.isNone && (t.elem g 0 0).base == 1) = true := by decide +kernel

/-- A bank result that lands now, and one with cycles to go. -/
def late0 (due : Nat) : Wr := { wr (.k 2 7) with late := true, due := due }

/-- A block at the first row of its drain. -/
def draining0 : BlockRun := { BlockRun.blank with size := 1, op := 3 }

/-- A slot in the state of a job, and the stripe that it takes next. -/
def jobSlot (st : ScrollSt) (sh : ShadowSt) (it : Option Item) : Slot := { slotOf 0 it with st := st, shadow := sh, next := some 1 }

/-- The kind of the job that the SCR of ring 0 serves next, for a slot in a phase of two stripes. -/
def jobOf (sl : Slot) : Option JobKind := ((inGroup (grp (image 2)) sl elem0 0).nextJob (grp (image 2)) 0).map (·.kind)

theorem test_witness_FabricEvents :
    (let g := grp (image 2)
     let s := inGroup g (jobSlot .after .ready (some item0)) elem0 0
     (s.ring 0).group = some 0 ∧ s.group? 0 = some g ∧
       ((s.slotsOf g 0).find? fun gs => decide ((s.slot g gs).st = .after) && decide ((s.slot g gs).shadow = .ready)) = some 0 ∧
       (s.slot g 0).v = some 0 ∧ (s.slot g 0).next = some 1 ∧ (s.slot g 0).item = some item0) ∧
    (let g := grp (image 2)
     let s := inGroup g (jobSlot .after (.fill 0) none) elem0 0
     ((s.slotsOf g 0).find? fun gs => decide ((s.slot g gs).st = .after) && decide ((s.slot g gs).shadow = .ready)) = none) ∧
    jobOf (jobSlot .run .free none) = some .load ∧ jobOf (jobSlot .save .ready none) = some .save ∧ jobOf (jobSlot .restore .ready none) = some .restore ∧
    ((grp (image 2)).stripe? 0).isSome = true ∧ ((grp (image 2)).stripe? 1).isSome = true ∧
    (inGroup { grp (image 1) with wq := [late0 0] } (slotOf 0 none) elem0 0).group? 0 = some { grp (image 1) with wq := [late0 0] } ∧
    (late0 0).late = true ∧ (late0 4).due ≠ 0 ∧
    (let d (n : Nat) : BlockRun := { draining0 with cyc := draining0.drainAt + n }
     (d 0).row? = some 0 ∧ (d 7).row? = some 7 ∧ 0 + 1 ≠ 8 * (d 0).size ∧ 7 + 1 = 8 * (d 7).size ∧
       ({ grp (image 1) with blocks := [d 7] } : Group).blocks[0]? = some (d 7)) := by decide +kernel

/-- A load of one block, of a stripe of one block, readies the shadow; the switch then brings the stripe in (R46, R50). -/
theorem test_scr_switch :
    nextIs (exec (.scrJobStep 0) (inGroup (grp (image 2)) (jobSlot .run .free none) elem0 0))
      (fun t => (t.slot (grp (image 2)) 0).shadow == .ready) = true ∧
    nextIs (exec (.slotSwitch 0) (inGroup (grp (image 2)) (jobSlot .after .ready none) elem0 0))
      (fun t => (t.slot (grp (image 2)) 0).v == some 1 && (t.slot (grp (image 2)) 0).st == .run) = true := by decide +kernel

/-- An asynchronous operation of ring 0 in its mask stage. -/
def asyncOf (op : AsyncOp) (st : AsyncSt) : Async := { pload0 with op := op, st := st, grp := none, await := [(1, [])] }

/-- Ring 0 with one operation. -/
def asyncState (a : Async) (e : Bool) : State :=
  onRing { ringAt .u [] with asyncs := [a], serial := 1, recs := [(1, PhaseRec.reset)], ringp := 1, deps := [(1, { out := [], err := e, code := 6 })],
                             billets := [(0, { record := List.replicate 128 0, x := ctx0 })] } []

/-- A pattern of four elements of four bytes. -/
def walk4 : AgDesc :=
  { raw := [], mode := 0, store := false, zc := false, esz := 4, nd := 1, padv := 0, base := 0x20000000, cnt := [4, 0, 0, 0], str := [4, 0, 0, 0],
    hh := 0, wd := 0, ff := 0, ss := 0, pp := 0, ilim := 0, ist := 0 }

/-- A request of its first element. -/
def unit4 : AgUnit := { locs := [[campKey 0 0, campKey 0 1, campKey 0 2, campKey 0 3]], data := [], attr := .sram, got := [], done := false, slot := none }

theorem test_witness_PhaseEvents :
    (let a := asyncOf (.pload 0x20000000 0x100 1) .mask
     let s := asyncState a false
     (s.ring 0).asyncs[0]? = some a ∧ a.held = false ∧ s.unitOff 0 = false ∧ (s.strip (s.ring 0).sbase).capture = false ∧ a.st = .mask ∧
       s.satisfied 0 a.await = true ∧ s.issuedOver 0 a = true ∧ s.waitErr 0 a.await = none ∧ (asyncState a true).waitErr 0 a.await = some (1, 6)) ∧
    (let s := asyncState (asyncOf (.cpyB 0) .mask) false
     s.issuedOver 0 (asyncOf (.cpyB 0) .mask) = true ∧ (tfind (s.ring 0).billets (fld 0 3 0)).isSome = true) ∧
    (let a := asyncOf (.pload 0x20000000 0x100 1) .group
     let s := asyncState a false
     a.grp = none ∧ fld (0x100 : W64) 14 8 ≠ 0 ∧ bit (0x100 : W64) 16 = false ∧ fld (0x100 : W64) 6 0 + fld (0x100 : W64) 14 8 ≤ (s.ring 0).slen ∧
       ((runOf ((s.ring 0).sbase + fld (0x100 : W64) 6 0) (fld (0x100 : W64) 14 8)).all s.offered) = true) ∧
    (let g := { grp (image 1) with deadCycles := 1024 }
     let s := inGroup g (slotOf 0 none) elem0 0
     s.group? 0 = some g ∧ 1024 ≤ g.deadCycles ∧ g.mark = none) ∧
    (let g := { grp (image 1) with draining := true }
     let s := inGroup g (slotOf 0 none) elem0 0
     s.group? 0 = some g ∧ someIs ((s.drainStep 0).group? 0) (fun g1 => (s.drainStep 0).isDrained 0 g1) = true) ∧
    (let g := { grp (image 1) with draining := true, ports := [(0, poolPort [])] }
     let s := inGroup g (slotOf 0 none) elem0 0
     let u := s.setAg 0 0 { Ag.reset with bound := some (0, 0, 0), desc := some walk4, units := [unit4] }
     someIs ((u.drainStep 0).group? 0) (fun g1 => !(u.drainStep 0).isDrained 0 g1) = true) := by decide +kernel

/-- A phase image of one stripe whose position 0 executes add.s32 k2, k1, k0 (R187, R191). -/
def phaseImage : List Byte :=
  leBytes 4 0x4C475048 ++ leBytes 2 2 ++ leBytes 2 1 ++ [1, 0] ++ leBytes 2 1 ++ leBytes 4 1 ++ leBytes 16 0 ++ leBytes 8 64 ++ leBytes 8 64 ++ leBytes 16 256 ++
    leBytes 64 128 ++ [1, 0, 0, 0] ++ leBytes 36 1 ++ leBytes 2 1 ++ leBytes 22 2 ++ leBytes 64 0x04010080

/-- A phase descriptor and its empty binding block, in CAMP behind the image. -/
def phaseDesc : List Byte := leBytes 8 0xFFFFFFFFC0000000 ++ leBytes 8 0xFFFFFFFFC0000120 ++ leBytes 16 0

/-- A pload that has its group. -/
def chosen : Async := { asyncOf (.pload 0xFFFFFFFFC0000100 0x100 1) .group with grp := some (0, 1) }

/-- Ring 0 with that pload, and the image, the descriptor and the block in its CAMP. -/
def placed : State :=
  let s := asyncState chosen false
  { s with mem := s.mem ++ (phaseImage ++ phaseDesc).zipIdx.filterMap fun e => if e.1 = 0 then none else some (campKey 0 e.2, e.1) }

theorem test_witness_PhaseEvents_accept :
    (let s := placed.updRec 0 1 fun q => { q with state := 2 }
     (placed.ring 0).asyncs[0]? = some chosen ∧ chosen.st = .group ∧ chosen.held = false ∧ placed.unitOff 0 = false ∧ (runOf 0 1).all placed.offered = true ∧
       (placed.strip (placed.ring 0).sbase).capture = false ∧
       ((runOf 0 1).any (fun q => (placed.ring q).group.isSome || (placed.ring q).halted) ||
         placed.tickets.any fun t => decide (t.1 < chosen.ticket) && runsMeet 0 1 t.2.1 t.2.2) = false ∧
       okIs (s.readPdesc chosen.x 0xFFFFFFFFC0000100) (fun d => d == phaseDesc) = true ∧
       okIs (s.loadPhase chosen.x (some 0xFFFFFFFFC0000100) phaseDesc 0 ((runOf 0 1).map fun q => (s.ring q).ringp) (fun _ => none) false)
         (fun l => l.count == 1) = true) := by decide +kernel
/-- A producer stripe that emits for a merging stripe, which waits for tag 0 while the item in the slot has tag 5 (R242, R397). -/
def merging : Group :=
  { grp (image 2) with
    img := { image 2 with stripes := [{ stripe with pos := [(0, { posImg [(encode (.emit 0 0 0 0)).getD 0] with outp := 1 })] }, { stripe with pmode := 2 }] },
    ports := [(2, outPort), (4, { poolPort [] with decl := { (poolPort []).decl with v := 1 }, head := 0 })], deadCycles := 1024 }

/-- The element of its position 0, which emits. -/
def emitting : Elem := { elem0 with ctx := [(0, (encode (.emit 0 0 0 0)).getD 0)] }

theorem test_witness_PhaseEvents_merge :
    (let s := inGroup merging (slotOf 0 (some { item0 with tag := some 5 })) emitting 0
     s.group? 0 = some merging ∧ 1024 ≤ merging.deadCycles ∧ merging.mark = none ∧
     ((s.cycleCauses 0).findSome? fun c => match c with
      | .merge k => some k
      | .deliver => none
      | .accept => none
      | .agFault => none
      | .bank => none) = some 4) := by decide +kernel

/-- A record that is whole at the end of its item time is in the window that it feeds (R145, R243, R315). -/
theorem test_record_enters :
    (let o : OpenRec := { item := 0, tag := some 3, words := [7], closed := false, pos := 0, ctx := 0 }
     let g := { merging with ports := [(2, { outPort with opens := [o] }), (4, { poolPort [] with decl := { (poolPort []).decl with v := 1 } })] }
     nextIs (exec (.itemTimeBoundary 0) (inGroup g (slotOf 0 (some item0)) emitting 0))
       (fun t => someIs (t.group? 0) fun g1 => someIs (tfind g1.ports 4) fun p => p.win == [(3, [7])])) = true := by decide +kernel

/-- Ring 0 with its generator 0 bound to input port 0 of the group. -/
def genState (g : Group) (a : Ag) : State := (inGroup { g with ports := [(0, poolPort [])] } (slotOf 0 none) elem0 0).setAg 0 0 a

def gen4 (d : AgDesc) (us : List AgUnit) : Ag := { Ag.reset with bound := some (0, 0, 0), desc := some d, units := us, x := ctx0 }

/-- A storing pattern, and a request of it. -/
def walk4w : AgDesc := { walk4 with store := true }
def unit4w : AgUnit := { unit4 with data := [[1, 2, 3, 4]] }

/-- Zero-compressed patterns of one slot, a slot that has been read, and a slot to be written. -/
def walkZ (st : Bool) : AgDesc := { walk4 with store := st, zc := true, cnt := [128, 0, 0, 0] }
def unitZ : AgUnit :=
  { locs := (List.range 64).map fun i => [0x20000000 + i], data := [], attr := .sram, got := (List.range 64).map fun i => (0x20000000 + i, 0), done := false,
    slot := some (0x20000000, 1) }

/-- A region of one tile of 16 BF16 elements, and a phase whose input port is staged by its comparator. -/
def tileRegion : Region := { region3 with te := 16, ntiles := 1, nmaps := 1, sigbase := 0xFFFFFFFFC0000000, skbase := 0xFFFFFFFFC0000200 }

def cairn0 : Cairn :=
  { region := 0, inPort := 0, outPort := none, step := 3, tiles := [{ tile := 0, words := List.replicate 8 0x3F803F80, decided := false, skip := false }],
    staged := [], stagedTiles := 1, decidedTiles := 0, mapBits := [], carried := [], held := false, ended := false, dropped := 0 }

def staging : Group := { grp (image 1) with ports := [(0, poolPort [])], cairns := [cairn0] }

def tileState : State := { inGroup staging (slotOf 0 none) elem0 0 with vfs := [(0, { Vf.reset with regions := [(0, tileRegion)] })] }

/-- A page request that waits for a place. -/
def heldReq : PrqReq :=
  { vf := 5, stage2 := false, asid := 0, addr := 0x20001000, reason := 0, level := 3, wr := false, rd := true, ul := true, src := 1, south := false, ag := 0,
    ring := 0, waiters := [(.copy 0 1, 0x20001000)], st := .new, stamp := 0 }

theorem test_witness_GeneratorEvents_request :
    (let s := genState (grp (image 1)) (gen4 walk4 [])
     let a := s.ag 0 0
     a.bound = some (0, 0, 0) ∧ a.desc = some walk4 ∧
       someIs (s.group? 0) (fun g => !g.frozen && !s.groupHeld g && g.mark.isNone && decide (a.coming walk4 / 4 < s.agSpace g 0)) = true ∧
       a.ended = false ∧ a.fault = none ∧ a.units.length < 128 ∧ walk4.mode ≠ 2 ∧ walk4.zc = false ∧ a.stepIndex walk4 = none ∧ a.issued < walk4.walk ∧
       a.part.length < 4 ∧ a.units.head? = none ∧ (a.lineRun walk4 none 64 a.issued).length = 4 ∧
       okIs (s.agElems a walk4 (a.lineRun walk4 none 64 a.issued)) (fun pls => pls.length == 4) = true) ∧
    (let s := genState (grp (image 1)) { gen4 walk4w [] with part := List.replicate 16 7 }
     let a := s.ag 0 0
     a.part.length < 512 ∧ (a.toSkip walk4w ((a.lineRun walk4w none 64 a.issued).take (a.given walk4w))).length = 4 ∧
       okIs (s.agElems a walk4w (a.toSkip walk4w ((a.lineRun walk4w none 64 a.issued).take (a.given walk4w)))) (fun pls => pls.length == 4) = true) ∧
    (let s := genState (grp (image 1)) (gen4 (walkZ false) [])
     let a := s.ag 0 0
     a.issued < (walkZ false).walk ∧ a.elem (walkZ false) a.issued = .at_ 0x20000000 ∧
       okIs (s.agPlaces a (walkZ false) 0x20000000 64) (fun ps => ps.length == 64) = true) ∧
    (let s := genState (grp (image 1)) { gen4 (walkZ true) [] with part := List.replicate 512 0 }
     let a := s.ag 0 0
     128 ≤ a.given (walkZ true) ∧ a.elem (walkZ true) a.issued = .at_ 0x20000000 ∧
       (zcPack 4 ((List.range 128).map fun i => slice a.part (i * 4) 4)).length = 64 ∧
       okIs (s.agPlaces a (walkZ true) 0x20000000 64) (fun ps => ps.length == 64) = true) := by decide +kernel

theorem test_witness_GeneratorEvents_completion :
    (let s := genState (grp (image 1)) (gen4 walk4 [unit4])
     (s.ag 0 0).units[0 % 128]? = some unit4 ∧ unit4.rest ≠ [] ∧ (s.ag 0 0).behind 0 (unit4.pick 0) = false ∧
       okIs (s.readAt { me := .engines 0, front := (s.ag 0 0).x.front } (unit4.pick 0)) (fun l => l.length == 4) = true) ∧
    (let two : AgUnit := { unit4 with locs := [(List.range 16).map (campKey 0)] }
     two.rest.length = 2 ∧ (two.pick 1).length = 8) ∧
    (let s := genState (grp (image 1)) (gen4 (walkZ false) [unitZ])
     (s.ag 0 0).units[0]? = some unitZ ∧ unitZ.rest = [] ∧ (s.ag 0 0).behind 0 (unitZ.pick 0) = false ∧
       zcLines 4 (zcCount (unitZ.locs.flatten.map fun p => tget 0 unitZ.got p)) ≤ 1) ∧
    (let s := genState (grp (image 1)) (gen4 walk4w [unit4w])
     (s.ag 0 0).units[0]? = some unit4w ∧ (s.ag 0 0).behind 0 (unit4w.pick 0) = false ∧
       okIs (s.writeAt (.engines 0) true [] (unit4w.pick 0) ((unit4w.pick 0).map fun p =>
         (((unit4w.places.zip unit4w.bytes).reverse.find? fun x => x.1.1 == p.1).map (·.2)).getD 0)) (fun t => t.byte (campKey 0 2) == 3) = true) := by decide +kernel

theorem test_witness_GeneratorEvents_decisions :
    (let d := { Die.reset with held := [heldReq] }
     d.placeable = some 0 ∧ (d.prq.find? fun e => e.2.sameAs heldReq) = none ∧ (freeEntry d.prq heldReq.vf).isSome = true) ∧
    (let d := { Die.reset with held := [heldReq], prq := [(9, heldReq)] }
     d.placeable = some 0 ∧ (d.prq.find? fun e => e.2.sameAs heldReq).map (·.1) = some 9) ∧
    (let s := tileState
     let rg := tileRegion
     let w := s.cairnCtx staging cairn0
     s.group? 0 = some staging ∧ staging.mark = none ∧
       (staging.cairns.zipIdx.findSome? fun x => (s.cairnRegion staging x.1).bind fun rg => (x.1.work rg).map fun w => (x.2, x.1, rg, w)) =
         some (0, cairn0, rg, some 0) ∧ (cairn0.carried.find? fun d => d.1 == 0) = none ∧
       okIs (s.engRead w (rg.sigAt 0) 64) (fun old => okIs (s.engRead w (rg.ageAt 0) 1) fun age => okIs (s.engRead w (rg.mapAt 3) 8) fun mw =>
         let new := rg.signature (rg.elements (List.replicate 8 0x3F803F80))
         let skip := rg.skips (leNat age) new (sigOf old)
         let b := s.engLinked w [(rg.sigAt 0, 64), (rg.ageAt 0, 1), (rg.mapAt 3, 8)]
         !skip && okIs (b.engPut false w (rg.sigAt 0) (sigBytes new)) fun u => okIs (u.engPut false w (rg.ageAt 0) [0]) fun v =>
           okIs (v.engPut false w (rg.mapAt 3) (mapWord mw 0 (rg.mapBits 0 skip))) fun _ => true) = true) := by decide +kernel

/-- A tile that is decided is no longer waiting, and one of a faulted phase stays undecided (R177). -/
theorem test_tile_decision :
    nextIs (exec (.tileDecision 0) tileState) (fun t => someIs (t.group? 0) fun g => g.cairns.all fun c => c.decidedTiles == 1) = true ∧
    nextIs (exec (.tileDecision 0) (tileState.setGroup 0 { staging with mark := some 1 }))
      (fun t => someIs (t.group? 0) fun g => g.cairns.all fun c => c.decidedTiles == 0) = true := by decide +kernel

/-- A copy of eight bytes, and its job. -/
def copy8 : CopyDesc :=
  { ctl := 0, tok := 9, src := 0x20000000, dst := 0x20000100, n0 := 8, n1 := 1, n2 := 1, sstr1 := 0, dstr1 := 0, sstr2 := 0, dstr2 := 0, cmask := 0, rmask := 0,
    resv53 := 0, qp := 0, aux := 0 }

def job8 (d : CopyDesc) : CopyJob := CopyJob.start 1 (.rsq 0x21) d (some 1) (some 4) ctx0 none

/-- Ring 0 with ready copies, copies in progress, and a token for a billet that binds queue 0. -/
def copyRing (ready going : List CopyJob) (p : Nat) : Ring :=
  { ringAt .u [] with copyReady := ready, copies := going, power := p, tqs := [(0, [3])],
                      billets := [(2, { record := List.replicate 72 0 ++ [0x10, 8] ++ List.replicate 54 0, x := ctx0 })] }

/-- VF 0 with one queue-pair entry, at 0x20000000, whose immediates enter token queue 2. -/
def withQp : State :=
  { onRing (copyRing [] [] 0) [] with vfs := [(0, { Vf.reset with csr := [(0x1040, 0x20000000), (0x1041, 1)] })], mem := tables ++ [(0x20000014, 0x12)] }

theorem test_witness_CopyEvents :
    (let s := onRing (copyRing [job8 copy8] [] 0) []
     let u := s.updRing 0 fun x => { x with copyReady := [] }
     s.copyHeld 0 = false ∧ (s.ring 0).copyReady = [job8 copy8] ∧ (job8 copy8).held = false ∧ copy8.remote = false ∧ u.acceptErr 0 (job8 copy8) = none ∧ copy8.mc = false ∧
       (u.acceptErr 0 (job8 { copy8 with src := 0x8000000000000000 })).isSome = true) ∧
    (let s := onRing (copyRing [] [] 0) []
     s.copyHeld 0 = false ∧ (s.ring 0).copyReady = [] ∧ tget [] (s.ring 0).tqs 0 = [3] ∧
       ((s.ring 0).billets.find? fun e => match e.2.queue with
          | some q => !(tget [] (s.ring 0).tqs q).isEmpty
          | none => false).map (fun e => (e.1, e.2.queue, e.2.slot.map fun i => decide ((s.dep 0 i).out.length < 127))) =
         some (2, some 0, none)) ∧
    (let b : Billet := { record := List.replicate 72 0 ++ [0x10, 3] ++ List.replicate 54 0, x := ctx0 }
     let s := onRing { copyRing [] [] 0 with billets := [(2, b)], deps := [(3, { out := List.replicate 127 0, err := false, code := 0 })] } []
     b.queue = some 0 ∧ b.slot = some 3 ∧ 127 ≤ (s.dep 0 3).out.length) ∧
    (let g := { grp (image 1) with draining := true, ports := [(2, { outPort with kind := .token 0 })] }
     let s := { inGroup g (slotOf 0 none) elem0 0 with strips := [(0, { Strip.reset with capture := true })] }
     (s.strip (s.ring 0).sbase).capture = true ∧ s.tokensDue 0 = true ∧ s.copyStill 0 = false) ∧
    (let j := { job8 { copy8 with ctl := 0x01000000 } with done := [0] }
     let s := onRing (copyRing [] [j] 0) []
     (s.ring 0).copies[0]? = some j ∧ j.ended = true ∧ s.unitOff 0 = false ∧ j.desc.tqen = true ∧ j.err = none ∧
       (tget [] (s.ring 0).tqs j.desc.tq).length < 64 ∧ { copy8 with ctl := 5 }.remote = true) ∧
    withQp.arrivalRing 0 0 = some 0 ∧ withQp.arrivalRing 0 1 = none ∧
    okIs (withQp.qpEntry (withQp.issueCtx 0 .s) 0 0) (fun o => someIs o fun l => field l 20 1 / 16 != 0 &&
      okIs (withQp.engWrite (withQp.issueCtx 0 .s) 0x20000200 [7]) (fun u => (u.sendToken 0 (field l 20 1 % 16) 5).isSome) &&
      okIs (withQp.engRead (withQp.issueCtx 0 .s) 0x20000200 4) (fun bs => bs.length == 4)) = true ∧
    (let s := { withQp with mem := tables }
     okIs (s.qpEntry (s.issueCtx 0 .s) 0 0) (fun o => someIs o fun l => field l 20 1 / 16 == 0) = true) ∧
    (let s := onRing (copyRing [] [] 3) []
     (s.ring 0).power = 3 ∧ (s.ring 0).powerNext = none ∧ (s.ring 0).edge.length < 16) := by decide +kernel

/-- A peer's immediate: the data are placed, and the token enters queue 2 (R169). -/
theorem test_immediate_arrives : nextIs (exec (.remoteWriteImmediateArrival 0 0 0x20000200 [7] 5) withQp)
    (fun t => t.byte 0x20000200 == 7 && tget [] (t.ring 0).tqs 2 == [5]) = true := by decide +kernel

/-! ## Witnesses of the statements about the hypervisor's events -/

/-- A ring that runs, and one that is parked or halted, as the ring that core 0's RSEL names. -/
def coreOver (x : Ring) : State := { onRing x [] with cur := .core 0 }

def sharedRing : Ring := { ringAt .u [] with shared := true }

/-- Ring 0's strip is time shared, and entry 2 has VF 0 with weight 1 and a launch. -/
def shared2 : State :=
  { onRing { sharedRing with csr := [(0x2113, 0x180)] } []
      with vfs := [(0, { Vf.reset with launches := [{ index := 0, tag := 0, rings := [], left := [], codes := [], map := [] }] })] }

/-- A strip whose capture is asked for. -/
def capturing (n : Option Nat) : State :=
  { onRing { ringAt .u [] with run := .idle, csr := [] } [] with strips := [(0, { Strip.reset with capture := true, next := n })] }

theorem test_witness_SchedulerEvents :
    (let g := { grp (image 1) with sweepCtr := 9 }
     let s := (inGroup g (slotOf 0 none) elem0 0).setRcsr 0 0x2105 9
     s.group? 0 = some g ∧ s.sweepLimit g = some 9 ∧ g.overrun = false ∧ g.draining = false ∧ (s.ring g.issuer).run = .run ∧
       (s.ring g.issuer).halted = false ∧ g.sweepCtr = 9 ∧ ((s.updRing 0 fun x => { x with run := .wfi }).ring 0).run = .wfi ∧
       ((s.updRing 0 fun x => { x with run := .parked }).ring 0).run ≠ .run) ∧
    (let s := capturing none
     (s.strip (s.ring 0).sbase).capture = true ∧ s.captureReady (s.ring 0).sbase = true ∧ (s.strip (s.ring 0).sbase).next = none) ∧
    (let s := capturing (some 1)
     (s.strip (s.ring 0).sbase).capture = true ∧ s.captureReady (s.ring 0).sbase = true ∧ (s.strip (s.ring 0).sbase).next = some 1) ∧
    (let s := shared2
     (s.ring 0).shared = true ∧ (s.ring 0).vf ≠ none ∧ (s.strip 0).capture = false ∧ (s.strip 0).deficit (s.strip 0).cur ≤ 0 ∧
       (((List.range 8).map fun i => ((s.strip 0).cur + 1 + i) % 8).find? (s.runnable 0)) = some 2) ∧
    (let s := coreOver sharedRing
     s.tsSel s.rsel = true ∧ bit (0x181 : W64) 7 = true ∧ bit (s.rcsr s.rsel (0x2111 + 3)) 7 = false) := by decide +kernel

/-- The page-request queue's entry 5, in a stage and a state. -/
def entry5 (two : Bool) (st : PrqSt) : State :=
  { coreOver (ringAt .u []) with dies := [(0, { Die.reset with csr := [(0x2031, 5)], hevt := [7, 8], prq := [(5, { heldReq with vf := 0, stage2 := two, st := st })] })] }

def parkedCore : State := coreOver { ringAt .u [] with run := .parked }

/-- A halted ring whose RDBGA names its x3, and core 0 over it. -/
def haltedCore : State := coreOver { ringAt .u [(3, 9)] with halted := true, csr := [(0x2122, 0x300000003)] }

theorem test_witness_WindowRegisters :
    ((parkedCore.ring parkedCore.rsel).vf ≠ none ∧ (parkedCore.ring parkedCore.rsel).run = .parked) ∧
    (let s := parkedCore.setRcsr 0 0x1002 0x2000
     (s.ring s.rsel).run = .parked ∧ s.badHandler s.rsel = false) ∧
    (let s := entry5 false .new
     s.cur = .core 0 ∧ s.oldestNew 0 = some 5 ∧ (tfind (s.die 0).prq 5).isSome = true ∧ s.hprqSel = 5 ∧
       (tfind (s.die s.myDie).prq s.hprqSel).map (·.stage2) = some false ∧ (entry5 true .new).hprqSel = 5 ∧
       (tfind ((entry5 true .new).die (entry5 true .new).myDie).prq 5).map (·.stage2) = some true ∧ (entry5 false .taken).oldestNew 0 = none) ∧
    (let s := { entry5 false .forwarded with cur := .ring 0, vfs := [(0, { Vf.reset with csr := [(0x1020, 5)] })] }
     (s.sprqEntry 0).map (·.1) = some 5) ∧
    (let s := haltedCore
     s.tenantSel s.rsel = none ∧ (coreOver { sharedRing with csr := [(0x211A, 10)] }).tenantSel 0 = some 2 ∧ s.dbgStore s.rsel (dbgAddr 0xF00000000) 4 = none ∧ (s.ring s.rsel).halted = true ∧ s.dbgValue s.rsel (dbgAddr (s.rcsr s.rsel 0x2122)) = some 9 ∧
       (s.dbgStore s.rsel (dbgAddr (s.rcsr s.rsel 0x2122)) 4).isSome = true ∧ (parkedCore.ring parkedCore.rsel).halted = false) := by decide +kernel

/-- RDBGD writes the halted ring's register (R395). -/
theorem test_debug_writes : nextIs (exec (.rdbgdWrite 4) haltedCore) (fun t => tget 0 (t.ring 0).seq.x 3 == 4) = true := by decide +kernel

theorem test_witness_KeysAndWindows :
    (let s := onCore []
     s.kselBad = false ∧ bit (s.hcsr 0x2040) 7 = false ∧ bit (s.hcsr 0x2049) 1 = false ∧
       ((s.ring (ringOfChan (fld (s.hcsr 0x2048) 7 0))).vf.isNone || (s.ring (ringOfChan (fld (s.hcsr 0x2048) 7 0))).idle) = true ∧
       (s.window s.wsel).valid = false) ∧
    (let s := { onCore [] with csr := [(0x2040, 0x81), (0x2049, 2)] }
     s.kselBad = false ∧ bit (s.hcsr 0x2040) 7 = true ∧ bit (s.hcsr 0x2049) 1 = true) ∧
    { onCore [] with csr := [(0x2040, 0xC0)] }.kselBad = true ∧ bit (({ onCore [] with csr := [(0x2049, 2)] } : State).hcsr 0x2049) 1 = true := by decide +kernel

theorem test_witness_PowerStates : ({ State.reset with rings := [(0, { Ring.reset with powerNext := some 2 })] }.ring 0).powerNext = some 2 ∧
    (State.reset.ring 0).powerNext = none ∧ ((State.reset.die 0).hevt.length < 224) := by decide +kernel

/-- Every step of quiesce, save, gate and wake is asked for in a state it fits. -/
theorem test_power_requests :
    (([(0, Instr.rpwrQuiesce), (1, .rpwrSave), (2, .rpwrGateClock), (3, .rpwrGateRail), (4, .rpwrWake)] : List (Nat × Instr)).all fun e =>
      nextIs (exec e.2 (coreOver { ringAt .u [] with power := e.1, run := .idle })) fun t => (t.ring 0).powerNext == some (if e.1 = 4 then 2 else e.1 + 1)) = true := by
  decide +kernel

theorem test_witness_ClockAndLinks :
    (let s := { State.reset with time := 5000, dies := [(1, { Die.reset with m := 9 })] }
     ((s.clockSet 1).map fun e => (s.die e).m).foldl min 16 < ((s.clockSet 1).map fun e => (s.die e).target).foldl min 16 ∧
       (∀ e ∈ s.clockSet 1, 1024 ≤ (s.time - (s.die e).stretched).toNat)) ∧
    bit (State.reset.link 0 0) 0 ≠ true ∧
    (let s := (onRing (ringAt .u []) []).updDie 0 fun d => { d with links := [(0, 1)] }
     s.hostUp = true ∧ isHbm 0x5000 = true ∧ 0x5000 % 2 ^ 31 < treeBase ∧ (s.ring (ringOfChan (chanOf 0x5000))).vf = some 0 ∧
       okIs (s.writeAt .host false [(3, { near := s.free, wrote := [(Agent.code .host, s.free)] })] ((List.range 2).map fun i => (0x5000 + i, s.vfAttr 0)) [1, 2]) (fun t => t.byte 0x5001 == 2) = true) ∧
    isHostPa (2 ^ 54) = true ∧ isHostPa (2 ^ 55 - 1) = true ∧ isHostPa (2 ^ 55) = false ∧ isHostPa 0x5000 = false ∧ State.reset.hostUp = false := by decide +kernel

/-! ## Witnesses of the clauses over several results, several group slots, and waits -/

theorem test_witness_CsrReads_queues :
    (let s := entry5 false .new
     s.cur = .core 0 ∧ s.pendAny [4] = false ∧ s.oldestNew 0 = some 5 ∧ (entry5 false .taken).oldestNew 0 = none) ∧
    ((haltedCore.ring haltedCore.rsel).halted = true ∧ haltedCore.dbgValue haltedCore.rsel (dbgAddr (haltedCore.rcsr haltedCore.rsel 0x2122)) = some 9) ∧
    (let s := coreWith [] [pendingLoad] []
     s.csrTrap (0 : BitVec 14).toNat false = none ∧ s.counterWaits = true) := by decide +kernel

theorem test_witness_Waits_waitt :
    let s := { onRing slots [] with time := 100 }
    (s.ring 0).wait = none ∧ s.x 7 ≠ 0 ∧ (s.x 7).toNat ≤ s.time.toNat ∧ s.satisfied 0 (s.awaits 0 (2 ^ (0 : BitVec 3).toNat)) = true ∧
      s.waitErr 0 (s.awaits 0 (2 ^ (0 : BitVec 3).toNat)) = none ∧ s.satisfied 0 (s.awaits 0 (2 ^ (2 : BitVec 3).toNat)) = true ∧
      s.waitErr 0 (s.awaits 0 (2 ^ (2 : BitVec 3).toNat)) = some (2, 7) := by decide +kernel

/-- A ring at S with a store that has not performed. -/
def storing : State := onRing { ringAt .s [] with seq := { seqAt [] with stores := [heldStore] } } []

theorem test_witness_Invalidations_wait :
    (storing.ring 0).level ≠ .u ∧ (storing.quiet && storing.vfDrained (storing.vfNum 0)) = false ∧
    (let s := coreWith [] [] [heldStore]
     s.cur = .core 0 ∧ (s.quiet && s.vfDrained (fld (s.x 1) 6 0)) = false) := by decide +kernel

/-- A ring in a debug halt whose sweep has overrun meanwhile (log 77). -/
def lateRing : Ring := { ringAt .u [] with halted := true, due := some 1 }

theorem test_witness_CoreForms_due :
    ((onRing lateRing []).ring 0).due = some 1 ∧ (State.reset.ring 0).due = none ∧ (State.reset.strip 0).asked = none ∧
    (let g := { grp (image 1) with sweepCtr := 9 }
     let s := ((inGroup g (slotOf 0 none) elem0 0).setRcsr 0 0x2105 9).updRing 0 fun x => { x with halted := true }
     s.group? 0 = some g ∧ s.sweepLimit g = some 9 ∧ g.overrun = false ∧ g.draining = false ∧ (s.ring g.issuer).run = .run ∧
       (s.ring g.issuer).halted = true) := by decide +kernel

/-- dret parks the issuer of an overrun sweep with cause 0x19 and the handle (R357, R394). -/
theorem test_dret_parks : nextIs (exec (.dret 3 2) { onCore [(2, 0)] with rings := [(0, lateRing)] })
    (fun t => t.x 3 == 0 && (t.ring 0).run == .parked && t.rcsr 0 0x2107 == 0x19 && t.rcsr 0 0x2108 == 1 && !(t.ring 0).halted) = true := by decide +kernel

/-- A group of the last ring of die 0 and the first of die 1, 40 group slots each: items stand at the first slot, at each die's last, and in a crossing
that is over. -/
def wide : Group :=
  { grp { image 90 with n := 90 } with first := 31, k := 2, cross := [(0, 5, { item0 with n := 3, pass := 1 }), (2, 40, { item0 with n := 4 })] }

def wideAt : State :=
  { State.reset with
    rings := [(31, { ringAt .u [] with ringp := 40, slots := [(0, slotOf 80 (some { item0 with n := 2 })), (1, slotOf 1 none), (5, slotOf 85 none),
                                                              (39, slotOf 39 (some { item0 with n := 1 }))] }),
              (32, { ringAt .u [] with ringp := 40, slots := [(0, slotOf 89 (some { item0 with n := 0 })), (39, slotOf 79 (some item0))] })],
    groups := [(0, wide)] }

theorem wide_pmode (v : Nat) : wide.pmode v = 0 := by
  unfold Group.pmode Group.stripe?
  have e : wide.img.stripes[v]? = (List.replicate 90 stripe)[v]? := rfl
  rw [e, List.getElem?_replicate]
  by_cases h : v < 90
  · rw [if_pos h]; rfl
  · rw [if_neg h]

theorem wide_gated (v p : Nat) : wide.gated v p = false := by
  unfold Group.gated Group.merges
  rw [wide_pmode]
  simp

theorem test_witness_ItemMoves_wide :
    wideAt.group? 0 = some wide ∧ wideAt.plen wide = 80 ∧
    (∀ gs, gs < wideAt.plen wide → (wideAt.slot wide gs).item ≠ none → (wideAt.slot wide gs).st = .run ∧ (wideAt.slot wide gs).v ≠ none) ∧
    (∀ v p, wide.gated v p = false) ∧ (∀ key po, tfind wide.ports key = some po → po.opens = []) ∧
    wideAt.destOf wide 0 80 = .slot 1 ∧ wideAt.destOf wide 39 39 = .cross 40 ∧ wideAt.destOf wide 40 89 = .gone ∧ wideAt.destOf wide 79 79 = .cross 80 ∧
    wide.cross = [(0, 5, { item0 with n := 3, pass := 1 })] ++ [(2, 40, { item0 with n := 4 })] ∧
    (∀ x ∈ [(0, 5, { item0 with n := 3, pass := 1 })], x.1 = 0 ∧ x.2.1 < wideAt.plen wide ∧
      ∀ gs, gs < wideAt.plen wide → ¬ (wideAt.leaving wide gs ≠ none ∧ wideAt.destOf wide gs ((wideAt.slot wide gs).v.getD 0) = .slot x.2.1)) := by
  refine ⟨by decide +kernel, by decide +kernel, by decide +kernel, wide_gated, (fun key po h => nomatch h), by decide +kernel, by decide +kernel,
    by decide +kernel, by decide +kernel, by decide +kernel, by decide +kernel⟩

/-- One group slot onwards, over a die crossing in 24 cycles, into the wrap buffer's crossing, out of the phase, and out of a crossing (R36, R43, R44). -/
theorem test_boundary_moves : nextIs (exec (.itemTimeBoundary 0) wideAt)
    (fun t => someIs (t.group? 0) fun g => g.exited == 1 && ((t.slot g 1).item.map (·.n)) == some 2 && ((t.slot g 5).item.map (·.n)) == some 3 &&
      (t.slot g 0).item.isNone && (g.cross.map fun x => (x.1, x.2.1, x.2.2.n, x.2.2.pass)) == [(2, 40, 4, 0), (24, 40, 1, 0), (24, 80, 0, 1)]) = true := by
  decide +kernel

/-- What a load of k2 queues besides: a result with cycles to go, a register of another position, and a word for a port. -/
def loaded : Group :=
  { grp (image 1) with wq := [late0 3, { wr (.k 2 9) with pos := 4 }] ++ view0.destWrites true 0 2 7 ++ [{ late0 0 with kind := .out 2 5 }] }

def stored : Group := { grp (image 1) with wq := [late0 3, { wr (.k 2 9) with pos := 4 }, wr (.out 2 5)] ++ view0.destWrites false 0 2 7 }

theorem test_witness_writes_queued :
    (let s := inGroup loaded (slotOf 0 (some item0)) elem0 0
     s.group? 0 = some loaded ∧ loaded.wq = [late0 3, { wr (.k 2 9) with pos := 4 }] ++ view0.destWrites true 0 2 7 ++ [{ late0 0 with kind := .out 2 5 }] ∧
       (late0 3).due ≠ 0 ∧ (wr (.k 2 9)).late = false ∧ (late0 0).due = 0) ∧
    (let s := inGroup stored (slotOf 0 (some item0)) elem0 0
     s.group? 0 = some stored ∧ stored.wq = [late0 3, { wr (.k 2 9) with pos := 4 }, wr (.out 2 5)] ++ view0.destWrites false 0 2 7 ∧
       (late0 3).late = true ∧ ((4 : Nat) < 32 ∧ (4 : Nat) ≠ 0)) := by decide +kernel

/-- The result lands in k2 and y; the other entries wait, a cycle nearer or as words of this cycle (R227). -/
theorem test_load_lands : nextIs (exec (.bankLoadWriteback 0) (inGroup loaded (slotOf 0 (some item0)) elem0 0))
    (fun t => someIs (t.group? 0) fun g => g.wq == [late0 2, { wr (.k 2 9) with pos := 4 }, wr (.out 2 5)] && (t.elem g 0 0).y == 7 &&
      tget 0 (t.elem g 0 0).k (physReg 0 2) == 7) = true := by decide +kernel

/-- A block whose feed starts past the scratch carve. -/
def farFeed : State :=
  (inGroup { grp (image 1) with carve := 0 } (slotOf 0 (some item0)) { Elem.reset with y := 0x10000 } 11).updRing 0 fun x =>
    { x with elems := tput x.elems 12 Elem.reset }

theorem test_witness_MatrixWords_far : ∃ w, ({ farFeed with ep := { g := 0, slot := 0, pos := 12 } } : State).view = some w ∧ w.pos = 12 ∧ w.reads = true ∧
    w.grp.blockTop w.v = w.v ∧ w.grp.blockBusy w.v = false ∧ 0 < w.grp.blockSize w.v ∧ (farFeed.slot w.grp (w.gs + 0)).v = some (w.v + 0) ∧
    carveScratch w.grp.carve * 65536 < (farFeed.elem w.grp (w.gs + 0) 11).y.toNat % 2 ^ 24 / 8 * 8 + 2048 := by
  refine ⟨{ gk := 0, grp := { grp (image 1) with carve := 0 }, gs := 0, pos := 12, slot := slotOf 0 (some item0), item := item0, v := 0, el := Elem.reset }, ?_⟩
  decide +kernel

theorem test_witness_LinkChanges : bit (State.reset.link 0 1) 0 ≠ true ∧ bit (State.reset.link 0 1) 1 ≠ true ∧ bit (State.reset.link 2 2) 0 ≠ true ∧
    ((State.reset.die 3).hevt.length < 224) := by decide +kernel

end Sys2Proof.Tests
end

section
/-! What a move of the agenda executes (R62, R203, R248). -/

namespace Sys2Proof.Machine

/-- On a device that has its supply, the agent that stands first on the agenda moves (R429). -/
theorem choose_first {s : State} {a : Act} {rest : List Act} (hp : s.powered = true) (ha : s.agenda = a :: rest) :
    choose s = State.actMove { s with agenda := rest, free := s.free + 1 } a := by
  simp [choose, State.nextAct, ha, hp]

theorem step_of_run {s u : State} {i : Instr} (h : choose s = .run i u) : step s = exec i u := by
  simp [step, h]

theorem step_of_idle {s u : State} (h : choose s = .idle u) : step s = .next u := by
  simp [step, h]

/-- A place whose byte memory delivers is not in the banks of a rail-gated ring (R426). -/
theorem State.railGated_of_placesErr {s : State} {ps : List (Nat × MemAttr)} (h : s.placesErr ps = none) :
    ps.any (fun p => s.railGated p.1) = false := by
  rw [List.any_eq_false]
  intro p hp hg
  have hn : s.placeErr p = none := List.findSome?_eq_none_iff.1 h p hp
  simp [State.placeErr, hg] at hn

/-- A fetch whose bytes memory delivers yields their little-endian word, and counts its transfers (R203, R409). -/
theorem State.fetchWord_of_placesErr {s : State} {t : Thread} (h : s.placesErr (s.fetchPlaces t) = none) :
    s.fetchWord t = (leNat ((s.fetchPlaces t).map fun p => s.byte p.1), s.transfers (s.fetchPlaces t)) := by
  simp [State.fetchWord, h]

/-- Counting transfers stops no thread. -/
@[simp] theorem State.stoppedNow_transfers (s : State) (ps : List (Nat × MemAttr)) : (s.transfers ps).stoppedNow = s.stoppedNow := rfl

/-- A thread that can fetch executes what its four bytes decode to, or takes the illegal-instruction event with the word (R201, R203). -/
theorem State.fetchMove_fetched {s : State} {t : Thread} {w : W32} (hf : s.fetchErr t (s.levelOf t) (s.seqOf t).pc = none)
    (hp : s.placesErr (s.fetchPlaces t) = none) (hs : s.stoppedNow = false)
    (hw : w = BitVec.ofNat 32 (leNat ((s.fetchPlaces t).map fun p => s.byte p.1))) :
    (∀ i, decodeSeq w = .ok i → s.fetchMove t = .run i (s.transfers (s.fetchPlaces t))) ∧
      ∀ e, decodeSeq w = .error e → s.fetchMove t = .run (.illegalInstruction w) (s.transfers (s.fetchPlaces t)) := by
  have hgo : ¬ ((s.transfers (s.fetchPlaces t)).stoppedNow = true ∨ (s.fetchPlaces t).any (fun p => s.railGated p.1) = true) := by
    simp only [State.stoppedNow_transfers, hs, State.railGated_of_placesErr hp]
    decide
  constructor <;> intro _ hdec <;>
    simp only [State.fetchMove, hf, State.fetchWord_of_placesErr hp, if_neg hgo, ← hw, hdec]

/-- A thread that is neither still nor waiting and takes no interrupt first fetches (R323, R328, R331). -/
theorem State.threadMove_takesNext (s : State) (t : Thread) (h : State.takesNext { s with cur := t } t) :
    s.threadMove t = State.fetchMove { s with cur := t } t := by
  cases t with
  | ring r =>
    obtain ⟨hstill, hwfi, hcap, hint⟩ := h
    simp [State.threadMove, hstill, hwfi, hcap, hint]
  | core d =>
    obtain ⟨hd, hstop, hwait, hint⟩ := h
    have hd' : ¬ 4 ≤ d := by omega
    simp [State.threadMove, hstop, hwait, hint, hd']

/-- The turn of an element in a slot that holds an item executes its word of the cycle's context (R37, R38). -/
theorem State.elemMove_word {s : State} {gk : Nat} {g : Group} (hst : g.started = true) (hc : g.cursor < 33 * s.plen g)
    (hj : g.cursor % 33 ≠ 13) (hi : (s.slot g (g.cursor / 33)).item.isSome = true) :
    let pos := if g.cursor % 33 < 13 then g.cursor % 33 else g.cursor % 33 - 1
    s.elemMove gk g = (some (s.wordAt g (g.cursor / 33) pos),
      { s.setGroup gk { g with cursor := g.cursor + 1 } with ep := { g := gk, slot := g.cursor / 33, pos := pos } }) := by
  have hlt : ¬ (33 * s.plen g ≤ g.cursor) := by omega
  have hnone : (s.slot g (g.cursor / 33)).item.isNone = false := by
    rw [← Option.not_isSome, hi]; rfl
  simp [State.elemMove, hst, hlt, hj, hnone]

/-- A group that runs gives the part of its cycle that executes context words to its elements (R62). -/
theorem State.fabricMove_elems {s : State} {gk : Nat} {g : Group} (hg : s.group? gk = some g) (hh : s.groupHeld g = false)
    (hd : g.draining = false) (hm : g.mark = none) (hst : g.stage = .elems) : s.fabricMove gk = s.elemMove gk g := by
  simp [State.fabricMove, hg, hh, hd, hm, hst]

/-- A thread that stands first on the agenda and takes its next instruction fetches it (R203). -/
theorem choose_thread {s : State} {t : Thread} {rest : List Act} (hp : s.powered = true) (ha : s.agenda = .thread t :: rest)
    (hn : (s.turnOf t).takesNext t) : choose s = (s.turnOf t).fetchMove t := by
  rw [choose_first hp ha]
  have hturn : s.turnOf t = { s with agenda := rest, free := s.free + 1, cur := t } := by simp [State.turnOf, ha]
  rw [hturn] at hn ⊢
  exact State.threadMove_takesNext _ t hn

theorem choose_fabric_some {s u : State} {gk : Nat} {rest : List Act} {i : Instr} (hp : s.powered = true)
    (ha : s.agenda = .fabric gk :: rest) (h : State.fabricMove { s with agenda := rest, free := s.free + 1 } gk = (some i, u)) :
    choose s = .run i u := by
  simp [choose_first hp ha, State.actMove, h]

theorem choose_fabric_none {s u : State} {gk : Nat} {rest : List Act} (hp : s.powered = true)
    (ha : s.agenda = .fabric gk :: rest) (h : State.fabricMove { s with agenda := rest, free := s.free + 1 } gk = (none, u)) :
    choose s = .idle u := by
  simp [choose_first hp ha, State.actMove, h]

/-- Settles O7: the agent that stands first on the agenda moves, and its move is a fetched word, an element's word, or what fabricMove names. -/
theorem stepRunsDecoded : Obligations.StepRunsDecoded := by
  unfold Obligations.StepRunsDecoded
  refine ⟨?_, ?_, ?_⟩
  · intro s t rest w hp ha hn hf hpl hw hs u
    have hmove := choose_thread hp ha hn
    obtain ⟨hok, herr⟩ := State.fetchMove_fetched hf hpl hs hw
    exact ⟨fun i hi => step_of_run (hmove.trans (hok i hi)), fun e he => step_of_run (hmove.trans (herr e he))⟩
  · intro s gk rest g hp ha hg u j pos hst hstart hd hm hh hc hj hi
    have hmove : u.fabricMove gk = u.elemMove gk g := State.fabricMove_elems hg hh hd hm hst
    exact step_of_run (choose_fabric_some hp ha (hmove.trans (State.elemMove_word hstart hc hj hi)))
  · intro s gk rest hp ha u
    exact ⟨fun i u' h => step_of_run (choose_fabric_some hp ha h), fun u' h => step_of_idle (choose_fabric_none hp ha h)⟩

end Sys2Proof.Machine
end

section
/-! The slots and elements of a group: where they lie, and what a write of one leaves of the others (R19, R20, R35). -/

namespace Sys2Proof.Machine

theorem State.setSlot_eq (s : State) (g : Group) (gs : Nat) (x : Slot) :
    s.setSlot g gs x = s.updRing (s.slotPlace g gs).1 fun q => { q with slots := tput q.slots (s.slotPlace g gs).2 x } := rfl

theorem State.setElem_eq (s : State) (g : Group) (gs p : Nat) (x : Elem) :
    s.setElem g gs p x = s.updRing (s.slotPlace g gs).1 fun q => { q with elems := tput q.elems (32 * (s.slotPlace g gs).2 + p) x } := rfl

theorem State.slot_eq (s : State) (g : Group) (gs : Nat) :
    s.slot g gs = tget Slot.reset (s.ring (s.slotPlace g gs).1).slots (s.slotPlace g gs).2 := rfl

theorem State.elem_eq (s : State) (g : Group) (gs p : Nat) :
    s.elem g gs p = tget Elem.reset (s.ring (s.slotPlace g gs).1).elems (32 * (s.slotPlace g gs).2 + p) := rfl

/-- The slot counts of the rings alone place a group slot (R35). -/
theorem State.slotPlace_congr {s t : State} (h : ∀ r, (t.ring r).ringp = (s.ring r).ringp) (g : Group) (gs : Nat) :
    t.slotPlace g gs = s.slotPlace g gs := by
  simp [State.slotPlace, State.slotCounts, h]

theorem State.ringp_updRing (s : State) (r : Nat) (f : Ring → Ring) (h : (f (s.ring r)).ringp = (s.ring r).ringp) (n : Nat) :
    ((s.updRing r f).ring n).ringp = (s.ring n).ringp := by
  by_cases hn : n = r
  · rw [hn, State.ring_updRing_same, h]
  · rw [State.ring_updRing_ne s f hn]

@[simp] theorem State.slotPlace_setSlot (s : State) (g h : Group) (gs n : Nat) (x : Slot) :
    (s.setSlot g gs x).slotPlace h n = s.slotPlace h n :=
  State.slotPlace_congr (State.ringp_updRing s _ _ rfl) h n

@[simp] theorem State.slotPlace_setElem (s : State) (g h : Group) (gs p n : Nat) (x : Elem) :
    (s.setElem g gs p x).slotPlace h n = s.slotPlace h n :=
  State.slotPlace_congr (State.ringp_updRing s _ _ rfl) h n

@[simp] theorem State.slotPlace_setGroup (s : State) (g : Group) (gk gs : Nat) (x : Group) :
    (s.setGroup gk x).slotPlace g gs = s.slotPlace g gs := rfl

@[simp] theorem State.slot_setGroup (s : State) (g : Group) (gk gs : Nat) (x : Group) : (s.setGroup gk x).slot g gs = s.slot g gs := rfl

@[simp] theorem State.elem_setGroup (s : State) (g : Group) (gk gs p : Nat) (x : Group) :
    (s.setGroup gk x).elem g gs p = s.elem g gs p := rfl

@[simp] theorem State.byte_setSlot (s : State) (g : Group) (gs k : Nat) (x : Slot) : (s.setSlot g gs x).byte k = s.byte k := rfl

@[simp] theorem State.slot_setSlot_same (s : State) (g : Group) (gs : Nat) (x : Slot) : (s.setSlot g gs x).slot g gs = x := by
  rw [State.slot_eq, State.slotPlace_setSlot, State.setSlot_eq, State.ring_updRing_same]
  exact tget_tput_same _ _ _ _

/-- The elements of a slot have 32 consecutive numbers in their ring, so that a write of one element is read at its place and position only (R20). -/
theorem State.elem_setElem (s : State) (g : Group) {gs p n q : Nat} (x : Elem) (hp : p < 32) (hq : q < 32) :
    (s.setElem g gs p x).elem g n q = if s.slotPlace g n = s.slotPlace g gs ∧ q = p then x else s.elem g n q := by
  rw [State.elem_eq, State.slotPlace_setElem, State.setElem_eq]
  by_cases hr : (s.slotPlace g n).1 = (s.slotPlace g gs).1
  · have hkey : 32 * (s.slotPlace g n).2 + q = 32 * (s.slotPlace g gs).2 + p ↔ s.slotPlace g n = s.slotPlace g gs ∧ q = p := by
      rw [Prod.ext_iff]; omega
    rw [hr, State.ring_updRing_same, tget_tput, State.elem_eq, hr]
    simp only [hkey]
  · rw [State.ring_updRing_ne s _ hr, if_neg fun h => hr (congrArg Prod.fst h.1), State.elem_eq]

theorem State.elem_setElem_same (s : State) (g : Group) {gs p : Nat} (x : Elem) (hp : p < 32) : (s.setElem g gs p x).elem g gs p = x := by
  rw [State.elem_setElem s g x hp hp, if_pos ⟨rfl, rfl⟩]

/-- A state that differs from another in elements alone. -/
structure OnlyElems (s t : State) : Prop where
  rest : t = { s with rings := t.rings }
  ring : ∀ r, t.ring r = { s.ring r with elems := (t.ring r).elems }

namespace OnlyElems

variable {s t u : State}

theorem refl (s : State) : OnlyElems s s := ⟨rfl, fun _ => rfl⟩

theorem trans (h : OnlyElems s t) (k : OnlyElems t u) : OnlyElems s u := by
  refine ⟨?_, fun r => ?_⟩
  · rw [k.rest, h.rest]
  · rw [k.ring r, h.ring r]

theorem setElem (s : State) (g : Group) (gs p : Nat) (x : Elem) : OnlyElems s (s.setElem g gs p x) := by
  refine ⟨rfl, fun r => ?_⟩
  rw [State.setElem_eq]
  by_cases hr : r = (s.slotPlace g gs).1
  · rw [hr, State.ring_updRing_same]
  · rw [State.ring_updRing_ne s _ hr]

/-- Steps that change elements alone do so together. -/
theorem foldl {α : Type} {f : State → α → State} (hf : ∀ st a, OnlyElems st (f st a)) (l : List α) (s : State) :
    OnlyElems s (l.foldl f s) :=
  List.foldlRecOn l f (refl s) fun st hst a _ => hst.trans (hf st a)

theorem slotPlace (h : OnlyElems s t) (g : Group) (gs : Nat) : t.slotPlace g gs = s.slotPlace g gs :=
  State.slotPlace_congr (fun r => by rw [h.ring r]) g gs

theorem slot (h : OnlyElems s t) (g : Group) (gs : Nat) : t.slot g gs = s.slot g gs := by
  rw [State.slot_eq, State.slot_eq, h.slotPlace, h.ring]

theorem group (h : OnlyElems s t) (gk : Nat) : t.group? gk = s.group? gk := by rw [h.rest]; rfl

theorem byte (h : OnlyElems s t) (k : Nat) : t.byte k = s.byte k := by rw [h.rest]; rfl

end OnlyElems

end Sys2Proof.Machine
end

section
/-! The scroll controller: what a slot switch and a block of each job leave in the slot (R41, R42, R46 to R51). -/

namespace Sys2Proof.Machine

/-- The values that a stripe starts with enter elements alone (R42, R68). -/
theorem State.enterStripe_onlyElems (s : State) (g : Group) (gs bank : Nat) (record : Option (StripeImg × List Byte)) :
    OnlyElems s (s.enterStripe g gs bank record) := by
  unfold State.enterStripe
  refine OnlyElems.foldl (fun st p => ?_) _ s
  dsimp only
  split <;> exact OnlyElems.setElem _ _ _ _ _

/-- The slot as its switch from stripe v to stripe n leaves it: in its other bank, with an empty shadow (R41, R51). -/
def Slot.switched (sl : Slot) (g : Group) (p v n : Nat) : Slot :=
  { sl with v := some n, st := .run, blocks := 0, shadow := .free, next := g.nextAfter p v n, bank := !sl.bank,
            sweep := if v < n then sl.sweep else sl.sweep + 1, left := 0 }

/-- A switch changes its slot, and elements (R41, R42). -/
theorem State.changeStripe_onlyElems {s : State} {gk gs v n : Nat} {g : Group} (hg : s.group? gk = some g)
    (hv : (s.slot g gs).v = some v) (hn : (s.slot g gs).next = some n) :
    OnlyElems (s.setSlot g gs ((s.slot g gs).switched g (s.plen g) v n)) (s.changeStripe gk gs) := by
  simp only [State.changeStripe, hg, hv, hn]
  exact State.enterStripe_onlyElems _ _ _ _ _

theorem State.slot_changeStripe {s : State} {gk gs v n : Nat} {g : Group} (hg : s.group? gk = some g)
    (hv : (s.slot g gs).v = some v) (hn : (s.slot g gs).next = some n) :
    (s.changeStripe gk gs).slot g gs = (s.slot g gs).switched g (s.plen g) v n := by
  rw [(State.changeStripe_onlyElems hg hv hn).slot, State.slot_setSlot_same]

theorem State.byte_changeStripe {s : State} {gk gs v n : Nat} {g : Group} (hg : s.group? gk = some g)
    (hv : (s.slot g gs).v = some v) (hn : (s.slot g gs).next = some n) (k : Nat) : (s.changeStripe gk gs).byte k = s.byte k := by
  rw [(State.changeStripe_onlyElems hg hv hn).byte, State.byte_setSlot]

/-- The lowest slot that is ready switches, and an item that has reached it begins its item time there (R41, R43). -/
theorem State.slotSwitch_ready {s : State} {r gk gs : Nat} {g : Group} (hr : (s.ring r).group = some gk) (hg : s.group? gk = some g)
    (hf : ((s.slotsOf g r).find? fun gs => decide ((s.slot g gs).st = .after) && decide ((s.slot g gs).shadow = .ready)) = some gs) :
    s.slotSwitch r = (match (s.slot g gs).item with
      | none => s.changeStripe gk gs
      | some it => (s.changeStripe gk gs).enterItem gk gs (some it)).applyMarks gk := by
  cases hi : (s.slot g gs).item <;> simp [State.slotSwitch, hr, hg, hf, State.switchSlot, hi]

theorem State.slotSwitch_none {s : State} {r gk : Nat} {g : Group} (hr : (s.ring r).group = some gk) (hg : s.group? gk = some g)
    (hf : ((s.slotsOf g r).find? fun gs => decide ((s.slot g gs).st = .after) && decide ((s.slot g gs).shadow = .ready)) = none) :
    s.slotSwitch r = s := by
  simp [State.slotSwitch, hr, hg, hf]

/-- A load counts its block, and with the last one the shadow is ready (R46, R51). -/
theorem State.shadow_serveJob_load {s : State} {g : Group} {j : Job} {v : Nat} (hk : j.kind = .load)
    (hn : (s.slot g j.gs).next = some v) :
    ((s.serveJob g j).slot g j.gs).shadow =
      (let k := match (s.slot g j.gs).shadow with
        | .fill n => n
        | .free => 0
        | .ready => 0
      if k + 1 < g.imgBlocks v then .fill (k + 1) else .ready) := by
  simp only [State.serveJob, hk, hn]
  exact congrArg Slot.shadow (State.slot_setSlot_same _ _ _ _)

/-- A restore counts its block, and with the last one the slot is ready for its switch (R48, R50). -/
theorem State.serveJob_restore {s : State} {g : Group} {j : Job} {v : Nat} {im : StripeImg} (hk : j.kind = .restore)
    (hn : (s.slot g j.gs).next = some v) (him : g.stripe? v = some im) :
    s.serveJob g j = s.setSlot g j.gs { s.slot g j.gs with
      blocks := if im.z ≤ (s.slot g j.gs).blocks + 1 then 0 else (s.slot g j.gs).blocks + 1,
      st := if im.z ≤ (s.slot g j.gs).blocks + 1 then .after else .restore } := by
  simp [State.serveJob, hk, hn, him]

/-- A save writes its 64 bytes of the record to the save carve; with the last one the slot is ready for what its next stripe needs (R48, R49, R50). -/
theorem State.serveJob_save {s : State} {g : Group} {j : Job} {v : Nat} {im : StripeImg} (hk : j.kind = .save)
    (hv : (s.slot g j.gs).v = some v) (him : g.stripe? v = some im) :
    s.serveJob g j =
      (s.putBytes (poolKey g.first (saveBase g.carve) + g.recOff v + 64 * (s.slot g j.gs).blocks)
        (slice (s.slotRecord g j.gs im (if (s.slot g j.gs).bank then 1 else 0)) (64 * (s.slot g j.gs).blocks) 64)).setSlot g j.gs
        { s.slot g j.gs with
          blocks := if im.z ≤ (s.slot g j.gs).blocks + 1 then 0 else (s.slot g j.gs).blocks + 1,
          st := if im.z ≤ (s.slot g j.gs).blocks + 1 then
              (if ((s.slot g j.gs).next.map g.stateful).getD false then .restore else .after) else .save } := by
  by_cases hz : im.z ≤ (s.slot g j.gs).blocks + 1 <;> simp [State.serveJob, hk, hv, him, hz]

/-- A ring's SCR serves the job that stands next (R46). -/
theorem State.scrStep_job {s : State} {r gk : Nat} {g : Group} {j : Job} (hr : (s.ring r).group = some gk)
    (hg : s.group? gk = some g) (hj : s.nextJob g r = some j) : s.scrStep r = s.serveJob g j := by
  simp [State.scrStep, hr, hg, hj]

end Sys2Proof.Machine
end

section
/-! Bank results land in their elements, and leave the queue (R227). -/

namespace Sys2Proof.Machine

/-- A bank result whose four cycles are over enters its element; every other queued write waits (R227). -/
def State.landOne (g : Group) (st : State) (e : Wr) : State :=
  if !e.late ∨ e.due ≠ 0 then st
  else
    match e.kind with
    | .y v => st.setElem g e.slot e.pos { st.elem g e.slot e.pos with y := v }
    | .k n v => st.setElem g e.slot e.pos { st.elem g e.slot e.pos with k := tset 0 (st.elem g e.slot e.pos).k n v }
    | .q _ _ => st
    | .out _ _ => st

/-- What a queued write becomes as bank results land: one that waits, or a word of this cycle for a port (R227). -/
def Wr.afterLanding (e : Wr) : Option Wr :=
  if !e.late then some e
  else if e.due ≠ 0 then some { e with due := e.due - 1 }
  else match e.kind with
    | .out _ _ => some { e with late := false }
    | .y _ => none
    | .k _ _ => none
    | .q _ _ => none

theorem Wr.afterLanding_eq : Wr.afterLanding = fun e =>
    if e.late = false then some e
    else if e.due ≠ 0 then some { e with due := e.due - 1 }
    else match e.kind with
      | .out _ _ => some { e with late := false }
      | .y _ => none
      | .k _ _ => none
      | .q _ _ => none := by
  funext e
  cases hl : e.late <;> simp [Wr.afterLanding, hl]

theorem State.landOne_onlyElems (g : Group) (st : State) (e : Wr) : OnlyElems st (st.landOne g e) := by
  unfold State.landOne
  split
  · exact OnlyElems.refl st
  · split
    · exact OnlyElems.setElem _ _ _ _ _
    · exact OnlyElems.setElem _ _ _ _ _
    · exact OnlyElems.refl st
    · exact OnlyElems.refl st

/-- Bank results land one after another, in the order of the queue (R227). -/
theorem State.landLoads_eq {s : State} {gk : Nat} {g : Group} (hg : s.group? gk = some g) :
    s.landLoads gk = (g.wq.foldl (State.landOne g) s).setGroup gk { g with wq := g.wq.filterMap Wr.afterLanding } := by
  have hg1 : (g.wq.foldl (State.landOne g) s).group? gk = some g := by
    rw [(OnlyElems.foldl (State.landOne_onlyElems g) g.wq s).group, hg]
  unfold State.landLoads
  rw [hg]
  change (match (g.wq.foldl (State.landOne g) s).group? gk with
    | some g1 => (g.wq.foldl (State.landOne g) s).setGroup gk { g1 with wq := g.wq.filterMap Wr.afterLanding }
    | none => g.wq.foldl (State.landOne g) s) = _
  rw [hg1]

/-- A queued write does not change the element at a position of a slot as bank results land: it waits, is bound for a port, or is another element's. -/
def Wr.Spares (s : State) (g : Group) (gs p : Nat) (e : Wr) : Prop :=
  e.late = false ∨ e.due ≠ 0 ∨ (∃ key x, e.kind = .out key x) ∨ (e.pos < 32 ∧ (e.pos ≠ p ∨ s.slotPlace g e.slot ≠ s.slotPlace g gs))

theorem State.elem_landOne_spared {s : State} {g : Group} {gs p : Nat} {e : Wr} (hp : p < 32) (h : e.Spares s g gs p) :
    (s.landOne g e).elem g gs p = s.elem g gs p := by
  have hset : ∀ x, e.pos < 32 ∧ (e.pos ≠ p ∨ s.slotPlace g e.slot ≠ s.slotPlace g gs) →
      (s.setElem g e.slot e.pos x).elem g gs p = s.elem g gs p := by
    intro x hx
    rw [State.elem_setElem s g x hx.1 hp, if_neg]
    rintro ⟨h1, h2⟩
    exact hx.2.elim (fun h => h h2.symm) (fun h => h h1.symm)
  unfold State.landOne
  split
  · rfl
  · next hlands =>
    rcases h with h | h | ⟨key, x, h⟩ | h
    · exact absurd (.inl (by rw [h]; rfl)) hlands
    · exact absurd (.inr h) hlands
    · rw [h]
    · split
      · exact hset _ h
      · exact hset _ h
      · rfl
      · rfl

theorem State.elem_land_spared {g : Group} {gs p : Nat} (hp : p < 32) (l : List Wr) (s : State) (h : ∀ e ∈ l, e.Spares s g gs p) :
    (l.foldl (State.landOne g) s).elem g gs p = s.elem g gs p := by
  induction l generalizing s with
  | nil => rfl
  | cons e l ih =>
    have hsame : ∀ n, (s.landOne g e).slotPlace g n = s.slotPlace g n := (State.landOne_onlyElems g s e).slotPlace g
    rw [List.foldl_cons, ih, State.elem_landOne_spared hp (h e (by simp))]
    intro e' he'
    simpa only [Wr.Spares, hsame] using h e' (by simp [he'])

/-- A value for d lands in y, and where d names a register in that register too (R73, R227). -/
theorem State.elem_land_destWrites (s : State) (g : Group) (w : View) (d : BitVec 5) (v : W32) (hp : w.pos < 32) :
    ((w.destWrites true 0 d v).foldl (State.landOne g) s).elem g w.gs w.pos = { s.elem g w.gs w.pos with
      y := v, k := if d.toNat < 16 then tset 0 (s.elem g w.gs w.pos).k (physReg w.el.base d.toNat) v else (s.elem g w.gs w.pos).k } := by
  unfold View.destWrites
  split
  · simp [State.landOne, State.elem_setElem_same _ _ _ hp]
  · split
    · split <;> simp [State.landOne, State.elem_setElem_same _ _ _ hp]
    · simp [State.landOne, State.elem_setElem_same _ _ _ hp]

/-- A result lands as it does alone, where the rest of the queue spares its element (R227). -/
theorem State.elem_land_result (s : State) (g : Group) (w : View) (d : BitVec 5) (v : W32) {l q : List Wr} (hp : w.pos < 32)
    (h : ∀ e ∈ l ++ q, e.Spares s g w.gs w.pos) :
    ((l ++ w.destWrites true 0 d v ++ q).foldl (State.landOne g) s).elem g w.gs w.pos = { s.elem g w.gs w.pos with
      y := v, k := if d.toNat < 16 then tset 0 (s.elem g w.gs w.pos).k (physReg w.el.base d.toNat) v else (s.elem g w.gs w.pos).k } := by
  have hl : ∀ e ∈ l, e.Spares s g w.gs w.pos := fun e he => h e (List.mem_append_left q he)
  have hplace := (OnlyElems.foldl (State.landOne_onlyElems g) (l ++ w.destWrites true 0 d v) s).slotPlace g
  have hq : ∀ e ∈ q, e.Spares ((l ++ w.destWrites true 0 d v).foldl (State.landOne g) s) g w.gs w.pos := fun e he => by
    simpa only [Wr.Spares, hplace] using h e (List.mem_append_right l he)
  rw [List.foldl_append, State.elem_land_spared hp q _ hq, List.foldl_append, State.elem_land_destWrites _ _ _ _ _ hp,
    State.elem_land_spared hp l s hl]

end Sys2Proof.Machine
end

section
/-! A drained row of a matrix block, and its empty bank (R237). -/

namespace Sys2Proof.Machine

/-- Filling a bank of accumulators leaves what lies below it. -/
theorem tget_setAcc_below (k : Nat) (l : List W32) (acc : Tab W32) {n i : Nat} (h : i < 64 * k + n) :
    tget 0 (setAcc k acc n l) i = tget 0 acc i := by
  induction l generalizing acc n with
  | nil => rfl
  | cons v l ih => rw [setAcc, ih _ (by omega), tget_tset_ne _ _ _ (by omega)]

theorem tget_setAcc_zeros (k m : Nat) (acc : Tab W32) {n i : Nat} (h : n ≤ i) (hi : i < n + m) :
    tget 0 (setAcc k acc n (List.replicate m 0)) (64 * k + i) = 0 := by
  induction m generalizing acc n with
  | zero => omega
  | succ m ih =>
    rw [List.replicate_succ, setAcc]
    by_cases hn : i = n
    · rw [hn, tget_setAcc_below _ _ _ (by omega), tget_tset_same]
    · exact ih _ (by omega) (by omega)

/-- The bank of a run's accumulators is empty in an element. -/
def BlockRun.Empty (r : BlockRun) (e : Elem) : Prop := ∀ k, k < 64 → tget 0 e.acc (64 * r.acc + k) = 0

/-- An element with the bank of a run emptied (R237). -/
def BlockRun.emptied (r : BlockRun) (e : Elem) : Elem :=
  { e with acc := setAcc r.acc e.acc 0 (List.replicate 64 0), tag := tset 0 e.tag r.acc 0, exp := tset 0 e.exp r.acc 0 }

theorem BlockRun.empty_emptied (r : BlockRun) (e : Elem) : r.Empty (r.emptied e) := by
  intro k hk
  simp only [BlockRun.emptied]
  exact tget_setAcc_zeros r.acc 64 e.acc (Nat.zero_le k) (by omega)

/-- ME n of a run empties the run's bank after the last drained row (R237). -/
def State.emptyBank (g : Group) (r : BlockRun) (st : State) (n : Nat) : State :=
  st.setElem g (r.slot + n / 8) (12 + n % 8) (r.emptied (st.elem g (r.slot + n / 8) (12 + n % 8)))

theorem State.emptyBank_onlyElems (g : Group) (r : BlockRun) (st : State) (n : Nat) : OnlyElems st (st.emptyBank g r n) :=
  OnlyElems.setElem _ _ _ _ _

/-- A step that empties a bank empties it in its own element, and leaves it empty where it is. -/
theorem State.emptyBank_empty {g : Group} {r : BlockRun} {st : State} {n gs p : Nat} (hp : p < 32)
    (h : (gs = r.slot + n / 8 ∧ p = 12 + n % 8) ∨ r.Empty (st.elem g gs p)) : r.Empty ((st.emptyBank g r n).elem g gs p) := by
  rw [State.emptyBank, State.elem_setElem st g _ (by omega) hp]
  split
  · exact r.empty_emptied _
  · next hne =>
    rcases h with ⟨rfl, rfl⟩ | h
    · exact absurd ⟨rfl, rfl⟩ hne
    · exact h

/-- Where one of the steps empties a bank, or it is empty before them, it is empty after them. -/
theorem State.emptyBanks_empty (g : Group) (r : BlockRun) {gs p : Nat} (hp : p < 32) (l : List Nat) (st : State)
    (h : (∃ n ∈ l, gs = r.slot + n / 8 ∧ p = 12 + n % 8) ∨ r.Empty (st.elem g gs p)) :
    r.Empty ((l.foldl (State.emptyBank g r) st).elem g gs p) := by
  induction l generalizing st with
  | nil => simpa using h
  | cons n l ih =>
    refine ih _ ?_
    rcases h with ⟨m, hm, hplace⟩ | h
    · rcases List.mem_cons.1 hm with rfl | hm
      · exact .inr (State.emptyBank_empty hp (.inl hplace))
      · exact .inl ⟨m, hm, hplace⟩
    · exact .inr (State.emptyBank_empty hp (.inr h))

/-- A block that drains a row has a stripe. -/
theorem BlockRun.size_pos_of_row {r : BlockRun} {row : Nat} (h : r.row? = some row) : 0 < r.size := by
  unfold BlockRun.row? at h
  split at h
  · omega
  · cases h

/-- The writes of a drained row: of this cycle, by the MEs of the bottom stripe, for the run's item (R237). -/
def Wr.OfRow (r : BlockRun) (e : Wr) : Prop :=
  e.late = false ∧ e.due = 0 ∧ e.slot + 1 = r.slot + r.size ∧ e.item = r.item ∧ 12 ≤ e.pos ∧ e.pos < 20

/-- A drain queues the writes of its row, and after the last row empties the bank (R237). -/
theorem State.drainRow_row {s : State} {gk i row : Nat} {g : Group} {r : BlockRun} (hg : s.group? gk = some g)
    (hr : g.blocks[i]? = some r) (hrow : r.row? = some row) :
    ∃ ws, (∀ e ∈ ws, e.OfRow r) ∧ s.drainRow gk i =
      if row + 1 = 8 * r.size then (List.range (8 * r.size)).foldl (State.emptyBank g r) (s.setGroup gk { g with wq := ws ++ g.wq })
      else s.setGroup gk { g with wq := ws ++ g.wq } := by
  have hsize := BlockRun.size_pos_of_row hrow
  unfold State.drainRow
  simp only [hg, hr, hrow]
  refine ⟨_, ?_, rfl⟩
  intro e he
  simp only [List.mem_flatten, List.mem_map, List.mem_range] at he
  obtain ⟨l, ⟨j, hj, rfl⟩, he⟩ := he
  obtain ⟨k, -, rfl⟩ := List.mem_map.1 he
  refine ⟨rfl, rfl, ?_, rfl, ?_, ?_⟩
  · change r.slot + r.size - 1 + 1 = _
    omega
  · exact Nat.le_add_right 12 j
  · change 12 + j < 20
    omega

end Sys2Proof.Machine
end

section
/-! The four events of a group's cycle (R41, R46, R227, R237). -/

namespace Sys2Proof.Machine

/-- Settles O51: a switch and a job block leave what the scroll controller's laws say of the slot; results and rows change elements alone besides the queue. -/
theorem fabricEvents : Obligations.FabricEvents := by
  unfold Obligations.FabricEvents
  refine ⟨?_, ?_, ?_, ?_, ?_⟩
  · intro s r gk g gs v n hr hg hf hv hn t
    have hslot : t.slot g gs = (s.slot g gs).switched g (s.plen g) v n := State.slot_changeStripe hg hv hn
    rw [hslot]
    refine ⟨congrArg Host.Outcome.next (State.slotSwitch_ready hr hg hf), rfl, rfl, rfl, rfl, rfl, State.byte_changeStripe hg hv hn⟩
  · intro s r gk g hr hg hf
    exact congrArg Host.Outcome.next (State.slotSwitch_none hr hg hf)
  · intro s r gk g j hr hg hj
    refine ⟨s.serveJob g j, congrArg Host.Outcome.next (State.scrStep_job hr hg hj), rfl, ?_, ?_, ?_⟩
    · exact fun v im hk hn him => State.serveJob_restore hk hn him
    · exact fun v hk hn => State.shadow_serveJob_load hk hn
    · exact fun v im hk hv him => State.serveJob_save hk hv him
  · intro s gk g hg away
    have hland := OnlyElems.foldl (State.landOne_onlyElems g) g.wq s
    refine ⟨s.landLoads gk, rfl, ?_⟩
    rw [State.landLoads_eq hg, Wr.afterLanding_eq]
    refine ⟨State.group_setGroup_same _ _ _, ?_, ?_, fun k => hland.byte k⟩
    · intro w l q d v hq hp haway
      rw [State.elem_setGroup, hq]
      exact State.elem_land_result s g w d v hp haway
    · intro gs p hp haway
      rw [State.elem_setGroup, State.elem_land_spared hp g.wq s haway]
  · intro s gk g i r row hg hr hrow
    obtain ⟨ws, hws, hdrain⟩ := State.drainRow_row hg hr hrow
    have hset := State.group_setGroup_same s gk { g with wq := ws ++ g.wq }
    refine ⟨s.drainRow gk i, ws, rfl, ?_, hws, ?_, ?_⟩
    · rw [hdrain]
      split
      · rw [(OnlyElems.foldl (State.emptyBank_onlyElems g r) _ _).group, hset]
      · exact hset
    · intro hrest
      rw [hdrain, if_neg hrest]
    · intro hlast n k hn hk
      rw [hdrain, if_pos hlast]
      exact State.emptyBanks_empty g r (by omega) _ _ (.inl ⟨n, List.mem_range.2 hn, rfl, rfl⟩) k hk

end Sys2Proof.Machine
end

section
/-! A context word in an element that holds an item (R63, R210). -/

namespace Sys2Proof.Machine

/-- Behind a true gate a word runs its body (R63, R210). -/
theorem veWord_open {g : BitVec 2} {s : State} {w : View} (hv : s.view = some w) (hg : gateOpen w.el.q g = true) (srcs : List (BitVec 5))
    (body : Ops → State → State) : veWord g srcs body s = veBody srcs body w s := by
  simp only [veWord, hv, hg, if_true]

/-- The body of a word sees the element itself, so that only what it does there counts. -/
theorem veBody_congr {srcs : List (BitVec 5)} {body body' : Ops → State → State} {w : View} (s : State)
    (h : ∀ get st, body { w := w, get := get } st = body' { w := w, get := get } st) : veBody srcs body w s = veBody srcs body' w s := by
  simp only [veBody, h]

/-- A predicate word without operands to read queues its value for q[i] (R218, R229, R241). -/
theorem veFlag_nil {g : BitVec 2} {s : State} {w : View} (hv : s.view = some w) (hg : gateOpen w.el.q g = true) (i : Nat) (f : Ops → Bool) :
    veFlag g [] i f s = w.queue false 0 (.q i (f { w := w, get := w.src s 0 })) s := by
  rw [veFlag, veWord_open hv hg]
  rfl

/-- A word without operands to read queues its value for d and y (R73, R229). -/
theorem veValue_nil {g : BitVec 2} {s : State} {w : View} (hv : s.view = some w) (hg : gateOpen w.el.q g = true) (d : BitVec 5) (f : Ops → W32) :
    veValue g [] d f s = w.writeDest false 0 d (f { w := w, get := w.src s 0 }) s := by
  rw [veValue, veWord_open hv hg]
  rfl

/-- The eight functions of plog (R218). -/
theorem plogFlag_eq : ∀ (f : BitVec 3) (p z : Bool), plogFlag f.toNat p z =
    if f = 0 then p && z else if f = 1 then p || z else if f = 2 then p != z else if f = 3 then p && !z
      else if f = 4 then p || !z else if f = 5 then !(p && z) else if f = 6 then !(p || z) else !(p != z) := by
  decide

/-- The bound input port of an element is the group's port under its key (R187). -/
theorem View.inPort_eq {w : View} {key : Nat} {p : Port} (hk : w.inKey = some key) (hp : tfind w.grp.ports key = some p) :
    w.inPort = some p := by
  simp only [View.inPort, hk, hp]

end Sys2Proof.Machine
end

section
/-! Predicate logic, selection, gates and steers (R218, R219, R241, R242). -/

namespace Sys2Proof.Machine

/-- Settles O44: each word runs its body behind a true gate, a steer always; plog's functions are R218's table. -/
theorem predicateWords : Obligations.PredicateWords := by
  unfold Obligations.PredicateWords
  refine ⟨?_, ?_, ?_, ?_⟩
  · intro f a b q g s w hv hg p z v
    refine congrArg Host.Outcome.next ((veFlag_nil hv hg q.toNat _).trans ?_)
    rw [plogFlag_eq]
  · intro p a b d g s w hv hg
    exact congrArg Host.Outcome.next ((veWord_open hv hg [a, b] _).trans (veBody_congr s fun _ _ => rfl))
  · intro q g s w hv hg
    exact congrArg Host.Outcome.next (veFlag_nil hv hg q.toNat _)
  · intro a q s w hv
    exact congrArg Host.Outcome.next ((veWord_open hv rfl [a] _).trans (veBody_congr s fun _ _ => rfl))

end Sys2Proof.Machine
end

section
/-! The words of R229 at an element's bound ports. -/

namespace Sys2Proof.Machine

/-- Settles O48: each word runs its body behind a true gate, at the port that the element's portmap binds. -/
theorem portWords : Obligations.PortWords := by
  unfold Obligations.PortWords
  refine ⟨?_, ?_, ?_, ?_⟩
  · intro a b d g s w key hv hg hkey
    refine congrArg Host.Outcome.next ((veWord_open hv hg [a] _).trans (veBody_congr s fun get st => ?_))
    simp only [hkey]
  · intro a b d g s w hv hg
    exact congrArg Host.Outcome.next (veWord_open hv hg [a] _)
  · intro a b d g s w key p hv hg hkey hp
    refine congrArg Host.Outcome.next ((veValue_nil hv hg d _).trans ?_)
    simp only [View.inPort_eq hkey hp]
  · intro a b q g s w key p hv hg hkey hp
    refine congrArg Host.Outcome.next ((veFlag_nil hv hg q.toNat _).trans ?_)
    have hheld : (p.heldAt == 0) = decide (p.heldAt = 0) := rfl
    simp only [View.inPort_eq hkey hp, hheld]

end Sys2Proof.Machine
end

section
/-! Constant updates and markers of an RSQ's phase (R245, R281, R282). -/

namespace Sys2Proof.Machine

theorem onRing_ring {s : State} {r : Nat} (hr : s.cur = .ring r) (i : Instr) (f : Nat → State → Out) : onRing i f s = f r s := by
  simp only [onRing, hr]

theorem State.pendAny_tail {s : State} {d : BitVec 5} {l : List (BitVec 5)} (h : s.pendAny (d :: l) = false) : s.pendAny l = false := by
  simp only [State.pendAny, List.any_cons, Bool.or_eq_false_iff] at h
  exact h.2

@[simp] theorem State.group_done (s : State) (gk : Nat) : s.done.group? gk = s.group? gk := by
  rw [State.group?, State.done_groups, State.group?]

/-- An instruction that changes a group and completes changes no general register and no memory, and goes on at the next word. -/
theorem State.setGroup_done_frame (s : State) (gk : Nat) (g : Group) :
    (s.setGroup gk g).done.me.x = s.me.x ∧ (s.setGroup gk g).done.pc = s.pc + 4 ∧ ∀ k, (s.setGroup gk g).done.byte k = s.byte k := by
  refine ⟨?_, ?_, fun k => ?_⟩
  · simp only [State.done, State.me_goto]
    rfl
  · rw [State.pc_done]
    rfl
  · rw [State.byte, State.mem_done, State.setGroup_mem, State.byte]

/-- A group with an update that no marker precedes yet behind its others (R281). -/
def Group.withUpdate (g : Group) (r : Nat) (target val : W32) : Group :=
  { g with upds := g.upds ++ [{ issuer := r, target := target, val := val, mark := none }] }

/-- A group with its next marker at a port, behind `n` words, which takes the issuer's updates that no marker precedes (R245, R282). -/
def Group.withMarker (g : Group) (r key : Nat) (p : Port) (n : Nat) : Group :=
  { g with nextMark := g.nextMark + 1
           upds := g.upds.map fun u => if u.issuer = r ∧ u.mark.isNone then { u with mark := some g.nextMark } else u
           ports := tput g.ports key { p with marks := p.marks ++ [(g.nextMark, n)] } }

theorem exec_cset (d a : BitVec 5) (s : State) : exec (.cset d a) s = execCset d a s := rfl

theorem exec_mark (a : BitVec 5) (s : State) : exec (.mark a) s = execMark a s := rfl

variable {s : State} {r : Nat} {d a : BitVec 5}

theorem exec_cset_run {gk : Nat} {g : Group} (hr : s.cur = .ring r) (hp : s.pendAny [d, a] = false) (hc : s.curPhase r = .run gk g)
    (h0 : fld (s.x d) 63 24 = 0) (hme : isMe (fld (s.x d) 20 16) = false) (hv : fld (s.x d) 15 0 < g.img.v) (hu : g.upds.length < 16) :
    exec (.cset d a) s = .next (s.setGroup gk (g.withUpdate r ((s.x d).truncate 32) ((s.x a).truncate 32))).done := by
  have hgood : ¬ (fld (s.x d) 63 24 ≠ 0 ∨ isMe (fld (s.x d) 20 16) = true ∨ g.img.v ≤ fld (s.x d) 15 0) := by
    simp only [hme, Bool.false_eq_true, false_or]
    omega
  simp only [exec_cset, execCset, onRing_ring hr, hp, hc, Bool.false_eq_true, if_false, if_neg hgood, if_neg (Nat.not_le.2 hu),
    Group.withUpdate]

theorem exec_mark_run {gk key : Nat} {g : Group} {p : Port} (hr : s.cur = .ring r) (hp : s.pendAny [a] = false)
    (hc : s.curPhase r = .run gk g) (h0 : fld (s.x a) 63 18 = 0) (hin : fld (s.x a) 17 16 < 2) (hv : fld (s.x a) 15 0 < g.img.v)
    (hk : portKey (fld (s.x a) 15 0) (fld (s.x a) 17 16) = key) (hport : tfind g.ports key = some p)
    (hm : (g.ports.map fun e => e.2.marks.length).sum < 64) :
    exec (.mark a) s = .next (s.setGroup gk (g.withMarker r key p (s.wordsAhead g key p))).done := by
  have hgood : ¬ (fld (s.x a) 63 18 ≠ 0 ∨ 2 ≤ fld (s.x a) 17 16 ∨ g.img.v ≤ fld (s.x a) 15 0) := by omega
  simp only [exec_mark, execMark, onRing_ring hr, hp, hc, hk, hport, Bool.false_eq_true, if_false, if_neg hgood, if_neg (Nat.not_le.2 hm),
    Group.withMarker]

/-- Once the phase has retired, both forms do nothing (R281, R282). -/
theorem exec_cset_mark_retired (hr : s.cur = .ring r) (hp : s.pendAny [d, a] = false) (hc : s.curPhase r = .retired) :
    exec (.cset d a) s = .next s.done ∧ exec (.mark a) s = .next s.done := by
  simp only [exec_cset, exec_mark, execCset, execMark, onRing_ring hr, hp, State.pendAny_tail hp, hc, Bool.false_eq_true, if_false,
    and_self]

/-- With no phase issued, both forms take the engine-operand trap (R281; for mark log 56). -/
theorem exec_cset_mark_none (hr : s.cur = .ring r) (hp : s.pendAny [d, a] = false) (hc : s.curPhase r = .none_) :
    exec (.cset d a) s = .next (s.trap 5 (s.x d)) ∧ exec (.mark a) s = .next (s.trap 5 (s.x a)) := by
  simp only [exec_cset, exec_mark, execCset, execMark, onRing_ring hr, hp, State.pendAny_tail hp, hc, Bool.false_eq_true, if_false,
    State.operand, and_self]

end Sys2Proof.Machine
end

section
/-! cset and mark (R281, R282). -/

namespace Sys2Proof.Machine

/-- Settles O33: cset and mark change the group of the running phase, and complete with registers and memory as they were. -/
theorem constantUpdates : Obligations.ConstantUpdates := by
  unfold Obligations.ConstantUpdates
  refine ⟨?_, ?_, ?_, ?_⟩
  · intro s r d a gk g hr hp hc h0 hme hv hu
    exact ⟨_, exec_cset_run hr hp hc h0 hme hv hu, (State.group_done _ gk).trans (State.group_setGroup_same s gk _),
      State.setGroup_done_frame s gk _⟩
  · intro s r d a hr hp hc
    exact exec_cset_mark_retired hr hp hc
  · intro s r d a hr hp hc
    exact exec_cset_mark_none hr hp hc
  · intro s r a gk g p hr hp hc h0 hin hv hport hm
    exact ⟨_, _, exec_mark_run hr hp hc h0 hin hv rfl hport hm, (State.group_done _ gk).trans (State.group_setGroup_same s gk _), rfl,
      ⟨_, tfind_tput_same _ _ _, rfl⟩, rfl, State.setGroup_done_frame s gk _⟩

end Sys2Proof.Machine
end

section
/-! What decodes and what encodes (R180 to R186, R195 to R201). -/

namespace Sys2Proof.Laws

/-- Every row of the opcode table: an event has no word, and a word form decodes from its word. -/
theorem Encoding.every (i : Instr) : Encoding.Statement i := by
  cases i with
  | itemTimeBoundary | itemAdmission | slotSwitch | scrJobStep | phaseRetirement | mergeDeadlock | agLineRequest | agLineCompletion
  | prqHeldPlacement | bankLoadWriteback | accDrain | tileDecision | copyAccept | billetFire | copyComplete | remoteWriteImmediateArrival
  | remoteRetryExhausted | asyncMaskSatisfied | ploadAccept | loadWriteback | storePerform | supervisorTimer | hypervisorTimer
  | sweepmaxOverrun | preemptionCapture | tenantSwitch | tsentEnable | rnoteWrite | hevtRead | prqpopRead | wmemWrite
  | powerTransitionComplete | tokenWake | powerOnStart | bootctlCold | bootctlWarm | i3cStartRequest | i3cRead | droopTrip | fclkRaise
  | linkStateChange | lqtailWrite | doorbellWrite | launchConsume | ldoneWrite | launchPacket | rdbgdRead | rdbgdWrite | registerWrite
  | illegalInstruction | clockStretch | hostAccess | remoteAccessArrival | laneRepair | testAccessPortInstruction | waitSatisfied
  | interrupt | rctlPreq | rctlResume | rctlResumeInject | prqRetry | prqFail | prqForward | sprqRetry | sprqFail | kctlLoad | kctlDraw
  | kctlDestroy | kctlLoadMigration | kctlStopVf | kinitctlGo | wvalidSet | wvalidClear | rimgctlDump | rimgctlRest | rpwrQuiesce
  | rpwrSave | rpwrGateClock | rpwrGateRail | rpwrWake | lifetimeStoreWrite | orderlyPowerDown | qpstatClear | instructionFetchFault
  | managementCoreInterrupt | channelInitComplete | powerFailure => rfl
  | mov => exact Encoding.mov ..
  | veAdd => exact Encoding.veAdd ..
  | veSub => exact Encoding.veSub ..
  | veMul => exact Encoding.veMul ..
  | veMulh => exact Encoding.veMulh ..
  | mad => exact Encoding.mad ..
  | veMin => exact Encoding.veMin ..
  | veMax => exact Encoding.veMax ..
  | abs => exact Encoding.abs ..
  | neg => exact Encoding.neg ..
  | veAnd => exact Encoding.veAnd ..
  | veOr => exact Encoding.veOr ..
  | veXor => exact Encoding.veXor ..
  | veAndn => exact Encoding.veAndn ..
  | not => exact Encoding.not ..
  | shl => exact Encoding.shl ..
  | shr => exact Encoding.shr ..
  | rol => exact Encoding.rol ..
  | veClz => exact Encoding.veClz ..
  | vePopc => exact Encoding.vePopc ..
  | avg => exact Encoding.avg ..
  | veAddi => exact Encoding.veAddi ..
  | movi => exact Encoding.movi ..
  | cmpEq => exact Encoding.cmpEq ..
  | cmpNe => exact Encoding.cmpNe ..
  | cmpLt => exact Encoding.cmpLt ..
  | cmpLe => exact Encoding.cmpLe ..
  | cmpGt => exact Encoding.cmpGt ..
  | cmpGe => exact Encoding.cmpGe ..
  | cmpUn => exact Encoding.cmpUn ..
  | plog => exact Encoding.plog ..
  | sel => exact Encoding.sel ..
  | clamp => exact Encoding.clamp ..
  | gate => exact Encoding.gate ..
  | steer => exact Encoding.steer ..
  | fadd => exact Encoding.fadd ..
  | fsub => exact Encoding.fsub ..
  | fmul => exact Encoding.fmul ..
  | fma => exact Encoding.fma ..
  | fms => exact Encoding.fms ..
  | fmin => exact Encoding.fmin ..
  | fmax => exact Encoding.fmax ..
  | fabs => exact Encoding.fabs ..
  | fneg => exact Encoding.fneg ..
  | frnd => exact Encoding.frnd ..
  | fclamp => exact Encoding.fclamp ..
  | cvt => exact Encoding.cvt ..
  | pack => exact Encoding.pack ..
  | unpklo => exact Encoding.unpklo ..
  | unpkhi => exact Encoding.unpkhi ..
  | exp2 => exact Encoding.exp2 ..
  | log2 => exact Encoding.log2 ..
  | rcp => exact Encoding.rcp ..
  | rsq => exact Encoding.rsq ..
  | tanh => exact Encoding.tanh ..
  | dot => exact Encoding.dot ..
  | dotx => exact Encoding.dotx ..
  | ldb => exact Encoding.ldb ..
  | stb => exact Encoding.stb ..
  | ldbi => exact Encoding.ldbi ..
  | stbi => exact Encoding.stbi ..
  | atadd => exact Encoding.atadd ..
  | atmin => exact Encoding.atmin ..
  | atmax => exact Encoding.atmax ..
  | atxchg => exact Encoding.atxchg ..
  | atcas => exact Encoding.atcas ..
  | ldt => exact Encoding.ldt ..
  | stt => exact Encoding.stt ..
  | emit => exact Encoding.emit ..
  | dropw => exact Encoding.dropw ..
  | pcnt => exact Encoding.pcnt ..
  | eos => exact Encoding.eos ..
  | mma => exact Encoding.mma ..
  | mmx => exact Encoding.mmx ..
  | azero => exact Encoding.azero ..
  | adrain => exact Encoding.adrain ..
  | aload => exact Encoding.aload ..
  | ascale => exact Encoding.ascale ..
  | nop => exact Encoding.nop
  | mpass => exact Encoding.mpass
  | add => exact Encoding.add ..
  | sub => exact Encoding.sub ..
  | and => exact Encoding.and ..
  | or => exact Encoding.or ..
  | xor => exact Encoding.xor ..
  | andn => exact Encoding.andn ..
  | sll => exact Encoding.sll ..
  | srl => exact Encoding.srl ..
  | sra => exact Encoding.sra ..
  | slt => exact Encoding.slt ..
  | sltn => exact Encoding.sltn ..
  | min => exact Encoding.min ..
  | max => exact Encoding.max ..
  | minn => exact Encoding.minn ..
  | maxn => exact Encoding.maxn ..
  | mul => exact Encoding.mul ..
  | mulh => exact Encoding.mulh ..
  | mulhn => exact Encoding.mulhn ..
  | div => exact Encoding.div ..
  | divn => exact Encoding.divn ..
  | rem => exact Encoding.rem ..
  | remn => exact Encoding.remn ..
  | clz => exact Encoding.clz ..
  | ctz => exact Encoding.ctz ..
  | popc => exact Encoding.popc ..
  | sextW => exact Encoding.sextW ..
  | zextW => exact Encoding.zextW ..
  | addw => exact Encoding.addw ..
  | addi => exact Encoding.addi ..
  | andi => exact Encoding.andi ..
  | ori => exact Encoding.ori ..
  | xori => exact Encoding.xori ..
  | slti => exact Encoding.slti ..
  | sltni => exact Encoding.sltni ..
  | shiSll => exact Encoding.shiSll ..
  | shiSrl => exact Encoding.shiSrl ..
  | shiSra => exact Encoding.shiSra ..
  | lui => exact Encoding.lui ..
  | auipc => exact Encoding.auipc ..
  | ld => exact Encoding.ld ..
  | ldn => exact Encoding.ldn ..
  | st => exact Encoding.st ..
  | amoAdd => exact Encoding.amoAdd ..
  | amoAnd => exact Encoding.amoAnd ..
  | amoOr => exact Encoding.amoOr ..
  | amoXor => exact Encoding.amoXor ..
  | amoMin => exact Encoding.amoMin ..
  | amoMax => exact Encoding.amoMax ..
  | amoMinn => exact Encoding.amoMinn ..
  | amoMaxn => exact Encoding.amoMaxn ..
  | amoSwap => exact Encoding.amoSwap ..
  | amoCas => exact Encoding.amoCas ..
  | beq => exact Encoding.beq ..
  | bne => exact Encoding.bne ..
  | blt => exact Encoding.blt ..
  | bge => exact Encoding.bge ..
  | bltn => exact Encoding.bltn ..
  | bgen => exact Encoding.bgen ..
  | j => exact Encoding.j ..
  | jal => exact Encoding.jal ..
  | jalr => exact Encoding.jalr ..
  | jtab => exact Encoding.jtab ..
  | fence => exact Encoding.fence ..
  | fenceRg => exact Encoding.fenceRg ..
  | csrr => exact Encoding.csrr ..
  | csrw => exact Encoding.csrw ..
  | trap => exact Encoding.trap ..
  | pload => exact Encoding.pload ..
  | pwait => exact Encoding.pwait ..
  | cpy => exact Encoding.cpy ..
  | cpyB => exact Encoding.cpyB ..
  | billetArm => exact Encoding.billetArm ..
  | billetDisarm => exact Encoding.billetDisarm ..
  | tqpush => exact Encoding.tqpush ..
  | tqcnt => exact Encoding.tqcnt ..
  | waitd => exact Encoding.waitd ..
  | waitt => exact Encoding.waitt ..
  | crnDef => exact Encoding.crnDef ..
  | crnStep => exact Encoding.crnStep ..
  | crnForce => exact Encoding.crnForce ..
  | crnMap => exact Encoding.crnMap ..
  | crnUndef => exact Encoding.crnUndef ..
  | crnStat => exact Encoding.crnStat ..
  | cset => exact Encoding.cset ..
  | mark => exact Encoding.mark ..
  | wopen => exact Encoding.wopen ..
  | wseal => exact Encoding.wseal ..
  | launch => exact Encoding.launch ..
  | pstat => exact Encoding.pstat ..
  | halt => exact Encoding.halt ..
  | tlbiVa => exact Encoding.tlbiVa ..
  | tlbiAsid => exact Encoding.tlbiAsid ..
  | tlbiVf => exact Encoding.tlbiVf ..
  | isave => exact Encoding.isave ..
  | irest => exact Encoding.irest ..
  | gcfg => exact Encoding.gcfg ..
  | ccfg => exact Encoding.ccfg ..
  | scrub => exact Encoding.scrub ..
  | dret => exact Encoding.dret ..
  | sret => exact Encoding.sret
  | hret => exact Encoding.hret
  | wfi => exact Encoding.wfi
  | tlbiAll => exact Encoding.tlbiAll
/-- A word that is accepted is the encoding of its raw reading, whose fields are accepted (R186, R201). -/
theorem checkWord_ok {w : W32} {raw : Option Instr} {i : Instr} (h : checkWord w raw = .ok i) :
    raw = some i ∧ encode i = some w ∧ i.wf = true := by
  cases raw with
  | none => cases h
  | some r =>
    simp only [checkWord] at h
    split at h
    next he =>
      split at h
      next hw =>
        cases h
        exact ⟨rfl, he, hw⟩
      next => cases h
    next => cases h

/-- The element opcode map names element words only (R184). -/
theorem elemOf_isElem {op : Nat} {w : W32} {i : Instr} (h : elemOf op w = some i) : i.isElem = true := by
  unfold elemOf at h
  split at h <;> cases h <;> rfl

/-- The sequencer opcode map names sequencer words only: by op and, where the op has one, by its selecting field (R196 to R200). -/
theorem seqOf_isElem {op : Nat} {w : W32} {i : Instr} (h : seqOf op w = some i) : i.isElem = false := by
  unfold seqOf seqOf00 seqOf07 seqOf13 seqOf22 seqOf2A seqOf2B seqOf30 seqOf38 at h
  split at h
  case h_1 | h_8 | h_14 | h_25 | h_31 | h_32 | h_37 | h_44 => split at h <;> cases h <;> rfl
  all_goals cases h <;> rfl

/-- Settles O6: the encoding of each row of the opcode table, well formed, decodes to that row. -/
theorem encodeDecode : Obligations.EncodeDecode := by
  unfold Obligations.EncodeDecode
  intro i w hw he
  have h := Encoding.every i
  simp only [Encoding.Statement, he] at h
  exact h.2 hw

/-- Settles O5: a raw reading passes the check only as the encoding of a well-formed instruction of its reader's kind. -/
theorem decodeSound : Obligations.DecodeSound := by
  unfold Obligations.DecodeSound
  constructor <;> intro w i h
  · obtain ⟨hraw, henc, hwf⟩ := checkWord_ok h
    exact ⟨hwf, seqOf_isElem hraw, henc⟩
  · obtain ⟨hraw, henc, hwf⟩ := checkWord_ok h
    exact ⟨hwf, elemOf_isElem hraw, henc⟩

end Sys2Proof.Laws
end

section
/-! The floating words, conversions and dot products of an element (R213, R220 to R225). -/

namespace Sys2Proof.Machine

/-- Behind a true gate a word of two sources computes of the operands and the old d, and queues the value for d and y (R73, R210). -/
theorem veOp2_open {g : BitVec 2} {s : State} {w : View} (hv : s.view = some w) (hg : gateOpen w.el.q g = true) (a b d : BitVec 5)
    (f : Bool → W32 → W32 → W32 → W32) :
    veOp2 g a b d f s =
      veBody [a, b] (fun o st => o.w.writeDest false 0 d (f w.ftz (o.get a) (o.get b) (o.get d)) st) w s :=
  (veWord_open hv hg [a, b] _).trans (veBody_congr s fun _ _ => rfl)

/-- Behind a true gate a word of one source computes of its operand, and queues the value for d and y (R73, R210). -/
theorem veOp1_open {g : BitVec 2} {s : State} {w : View} (hv : s.view = some w) (hg : gateOpen w.el.q g = true) (a d : BitVec 5)
    (f : Bool → W32 → W32) :
    veOp1 g a d f s = veBody [a] (fun o st => o.w.writeDest false 0 d (f w.ftz (o.get a)) st) w s :=
  (veWord_open hv hg [a] _).trans (veBody_congr s fun _ _ => rfl)

/-- A floating word of two sources computes its exact function of the lanes, rounded once (R213, R220, R221). -/
theorem exec_floatForm {i : Instr} {n : FloatForm} (h : floatForm i = some n) (s : State) :
    exec i s = .next (veOp2 n.g n.a n.b n.d (fun ftz x z w => fltLanes ftz n.t.toNat n.sat n.mode n.f x z w) s) := by
  unfold floatForm at h
  split at h <;> cases h <;> rfl

/-- A floating word of one source computes its function of each lane, rounded once (R221). -/
theorem exec_floatForm1 {i : Instr} {g : BitVec 2} {a d : BitVec 5} {t : BitVec 4} {m : Rnd} {f : FVal → FVal}
    (h : floatForm1 i = some (g, a, d, t, m, f)) (s : State) :
    exec i s = .next (veOp1 g a d (fun ftz x => fltLanes ftz t.toNat false m (fun v _ _ => f v) x 0 0) s) := by
  unfold floatForm1 at h
  split at h <;> cases h <;> rfl

/-- A special function word computes its function of the one binary32 lane (R224). -/
theorem exec_specialForm {i : Instr} {g : BitVec 2} {a d : BitVec 5} {f : FVal → Nat} (h : specialForm i = some (g, a, d, f)) (s : State) :
    exec i s = .next (veSpecial a d g f s) := by
  unfold specialForm at h
  split at h <;> cases h <;> rfl

/-- Settles O45: each form's function behind a true gate; fltLanes is R213's rounding of every lane. -/
theorem floatWords : Obligations.FloatWords := by
  unfold Obligations.FloatWords
  refine ⟨?_, ?_, ?_⟩
  · intro i n s w hi hv hg
    rw [exec_floatForm hi, veOp2_open hv hg]
    rfl
  · intro i g a d t m f s w hi hv hg
    rw [exec_floatForm1 hi, veOp1_open hv hg]
    rfl
  · intro i g a d f s w hi hv hg
    rw [exec_specialForm hi, veSpecial, veOp1_open hv hg]

/-- Rounding in a direction converts each lane by itself, and draws nothing (R86, R90). -/
theorem Rounding.lanes_directed (mode : Rnd) (sat ftz : Bool) (f : Fmt) (l : W32) (xs : List FVal) :
    ({ mode := mode, sat := sat, sr := false } : Rounding).lanes ftz f l xs = (xs.map fun x => flush ftz f (roundF f sat mode x), l) := by
  induction xs with
  | nil => rfl
  | cons x xs ih => simp [Rounding.lanes, Rounding.toFloat, ih]

/-- Behind a true gate a conversion saturates to an integer type, rounds by draws under sr for an item that is not void, and otherwise
rounds in its direction (R90, R141, R222). -/
theorem veConvert_open {g : BitVec 2} {s : State} {w : View} (hv : s.view = some w) (hg : gateOpen w.el.q g = true)
    (srcs : List (BitVec 5)) (d : BitVec 5) (t : Nat) (sat : Bool) (mode : Rnd) (sr : Bool) (vals : Ops → List FVal) :
    veConvert g srcs d t sat mode sr vals s = veBody srcs (fun o st =>
      if t < 8 then
        o.w.writeDest false 0 d (BitVec.ofNat 32 (joinLanes (laneW t)
          ((vals o).map fun x => zextI (convInt (tySigned t) (laneW t) mode x) (laneW t)))) st
      else if sr && !w.void then
        let r := ({ mode := mode, sat := sat, sr := true } : Rounding).lanes w.ftz (tyFmt t) w.el.lfsr (vals o)
        o.w.writeDest false 0 d (BitVec.ofNat 32 (joinLanes (laneW t) r.1)) (o.w.setLfsr r.2 st)
      else
        o.w.writeDest false 0 d (BitVec.ofNat 32 (joinLanes (laneW t)
          ((vals o).map fun x => flush w.ftz (tyFmt t) (roundF (tyFmt t) sat mode x)))) st) w s := by
  refine (veWord_open hv hg srcs _).trans (veBody_congr s fun get st => ?_)
  by_cases ht : t < 8
  · simp only [tyInt, ht, decide_true, if_true]
  · cases hsr : sr && !w.void <;>
      simp only [tyInt, ht, decide_false, Bool.false_eq_true, if_false, if_true, Rounding.lanes_directed]

/-- Behind a true gate an unpack word widens the low or the high lanes of its source exactly (R223). -/
theorem veUnpack_open {g : BitVec 2} {s : State} {w : View} (hv : s.view = some w) (hg : gateOpen w.el.q g = true) (t : BitVec 4)
    (a d : BitVec 5) (hi : Bool) :
    veUnpack t a d g hi s = veBody [a] (fun o st => o.w.writeDest false 0 d (mapLanes (wideTy t.toNat) fun i =>
      let v := laneAny w.ftz t.toNat (o.get a) (i + if hi then laneN (wideTy t.toNat) else 0)
      if tyInt (wideTy t.toNat) then zextI (convInt (tySigned (wideTy t.toNat)) (laneW (wideTy t.toNat)) .rne v) (laneW (wideTy t.toNat))
      else flush w.ftz (tyFmt (wideTy t.toNat)) (roundF (tyFmt (wideTy t.toNat)) false .rne v)) st) w s := by
  rw [veUnpack, veOp1_open hv hg]

/-- Settles O46: a conversion by its three kinds of rounding, the other words by their functions of the operands. -/
theorem conversionWords : Obligations.ConversionWords := by
  unfold Obligations.ConversionWords
  intro converted
  refine ⟨?_, ?_, ?_, ?_, ?_⟩
  · intro t a c d g sf r x s w hv hg
    exact congrArg Host.Outcome.next ((veConvert_open hv hg _ _ _ _ _ _ _).trans (veBody_congr s fun _ _ => rfl))
  · intro t a b d g sf r x s w hv hg
    exact congrArg Host.Outcome.next ((veConvert_open hv hg _ _ _ _ _ _ _).trans (veBody_congr s fun _ _ => rfl))
  · intro t a b d g s w hv hg u wide
    exact ⟨congrArg Host.Outcome.next (veUnpack_open hv hg t a d false), congrArg Host.Outcome.next (veUnpack_open hv hg t a d true)⟩
  · intro t a b d g sf r s w hv hg
    refine congrArg Host.Outcome.next ((veOp2_open hv hg _ _ _ _).trans (veBody_congr s fun _ _ => ?_))
    simp only [tyInt, decide_eq_true_eq]
  · intro a b d g sf s w hv hg
    exact congrArg Host.Outcome.next (veOp2_open hv hg _ _ _ _)

end Sys2Proof.Machine
end

section
/-! What a read that an instruction needs at once leaves of the threads and of memory, whether it delivers or meets an error (R106, R412, R428). -/

namespace Sys2Proof.Machine

/-- The running thread, the general registers and the pc of every thread, and memory are as they were. -/
structure KeepsThreads (s t : State) : Prop where
  cur : t.cur = s.cur
  mem : t.mem = s.mem
  x : ∀ th, (t.seqOf th).x = (s.seqOf th).x
  pc : ∀ th, (t.seqOf th).pc = (s.seqOf th).pc

namespace KeepsThreads

variable {s t u : State}

theorem refl (s : State) : KeepsThreads s s := ⟨rfl, rfl, fun _ => rfl, fun _ => rfl⟩

theorem trans (h : KeepsThreads s t) (k : KeepsThreads t u) : KeepsThreads s u :=
  ⟨k.cur.trans h.cur, k.mem.trans h.mem, fun th => (k.x th).trans (h.x th), fun th => (k.pc th).trans (h.pc th)⟩

/-- Steps that keep the threads do so together. -/
theorem foldl {α : Type} {f : State → α → State} (hf : ∀ st a, KeepsThreads st (f st a)) (l : List α) (s : State) :
    KeepsThreads s (l.foldl f s) :=
  List.foldlRecOn l f (refl s) fun st hst a _ => hst.trans (hf st a)

theorem ite {p : Prop} [Decidable p] (ht : KeepsThreads s t) (hu : KeepsThreads s u) : KeepsThreads s (if p then t else u) := by
  split
  · exact ht
  · exact hu

/-- A change beside the rings, the dies and memory. -/
theorem of_parts (hcur : t.cur = s.cur) (hmem : t.mem = s.mem) (hrings : t.rings = s.rings) (hdies : t.dies = s.dies) : KeepsThreads s t := by
  have hseq : ∀ th, t.seqOf th = s.seqOf th := by
    intro th
    cases th with
    | ring r => simp only [State.seqOf, State.ring, hrings]
    | core d => simp only [State.seqOf, State.die, hdies]
  exact ⟨hcur, hmem, fun th => by rw [hseq], fun th => by rw [hseq]⟩

theorem updSeq (s : State) (th : Thread) {f : Seq → Seq} (hx : (f (s.seqOf th)).x = (s.seqOf th).x)
    (hpc : (f (s.seqOf th)).pc = (s.seqOf th).pc) : KeepsThreads s (s.updSeq th f) := by
  refine ⟨State.updSeq_cur s th f, State.updSeq_mem s th f, fun o => ?_, fun o => ?_⟩
  all_goals
    by_cases h : o = th
    · rwa [h, State.seqOf_updSeq_same]
    · rw [State.seqOf_updSeq_ne s f h]

theorem updRing (s : State) (r : Nat) {f : Ring → Ring} (hf : (f (s.ring r)).seq = (s.ring r).seq) : KeepsThreads s (s.updRing r f) := by
  have hseq : ∀ th, (s.updRing r f).seqOf th = s.seqOf th := by
    intro th
    cases th with
    | ring q =>
      by_cases h : q = r
      · rw [h, State.seqOf, State.ring_updRing_same, hf, State.seqOf]
      · rw [State.seqOf, State.ring_updRing_ne s f h, State.seqOf]
    | core d => rfl
  exact ⟨rfl, rfl, fun th => by rw [hseq], fun th => by rw [hseq]⟩

theorem setRing (s : State) (r : Nat) {x : Ring} (hx : x.seq = (s.ring r).seq) : KeepsThreads s (s.setRing r x) :=
  updRing s r (f := fun _ => x) hx

theorem updDie (s : State) (d : Nat) {f : Die → Die} (hf : (f (s.die d)).core = (s.die d).core) : KeepsThreads s (s.updDie d f) := by
  have hseq : ∀ th, (s.updDie d f).seqOf th = s.seqOf th := by
    intro th
    cases th with
    | ring r => rfl
    | core n =>
      by_cases h : n = d
      · rw [h, State.seqOf, State.die_updDie_same, hf, State.seqOf]
      · rw [State.seqOf, State.die_updDie_ne s f h, State.seqOf]
  exact ⟨rfl, rfl, fun th => by rw [hseq], fun th => by rw [hseq]⟩

theorem setRcsr (s : State) (r n : Nat) (v : W64) : KeepsThreads s (s.setRcsr r n v) := updRing s r rfl

theorem setVcsr (s : State) (v n : Nat) (x : W64) : KeepsThreads s (s.setVcsr v n x) := of_parts rfl rfl rfl rfl

theorem countLife (s : State) (i : Nat) : KeepsThreads s (s.countLife i) := of_parts rfl rfl rfl rfl

theorem post (s : State) (d kind code mid low : Nat) : KeepsThreads s (s.post d kind code mid low) :=
  ite (updDie s d rfl) (updDie s d rfl)

theorem raiseVf (s : State) (v : Nat) (bits : W64) : KeepsThreads s (s.raiseVf v bits) := by
  rw [State.raiseVf]
  refine foldl (fun st r => ?_) allRings s
  exact ite (setRcsr st r 0x100A _) (ite (setRing st r rfl) (refl st))

/-- A machine check is recorded in CSRs and counted (R428). -/
theorem mcheck (s : State) (v addr src : Nat) : KeepsThreads s (s.mcheck v addr src) := by
  rw [State.mcheck]
  refine (KeepsThreads.trans ?_ (raiseVf _ v 16)).trans (countLife _ 6996)
  exact ite (setVcsr s v 0x1051 _) ((setVcsr s v 0x1050 _).trans (setVcsr _ v 0x1051 _))

/-- A ring that parks keeps its registers and its pc (R327). -/
theorem park (s : State) (r : Nat) (pc : W64) (cause : Nat) (value : W64) : KeepsThreads s (s.park r pc cause value) :=
  ((((updRing s r rfl).trans (setRcsr _ r 0x2106 pc)).trans (setRcsr _ r 0x2107 _)).trans (setRcsr _ r 0x2108 value)).trans
    (post _ (dieOf r) 0 cause 0 r)

theorem stopVf (s : State) (v pa : Nat) : KeepsThreads s (s.stopVf v pa) := by
  rw [State.stopVf]
  exact (of_parts rfl rfl rfl rfl : KeepsThreads s (s.updVf v _)).trans (foldl (fun st r => ite (park st r _ 0x1A _) (refl st)) _ _)

theorem integrityFault (s : State) (v d pa : Nat) : KeepsThreads s (s.integrityFault v d pa) :=
  ite (refl s) ((stopVf s v pa).trans (post _ d 5 0 0 v))

theorem memFail (s : State) (r src : Nat) (e : MemErr) : KeepsThreads s (s.memFail r src e) := by
  cases e with
  | integrity pa => exact integrityFault s (s.vfNum r) (dieOf r) pa
  | machine pa => exact mcheck s (s.vfNum r) pa src
  | gated => exact refl s

theorem threadFail (s : State) (th : Thread) (e : MemErr) : KeepsThreads s (s.threadFail th e) := by
  cases th with
  | ring r => exact memFail s r 0 e
  | core d =>
    cases e with
    | machine pa => exact post s d 6 0 0 _
    | integrity pa => exact refl s
    | gated => exact refl s

/-- A read that delivers changes what its thread must observe and has heard, and what is visible to whom (R106, R111). -/
theorem readFor {th : Thread} {seq : Nat} {dep : Dep} {va : W64} {ps : List (Nat × MemAttr)} {g : Got}
    (h : s.readFor th seq dep va ps = .ok g) : KeepsThreads s g.state := by
  simp only [State.readFor] at h
  split at h
  · cases h
  · cases h
    exact ((of_parts rfl rfl rfl rfl : KeepsThreads s (s.force _)).trans (updSeq _ th rfl rfl)).trans (of_parts rfl rfl rfl rfl)

theorem readNow {regs : List (BitVec 5)} {va : W64} {ps : List (Nat × MemAttr)} {l : List Byte}
    (h : s.readNow regs va ps = some (l, t)) : KeepsThreads s t := by
  simp only [State.readNow] at h
  split at h
  · cases h
  · split at h
    next g hg =>
      cases h
      exact readFor hg
    next e he =>
      cases h
      exact threadFail s s.cur e

theorem me_x (h : KeepsThreads s t) : t.me.x = s.me.x := by rw [State.me, h.cur, h.x, State.me]

theorem pc_eq (h : KeepsThreads s t) : t.pc = s.pc := by rw [State.pc, State.me, h.cur, h.pc, State.pc, State.me]

theorem byte (h : KeepsThreads s t) (k : Nat) : t.byte k = s.byte k := by rw [State.byte, h.mem, State.byte]

end KeepsThreads

end Sys2Proof.Machine
end

section
/-! An instruction of an RSQ that changes its ring and completes. -/

namespace Sys2Proof.Machine

/-- A ring whose RSQ's instruction completes and goes on at the next word (R248, R262). -/
def Ring.completed (x : Ring) : Ring :=
  { x with wait := none, seq := { x.seq with pc := x.seq.pc + 4, instret := x.seq.instret + 1 } }

variable {s : State} {r : Nat}

theorem State.done_ring (hr : s.cur = .ring r) : s.done = s.updRing r Ring.completed := by
  simp only [State.done, State.goto, State.pc, State.me, hr, State.endWait, State.updSeq, State.updRing_updRing, State.seqOf]
  exact State.updRing_congr s r rfl

theorem State.updRing_done (hr : s.cur = .ring r) (f : Ring → Ring) : (s.updRing r f).done = s.updRing r fun x => (f x).completed := by
  rw [State.done_ring (s := s.updRing r f) hr, State.updRing_updRing]

theorem State.ring_updRing_done (hr : s.cur = .ring r) (f : Ring → Ring) : (s.updRing r f).done.ring r = (f (s.ring r)).completed := by
  rw [State.updRing_done hr, State.ring_updRing_same]

theorem onlyRing_updRing (s : State) (r : Nat) (f : Ring → Ring) : OnlyRing r s (s.updRing r f) := by
  rw [OnlyRing, State.ring_updRing_same, State.updRing]

/-- A change of a ring beside its RSQ's registers, with which the instruction completes: nothing else changes, and no general register and no memory. -/
theorem State.updRing_done_frame (hr : s.cur = .ring r) {f : Ring → Ring} (hf : (f (s.ring r)).seq = (s.ring r).seq) :
    OnlyRing r s (s.updRing r f).done ∧ (s.updRing r f).done.me.x = s.me.x ∧ (s.updRing r f).done.pc = s.pc + 4 ∧
      ∀ k, (s.updRing r f).done.byte k = s.byte k := by
  have hkeep : KeepsThreads s (s.updRing r f) := KeepsThreads.updRing s r hf
  refine ⟨?_, ?_, ?_, fun k => ?_⟩
  · rw [State.updRing_done hr]
    exact onlyRing_updRing s r _
  · rw [State.done, State.me_goto, hkeep.me_x]
  · rw [State.pc_done, hkeep.pc_eq]
  · rw [State.byte, State.mem_done, hkeep.mem, State.byte]

end Sys2Proof.Machine
end

section
/-! What tqpush, billet.arm and billet.disarm answer, and what an arming leaves of its slot (R285 to R287). -/

namespace Sys2Proof.Machine

theorem exec_tqpush (a : BitVec 5) (n : BitVec 4) (s : State) : exec (.tqpush a n) s = execTqpush a n s := rfl

theorem exec_billetArm (d a : BitVec 5) (s : State) : exec (.billetArm d a) s = execBilletArm d a s := rfl

theorem exec_billetDisarm (d : BitVec 5) (s : State) : exec (.billetDisarm d) s = execBilletDisarm d s := rfl

/-- A ring with a token at the end of a queue, whose billets observe what the thread has observed (R287). -/
def Ring.pushToken (x : Ring) (n : Nat) (tok : W32) : Ring :=
  { x.tellBillets n with tqs := tput x.tqs n (tget [] x.tqs n ++ [tok]) }

/-- A ring with a billet slot disarmed (R285). -/
def Ring.disarm (x : Ring) (n : Nat) : Ring := { x with billets := tdel x.billets n }

/-- What an arming of slot n finds: the billet where its record is good and lies in no page with execute permission, and otherwise none (R204, R285). -/
def State.billetOf (s : State) (r n : Nat) (va : W64) (l : List Byte) : Option Billet :=
  let c := s.issueCtx r (s.ring r).level
  if s.armOk r n l ∧ !s.spanExec c va 128 then some { record := l, x := c } else none

variable {s u : State} {r : Nat} {d a : BitVec 5}

theorem withRecord_read {regs : List (BitVec 5)} {va : W64} {n al : Nat} {ps : List (Nat × MemAttr)} {l : List Byte}
    (ha : s.access .load va n (some al) = .ok ps) (hn : s.readNow regs va ps = some (l, u)) (hs : u.stoppedNow = false)
    (k : List Byte → State → Out) : withRecord regs va n al k s = k l u := by
  simp only [withRecord, ha, hn, hs, Bool.false_eq_true, if_false]

theorem exec_tqpush_room {n : BitVec 4} (hr : s.cur = .ring r) (hp : s.pendAny [a] = false) (hq : s.me.busy = false)
    (hl : (tget [] (s.ring r).tqs n.toNat).length < 64) :
    exec (.tqpush a n) s = .next (s.updRing r fun x => x.pushToken n.toNat ((s.x a).truncate 32)).done := by
  simp only [exec_tqpush, execTqpush, onRing_ring hr, hp, State.quiet, hq, Bool.not_false, Bool.not_true, Bool.or_self, Bool.false_eq_true,
    if_false, if_neg (Nat.not_le.2 hl)]
  exact congrArg (fun w : State => Host.Outcome.next w.done) (State.updRing_congr s r rfl)

theorem exec_billetArm_read {ps : List (Nat × MemAttr)} {l : List Byte} (hr : s.cur = .ring r) (hp : s.pendAny [d, a] = false)
    (h0 : fld (s.x d) 63 4 = 0) (ha : s.access .load (s.x a) 128 (some 64) = .ok ps) (hn : s.readNow [a] (s.x a) ps = some (l, u))
    (hs : u.stoppedNow = false) :
    exec (.billetArm d a) s = .next (u.arm r (s.x d).toNat (u.billetOf r (s.x d).toNat (s.x a) l)).done := by
  simp only [exec_billetArm, execBilletArm, onRing_ring hr, hp, h0, ne_eq, not_true_eq_false, Bool.false_eq_true, if_false,
    withRecord_read ha hn hs, State.billetOf]

theorem exec_billetDisarm_slot (hr : s.cur = .ring r) (hp : s.pendAny [d] = false) (h0 : fld (s.x d) 63 4 = 0) :
    exec (.billetDisarm d) s = .next (s.updRing r fun x => x.disarm (s.x d).toNat).done := by
  simp only [exec_billetDisarm, execBilletDisarm, onRing_ring hr, hp, h0, ne_eq, not_true_eq_false, Bool.false_eq_true, if_false, Ring.disarm]

/-- A slot number above 15 is an engine-operand trap (R298). -/
theorem exec_billetDisarm_operand (hr : s.cur = .ring r) (hp : s.pendAny [d] = false) (h0 : fld (s.x d) 63 4 ≠ 0) :
    exec (.billetDisarm d) s = .next (s.trap 5 (s.x d)) := by
  simp only [exec_billetDisarm, execBilletDisarm, onRing_ring hr, hp, if_pos h0, Bool.false_eq_true, if_false, State.operand]

theorem State.billetOf_good {n : Nat} {va : W64} {l : List Byte} (hok : s.armOk r n l = true)
    (hx : s.spanExec (s.issueCtx r (s.ring r).level) va 128 = false) :
    s.billetOf r n va l = some { record := l, x := s.issueCtx r (s.ring r).level } := by
  simp only [State.billetOf, hok, hx, Bool.not_false, and_self, if_true]

theorem State.billetOf_bad {n : Nat} {va : W64} {l : List Byte}
    (h : s.armOk r n l = false ∨ s.spanExec (s.issueCtx r (s.ring r).level) va 128 = true) : s.billetOf r n va l = none := by
  have hnot : ¬ (s.armOk r n l = true ∧ (!s.spanExec (s.issueCtx r (s.ring r).level) va 128) = true) := by
    rintro ⟨hok, hx⟩
    rcases h with h | h
    · rw [h] at hok
      cases hok
    · rw [h] at hx
      cases hx
  simp only [State.billetOf, if_neg hnot]

theorem State.arm_done_frame (hr : s.cur = .ring r) (n : Nat) (b : Option Billet) :
    OnlyRing r s (s.arm r n b).done ∧ (s.arm r n b).done.me.x = s.me.x ∧ (s.arm r n b).done.pc = s.pc + 4 ∧
      ∀ k, (s.arm r n b).done.byte k = s.byte k := by
  rw [State.arm]
  refine State.updRing_done_frame hr ?_
  cases b with
  | none => rfl
  | some b => rfl

/-- An arming that succeeds lists the billet and clears the slot's error (R286). -/
theorem State.arm_some_done (hr : s.cur = .ring r) (n : Nat) (b : Billet) :
    tfind ((s.arm r n (some b)).done.ring r).billets n = some b ∧ n ∉ ((s.arm r n (some b)).done.ring r).aerr := by
  rw [State.arm, State.ring_updRing_done hr]
  refine ⟨tfind_tput_same _ n b, ?_⟩
  simp only [Ring.completed, List.mem_filter, bne_self_eq_false, Bool.false_eq_true, and_false, not_false_eq_true]

/-- An arming that fails disarms the slot and sets its error (R286). -/
theorem State.arm_none_done (hr : s.cur = .ring r) (n : Nat) :
    tfind ((s.arm r n none).done.ring r).billets n = none ∧ n ∈ ((s.arm r n none).done.ring r).aerr := by
  rw [State.arm, State.ring_updRing_done hr]
  refine ⟨tfind_tdel_same _ n, ?_⟩
  simp only [Ring.completed]
  split
  next h => exact List.contains_iff_mem.1 h
  next => exact List.mem_cons_self

end Sys2Proof.Machine
end

section
/-! Token queues and billets (R285 to R287, R298). -/

namespace Sys2Proof.Machine

/-- Settles O31: each form changes the queue or the slot that it names, in a ring that is otherwise as the form, or its record's read, left it. -/
theorem tokensAndBillets : Obligations.TokensAndBillets := by
  unfold Obligations.TokensAndBillets
  refine ⟨?_, ?_, ?_, ?_⟩
  · intro s r a n hr hp hq hl
    obtain ⟨honly, hx, hpc, hbyte⟩ := State.updRing_done_frame (f := fun x => x.pushToken n.toNat ((s.x a).truncate 32)) hr rfl
    refine ⟨_, exec_tqpush_room hr hp hq hl, honly, ?_, fun m hm => ?_, hx, hpc, hbyte⟩
    · rw [State.ring_updRing_done hr]
      exact tget_tput_same [] _ n.toNat _
    · rw [State.ring_updRing_done hr]
      exact tget_tput_ne [] _ _ hm
  · intro s u r d a ps l hr hp h0 ha hn hs
    have hkeep : KeepsThreads s u := KeepsThreads.readNow hn
    have hru : u.cur = .ring r := hkeep.cur.trans hr
    obtain ⟨honly, hx, hpc, hbyte⟩ := State.arm_done_frame hru (s.x d).toNat (u.billetOf r (s.x d).toNat (s.x a) l)
    refine ⟨_, exec_billetArm_read hr hp h0 ha hn hs, honly, hx.trans hkeep.me_x, ?_, fun k => (hbyte k).trans (hkeep.byte k), ?_, ?_⟩
    · rw [hpc, hkeep.pc_eq]
    · intro hok hexec
      rw [State.billetOf_good hok hexec]
      exact State.arm_some_done hru _ _
    · intro hbad
      rw [State.billetOf_bad hbad]
      exact State.arm_none_done hru _
  · intro s r d hr hp h0
    obtain ⟨honly, hx, hpc, hbyte⟩ := State.updRing_done_frame (f := fun x => x.disarm (s.x d).toNat) hr rfl
    refine ⟨_, exec_billetDisarm_slot hr hp h0, honly, ?_, fun m hm => ?_, hx, hpc, hbyte⟩
    · rw [State.ring_updRing_done hr]
      exact tfind_tdel_same _ _
    · rw [State.ring_updRing_done hr]
      exact tfind_tdel_ne _ hm
  · intro s r d hr hp h0
    exact exec_billetDisarm_operand hr hp h0

end Sys2Proof.Machine
end

section
/-! The regions of a ring's VF: what the region forms answer, and what a defined, removed or read region leaves of the others (R170, R291 to R293). -/

namespace Sys2Proof.Machine

theorem exec_crnDef (d a : BitVec 5) (s : State) : exec (.crnDef d a) s = execCrnDef d a s := rfl

theorem exec_crnUndef (a : BitVec 5) (s : State) : exec (.crnUndef a) s = execCrnUndef a s := rfl

theorem exec_crnForce (a : BitVec 5) (s : State) : exec (.crnForce a) s = execCrnForce a s := rfl

theorem exec_crnMap (d a : BitVec 5) (s : State) : exec (.crnMap d a) s = execCrnMap d a s := rfl

/-- A VF with region n defined (R291). -/
def Vf.define (v : Vf) (n : Nat) (g : Region) : Vf := { v with regions := tput v.regions n g }

/-- A VF with no region n (R291). -/
def Vf.undefine (v : Vf) (n : Nat) : Vf := { v with regions := tdel v.regions n }

/-- The outstanding load of a crn.map (R293). -/
def State.mapLoad (s : State) (d a : BitVec 5) (va : W64) (ps : List (Nat × MemAttr)) : PendLoad :=
  { seq := s.nextSeqNo, kind := .map, rd := d, nb := 8, acq := false, rel := false, scope := 2, va := va, locs := ps.map (·.1),
    attrs := ps.map (·.2), dep := s.depOf [a], got := [], took := Dep.zero }

variable {s u : State} {r : Nat} {d a : BitVec 5} {g : Region} {sel : W64}

theorem State.selected_some : s.selected r sel = some g ↔ fld sel 63 6 = 0 ∧ s.region? r sel.toNat = some g := by
  simp only [State.selected, Option.ite_none_right_eq_some]

/-- An update of a VF is what it does to the VF as it stands. -/
theorem State.updVf_congr (v : Nat) {f h : Vf → Vf} (e : f (s.vfOf v) = h (s.vfOf v)) : s.updVf v f = s.updVf v h := by
  simp only [State.updVf, e]

/-- A change of a region that the VF holds defines it anew. -/
theorem State.updRegion_some {n : Nat} (f : Region → Region) (h : s.region? r n = some g) :
    s.updRegion (s.vfNum r) n f = s.updVf (s.vfNum r) fun v => v.define n (f g) := by
  rw [State.region?] at h
  refine State.updVf_congr _ ?_
  simp only [Vf.define, h]

theorem exec_crnDef_record {ps : List (Nat × MemAttr)} {l : List Byte} (hr : s.cur = .ring r) (hp : s.pendAny [d, a] = false)
    (h0 : fld (s.x d) 63 6 = 0) (hb : ∀ g, s.region? r (s.x d).toNat = some g → g.bound = false)
    (ha : s.access .load (s.x a) 64 (some 8) = .ok ps) (hn : s.readNow [a] (s.x a) ps = some (l, u)) (hs : u.stoppedNow = false)
    (hok : regionOk l = true) :
    exec (.crnDef d a) s = .next (u.updVf (u.vfNum r) fun v => v.define (s.x d).toNat (regionOf l)).done := by
  simp only [exec_crnDef, execCrnDef, onRing_ring hr, hp, withRecord_read ha hn hs, hok, Bool.not_true, Bool.false_eq_true, if_false, Vf.define]
  refine if_neg (not_or.2 ⟨fun h => h h0, ?_⟩)
  cases hg : s.region? r (s.x d).toNat with
  | none => exact Bool.false_ne_true
  | some g => exact Bool.eq_false_iff.1 (hb g hg)

theorem exec_crnUndef_unbound (hr : s.cur = .ring r) (hp : s.pendAny [a] = false) (hg : s.selected r (s.x a) = some g)
    (hb : g.bound = false) : exec (.crnUndef a) s = .next (s.updVf (s.vfNum r) fun v => v.undefine (s.x a).toNat).done := by
  simp only [exec_crnUndef, execCrnUndef, onRing_ring hr, hp, hg, hb, Bool.false_eq_true, if_false, Vf.undefine]

theorem exec_crnForce_unbound (hr : s.cur = .ring r) (hp : s.pendAny [a] = false) (hg : s.selected r (s.x a) = some g)
    (hb : g.bound = false) :
    exec (.crnForce a) s = .next (s.updVf (s.vfNum r) fun v => v.define (s.x a).toNat { g with force := true }).done := by
  simp only [exec_crnForce, execCrnForce, onRing_ring hr, hp, hg, hb, Bool.false_eq_true, if_false,
    State.updRegion_some _ (State.selected_some.1 hg).2]

/-- crn.force waits at a bound region (R292). -/
theorem exec_crnForce_bound (hr : s.cur = .ring r) (hp : s.pendAny [a] = false) (hg : s.selected r (s.x a) = some g)
    (hb : g.bound = true) : exec (.crnForce a) s = .next s := by
  simp only [exec_crnForce, execCrnForce, onRing_ring hr, hp, hg, hb, Bool.false_eq_true, if_false, if_true]

/-- A selector that names no region is an engine-operand trap (R291, R298). -/
theorem exec_crnForce_crnUndef_none (hr : s.cur = .ring r) (hp : s.pendAny [a] = false) (hg : s.selected r (s.x a) = none) :
    exec (.crnForce a) s = .next (s.trap 5 (s.x a)) ∧ exec (.crnUndef a) s = .next (s.trap 5 (s.x a)) := by
  simp only [exec_crnForce, execCrnForce, exec_crnUndef, execCrnUndef, onRing_ring hr, hp, hg, Bool.false_eq_true, if_false, State.operand,
    and_self]

/-- crn.map issues its load where the word and the step lie in the region's maps (R293). -/
theorem exec_crnMap_held {ps : List (Nat × MemAttr)} (hr : s.cur = .ring r) (hp : s.pendAny [d, a] = false) (h0 : fld (s.x a) 7 6 = 0)
    (hg : s.region? r (fld (s.x a) 5 0) = some g) (hw : 64 * fld (s.x a) 31 8 < g.ntiles) (hold : g.s < fld (s.x a) 63 32 + g.nmaps)
    (hnew : fld (s.x a) 63 32 ≤ g.s) (hb : g.bound = true ∨ fld (s.x a) 63 32 < g.s)
    (ha : s.access .load (g.mapAt (fld (s.x a) 63 32) + BitVec.ofNat 64 (8 * fld (s.x a) 31 8)) 8 none = .ok ps)
    (hq : s.acqHolds false ps = false) :
    exec (.crnMap d a) s =
      .next (s.issueLoad (s.mapLoad d a (g.mapAt (fld (s.x a) 63 32) + BitVec.ofNat 64 (8 * fld (s.x a) 31 8)) ps)).done := by
  have hin : ¬ (g.ntiles ≤ 64 * fld (s.x a) 31 8 ∨ fld (s.x a) 63 32 + g.nmaps ≤ g.s ∨ g.s < fld (s.x a) 63 32 ∨
      ((!g.bound) = true ∧ g.s ≤ fld (s.x a) 63 32)) := by
    rintro (h | h | h | ⟨hnb, h⟩)
    · omega
    · omega
    · omega
    · rcases hb with hb | hb
      · rw [hb] at hnb
        cases hnb
      · omega
  simp only [exec_crnMap, execCrnMap, onRing_ring hr, hp, h0, hg, if_neg hin, ha, hq, Bool.false_eq_true, if_false, if_true, State.mapLoad]

/-- An issued load, with which the instruction completes, joins the outstanding ones, and changes no general register and no memory (R248). -/
theorem State.issueLoad_done_frame (s : State) (l : PendLoad) :
    (s.issueLoad l).done.me.loads = s.me.loads ++ [l] ∧ (s.issueLoad l).done.me.x = s.me.x ∧ (s.issueLoad l).done.pc = s.pc + 4 ∧
      ∀ k, (s.issueLoad l).done.byte k = s.byte k := by
  refine ⟨?_, ?_, ?_, fun k => ?_⟩
  · rw [State.done, State.me_goto, State.issueLoad, State.me_updSeq]
  · rw [State.done, State.me_goto, State.issueLoad, State.me_updSeq]
  · rw [State.pc_done, State.issueLoad, State.pc, State.me_updSeq, State.pc]
  · rw [State.byte, State.mem_done, State.issueLoad, State.updSeq_mem, State.byte]

/-- A change of the issuing ring's VF, with which the instruction completes, is what it makes of the VF's regions; no general register and no memory changes. -/
theorem State.updVf_done_frame (hr : s.cur = .ring r) (f : Vf → Vf) :
    (∀ m, (s.updVf (s.vfNum r) f).done.region? r m = tfind (f (s.vfOf (s.vfNum r))).regions m) ∧
      (s.updVf (s.vfNum r) f).done.me.x = s.me.x ∧ (s.updVf (s.vfNum r) f).done.pc = s.pc + 4 ∧
      ∀ k, (s.updVf (s.vfNum r) f).done.byte k = s.byte k := by
  have hkeep : KeepsThreads s (s.updVf (s.vfNum r) f) := KeepsThreads.of_parts rfl rfl rfl rfl
  refine ⟨fun m => ?_, ?_, ?_, fun k => ?_⟩
  · have hvf : (s.updVf (s.vfNum r) f).done.vfNum r = s.vfNum r := by
      rw [State.done_ring (hkeep.cur.trans hr), State.vfNum, State.ring_updRing_same, State.ring_updVf, Ring.completed, State.vfNum]
    rw [State.region?, hvf, State.vfOf, State.done_vfs]
    exact congrArg (fun v : Vf => tfind v.regions m) (State.vfOf_updVf_same s (s.vfNum r) f)
  · rw [State.done, State.me_goto, hkeep.me_x]
  · rw [State.pc_done, hkeep.pc_eq]
  · rw [State.byte, State.mem_done, hkeep.mem, State.byte]

/-- Defining a region, with which the instruction completes, leaves every other region, the general registers and memory. -/
theorem State.define_done_frame (hr : s.cur = .ring r) (n : Nat) (g : Region) :
    (s.updVf (s.vfNum r) fun v => v.define n g).done.region? r n = some g ∧
      (∀ m, m ≠ n → (s.updVf (s.vfNum r) fun v => v.define n g).done.region? r m = s.region? r m) ∧
      (s.updVf (s.vfNum r) fun v => v.define n g).done.me.x = s.me.x ∧ (s.updVf (s.vfNum r) fun v => v.define n g).done.pc = s.pc + 4 ∧
      ∀ k, (s.updVf (s.vfNum r) fun v => v.define n g).done.byte k = s.byte k := by
  obtain ⟨hreg, hrest⟩ := State.updVf_done_frame hr fun v => v.define n g
  exact ⟨(hreg n).trans (tfind_tput_same _ n g), fun m hm => (hreg m).trans (tfind_tput_ne _ g hm), hrest⟩

/-- Removing a region, with which the instruction completes, leaves every other region, the general registers and memory. -/
theorem State.undefine_done_frame (hr : s.cur = .ring r) (n : Nat) :
    (s.updVf (s.vfNum r) fun v => v.undefine n).done.region? r n = none ∧
      (∀ m, m ≠ n → (s.updVf (s.vfNum r) fun v => v.undefine n).done.region? r m = s.region? r m) ∧
      (s.updVf (s.vfNum r) fun v => v.undefine n).done.me.x = s.me.x ∧ (s.updVf (s.vfNum r) fun v => v.undefine n).done.pc = s.pc + 4 ∧
      ∀ k, (s.updVf (s.vfNum r) fun v => v.undefine n).done.byte k = s.byte k := by
  obtain ⟨hreg, hrest⟩ := State.updVf_done_frame hr fun v => v.undefine n
  exact ⟨(hreg n).trans (tfind_tdel_same _ n), fun m hm => (hreg m).trans (tfind_tdel_ne _ hm), hrest⟩

/-- Data that never came, which reads 0, is no descriptor of a region: its te is 0 (R170). -/
theorem regionOk_zeros (n : Nat) : regionOk (List.replicate n 0) = false := by
  have hte : (regionOf (List.replicate n 0)).te = 0 := field_zeros n 4 4
  have hshort : decide (16 ≤ (regionOf (List.replicate n 0)).te) = false := decide_eq_false (by omega)
  simp only [regionOk, hshort, Bool.and_false, Bool.false_and]

/-- A change of a thread's registers leaves the regions of every ring's VF. -/
theorem State.region_updSeq (s : State) (t : Thread) (f : Seq → Seq) (r n : Nat) : (s.updSeq t f).region? r n = s.region? r n := by
  have hvf : (s.updSeq t f).vfNum r = s.vfNum r := by
    cases t with
    | core d => rfl
    | ring q =>
      by_cases h : r = q
      · rw [State.vfNum, State.updSeq, h, State.ring_updRing_same, State.vfNum]
      · rw [State.vfNum, State.updSeq, State.ring_updRing_ne _ _ h, State.vfNum]
  rw [State.region?, hvf, State.vfOf, State.updSeq_vfs, State.region?, State.vfOf]

/-- A read that delivers leaves the regions of every ring's VF. -/
theorem State.region_readFor {th : Thread} {seq : Nat} {dep : Dep} {va : W64} {ps : List (Nat × MemAttr)} {got : Got}
    (h : s.readFor th seq dep va ps = .ok got) (r n : Nat) : got.state.region? r n = s.region? r n := by
  simp only [State.readFor] at h
  split at h
  · cases h
  · cases h
    exact State.region_updSeq (s.force _) th _ r n

/-- A record that describes a region has been delivered, so that its read leaves the regions of every ring's VF. -/
theorem State.region_readNow {regs : List (BitVec 5)} {va : W64} {ps : List (Nat × MemAttr)} {l : List Byte}
    (h : s.readNow regs va ps = some (l, u)) (hok : regionOk l = true) (r n : Nat) : u.region? r n = s.region? r n := by
  simp only [State.readNow] at h
  split at h
  · cases h
  · split at h
    next got hgot =>
      cases h
      exact State.region_readFor hgot r n
    next e he =>
      cases h
      rw [List.map_const', regionOk_zeros] at hok
      cases hok

end Sys2Proof.Machine
end

section
/-! The forms of Cairn's regions (R291 to R293, R298). -/

namespace Sys2Proof.Machine

/-- Settles O32: crn.def and crn.force define the region they name, crn.undef removes it, and crn.map issues a load. -/
theorem cairnForms : Obligations.CairnForms := by
  unfold Obligations.CairnForms
  refine ⟨?_, ?_, ?_, ?_, ?_, ?_⟩
  · intro s u r d a ps l hr hp h0 hb ha hn hs hok
    have hkeep : KeepsThreads s u := KeepsThreads.readNow hn
    obtain ⟨hnew, hother, hx, hpc, hbyte⟩ := State.define_done_frame (hkeep.cur.trans hr) (s.x d).toNat (regionOf l)
    refine ⟨_, exec_crnDef_record hr hp h0 hb ha hn hs hok, hnew, fun m hm => ?_, hx.trans hkeep.me_x, ?_,
      fun k => (hbyte k).trans (hkeep.byte k)⟩
    · rw [hother m hm, State.region_readNow hn hok]
    · rw [hpc, hkeep.pc_eq]
  · intro s r a g hr hp hg hb
    exact ⟨_, exec_crnUndef_unbound hr hp hg hb, State.undefine_done_frame hr (s.x a).toNat⟩
  · intro s r a g hr hp hg hb
    exact ⟨_, exec_crnForce_unbound hr hp hg hb, State.define_done_frame hr (s.x a).toNat { g with force := true }⟩
  · intro s r a g hr hp hg hb
    exact exec_crnForce_bound hr hp hg hb
  · intro s r a hr hp hg
    exact exec_crnForce_crnUndef_none hr hp hg
  · intro s r d a g ps hr hp h0 hg hw hold hnew hb ha hq
    obtain ⟨hloads, hrest⟩ := State.issueLoad_done_frame s
      (s.mapLoad d a (g.mapAt (fld (s.x a) 63 32) + BitVec.ofNat 64 (8 * fld (s.x a) 31 8)) ps)
    exact ⟨_, _, exec_crnMap_held hr hp h0 hg hw hold hnew hb ha hq, hloads, rfl, rfl, rfl, hrest⟩

end Sys2Proof.Machine
end

section
/-! The results of the integer instructions as values of R249 and R250 (R8). -/

namespace Sys2Proof.Machine

theorem u64_natCast (n : Nat) : u64 (n : Int) = BitVec.ofNat 64 n := BitVec.ofInt_natCast 64 n

theorem u64_toNat (x : W64) : u64 (x.toNat : Int) = x := by rw [u64_natCast, BitVec.ofNat_toNat, BitVec.setWidth_eq]

theorem u64_toInt (x : W64) : u64 x.toInt = x := BitVec.ofInt_toInt

theorem u64_add (i j : Int) : u64 (i + j) = u64 i + u64 j := BitVec.ofInt_add i j

theorem u64_sub_toNat (x y : W64) : u64 ((x.toNat : Int) - y.toNat) = x - y := by
  rw [Int.sub_eq_add_neg, u64_add, u64_toNat, u64, BitVec.ofInt_neg, ← u64, u64_toNat, BitVec.sub_eq_add_neg]

theorem two_pow_eq_natCast (n : Nat) : (2 : Int) ^ n = ((2 ^ n : Nat) : Int) := (Int.natCast_pow 2 n).symm

/-- A left shift multiplies (R249). -/
theorem u64_shiftLeft (x : W64) (n : Nat) : u64 ((x.toNat : Int) * 2 ^ n) = x <<< n := by
  rw [two_pow_eq_natCast, ← Int.natCast_mul, u64_natCast]
  exact BitVec.eq_of_toNat_eq (by rw [BitVec.toNat_ofNat, BitVec.toNat_shiftLeft, Nat.shiftLeft_eq])

/-- A logical right shift divides (R249). -/
theorem u64_ushiftRight (x : W64) (n : Nat) : u64 ((x.toNat : Int) / 2 ^ n) = x >>> n := by
  rw [two_pow_eq_natCast, ← Int.natCast_ediv, ← Nat.shiftRight_eq_div_pow, ← BitVec.toNat_ushiftRight, u64_toNat]

/-- An arithmetic right shift divides toward minus infinity (R249). -/
theorem u64_sshiftRight (x : W64) (n : Nat) : u64 (x.toInt / 2 ^ n) = x.sshiftRight n := by
  rw [two_pow_eq_natCast, ← Int.shiftRight_eq_div_pow, ← BitVec.toInt_sshiftRight, u64_toInt]

theorem flag64_decide (p : Prop) [Decidable p] : flag64 (decide p) = if p then 1 else 0 := by
  simp only [flag64, decide_eq_true_eq]

/-- A choice of the lesser value, the first one where neither is less (R249). -/
theorem u64_min {e : W64 → Int} (he : ∀ x, u64 (e x) = x) (x y : W64) : u64 (min (e x) (e y)) = if e y < e x then y else x := by
  split
  next h =>
    have hy : min (e x) (e y) = e y := by omega
    rw [hy, he]
  next h =>
    have hx : min (e x) (e y) = e x := by omega
    rw [hx, he]

/-- A choice of the greater value, the first one where neither is greater (R249). -/
theorem u64_max {e : W64 → Int} (he : ∀ x, u64 (e x) = x) (x y : W64) : u64 (max (e x) (e y)) = if e x < e y then y else x := by
  split
  next h =>
    have hy : max (e x) (e y) = e y := by omega
    rw [hy, he]
  next h =>
    have hx : max (e x) (e y) = e x := by omega
    rw [hx, he]

theorem toInt_eq_zero (y : W64) : y.toInt = 0 ↔ y = 0 := ⟨fun h => BitVec.eq_of_toInt_eq h, fun h => by rw [h]; rfl⟩

theorem toNat_cast_eq_zero (y : W64) : (y.toNat : Int) = 0 ↔ y = 0 := by
  rw [Int.natCast_eq_zero]
  exact ⟨fun h => BitVec.eq_of_toNat_eq h, fun h => by rw [h]; rfl⟩

/-- A sign-extended immediate has the immediate's value (R250). -/
theorem u64_toInt_imm (v : BitVec 16) : u64 v.toInt = simm v := rfl

/-- A zero-extended immediate in the upper part of a word (R250). -/
theorem u64_upper (v : BitVec 16) : u64 ((v.toNat : Int) * 2 ^ 16) = zimm v <<< 16 := by
  rw [← u64_shiftLeft, zimm, BitVec.zeroExtend, BitVec.toNat_setWidth_of_le (by decide)]

/-- The low half of a register, zero-extended (R249). -/
theorem u64_low (x : W64) : u64 ((x.toNat : Int) % 2 ^ 32) = (BitVec.truncate 32 x).zeroExtend 64 := by
  rw [two_pow_eq_natCast, ← Int.natCast_emod, u64_natCast]
  exact BitVec.eq_of_toNat_eq (by simp)

theorem divS_eq (x y : W64) : divS x y = if y.toInt = 0 then u64 (-1) else u64 (x.toInt.tdiv y.toInt) := by
  simp only [divS, toInt_eq_zero, u64, w64, truncDiv]

theorem remS_eq (x y : W64) :
    remS x y = if y.toInt = 0 then u64 x.toInt else u64 (x.toInt - y.toInt * x.toInt.tdiv y.toInt) := by
  rw [u64_toInt]
  simp only [remS, toInt_eq_zero, u64, w64, truncDiv]

theorem divU_eq (x y : W64) :
    divU x y = if (y.toNat : Int) = 0 then u64 (2 ^ 64 - 1) else u64 ((x.toNat : Int) / y.toNat) := by
  have hones : w64 (-1) = u64 (2 ^ 64 - 1) := by decide
  rw [← Int.natCast_ediv, u64_natCast]
  simp only [divU, toNat_cast_eq_zero, hones]

theorem remU_eq (x y : W64) :
    remU x y = if (y.toNat : Int) = 0 then u64 (x.toNat : Int) else u64 ((x.toNat : Int) % y.toNat) := by
  rw [u64_toNat, ← Int.natCast_emod, u64_natCast]
  simp only [remU, toNat_cast_eq_zero]

/-- An instruction is the register operation on the registers that it names, d first, and writes the value v (R248). -/
def WritesReg (i : Instr) (s : State) (d : BitVec 5) (regs : List (BitVec 5)) (v : W64) : Prop :=
  ∃ srcs f, regs = d :: srcs ∧ exec i s = regOp d srcs f s ∧ f s = v

section
variable {i : Instr} {s : State} {d a b : BitVec 5} {v : W64}

theorem WritesReg.alu (f : W64 → W64 → W64) (he : exec i s = aluOp d a b f s) (hv : f (s.x a) (s.x b) = v) : WritesReg i s d [d, a, b] v :=
  ⟨[a, b], _, rfl, he, hv⟩

theorem WritesReg.un (f : W64 → W64) (he : exec i s = unOp d a f s) (hv : f (s.x a) = v) : WritesReg i s d [d, a] v := ⟨[a], _, rfl, he, hv⟩

theorem WritesReg.const (f : State → W64) (he : exec i s = regOp d [] f s) (hv : f s = v) : WritesReg i s d [d] v := ⟨[], f, rfl, he, hv⟩

end

/-- A form of R249 or R250 writes the value of the tables there. -/
theorem writesReg_of_scalarResult {i : Instr} {s : State} {d : BitVec 5} {regs : List (BitVec 5)} {v : W64}
    (h : scalarResult i s = some (d, regs, v)) : WritesReg i s d regs v := by
  cases i with
  | add d a b => cases h; exact .alu (fun x y => x + y) rfl (by rw [u64_add, u64_toNat, u64_toNat])
  | sub d a b => cases h; exact .alu (fun x y => x - y) rfl (u64_sub_toNat _ _).symm
  | and d a b => cases h; exact .alu (fun x y => x &&& y) rfl rfl
  | or d a b => cases h; exact .alu (fun x y => x ||| y) rfl rfl
  | xor d a b => cases h; exact .alu (fun x y => x ^^^ y) rfl rfl
  | andn d a b => cases h; exact .alu (fun x y => x &&& ~~~y) rfl rfl
  | sll d a b => cases h; exact .alu (fun x y => x <<< shAmt y) rfl (u64_shiftLeft _ _).symm
  | srl d a b => cases h; exact .alu (fun x y => x >>> shAmt y) rfl (u64_ushiftRight _ _).symm
  | sra d a b => cases h; exact .alu (fun x y => x.sshiftRight (shAmt y)) rfl (u64_sshiftRight _ _).symm
  | slt d a b => cases h; exact .alu (fun x y => flag64 (decide (x.toInt < y.toInt))) rfl (flag64_decide _)
  | sltn d a b => cases h; exact .alu (fun x y => flag64 (decide (x.toNat < y.toNat))) rfl (by simp only [flag64_decide, Int.ofNat_lt])
  | min d a b => cases h; exact .alu (fun x y => if y.toInt < x.toInt then y else x) rfl (u64_min u64_toInt _ _).symm
  | max d a b => cases h; exact .alu (fun x y => if x.toInt < y.toInt then y else x) rfl (u64_max u64_toInt _ _).symm
  | minn d a b => cases h; exact .alu (fun x y => if y.toNat < x.toNat then y else x) rfl (by simp only [u64_min u64_toNat, Int.ofNat_lt])
  | maxn d a b => cases h; exact .alu (fun x y => if x.toNat < y.toNat then y else x) rfl (by simp only [u64_max u64_toNat, Int.ofNat_lt])
  | mul d a b => cases h; exact .alu (fun x y => w64 (x.toInt * y.toInt)) rfl rfl
  | mulh d a b =>
    cases h
    exact .alu (fun x y => w64 (floorDiv (x.toInt * y.toInt) (2 ^ 64))) rfl (congrArg u64 (Int.fdiv_eq_ediv_of_nonneg _ (by decide)))
  | mulhn d a b => cases h; exact .alu (fun x y => BitVec.ofNat 64 (x.toNat * y.toNat / 2 ^ 64)) rfl (u64_natCast _).symm
  | div d a b => cases h; exact .alu divS rfl (divS_eq _ _)
  | divn d a b => cases h; exact .alu divU rfl (divU_eq _ _)
  | rem d a b => cases h; exact .alu remS rfl (remS_eq _ _)
  | remn d a b => cases h; exact .alu remU rfl (remU_eq _ _)
  | addw d a b => cases h; exact .alu (fun x y => (BitVec.truncate 32 (x + y)).signExtend 64) rfl rfl
  | clz d a => cases h; exact .un (fun x => BitVec.ofNat 64 (leadZeros 64 x.toNat)) rfl rfl
  | ctz d a => cases h; exact .un (fun x => BitVec.ofNat 64 (trailZeros 64 x.toNat)) rfl rfl
  | popc d a => cases h; exact .un (fun x => BitVec.ofNat 64 (popCount 64 x.toNat)) rfl rfl
  | sextW d a => cases h; exact .un (fun x => (BitVec.truncate 32 x).signExtend 64) rfl rfl
  | zextW d a => cases h; exact .un (fun x => (BitVec.truncate 32 x).zeroExtend 64) rfl (u64_low _).symm
  | addi d a k => cases h; exact .un (fun x => x + simm k) rfl (by rw [u64_add, u64_toNat, u64_toInt_imm])
  | andi d a k => cases h; exact .un (fun x => x &&& zimm k) rfl rfl
  | ori d a k => cases h; exact .un (fun x => x ||| zimm k) rfl rfl
  | xori d a k => cases h; exact .un (fun x => x ^^^ zimm k) rfl rfl
  | slti d a k =>
    cases h
    exact .un (fun x => flag64 (decide (x.toInt < (simm k).toInt))) rfl (by rw [flag64_decide, simm, BitVec.toInt_signExtend_of_le (by decide)])
  | sltni d a k =>
    cases h
    exact .un (fun x => flag64 (decide (x.toNat < (simm k).toNat))) rfl
      (by rw [flag64_decide]; simp only [Int.ofNat_lt]; rfl)
  | shiSll d a n => cases h; exact .un (fun x => x <<< n.toNat) rfl (u64_shiftLeft _ _).symm
  | shiSrl d a n => cases h; exact .un (fun x => x >>> n.toNat) rfl (u64_ushiftRight _ _).symm
  | shiSra d a n => cases h; exact .un (fun x => x.sshiftRight n.toNat) rfl (u64_sshiftRight _ _).symm
  | lui d k => cases h; exact .const (fun _ => zimm k <<< 16) rfl (u64_upper _).symm
  | auipc d k => cases h; exact .const (fun st => st.pc + (zimm k <<< 16)) rfl (by rw [u64_add, u64_toNat, u64_upper])
  | _ => cases h

/-- Settles O10: each form is the register operation with the value of its table, whose registers are at hand. -/
theorem scalarResults : Obligations.ScalarResults := by
  unfold Obligations.ScalarResults
  intro i s d regs v hv hp
  obtain ⟨srcs, f, rfl, he, rfl⟩ := writesReg_of_scalarResult hv
  rw [he]
  exact regOp_done hp

end Sys2Proof.Machine
end
section
/-! The issue of loads, stores and atomics (R251 to R254, R256). -/

namespace Sys2Proof.Machine

theorem exec_loadForm {i : Instr} {g : Bool} {d b : BitVec 5} {z o c : BitVec 2} {v : BitVec 10} (h : loadForm i = some (g, d, b, z, o, c, v))
    (s : State) : exec i s = loadOp g d b z o c v s := by
  unfold loadForm at h
  split at h <;> cases h <;> rfl

theorem exec_amoForm {i : Instr} {k d a b : BitVec 5} {c o : BitVec 2} {z : BitVec 1} (h : amoForm i = some (k, d, a, b, c, o, z)) (s : State) :
    exec i s = amoOp k d a b c o z s := by
  unfold amoForm at h
  split at h <;> cases h <;> rfl

theorem exec_st (d b : BitVec 5) (z o c : BitVec 2) (v : BitVec 10) (s : State) : exec (.st d b z o c v) s = storeOp d b z o c v s := rfl

theorem State.ea_eq (s : State) (b : BitVec 5) (z : BitVec 2) (v : BitVec 10) :
    s.ea b z v = s.x b + BitVec.ofInt 64 (v.toInt * 2 ^ z.toNat) := by rw [State.ea, two_pow_eq_natCast]

/-- The outstanding load of a memory form whose bytes lie at some places (R248, R251). -/
def State.loadAt (s : State) (g : Bool) (d b : BitVec 5) (z o c : BitVec 2) (va : W64) (ps : List (Nat × MemAttr)) : PendLoad :=
  { seq := s.nextSeqNo, kind := .load g, rd := d, nb := 2 ^ z.toNat, acq := o.getLsbD 0, rel := false, scope := c, va := va, locs := ps.map (·.1),
    attrs := ps.map (·.2), dep := s.depOf [b], got := [], took := Dep.zero }

/-- The outstanding atomic whose bytes lie at some places (R256). -/
def State.amoAt (s : State) (k d a b : BitVec 5) (c o : BitVec 2) (z : BitVec 1) (ps : List (Nat × MemAttr)) : PendLoad :=
  { seq := s.nextSeqNo, kind := .amo k (s.x b) (s.x d), rd := d, nb := 4 * 2 ^ z.toNat, acq := o.getLsbD 0, rel := o.getLsbD 1, scope := c,
    va := s.x a, locs := ps.map (·.1), attrs := ps.map (·.2), dep := s.depOf [a], got := [], took := Dep.zero }

/-- The store that a memory form puts into the store buffer (R251, R254). -/
def State.storeAt (s : State) (d : BitVec 5) (z o c : BitVec 2) (va : W64) (ps : List (Nat × MemAttr)) : BufStore :=
  { seq := s.nextSeqNo, rel := o.getLsbD 1, scope := c, va := va, locs := ps.map (·.1), attrs := ps.map (·.2),
    data := leBytes (2 ^ z.toNat) (s.x d).toNat }

variable {s : State} {d a b : BitVec 5} {z o c : BitVec 2} {v : BitVec 10} {ps : List (Nat × MemAttr)}

theorem loadOp_issue (g : Bool) (hp : s.pendAny [d, b] = false)
    (ha : s.access .load (s.x b + BitVec.ofInt 64 (v.toInt * 2 ^ z.toNat)) (2 ^ z.toNat) (alignOf o z) = .ok ps)
    (hq : s.acqHolds false ps = false) :
    loadOp g d b z o c v s =
      .next (s.issueLoad (s.loadAt g d b z o c (s.x b + BitVec.ofInt 64 (v.toInt * 2 ^ z.toNat)) ps)).done := by
  rw [alignOf] at ha
  simp only [loadOp, hp, State.ea_eq, ha, hq, Bool.false_eq_true, if_false, State.loadAt]

theorem amoOp_issue {k : BitVec 5} {z : BitVec 1} (hp : s.pendAny [d, a, b] = false)
    (ha : s.access .amo (s.x a) (4 * 2 ^ z.toNat) (some (4 * 2 ^ z.toNat)) = .ok ps) (hq : s.acqHolds false ps = false) :
    amoOp k d a b c o z s = .next (s.issueLoad (s.amoAt k d a b c o z ps)).done := by
  simp only [amoOp, hp, ha, hq, Bool.false_eq_true, if_false, State.amoAt]

theorem storeOp_issue (hp : s.pendAny [d, b] = false)
    (ha : s.access .store (s.x b + BitVec.ofInt 64 (v.toInt * 2 ^ z.toNat)) (2 ^ z.toNat) (alignOf o z) = .ok ps)
    (hq : s.acqHolds true ps = false) :
    storeOp d b z o c v s =
      .next (s.issueStore (s.storeAt d z o c (s.x b + BitVec.ofInt 64 (v.toInt * 2 ^ z.toNat)) ps)
        ((s.x b + BitVec.ofInt 64 (v.toInt * 2 ^ z.toNat)).toNat % 2 ^ z.toNat == 0)).done := by
  rw [alignOf] at ha
  simp only [storeOp, hp, State.ea_eq, ha, hq, Bool.false_eq_true, if_false, State.storeAt]

theorem State.stores_issueLoad_done (s : State) (l : PendLoad) : (s.issueLoad l).done.me.stores = s.me.stores := by
  rw [State.done, State.me_goto, State.issueLoad, State.me_updSeq]

/-- A store that retires changes the store buffer and takes the next place; a whole one ends up last there, alone or merged (R117, R253, R254). -/
theorem State.issueStore_buffers (s : State) (b : BufStore) (whole : Bool) :
    ∃ f : List BufStore → List BufStore,
      s.issueStore b whole = s.updSeq s.cur (fun q => { q with stores := f q.stores, nextSeq := q.nextSeq + 1 }) ∧
        (whole = true → ∀ l, ∃ p, (f l).getLast? = some p ∧ p.locs = b.locs ∧ p.data = b.data) := by
  have happend : ∃ f : List BufStore → List BufStore,
      s.updSeq s.cur (fun q => { q with stores := q.stores ++ [b], nextSeq := q.nextSeq + 1 }) =
        s.updSeq s.cur (fun q => { q with stores := f q.stores, nextSeq := q.nextSeq + 1 }) ∧
        (whole = true → ∀ l, ∃ p, (f l).getLast? = some p ∧ p.locs = b.locs ∧ p.data = b.data) :=
    ⟨fun l => l ++ [b], rfl, fun _ l => ⟨b, List.getLast?_concat, rfl, rfl⟩⟩
  unfold State.issueStore
  split
  next hw =>
    simp only
    split
    next i _ _ =>
      split
      next p _ =>
        split
        · exact ⟨fun l => l.eraseIdx i ++ [_], rfl, fun _ l => ⟨_, List.getLast?_concat, rfl, rfl⟩⟩
        · exact happend
      next => exact happend
    next => exact happend
  next hw => exact ⟨fun l => l ++ _, rfl, fun h => absurd h hw⟩

/-- A store that retires, with which the instruction completes, changes no register, no outstanding load and no byte of memory (R254). -/
theorem State.issueStore_done_frame (s : State) (b : BufStore) (whole : Bool) :
    (s.issueStore b whole).done.me.loads = s.me.loads ∧ (s.issueStore b whole).done.me.x = s.me.x ∧
      (s.issueStore b whole).done.pc = s.pc + 4 ∧ (∀ k, (s.issueStore b whole).done.byte k = s.byte k) ∧
      (whole = true → ∃ p, (s.issueStore b whole).done.me.stores.getLast? = some p ∧ p.locs = b.locs ∧ p.data = b.data) := by
  obtain ⟨f, hf, hlast⟩ := s.issueStore_buffers b whole
  rw [hf]
  refine ⟨?_, ?_, ?_, fun k => ?_, fun hw => ?_⟩
  · rw [State.done, State.me_goto, State.me_updSeq]
  · rw [State.done, State.me_goto, State.me_updSeq]
  · rw [State.pc_done, State.pc, State.me_updSeq, State.pc]
  · rw [State.byte, State.mem_done, State.updSeq_mem, State.byte]
  · rw [State.done, State.me_goto, State.me_updSeq]
    exact hlast hw s.me.stores

/-- Settles O15: a load or atomic joins the outstanding ones, and a store goes into the store buffer. -/
theorem memoryIssue : Obligations.MemoryIssue := by
  unfold Obligations.MemoryIssue
  refine ⟨?_, ?_, ?_⟩
  · intro i s g d b z o c v ps hi hp va ha hq
    obtain ⟨hloads, hx, hpc, hbyte⟩ := s.issueLoad_done_frame (s.loadAt g d b z o c va ps)
    exact ⟨_, _, (exec_loadForm hi s).trans (loadOp_issue g hp ha hq), hloads, s.stores_issueLoad_done _, hx, hpc, hbyte,
      rfl, rfl, rfl, rfl, rfl, rfl, rfl, rfl⟩
  · intro s d b z o c v ps hp va ha hq
    obtain ⟨hloads, hx, hpc, hbyte, hlast⟩ := s.issueStore_done_frame (s.storeAt d z o c va ps) (va.toNat % 2 ^ z.toNat == 0)
    exact ⟨_, (exec_st d b z o c v s).trans (storeOp_issue hp ha hq), hloads, hx, hpc, hbyte, fun h => hlast (beq_iff_eq.2 h)⟩
  · intro i s k d a b c o z ps hi hp ha hq
    obtain ⟨hloads, hx, hpc, hbyte⟩ := s.issueLoad_done_frame (s.amoAt k d a b c o z ps)
    exact ⟨_, _, (exec_amoForm hi s).trans (amoOp_issue hp ha hq), hloads, s.stores_issueLoad_done _, hx, hpc, hbyte,
      rfl, rfl, rfl, rfl, rfl, rfl, rfl, rfl⟩

end Sys2Proof.Machine
end
section
/-! Targets that R202 accepts, and a ring or a core whose instruction completes at an address (R248, R262). -/

namespace Sys2Proof.Machine

theorem badTarget_eq_false {v : W64} (h4 : v.toNat % 4 = 0) (hlt : v.toNat < 2 ^ 54) : badTarget v = false := by
  simp only [badTarget, h4, ne_eq, not_true_eq_false, decide_false, Bool.false_or, decide_eq_false_iff_not, Nat.not_le, hlt]

theorem badTarget_eq_true {v : W64} (h : v.toNat % 4 ≠ 0 ∨ 2 ^ 54 ≤ v.toNat) : badTarget v = true := by
  simpa only [badTarget, Bool.or_eq_true, decide_eq_true_eq] using h

/-- A handler's address is a multiple of 4 (R299, R322, R328). -/
theorem toNat_handler_mod (v : W64) : (v &&& 0xFFFFFFFFFFFFFFFC).toNat % 4 = 0 := by
  rw [BitVec.toNat_and, show 4 = 2 ^ 2 from rfl, Nat.and_mod_two_pow]
  exact Nat.and_zero _

variable {s : State} {r d : Nat}

theorem State.me_ring (hr : s.cur = .ring r) : s.me = (s.ring r).seq := by rw [State.me, hr, State.seqOf]

theorem State.me_core (hd : s.cur = .core d) : s.me = (s.die d).core := by rw [State.me, hd, State.seqOf]

theorem State.me_updRing (hr : s.cur = .ring r) (f : Ring → Ring) : (s.updRing r f).me = (f (s.ring r)).seq := by
  rw [State.me_ring (s := s.updRing r f) hr, State.ring_updRing_same]

theorem State.me_updDie (hd : s.cur = .core d) (f : Die → Die) : (s.updDie d f).me = (f (s.die d)).core := by
  rw [State.me_core (s := s.updDie d f) hd, State.die_updDie_same]

theorem State.rcsr_updRing_same (s : State) (r : Nat) (f : Ring → Ring) (n : Nat) :
    (s.updRing r f).rcsr r n = tget (csrReset n) (f (s.ring r)).csr n := by rw [State.rcsr, State.ring_updRing_same]

theorem State.dcsr_updDie_same (s : State) (d : Nat) (f : Die → Die) (n : Nat) :
    (s.updDie d f).dcsr d n = tget (coreCsrReset n) (f (s.die d)).csr n := by rw [State.dcsr, State.die_updDie_same]

theorem onlyDie_updDie (s : State) (d : Nat) (f : Die → Die) : OnlyDie d s (s.updDie d f) := by
  rw [OnlyDie, State.die_updDie_same, State.updDie]

theorem State.goto_ring (hr : s.cur = .ring r) (v : W64) :
    s.goto v = s.updRing r fun x => { x with wait := none, seq := { x.seq with pc := v, instret := x.seq.instret + 1 } } := by
  simp only [State.goto, hr, State.endWait, State.updSeq, State.updRing_updRing]

theorem State.goto_core (hd : s.cur = .core d) (v : W64) :
    s.goto v = s.updDie d fun x => { x with core := { x.core with pc := v, instret := x.core.instret + 1 } } := by
  simp only [State.goto, hd, State.endWait, State.updSeq]

end Sys2Proof.Machine
end

section
/-! A user trap that the graph's handler takes (R264, R299, R300). -/

namespace Sys2Proof.Machine

theorem exec_trap (imm : BitVec 16) (s : State) : exec (.trap imm) s = .next (s.trap 1 (imm.zeroExtend 64)) := rfl

/-- A ring whose graph's handler has been entered (R300). -/
def Ring.inHandler (x : Ring) (target pc : W64) (cause : Nat) (value : W64) : Ring :=
  { x with csr := tput (tput (tput (tput x.csr 0x029 pc) 0x02A (BitVec.ofNat 64 cause)) 0x02B value) 0x02C 1, wait := none,
           seq := { x.seq with pc := target, x := tput x.seq.x 31 (pc + 4) } }

variable {s : State} {r : Nat}

theorem State.toUser_eq (s : State) (r : Nat) (pc : W64) (cause : Nat) (value : W64) :
    s.toUser r pc cause value = s.updRing r fun x => x.inHandler (s.utvec r) pc cause value := by
  simp only [State.toUser, State.setRcsr, State.updRing_updRing, Ring.inHandler]

theorem State.trap_toUser {cause : Nat} (hr : s.cur = .ring r) (hc : cause < 0x10) (hu : s.userTaken r cause = true)
    (hv : badTarget (s.utvec r) = false) (hp : s.pend (.ring r) 31 = false) (value : W64) :
    s.trap cause value = s.toUser r s.pc cause value := by
  have hpc : s.pc = (s.ring r).seq.pc := by rw [State.pc, State.me_ring hr]
  simp only [State.trap, hr, State.trapRing, hc, hu, hv, hp, and_self, if_true, Bool.false_eq_true, if_false, hpc]

/-- What the entry of the graph's handler writes, and what it leaves (R300). -/
theorem State.toUser_frame (hr : s.cur = .ring r) (pc : W64) (cause : Nat) (value : W64) :
    let t := s.toUser r pc cause value
    OnlyRing r s t ∧ t.rcsr r 0x029 = pc ∧ t.rcsr r 0x02A = BitVec.ofNat 64 cause ∧ t.rcsr r 0x02B = value ∧ t.rcsr r 0x02C = 1 ∧
      t.pc = s.utvec r ∧ t.x 31 = pc + 4 ∧ (∀ q, q ≠ 31 → t.x q = s.x q) ∧ (t.ring r).level = (s.ring r).level ∧
      t.me.instret = s.me.instret ∧ (∀ n, n ∉ [0x029, 0x02A, 0x02B, 0x02C] → t.rcsr r n = s.rcsr r n) ∧ ∀ k, t.byte k = s.byte k := by
  simp only [State.toUser_eq]
  refine ⟨onlyRing_updRing s r _, ?_, ?_, ?_, ?_, ?_, ?_, fun q hq => ?_, ?_, ?_, fun n hn => ?_, State.byte_updRing s r _⟩
  · simp [State.rcsr_updRing_same, Ring.inHandler, tget_tput]
  · simp [State.rcsr_updRing_same, Ring.inHandler, tget_tput]
  · simp [State.rcsr_updRing_same, Ring.inHandler, tget_tput]
  · simp [State.rcsr_updRing_same, Ring.inHandler]
  · rw [State.pc, State.me_updRing hr, Ring.inHandler]
  · simp [State.x, State.me_updRing hr, Ring.inHandler]
  · have hne : q.toNat ≠ 31 := fun e => hq (BitVec.eq_of_toNat_eq e)
    simp only [State.x, State.me_updRing hr, State.me_ring hr, Ring.inHandler, tget_tput_ne _ _ _ hne]
  · rw [State.ring_updRing_same, Ring.inHandler]
  · rw [State.me_updRing hr, State.me_ring hr, Ring.inHandler]
  · simp only [List.mem_cons, List.not_mem_nil, or_false, not_or] at hn
    obtain ⟨hepc, hcause, hval, hstat⟩ := hn
    rw [State.rcsr_updRing_same, Ring.inHandler, tget_tput_ne _ _ _ hstat, tget_tput_ne _ _ _ hval, tget_tput_ne _ _ _ hcause,
      tget_tput_ne _ _ _ hepc, State.rcsr]

/-- Settles O22: the handler takes cause 1, and its entry writes what R300 says. -/
theorem userTrapEntry : Obligations.UserTrapEntry := by
  unfold Obligations.UserTrapEntry
  intro s r imm hr hu hen hact hdel hlt hp
  have htaken : s.userTaken r 1 = true := by simp only [State.userTaken, hu, hen, hact, hdel, beq_self_eq_true, Bool.not_false, Bool.and_self]
  have hgood : badTarget (s.utvec r) = false := badTarget_eq_false (toNat_handler_mod _) hlt
  have hframe := State.toUser_frame hr s.pc 1 (imm.zeroExtend 64)
  rw [hu] at hframe
  exact ⟨_, (exec_trap imm s).trans (congrArg _ (State.trap_toUser hr (by decide) htaken hgood hp _)), hframe⟩

end Sys2Proof.Machine
end

section
/-! The returns from a trap (R326, R328). -/

namespace Sys2Proof.Machine

theorem exec_sret (s : State) : exec .sret s = execSret s := rfl

theorem exec_hret (s : State) : exec .hret s = execHret s := rfl

/-- A status word whose enable takes the previous enable, which becomes 1 (R326, R328). -/
def restored (st : W64) : W64 := setFld (setFld st 0 0 (fld st 1 1)) 1 1 1

theorem toNat_restored (st : W64) : (restored st).toNat = st.toNat / 2 / 2 * 4 + 2 + st.toNat / 2 % 2 := by
  have hst := st.isLt
  have hlow : (setFld st 0 0 (fld st 1 1)).toNat = st.toNat / 2 * 2 + st.toNat / 2 % 2 := by
    simp only [setFld, fld, bitsOf, BitVec.toNat_ofNat, Nat.reduceAdd, Nat.reduceSub, Nat.reducePow, Nat.div_one, Nat.mul_one, Nat.mod_mod]
    rw [Nat.mod_eq_of_lt] <;> omega
  have hlt : st.toNat / 2 < 2 ^ 63 := by omega
  rw [restored, setFld, BitVec.toNat_ofNat, hlow]
  simp only [bitsOf, Nat.reduceAdd, Nat.reduceSub, Nat.reducePow]
  generalize st.toNat / 2 = n at hlt ⊢
  have hhalf : (n * 2 + n % 2) / 2 = n := by omega
  rw [hhalf, Nat.mod_eq_of_lt] <;> omega

theorem fld_restored_enable (st : W64) : fld (restored st) 0 0 = fld st 1 1 := by
  simp only [fld, bitsOf, toNat_restored]
  omega

theorem fld_restored_previous (st : W64) : fld (restored st) 1 1 = 1 := by
  simp only [fld, bitsOf, toNat_restored]
  omega

theorem fld_restored_rest (st : W64) : fld (restored st) 63 2 = fld st 63 2 := by
  simp only [fld, bitsOf, toNat_restored]
  omega

/-- A ring whose RSQ has returned to an address by the status word (R326). -/
def Ring.returned (x : Ring) (target st : W64) : Ring :=
  { x with csr := tput (tput x.csr 0x1001 (restored st)) 0x02C (BitVec.ofNat 64 (fld st 3 3)), level := if bit st 2 then .s else .u, wait := none,
           seq := { x.seq with pc := target, instret := x.seq.instret + 1 } }

/-- A die whose core has returned to an address by the status word (R328). -/
def Die.returned (x : Die) (target st : W64) : Die :=
  { x with csr := tput x.csr 0x2006 (restored st), core := { x.core with pc := target, instret := x.core.instret + 1 } }

variable {s : State} {r d : Nat}

theorem exec_sret_returns (hr : s.cur = .ring r) (hl : (s.ring r).level ≠ .u) (hv : badTarget (s.rcsr r 0x1003) = false) :
    exec .sret s = .next (s.updRing r fun x => x.returned (s.rcsr r 0x1003) (s.rcsr r 0x1001)) := by
  simp only [exec_sret, execSret, hr, if_neg hl, hv, Bool.false_eq_true, if_false]
  rw [State.goto_ring (r := r)]
  · simp only [State.setRcsr, State.updRing_updRing, Ring.returned, restored]
  · exact hr

theorem exec_sret_badTarget (hr : s.cur = .ring r) (hl : (s.ring r).level ≠ .u) (hv : badTarget (s.rcsr r 0x1003) = true) :
    exec .sret s = .next (s.trap 0x12 (s.rcsr r 0x1003)) := by
  simp only [exec_sret, execSret, hr, if_neg hl, hv, if_true]

theorem exec_sret_user (hr : s.cur = .ring r) (hl : (s.ring r).level = .u) : exec .sret s = .next (s.trap 0x11 0xE0000000) := by
  simp only [exec_sret, execSret, hr, if_pos hl]

theorem exec_hret_returns (hd : s.cur = .core d) (hv : badTarget (s.dcsr d 0x2003) = false) :
    exec .hret s = .next (s.updDie d fun x => x.returned (s.dcsr d 0x2003) (s.dcsr d 0x2006)) := by
  simp only [exec_hret, execHret, hd, hv, Bool.false_eq_true, if_false]
  rw [State.goto_core (d := d)]
  · simp only [State.setDcsr, State.updDie_updDie, Die.returned, restored]
  · exact hd

/-- Settles O26: a return writes the status word that R326 and R328 give, and an address or a level that forbids it traps. -/
theorem trapReturns : Obligations.TrapReturns := by
  unfold Obligations.TrapReturns
  refine ⟨?_, ?_, ?_, ?_⟩
  · intro s r hr hl h4 hlt
    have hstatus : (s.updRing r fun x => x.returned (s.rcsr r 0x1003) (s.rcsr r 0x1001)).rcsr r 0x1001 = restored (s.rcsr r 0x1001) := by
      simp [State.rcsr_updRing_same, Ring.returned, tget_tput]
    refine ⟨_, exec_sret_returns hr hl (badTarget_eq_false h4 hlt), onlyRing_updRing s r _, ?_, ?_, ?_, ?_, ?_, ?_, ?_, fun n hn => ?_,
      State.byte_updRing s r _⟩
    · rw [State.pc, State.me_updRing hr, Ring.returned]
    · rw [State.ring_updRing_same, Ring.returned]
    · rw [hstatus, fld_restored_enable]
    · rw [hstatus, fld_restored_previous]
    · rw [hstatus, fld_restored_rest]
    · simp [State.rcsr_updRing_same, Ring.returned]
    · rw [State.me_updRing hr, State.me_ring hr, Ring.returned]
    · simp only [List.mem_cons, List.not_mem_nil, or_false, not_or] at hn
      obtain ⟨hstat, hact⟩ := hn
      rw [State.rcsr_updRing_same, Ring.returned, tget_tput_ne _ _ _ hact, tget_tput_ne _ _ _ hstat, State.rcsr]
  · exact fun s r hr hl hv => exec_sret_badTarget hr hl (badTarget_eq_true hv)
  · exact fun s r hr hl => exec_sret_user hr hl
  · intro s d hd h4 hlt
    have hstatus : (s.updDie d fun x => x.returned (s.dcsr d 0x2003) (s.dcsr d 0x2006)).dcsr d 0x2006 = restored (s.dcsr d 0x2006) := by
      rw [State.dcsr_updDie_same, Die.returned, tget_tput_same]
    refine ⟨_, exec_hret_returns hd (badTarget_eq_false h4 hlt), onlyDie_updDie s d _, ?_, ?_, ?_, ?_, ?_, fun n hn => ?_,
      State.byte_updDie s d _⟩
    · rw [State.pc, State.me_updDie hd, Die.returned]
    · rw [hstatus, fld_restored_enable]
    · rw [hstatus, fld_restored_previous]
    · rw [hstatus, fld_restored_rest]
    · rw [State.me_updDie hd, State.me_core hd, Die.returned]
    · rw [State.dcsr_updDie_same, Die.returned, tget_tput_ne _ _ _ hn, State.dcsr]

end Sys2Proof.Machine
end
section
/-! Words that the spec writes out (R195, R249, R250, R258, R260, R264, R273, R330). -/

namespace Sys2Proof.Laws

/-- The word of a well-formed sequencer instruction decodes to it (R195). -/
theorem decodeSeq_of_encode {i : Instr} {w : W32} (hw : i.wf = true) (hk : i.isElem = false) (he : encode i = some w) : decodeSeq w = .ok i := by
  have h := encodeDecode i w hw he
  rwa [if_neg (by rw [hk]; exact Bool.false_ne_true)] at h

/-- The word of a well-formed element instruction decodes to it (R183). -/
theorem decodeElem_of_encode {i : Instr} {w : W32} (hw : i.wf = true) (hk : i.isElem = true) (he : encode i = some w) : decodeElem w = .ok i := by
  have h := encodeDecode i w hw he
  rwa [if_pos hk] at h

/-- Settles O4: each word is the encoding of the instruction that the spec gives beside it. -/
theorem wordsDecode : Obligations.WordsDecode := by
  unfold Obligations.WordsDecode
  refine ⟨?_, ?_, ?_, ?_, ?_, ?_, ?_, ?_, ?_, ?_, ?_, ?_, ?_⟩
  case refine_12 | refine_13 => exact decodeElem_of_encode rfl rfl rfl
  all_goals exact decodeSeq_of_encode rfl rfl rfl

end Sys2Proof.Laws
end

section
/-! What a machine check, an integrity fault or a read leaves of the registers of every thread (R106, R412, R428). -/

namespace Sys2Proof.Machine

theorem State.seqOf_updRing (s : State) (r : Nat) {f : Ring → Ring} (hf : (f (s.ring r)).seq = (s.ring r).seq) (th : Thread) :
    (s.updRing r f).seqOf th = s.seqOf th := by
  cases th with
  | ring q =>
    by_cases h : q = r
    · rw [h, State.seqOf, State.ring_updRing_same, hf, State.seqOf]
    · rw [State.seqOf, State.ring_updRing_ne s f h, State.seqOf]
  | core d => rfl

theorem State.seqOf_setRing (s : State) (r : Nat) {x : Ring} (hx : x.seq = (s.ring r).seq) (th : Thread) : (s.setRing r x).seqOf th = s.seqOf th :=
  s.seqOf_updRing r (f := fun _ => x) hx th

theorem State.seqOf_updDie (s : State) (d : Nat) {f : Die → Die} (hf : (f (s.die d)).core = (s.die d).core) (th : Thread) :
    (s.updDie d f).seqOf th = s.seqOf th := by
  cases th with
  | ring r => rfl
  | core n =>
    by_cases h : n = d
    · rw [h, State.seqOf, State.die_updDie_same, hf, State.seqOf]
    · rw [State.seqOf, State.die_updDie_ne s f h, State.seqOf]

variable (s : State) (th : Thread)

@[simp] theorem State.seqOf_setRcsr (r n : Nat) (v : W64) : (s.setRcsr r n v).seqOf th = s.seqOf th := s.seqOf_updRing r rfl th

@[simp] theorem State.seqOf_setVcsr (v n : Nat) (x : W64) : (s.setVcsr v n x).seqOf th = s.seqOf th := by cases th <;> rfl

@[simp] theorem State.seqOf_countLife (i : Nat) : (s.countLife i).seqOf th = s.seqOf th := by cases th <;> rfl

@[simp] theorem State.seqOf_post (d kind code mid low : Nat) : (s.post d kind code mid low).seqOf th = s.seqOf th := by
  simp only [State.post]
  split
  · exact s.seqOf_updDie d rfl th
  · exact s.seqOf_updDie d rfl th

@[simp] theorem State.seqOf_park (r : Nat) (pc : W64) (cause : Nat) (value : W64) : (s.park r pc cause value).seqOf th = s.seqOf th := by
  simp only [State.park, State.seqOf_post, State.seqOf_setRcsr]
  exact s.seqOf_updRing r rfl th

/-- Steps that leave a thread's registers do so together. -/
theorem State.seqOf_foldl {α : Type} {f : State → α → State} (hf : ∀ st a, (f st a).seqOf th = st.seqOf th) (l : List α) :
    (l.foldl f s).seqOf th = s.seqOf th :=
  List.foldlRecOn l f (motive := fun st => st.seqOf th = s.seqOf th) rfl fun st hst a _ => (hf st a).trans hst

@[simp] theorem State.seqOf_raiseVf (v : Nat) (bits : W64) : (s.raiseVf v bits).seqOf th = s.seqOf th := by
  rw [State.raiseVf]
  refine s.seqOf_foldl th (fun st r => ?_) allRings
  simp only
  split
  · exact st.seqOf_setRcsr th r _ _
  · split
    · refine st.seqOf_setRing r ?_ th
      rfl
    · rfl

@[simp] theorem State.seqOf_mcheck (v addr src : Nat) : (s.mcheck v addr src).seqOf th = s.seqOf th := by
  simp only [State.mcheck, State.seqOf_countLife, State.seqOf_raiseVf]
  split <;> simp only [State.seqOf_setVcsr]

@[simp] theorem State.seqOf_stopVf (v pa : Nat) : (s.stopVf v pa).seqOf th = s.seqOf th := by
  have hvf : ∀ f : Vf → Vf, (s.updVf v f).seqOf th = s.seqOf th := fun _ => by cases th <;> rfl
  rw [State.stopVf]
  refine (State.seqOf_foldl _ th (fun st r => ?_) allRings).trans (hvf _)
  simp only
  split
  · exact st.seqOf_park th r _ _ _
  · rfl

@[simp] theorem State.seqOf_integrityFault (v d pa : Nat) : (s.integrityFault v d pa).seqOf th = s.seqOf th := by
  rw [State.integrityFault]
  split
  · rfl
  · rw [State.seqOf_post, State.seqOf_stopVf]

/-- A fault or a machine check of an access changes no thread's registers (R412, R428). -/
theorem State.seqOf_threadFail (t : Thread) (e : MemErr) : (s.threadFail t e).seqOf th = s.seqOf th := by
  cases t with
  | ring r =>
    cases e with
    | integrity pa => exact s.seqOf_integrityFault th _ _ pa
    | machine pa => exact s.seqOf_mcheck th _ pa 0
    | gated => rfl
  | core d =>
    cases e with
    | machine pa => exact s.seqOf_post th d 6 0 0 _
    | integrity pa => rfl
    | gated => rfl

variable {s th}

/-- A read completes no instruction (R262). -/
theorem State.instret_readFor {t : Thread} {seq : Nat} {dep : Dep} {va : W64} {ps : List (Nat × MemAttr)} {g : Got}
    (h : s.readFor t seq dep va ps = .ok g) : (g.state.seqOf th).instret = (s.seqOf th).instret := by
  simp only [State.readFor] at h
  split at h
  · cases h
  · cases h
    have hforce : ∀ w, (s.force w).seqOf th = s.seqOf th := fun _ => by cases th <;> rfl
    have htrans : ∀ (u : State) ps, (u.transfers ps).seqOf th = u.seqOf th := fun _ _ => by cases th <;> rfl
    rw [htrans]
    by_cases ht : th = t
    · rw [ht, State.seqOf_updSeq_same, ← ht, hforce]
    · rw [State.seqOf_updSeq_ne _ _ ht, hforce]

/-- A read that an instruction needs at once completes no instruction itself, whether it delivers or meets an error (R262). -/
theorem State.instret_readNow {u : State} {regs : List (BitVec 5)} {va : W64} {ps : List (Nat × MemAttr)} {l : List Byte}
    (h : s.readNow regs va ps = some (l, u)) : (u.seqOf th).instret = (s.seqOf th).instret := by
  simp only [State.readNow] at h
  split at h
  · cases h
  · split at h
    next g hg =>
      cases h
      exact State.instret_readFor hg
    next e he =>
      cases h
      rw [State.seqOf_threadFail]

end Sys2Proof.Machine
end

section
/-! jtab (R259). -/

namespace Sys2Proof.Machine

theorem exec_jtab (d a : BitVec 5) (imm : BitVec 16) (s : State) : exec (.jtab d a imm) s = execJtab d a imm s := rfl

/-- The 32-bit number that an entry holds, sign-extended (R259). -/
theorem w64_sextN (n : Nat) : w64 (sextN n 32) = (BitVec.ofNat 32 n).signExtend 64 := by
  have hval : sextN n 32 = (BitVec.ofNat 32 n).toInt := by
    simp only [sextN, BitVec.toInt_eq_toNat_cond, BitVec.toNat_ofNat]
    split <;> split <;> omega
  rw [hval, w64, BitVec.signExtend]

variable {s u : State} {d a : BitVec 5} {imm : BitVec 16}

/-- The state in which a jtab, whose entry has been read, continues at an address: its read takes a place in the program order (R259). -/
def State.dispatched (s : State) (target : W64) : State :=
  (s.goto target).updSeq s.cur fun q => { q with nextSeq := q.nextSeq + 1 }

theorem exec_jtab_past (hp : s.pendAny [d, a] = false) (hlen : imm.toNat ≤ (s.x a).toNat) : exec (.jtab d a imm) s = .next s.done := by
  simp only [exec_jtab, execJtab, hp, Bool.false_eq_true, if_false, if_pos hlen]

/-- What jtab does with the entry that it reads (R202, R259). -/
theorem exec_jtab_entry {ps : List (Nat × MemAttr)} {bs : List Byte} (hp : s.pendAny [d, a] = false) (hlen : (s.x a).toNat < imm.toNat)
    (ha : s.access .load (s.x d + 4 * s.x a) 4 (some 4) = .ok ps) (hn : s.readNow [d, a] (s.x d + 4 * s.x a) ps = some (bs, u))
    (hs : u.stoppedNow = false) :
    exec (.jtab d a imm) s =
      if badTarget (s.x d + (BitVec.ofNat 32 (leNat bs)).signExtend 64) then
        .next (u.trap 0x12 (s.x d + (BitVec.ofNat 32 (leNat bs)).signExtend 64))
      else .next (u.dispatched (s.x d + (BitVec.ofNat 32 (leNat bs)).signExtend 64)) := by
  simp only [exec_jtab, execJtab, hp, Bool.false_eq_true, if_false, if_neg (Nat.not_le.2 hlen), withRecord_read ha hn hs, w64_sextN,
    State.dispatched]

theorem exec_jtab_unread {e : AccErr} (hp : s.pendAny [d, a] = false) (hlen : (s.x a).toNat < imm.toNat)
    (ha : s.access .load (s.x d + 4 * s.x a) 4 (some 4) = .error e) : exec (.jtab d a imm) s = .next (s.accTrap e) := by
  simp only [exec_jtab, execJtab, hp, Bool.false_eq_true, if_false, if_neg (Nat.not_le.2 hlen), withRecord, ha]

theorem State.me_dispatched (s : State) (target : W64) :
    (s.dispatched target).me = { s.me with pc := target, instret := s.me.instret + 1, nextSeq := s.me.nextSeq + 1 } := by
  rw [State.dispatched, ← State.goto_cur s target, State.me_updSeq, State.me_goto]

theorem State.byte_dispatched (s : State) (target : W64) (k : Nat) : (s.dispatched target).byte k = s.byte k := by
  rw [State.byte, State.dispatched, State.updSeq_mem, State.goto_mem, State.byte]

/-- Settles O14: past its table jtab completes, and otherwise its entry, where its check lets it be read, names the target. -/
theorem jtab : Obligations.Jtab := by
  unfold Obligations.Jtab
  refine ⟨?_, ?_, ?_⟩
  · exact fun s d a imm hp hlen => exec_jtab_past hp hlen
  · intro s u d a imm ps bs hp hlen ha hn hs target
    have hkeep : KeepsThreads s u := KeepsThreads.readNow hn
    have hinstret : u.me.instret = s.me.instret := by rw [State.me, hkeep.cur, State.instret_readNow hn, State.me]
    have hexec := exec_jtab_entry hp hlen ha hn hs
    constructor
    · intro h4 hlt
      rw [badTarget_eq_false h4 hlt] at hexec
      refine ⟨_, hexec, ?_, ?_, ?_, fun k => ?_⟩
      · rw [State.me_dispatched, hkeep.me_x]
      · rw [State.pc, State.me_dispatched]
      · rw [State.me_dispatched, hinstret]
      · rw [State.byte_dispatched, hkeep.byte]
    · intro hbad
      rw [hexec, if_pos (badTarget_eq_true hbad)]
  · exact fun s d a imm e hp hlen ha => exec_jtab_unread hp hlen ha

end Sys2Proof.Machine
end

section
/-! Two shared rules: an element as it was just written, and a word that does not execute (R20, R38, R63). -/

namespace Sys2Proof.Machine

/-- An element reads back as it was written, also at a number past the 32 positions of its slot. -/
theorem State.elem_setElem_self (s : State) (g : Group) (gs p : Nat) (x : Elem) : (s.setElem g gs p x).elem g gs p = x := by
  rw [State.elem_eq, State.slotPlace_setElem, State.setElem_eq, State.ring_updRing_same]
  exact tget_tput_same _ _ _ _

/-- In a bubble, or behind a false gate, a word does nothing (R38, R63). -/
theorem veWord_shut {g : BitVec 2} {s : State} (h : ∀ w, s.view = some w → gateOpen w.el.q g = false) (srcs : List (BitVec 5))
    (body : Ops → State → State) : veWord g srcs body s = s := by
  cases hv : s.view with
  | none => simp only [veWord, hv]
  | some w => simp only [veWord, hv, h w hv, Bool.false_eq_true, if_false]

end Sys2Proof.Machine
end

section
/-! Compares (R217). -/

namespace Sys2Proof.Machine

/-- Each form is the compare of its relation (R217). -/
theorem exec_compareForm {i : Instr} {rel : Rel} {t : BitVec 4} {a b : BitVec 5} {q g : BitVec 2}
    (h : compareForm i = some (rel, t, a, b, q, g)) (s : State) : exec i s = .next (veCompare rel t a b q g s) := by
  unfold compareForm at h
  split at h <;> cases h <;> rfl

/-- Behind a true gate a compare queues its flag (R210, R217). -/
theorem veCompare_open {g : BitVec 2} {s : State} {w : View} (hv : s.view = some w) (hg : gateOpen w.el.q g = true) (rel : Rel)
    (t : BitVec 4) (a b : BitVec 5) (q : BitVec 2) :
    veCompare rel t a b q g s =
      veBody [a, b] (fun o st => o.w.queue false 0 (.q q.toNat (compareFlag rel o.w.ftz t.toNat (o.get a) (o.get b))) st) w s :=
  veWord_open hv hg [a, b] _

theorem feqV_nan_left (v : FVal) : feqV .nan v = false := rfl

theorem feqV_nan_right (v : FVal) : feqV v .nan = false := by cases v <;> rfl

theorem fltV_nan_left (v : FVal) : fltV .nan v = false := rfl

theorem fltV_nan_right (v : FVal) : fltV v .nan = false := by cases v <;> rfl

theorem FVal.isNan_eq_false {v : FVal} (h : v ≠ .nan) : v.isNan = false := by
  cases v with
  | nan => exact absurd rfl h
  | inf _ => rfl
  | fin _ _ _ => rfl

/-- Of a NaN only ne and un hold, at either side (R217). -/
theorem Rel.flt_nan (rel : Rel) (v : FVal) :
    rel.flt .nan v = decide (rel = .ne ∨ rel = .un) ∧ rel.flt v .nan = decide (rel = .ne ∨ rel = .un) := by
  cases rel <;>
    simp [Rel.flt, feqV_nan_left, feqV_nan_right, fltV_nan_left, fltV_nan_right, FVal.isNan]

/-- The significand 0 stands for zero under either sign (R81). -/
theorem onExp_zero (neg : Bool) (e g : Int) : onExp neg 0 e g = 0 := by simp [onExp]

theorem feqV_zero (n m : Bool) (e f : Int) : feqV (.fin n 0 e) (.fin m 0 f) = true := by
  simp only [feqV, onExp_zero, decide_true]

/-- The predicates with q[i] written (R62, R217). -/
def flagWrite (q : BitVec 4) (i : Nat) (b : Bool) : BitVec 4 := if b then q ||| (1#4 <<< i) else q &&& ~~~(1#4 <<< i)

theorem getLsbD_flagWrite (q : BitVec 4) {i j : Nat} (b : Bool) (hj : j < 4) :
    (flagWrite q i b).getLsbD j = if j = i then b else q.getLsbD j := by
  have hbit : (1#4 <<< i).getLsbD j = decide (j = i) := by
    rw [← BitVec.twoPow_eq, BitVec.getLsbD_twoPow, Bool.eq_iff_iff]
    simp only [Bool.and_eq_true, decide_eq_true_eq]
    omega
  cases b with
  | false =>
    simp only [flagWrite, Bool.false_eq_true, if_false, BitVec.getLsbD_and, BitVec.getLsbD_not, hbit, hj, decide_true, Bool.true_and]
    by_cases hji : j = i <;> simp [hji]
  | true =>
    simp only [flagWrite, if_true, BitVec.getLsbD_or, hbit]
    by_cases hji : j = i <;> simp [hji]

/-- The only write of a cycle, one of a predicate, lands at its element (R62, R217). -/
theorem State.elem_commit_flag {s : State} {gk : Nat} {g : Group} {e : Wr} {i : Nat} {b : Bool} (hg : s.group? gk = some g)
    (hq : g.wq = [e]) (hl : e.late = false) (hk : e.kind = .q i b) :
    (s.commit gk).elem g e.slot e.pos = { s.elem g e.slot e.pos with q := flagWrite (s.elem g e.slot e.pos).q i b } := by
  have hgroup : (s.setElem g e.slot e.pos { s.elem g e.slot e.pos with q := flagWrite (s.elem g e.slot e.pos).q i b }).group? gk = some g :=
    ((OnlyElems.setElem s g e.slot e.pos _).group gk).trans hg
  unfold flagWrite at hgroup ⊢
  simp [State.commit, hg, hq, hl, hk, hgroup, State.elem_setElem_self]

/-- Settles O43: a compare's flag is queued behind a true gate, and the write of a predicate leaves the other three. -/
theorem compares : Obligations.Compares := by
  unfold Obligations.Compares
  refine ⟨?_, Rel.flt_nan, ?_, fun n e f m => feqV_zero n m e f, ?_, ?_⟩
  · intro i rel t a b q g s w hi hv hg
    rw [exec_compareForm hi, veCompare_open hv hg]
    refine congrArg Host.Outcome.next (veBody_congr s fun get st => ?_)
    simp only [compareFlag, tyInt, decide_eq_true_eq]
  · intro x z hx hz
    refine ⟨?_, rfl⟩
    rw [Rel.flt, FVal.isNan_eq_false hx, FVal.isNan_eq_false hz, Bool.or_false]
  · intro i rel t a b q g s hi hshut
    rw [exec_compareForm hi]
    exact congrArg Host.Outcome.next (veWord_shut hshut _ _)
  · intro s gk g e i b hg hq hl hi hk
    rw [State.elem_commit_flag hg hq hl hk]
    refine ⟨?_, fun j hj hne => ?_⟩
    · rw [getLsbD_flagWrite _ b hi, if_pos rfl]
    · rw [getLsbD_flagWrite _ b hj, if_neg hne]

end Sys2Proof.Machine
end

section
/-! The words that issue to a matrix block (R231 to R239). -/

namespace Sys2Proof.Machine

/-- Each form issues to its block (R231, R232). -/
theorem exec_blockForm {i : Instr} {mk : BlockRun} (h : blockForm i = some mk) (s : State) : exec i s = .next (meIssue mk s) := by
  unfold blockForm at h
  split at h <;> cases h <;> rfl

/-- Each form stands at its first cycle (R232). -/
theorem blockForm_cyc {i : Instr} {mk : BlockRun} (h : blockForm i = some mk) : mk.cyc = 0 := by
  unfold blockForm at h
  split at h <;> cases h <;> rfl

/-- A word meets its block as R232 asks: at position 12 of the top stripe, idle, for an item that may still read. -/
def View.issues (w : View) : Prop := w.pos = 12 ∧ w.reads = true ∧ w.grp.blockTop w.v = w.v ∧ w.grp.blockBusy w.v = false

/-- The run that a word starts: its A feeds take their offsets, and whether it drains follows from the port's tile (R232, R234, R237). -/
def BlockRun.issued (mk : BlockRun) (s : State) (w : View) : BlockRun :=
  let r : BlockRun := { mk with top := w.v, slot := w.gs, size := w.grp.blockSize w.v, item := w.item.n, tag := w.item.tag,
                                aoff := (List.range (w.grp.blockSize w.v)).map (s.feedY w.grp w.gs w.v) }
  { r with drains := decide (r.op ≤ 1) && r.done && w.inTile.2 != 0 && (w.inTile.1 + r.runWords) % w.inTile.2 == 0 }

/-- A feed that starts at an offset reads past the scratch carve (R234). -/
def BlockRun.feedOutside (mk : BlockRun) (w : View) (o : Nat) : Bool :=
  decide (mk.aBytes ≠ 0 ∧ carveScratch w.grp.carve * 65536 < o + mk.aBytes)

theorem BlockRun.feedOutside_eq_true {mk : BlockRun} {w : View} {o : Nat} (hne : mk.aBytes ≠ 0)
    (hlt : carveScratch w.grp.carve * 65536 < o + mk.aBytes) : mk.feedOutside w o = true :=
  decide_eq_true ⟨hne, hlt⟩

theorem BlockRun.feedOutside_eq_false {mk : BlockRun} {w : View} {o : Nat}
    (h : mk.aBytes = 0 ∨ o + mk.aBytes ≤ carveScratch w.grp.carve * 65536) : mk.feedOutside w o = false :=
  decide_eq_false fun ⟨hne, hlt⟩ => h.elim hne fun hle => Nat.not_le.2 hlt hle

/-- What a word does to its idle block, given a stripe whose feed reads past the carve with that feed's start, or none (R232, R234, R382). -/
def BlockRun.start (mk : BlockRun) (s : State) (w : View) : Option (Nat × Nat) → State
  | some e => s.phaseFault w.gk 3 { w.at_ with gslot := w.gs + e.1, vs := w.v + e.1, pos := 12 } (BitVec.ofNat 64 e.2)
  | none => s.setGroup w.gk { w.grp with blocks := w.grp.blocks ++ [mk.issued s w] }

/-- A search among keys that stand beside their values finds a key by its value. -/
theorem find?_zip_map {α β : Type} (l : List α) (f : α → β) (p : β → Bool) :
    ((l.zip (l.map f)).find? fun e => p e.2) = (l.find? fun a => p (f a)).map fun a => (a, f a) := by
  have hzip : l.zip (l.map f) = l.map fun a => (a, f a) := by
    simpa using List.zip_map' (f := id) (g := f) (l := l)
  rw [hzip, List.find?_map]
  rfl

section
variable {mk : BlockRun} {s : State} {w : View}

/-- Where a word does not meet its block as R232 asks, it does nothing. -/
theorem meIssue_skips (hv : s.view = some w)
    (h : w.pos ≠ 12 ∨ w.reads = false ∨ w.grp.blockTop w.v ≠ w.v ∨ w.grp.blockBusy w.v = true) : meIssue mk s = s := by
  simp only [meIssue, hv]
  exact if_pos (by simpa using h)

/-- A word that meets its block looks for the lowest stripe whose feed reads past the carve (R232, R234). -/
theorem meIssue_issues (hv : s.view = some w) (hi : w.issues) :
    meIssue mk s = mk.start s w (((List.range (w.grp.blockSize w.v)).find? fun n => mk.feedOutside w (s.feedY w.grp w.gs w.v n)).map
      fun n => (n, s.feedY w.grp w.gs w.v n)) := by
  obtain ⟨hpos, hreads, htop, hbusy⟩ := hi
  rw [← find?_zip_map _ _ (mk.feedOutside w)]
  simp only [meIssue, hv]
  rw [if_neg (by simp [hpos, hreads, htop, hbusy])]
  rfl

/-- With every A feed inside scratch, the run joins the group's blocks (R232). -/
theorem meIssue_inside (hv : s.view = some w) (hi : w.issues)
    (hin : ∀ n, n < w.grp.blockSize w.v → mk.feedOutside w (s.feedY w.grp w.gs w.v n) = false) :
    meIssue mk s = s.setGroup w.gk { w.grp with blocks := w.grp.blocks ++ [mk.issued s w] } := by
  rw [meIssue_issues hv hi, List.find?_range_eq_none.2 fun n hn => by rw [hin n hn]; rfl]
  rfl

/-- The lowest stripe whose A feed leaves scratch faults the phase (R234, R382). -/
theorem meIssue_outside {n : Nat} (hv : s.view = some w) (hi : w.issues) (hn : n < w.grp.blockSize w.v)
    (hlow : ∀ m, m < n → mk.feedOutside w (s.feedY w.grp w.gs w.v m) = false)
    (hout : mk.feedOutside w (s.feedY w.grp w.gs w.v n) = true) :
    meIssue mk s = s.phaseFault w.gk 3 { w.at_ with gslot := w.gs + n, vs := w.v + n, pos := 12 }
      (BitVec.ofNat 64 (s.feedY w.grp w.gs w.v n)) := by
  have hfind : ((List.range (w.grp.blockSize w.v)).find? fun n => mk.feedOutside w (s.feedY w.grp w.gs w.v n)) = some n :=
    List.find?_range_eq_some.2 ⟨hout, List.mem_range.2 hn, fun m hm => by rw [hlow m hm]; rfl⟩
  rw [meIssue_issues hv hi, hfind]
  rfl

end

/-- Settles O49: an idle block takes the run or faults at the lowest feed outside scratch, and elsewhere the word does nothing. -/
theorem matrixWords : Obligations.MatrixWords := by
  unfold Obligations.MatrixWords
  intro feed
  refine ⟨?_, ?_, ?_, ?_, fun s => rfl⟩
  · intro i mk s w hform hv hpos hreads htop hbusy hfeed
    have hcyc : mk.cyc = 0 := blockForm_cyc hform
    refine ⟨_, mk.issued s w, exec_blockForm hform s, meIssue_inside hv ⟨hpos, hreads, htop, hbusy⟩
      fun n hn => BlockRun.feedOutside_eq_false (hfeed n hn), ?_⟩
    exact ⟨rfl, rfl, rfl, rfl, rfl, rfl, rfl, rfl, rfl, hcyc, rfl, rfl, rfl, rfl, rfl⟩
  · intro i mk s w hform hv hskip
    rw [exec_blockForm hform, meIssue_skips hv hskip]
  · intro i mk s w n hform hv hpos hreads htop hbusy hn hne hlow hout
    rw [exec_blockForm hform, meIssue_outside hv ⟨hpos, hreads, htop, hbusy⟩ hn
      (fun m hm => BlockRun.feedOutside_eq_false (.inr (hlow m hm))) (BlockRun.feedOutside_eq_true hne hout)]
    rfl
  · intro s w hv
    refine congrArg Host.Outcome.next ?_
    simp only [hv]

end Sys2Proof.Machine
end

section
/-! Branches and jumps: the opcode of their words, and what a target that R202 accepts, or refuses, leaves (R202, R257, R258). -/

namespace Sys2Proof.Machine

open Sys2Proof.Laws

theorem toNat_div_of_opcode {w : W32} {op : BitVec 6} (h : w.extractLsb' 26 6 = op) : w.toNat / 2 ^ 26 = op.toNat := by
  have hlt : w.toNat / 2 ^ 26 < 2 ^ 6 := by
    have := w.isLt
    omega
  rw [← h, BitVec.extractLsb'_toNat, Nat.shiftRight_eq_div_pow, Nat.mod_eq_of_lt hlt]

/-- The opcode of a word with two registers and a 16-bit immediate (R195). -/
theorem opcode_registers_imm (op : BitVec 6) (a b : BitVec 5) (v : BitVec 16) : (op ++ a ++ b ++ v : W32).toNat / 2 ^ 26 = op.toNat :=
  toNat_div_of_opcode (word_6_5_5_16 op a b v).1

/-- What an instruction leaves that completes at an address (R248). -/
theorem State.goto_frame (s : State) (target : W64) :
    OnlySeqRegs s (s.goto target) ∧ (s.goto target).me.x = s.me.x ∧ (s.goto target).pc = target ∧ ∀ k, (s.goto target).byte k = s.byte k :=
  ⟨onlySeqRegs_goto s target, by rw [State.me_goto], s.pc_goto target, fun k => by rw [State.byte, State.goto_mem, State.byte]⟩

/-- What an instruction leaves that writes a register and completes at an address (R195, R248). -/
theorem State.setX_goto_frame (s : State) (d : BitVec 5) (v target : W64) :
    let t := (s.setX d v).goto target
    OnlySeqRegs s t ∧ t.x d = (if d = 0 then 0 else v) ∧ (∀ r, r ≠ d → t.x r = s.x r) ∧ t.pc = target ∧ ∀ k, t.byte k = s.byte k := by
  refine ⟨onlySeqRegs_setX s d v target, ?_, fun r hr => ?_, State.pc_goto _ _, fun k => ?_⟩
  · rw [State.x_goto]
    split
    next h => rw [h, State.x_zero]
    next h => rw [State.x_setX_same s v h]
  · rw [State.x_goto, State.x_setX_ne s v hr]
  · rw [State.byte, State.goto_mem, State.setX_mem, State.byte]

theorem jumpTo_bad {target : W64} (h : target.toNat % 4 ≠ 0 ∨ 2 ^ 54 ≤ target.toNat) (l : Option (BitVec 5)) (s : State) :
    jumpTo target l s = .next (s.trap 0x12 target) :=
  if_pos (badTarget_eq_true h)

theorem jumpTo_none {target : W64} (h4 : target.toNat % 4 = 0) (hlt : target.toNat < 2 ^ 54) (s : State) :
    jumpTo target none s = .next (s.goto target) := by
  simp only [jumpTo, badTarget_eq_false h4 hlt, Bool.false_eq_true, if_false]

theorem jumpTo_link {target : W64} (h4 : target.toNat % 4 = 0) (hlt : target.toNat < 2 ^ 54) (d : BitVec 5) (s : State) :
    jumpTo target (some d) s = .next ((s.setX d (s.pc + 4)).goto target) := by
  simp only [jumpTo, badTarget_eq_false h4 hlt, Bool.false_eq_true, if_false]

/-- A branch is the branch operation on two registers, with the displacement and the condition of R257's table. -/
theorem exec_branchResult {i : Instr} {s : State} {regs : List (BitVec 5)} {off : Int} {taken : Bool}
    (h : branchResult i s = some (regs, off, taken)) :
    ∃ a b v cond, regs = [a, b] ∧ off = 4 * v.toInt ∧ cond (s.x a) (s.x b) = taken ∧ exec i s = branchOp a b v cond s := by
  cases i with
  | beq a b v => cases h; exact ⟨a, b, v, fun x y => x == y, rfl, rfl, decide_eq_decide.2 BitVec.toNat_inj.symm, rfl⟩
  | bne a b v =>
    cases h
    exact ⟨a, b, v, fun x y => x != y, rfl, rfl, decide_not.symm.trans (decide_eq_decide.2 (not_congr BitVec.toNat_inj.symm)), rfl⟩
  | blt a b v => cases h; exact ⟨a, b, v, fun x y => decide (x.toInt < y.toInt), rfl, rfl, rfl, rfl⟩
  | bge a b v => cases h; exact ⟨a, b, v, fun x y => decide (y.toInt ≤ x.toInt), rfl, rfl, rfl, rfl⟩
  | bltn a b v => cases h; exact ⟨a, b, v, fun x y => decide (x.toNat < y.toNat), rfl, rfl, rfl, rfl⟩
  | bgen a b v => cases h; exact ⟨a, b, v, fun x y => decide (y.toNat ≤ x.toNat), rfl, rfl, rfl, rfl⟩
  | _ => cases h

theorem branchOp_untaken {a b : BitVec 5} {cond : W64 → W64 → Bool} {s : State} (hp : s.pendAny [a, b] = false)
    (hc : cond (s.x a) (s.x b) = false) (v : BitVec 16) : branchOp a b v cond s = .next s.done := by
  simp only [branchOp, hp, hc, Bool.false_eq_true, if_false]

theorem branchOp_taken {a b : BitVec 5} {cond : W64 → W64 → Bool} {s : State} (hp : s.pendAny [a, b] = false)
    (hc : cond (s.x a) (s.x b) = true) (v : BitVec 16) :
    branchOp a b v cond s = jumpTo (s.pc + BitVec.ofInt 64 (4 * v.toInt)) none s := by
  simp only [branchOp, hp, hc, Bool.false_eq_true, if_false, if_true]

/-- Settles O12: a branch is the branch operation, which completes, jumps or traps. -/
theorem branches : Obligations.Branches := by
  unfold Obligations.Branches
  refine ⟨fun a b v => ?_, fun a b v s => ⟨?_, ?_, rfl, rfl, rfl, rfl⟩, ?_⟩
  · simp only [List.map_cons, List.map_nil, encode, Option.map_some, opcode_registers_imm, BitVec.toNat_ofNat]
  · exact congrArg (fun c => some ([a, b], 4 * v.toInt, c)) (decide_eq_decide.2 BitVec.toNat_inj)
  · exact congrArg (fun c => some ([a, b], 4 * v.toInt, c)) (decide_eq_decide.2 (not_congr BitVec.toNat_inj))
  · intro i s regs off taken h hp target
    obtain ⟨a, b, v, cond, rfl, rfl, hc, he⟩ := exec_branchResult h
    refine ⟨?_, fun hu => ?_, fun ht h4 hlt => ?_, fun ht hbad => ?_⟩
    · have hlo := v.le_toInt
      have hhi := v.toInt_lt
      omega
    · rw [hu] at hc
      exact ⟨s.done, he.trans (branchOp_untaken hp hc v), s.goto_frame _⟩
    · rw [ht] at hc
      exact ⟨_, (he.trans (branchOp_taken hp hc v)).trans (jumpTo_none h4 hlt s), s.goto_frame target⟩
    · rw [ht] at hc
      exact (he.trans (branchOp_taken hp hc v)).trans (jumpTo_bad hbad none s)

theorem exec_jal {s : State} (hp : s.pendAny [1] = false) (off : BitVec 26) :
    exec (.jal off) s = jumpTo (s.pc + BitVec.ofInt 64 (4 * off.toInt)) (some 1) s := if_neg (ne_true_of_eq_false hp)

theorem exec_jalr {d a : BitVec 5} {s : State} (hp : s.pendAny [d, a] = false) (imm : BitVec 16) :
    exec (.jalr d a imm) s = jumpTo (s.x a + imm.signExtend 64) (some d) s := if_neg (ne_true_of_eq_false hp)

/-- Settles O13: each form is a jump, with a link that is written only where the target passes R202. -/
theorem jumps : Obligations.Jumps := by
  unfold Obligations.Jumps
  refine ⟨fun s off => ⟨?_, fun h4 hlt => ?_, fun hbad => ?_⟩, fun s off hp => ⟨fun h4 hlt => ?_, fun hbad => ?_⟩,
    fun s d a imm hp => ⟨fun h4 hlt => ?_, fun hbad => ?_⟩, fun d a imm => ?_, rfl⟩
  · have hlo := off.le_toInt
    have hhi := off.toInt_lt
    omega
  · exact ⟨_, jumpTo_none h4 hlt s, s.goto_frame _⟩
  · exact jumpTo_bad hbad none s
  · exact ⟨_, (exec_jal hp off).trans (jumpTo_link h4 hlt 1 s), s.setX_goto_frame 1 _ _⟩
  · exact (exec_jal hp off).trans (jumpTo_bad hbad _ s)
  · exact ⟨_, (exec_jalr hp imm).trans (jumpTo_link h4 hlt d s), s.setX_goto_frame d _ _⟩
  · exact (exec_jalr hp imm).trans (jumpTo_bad hbad _ s)
  · exact congrArg some (opcode_registers_imm 0x20#6 d a imm)

end Sys2Proof.Machine
end

section
/-! An access that fails a check (R252, R324, R364). -/

namespace Sys2Proof.Machine

theorem State.accTrap_eq_failed (s : State) (e : AccErr) : s.accTrap e = s.failed none e := by
  cases e <;> rfl

/-- Of an access that writes a register, a machine check leaves 0 there (R428). -/
theorem State.accTrapTo_eq_failed (s : State) (d : BitVec 5) (e : AccErr) : s.accTrapTo d e = s.failed (some d) e := by
  cases e with
  | mem m =>
    cases m with
    | machine pa => simp only [State.accTrapTo, State.accTrap, State.failed, State.setX_cur]
    | integrity pa => rfl
    | gated => rfl
  | addr va => rfl
  | align va => rfl
  | bounds va => rfl
  | xlat f => rfl
  | window h => rfl

variable {s : State} {d a b : BitVec 5} {z o c : BitVec 2} {v : BitVec 10} {e : AccErr}

theorem loadOp_error (g : Bool) (hp : s.pendAny [d, b] = false)
    (ha : s.access .load (s.x b + BitVec.ofInt 64 (v.toInt * 2 ^ z.toNat)) (2 ^ z.toNat) (alignOf o z) = .error e) :
    loadOp g d b z o c v s = .next (s.failed (some d) e) := by
  rw [alignOf] at ha
  simp only [loadOp, hp, State.ea_eq, ha, Bool.false_eq_true, if_false, State.accTrapTo_eq_failed]

theorem storeOp_error (hp : s.pendAny [d, b] = false)
    (ha : s.access .store (s.x b + BitVec.ofInt 64 (v.toInt * 2 ^ z.toNat)) (2 ^ z.toNat) (alignOf o z) = .error e) :
    storeOp d b z o c v s = .next (s.failed none e) := by
  rw [alignOf] at ha
  simp only [storeOp, hp, State.ea_eq, ha, Bool.false_eq_true, if_false, State.accTrap_eq_failed]

theorem amoOp_error {k : BitVec 5} {z : BitVec 1} (hp : s.pendAny [d, a, b] = false)
    (ha : s.access .amo (s.x a) (4 * 2 ^ z.toNat) (some (4 * 2 ^ z.toNat)) = .error e) :
    amoOp k d a b c o z s = .next (s.failed (some d) e) := by
  simp only [amoOp, hp, ha, Bool.false_eq_true, if_false, State.accTrapTo_eq_failed]

/-- Settles O19: each form ends its access as its failed check says. -/
theorem badAccessTraps : Obligations.BadAccessTraps := by
  unfold Obligations.BadAccessTraps
  refine ⟨?_, ?_, ?_, fun va => ⟨rfl, rfl, rfl, rfl⟩, fun f => ?_⟩
  · intro i s g d b z o c v e hi hp ha
    exact (exec_loadForm hi s).trans (loadOp_error g hp ha)
  · intro s d b z o c v e hp ha
    exact (exec_st d b z o c v s).trans (storeOp_error hp ha)
  · intro i s k d a b c o z e hi hp ha
    exact (exec_amoForm hi s).trans (amoOp_error hp ha)
  · simp only [AccErr.cause]
    split
    · decide
    · split <;> decide

end Sys2Proof.Machine
end

section
/-! The state of a phase, a token queue or a region, returned in a register (R279, R287, R291). -/

namespace Sys2Proof.Machine

variable {s : State} {r : Nat} {d a : BitVec 5}

theorem exec_pstat_gone (hr : s.cur = .ring r) (hp : s.pendAny [d, a] = false) (hok : s.handleOk r (s.x a) = true)
    (hrec : s.rec? r (s.x a).toNat = none) : exec (.pstat d a) s = .next (s.setX d 7).done := by
  show execPstat d a s = _
  simp only [execPstat, onRing_ring hr, hp, hok, hrec, Bool.not_true, Bool.false_eq_true, if_false]

theorem exec_pstat_rec {q : PhaseRec} (hr : s.cur = .ring r) (hp : s.pendAny [d, a] = false) (hok : s.handleOk r (s.x a) = true)
    (hrec : s.rec? r (s.x a).toNat = some q) : exec (.pstat d a) s = .next (s.setX d (s.liveRec r (s.x a).toNat q).summary).done := by
  show execPstat d a s = _
  simp only [execPstat, onRing_ring hr, hp, hok, hrec, Bool.not_true, Bool.false_eq_true, if_false]

/-- A handle that is none is an engine-operand trap (R280, R298). -/
theorem exec_pstat_operand (hr : s.cur = .ring r) (hp : s.pendAny [d, a] = false) (hok : s.handleOk r (s.x a) = false) :
    exec (.pstat d a) s = .next (s.trap 5 (s.x a)) := by
  show execPstat d a s = _
  simp only [execPstat, onRing_ring hr, hp, hok, Bool.not_false, Bool.false_eq_true, if_false, if_true, State.operand]

theorem exec_tqcnt (hr : s.cur = .ring r) (n : BitVec 4) :
    exec (.tqcnt d n) s = regOp d [] (fun u => BitVec.ofNat 64 (tget [] (u.ring r).tqs n.toNat).length) s :=
  onRing_ring hr _ _

theorem exec_crnStat_undefined (hr : s.cur = .ring r) (hp : s.pendAny [d, a] = false) (h0 : fld (s.x a) 63 6 = 0)
    (hreg : s.region? r (s.x a).toNat = none) : exec (.crnStat d a) s = .next (s.setX d 0).done := by
  show execCrnStat d a s = _
  simp only [execCrnStat, onRing_ring hr, hp, h0, hreg, ne_eq, not_true_eq_false, Bool.false_eq_true, if_false]
  rfl

theorem exec_crnStat_region {g : Region} (hr : s.cur = .ring r) (hp : s.pendAny [d, a] = false) (h0 : fld (s.x a) 63 6 = 0)
    (hreg : s.region? r (s.x a).toNat = some g) :
    exec (.crnStat d a) s = .next (s.setX d (BitVec.ofNat 64
      (g.s % 2 ^ 32 + (if g.force then 2 ^ 32 else 0) + (if g.bound then 2 ^ 33 else 0) + 2 ^ 34))).done := by
  show execCrnStat d a s = _
  simp only [execCrnStat, onRing_ring hr, hp, h0, hreg, ne_eq, not_true_eq_false, Bool.false_eq_true, if_false]

/-- What an instruction leaves that writes a register and goes on at the next word (R248). -/
theorem State.setX_done_frame (s : State) (d : BitVec 5) (v : W64) :
    let t := (s.setX d v).done
    OnlySeqRegs s t ∧ t.x d = (if d = 0 then 0 else v) ∧ (∀ q, q ≠ d → t.x q = s.x q) ∧ t.pc = s.pc + 4 ∧ ∀ k, t.byte k = s.byte k := by
  simpa only [State.done, State.pc_setX] using s.setX_goto_frame d v (s.pc + 4)

/-- Settles O30: each form completes with the state that it asks for in its register. -/
theorem queries : Obligations.Queries := by
  unfold Obligations.Queries
  refine ⟨?_, ?_, ?_, ?_, ?_, ?_⟩
  · intro s r d a hr hp hok hrec
    exact ⟨_, exec_pstat_gone hr hp hok hrec, s.setX_done_frame d 7⟩
  · intro s r d a q hr hp hok hrec
    exact ⟨_, exec_pstat_rec hr hp hok hrec, s.setX_done_frame d _⟩
  · intro s r d a hr hp hok
    exact exec_pstat_operand hr hp hok
  · intro s r d n hr hp
    rw [exec_tqcnt hr]
    exact regOp_done hp
  · intro s r d a hr hp h0 hreg
    exact ⟨_, exec_crnStat_undefined hr hp h0 hreg, s.setX_done_frame d 0⟩
  · intro s r d a g hr hp h0 hreg
    exact ⟨_, exec_crnStat_region hr hp h0 hreg, s.setX_done_frame d _⟩

end Sys2Proof.Machine
end

section
/-! Traps that S takes, that park the RSQ, and that a management core takes (R264, R324, R325, R327, R328). -/

namespace Sys2Proof.Machine

/-- A ring whose RSQ has entered S (R325). -/
def Ring.inSupervisor (x : Ring) (target status pc cause value : W64) : Ring :=
  { x with csr := tput (tput (tput (tput x.csr 0x1003 pc) 0x1004 cause) 0x1005 value) 0x1001 status, level := .s, wait := none, run := .run,
           seq := { x.seq with pc := target } }

/-- A ring whose RSQ has parked (R327). -/
def Ring.parked (x : Ring) (pc cause value : W64) : Ring :=
  { x with csr := tput (tput (tput x.csr 0x2106 pc) 0x2107 cause) 0x2108 value, run := .parked, wait := none }

/-- A die whose core has entered its handler (R328). -/
def Die.inHandler (x : Die) (target status pc cause value : W64) : Die :=
  { x with csr := tput (tput (tput (tput x.csr 0x2003 pc) 0x2004 cause) 0x2005 value) 0x2006 status, waiting := false,
           core := { x.core with pc := target } }

/-- HSTATUS as a core's trap leaves it: pie takes ie, and ie becomes 0 (R328). -/
def entered (st : W64) : W64 := setFld (setFld st 1 1 (fld st 0 0)) 0 0 0

theorem toNat_entered (st : W64) : (entered st).toNat = st.toNat / 4 * 4 + st.toNat % 2 * 2 := by
  have hst := st.isLt
  have hhigh : (setFld st 1 1 (fld st 0 0)).toNat = st.toNat / 4 * 4 + st.toNat % 2 * 2 + st.toNat % 2 := by
    simp only [setFld, fld, bitsOf, BitVec.toNat_ofNat, Nat.reduceAdd, Nat.reduceSub, Nat.reducePow, Nat.div_one, Nat.mod_mod]
    rw [Nat.mod_eq_of_lt] <;> omega
  rw [entered, setFld, BitVec.toNat_ofNat, hhigh]
  simp only [bitsOf, Nat.reduceAdd, Nat.reduceSub, Nat.reducePow, Nat.div_one, Nat.mul_one]
  rw [Nat.mod_eq_of_lt] <;> omega

theorem fld_entered_enable (st : W64) : fld (entered st) 0 0 = 0 := by
  simp only [fld, bitsOf, toNat_entered]
  omega

theorem fld_entered_previous (st : W64) : fld (entered st) 1 1 = fld st 0 0 := by
  simp only [fld, bitsOf, toNat_entered]
  omega

/-- A flag's weight in a word of flags. -/
theorem ite_nat_mul {p : Prop} [Decidable p] (a b n : Nat) : (if p then a else b) * n = if p then a * n else b * n := by
  split
  · rfl
  · rfl

/-- A one-bit field is its bit. -/
theorem fld_single (w : W64) (n : Nat) : fld w n n = if bit w n then 1 else 0 := by
  have hlt : fld w n n < 2 := by
    rw [fld, bitsOf, Nat.add_sub_cancel_left]
    exact Nat.mod_lt _ (by decide)
  show fld w n n = if (fld w n n == 1) = true then 1 else 0
  simp only [beq_iff_eq]
  split <;> omega

variable {s : State} {r d : Nat}

theorem State.enterStatus_eq (s : State) (r : Nat) :
    s.enterStatus r = BitVec.ofNat 64 ((if bit (s.rcsr r 0x1001) 0 then 2 else 0) + (if (s.ring r).level = .u then 0 else 4) +
      (if bit (s.rcsr r 0x02C) 0 then 8 else 0)) := by
  simp only [State.enterStatus, fld_single, ite_nat_mul, Nat.zero_mul, Nat.one_mul]

theorem State.toS_eq (s : State) (r : Nat) (pc cause value : W64) :
    s.toS r pc cause value = s.updRing r fun x => x.inSupervisor (s.stvec r) (s.enterStatus r) pc cause value := by
  simp only [State.toS, State.setRcsr, State.updRing_updRing, Ring.inSupervisor]

/-- What the entry of S writes, and what it leaves (R325). -/
theorem State.toS_frame (hr : s.cur = .ring r) (pc cause value : W64) :
    let t := s.toS r pc cause value
    OnlyRing r s t ∧ t.rcsr r 0x1003 = pc ∧ t.rcsr r 0x1004 = cause ∧ t.rcsr r 0x1005 = value ∧ t.rcsr r 0x1001 = s.enterStatus r ∧
      (t.ring r).level = .s ∧ t.pc = s.stvec r ∧ t.me.x = s.me.x ∧ t.me.instret = s.me.instret ∧
      (∀ n, n ∉ [0x1001, 0x1003, 0x1004, 0x1005] → t.rcsr r n = s.rcsr r n) ∧ ∀ k, t.byte k = s.byte k := by
  simp only [State.toS_eq]
  refine ⟨onlyRing_updRing s r _, ?_, ?_, ?_, ?_, ?_, ?_, ?_, ?_, fun n hn => ?_, State.byte_updRing s r _⟩
  · simp [State.rcsr_updRing_same, Ring.inSupervisor, tget_tput]
  · simp [State.rcsr_updRing_same, Ring.inSupervisor, tget_tput]
  · simp [State.rcsr_updRing_same, Ring.inSupervisor, tget_tput]
  · simp [State.rcsr_updRing_same, Ring.inSupervisor]
  · rw [State.ring_updRing_same, Ring.inSupervisor]
  · rw [State.pc, State.me_updRing hr, Ring.inSupervisor]
  · rw [State.me_updRing hr, State.me_ring hr, Ring.inSupervisor]
  · rw [State.me_updRing hr, State.me_ring hr, Ring.inSupervisor]
  · simp only [List.mem_cons, List.not_mem_nil, or_false, not_or] at hn
    obtain ⟨hstat, hepc, hcause, hval⟩ := hn
    rw [State.rcsr_updRing_same, Ring.inSupervisor, tget_tput_ne _ _ _ hstat, tget_tput_ne _ _ _ hval, tget_tput_ne _ _ _ hcause,
      tget_tput_ne _ _ _ hepc, State.rcsr]

theorem State.pc_ring (hr : s.cur = .ring r) : s.pc = (s.ring r).seq.pc := by rw [State.pc, State.me_ring hr]

/-- A cause that the graph's handler does not take is routed by HDELEG (R300, R324, R325). -/
theorem State.trap_routed {cause : Nat} (hr : s.cur = .ring r) (h : 0x10 ≤ cause ∨ s.userTaken r cause = false) (value : W64) :
    s.trap cause value = s.routeTrap r s.pc cause value := by
  have hnot : ¬(cause < 0x10 ∧ s.userTaken r cause = true) := by
    rintro ⟨hlt, ht⟩
    rcases h with h | h
    · omega
    · rw [h] at ht
      cases ht
  simp only [State.trap, hr, State.trapRing, if_neg hnot, State.pc_ring hr]

theorem State.routeTrap_toS {cause : Nat} (hh : s.hOnly r cause = false) (hb : s.badHandler r = false) (pc value : W64) :
    s.routeTrap r pc cause value = s.toS r pc (BitVec.ofNat 64 cause) value := by
  simp only [State.routeTrap, State.sBranch, hh, hb, Bool.false_eq_true, if_false]

theorem State.routeTrap_withheld {cause : Nat} (hh : s.hOnly r cause = true) (pc value : W64) :
    s.routeTrap r pc cause value = s.park r pc cause value := if_pos hh

/-- Where S cannot be entered, the RSQ parks with the cause as its value (R325). -/
theorem State.routeTrap_badHandler {cause : Nat} (hh : s.hOnly r cause = false) (hb : s.badHandler r = true) (pc value : W64) :
    s.routeTrap r pc cause value = s.park r pc 0x1B (BitVec.ofNat 64 (fld (BitVec.ofNat 64 cause) 7 0)) := by
  simp only [State.routeTrap, State.sBranch, hh, hb, Bool.false_eq_true, if_false, if_true]

/-- HDELEG withholds no user cause (R324). -/
theorem State.hOnly_user (s : State) (r : Nat) : s.hOnly r 1 = false := by simp [State.hOnly]

theorem State.hOnly_illegal (s : State) (r : Nat) : s.hOnly r 0x10 = !bit (s.rcsr r 0x2104) 0 := by simp [State.hOnly]

theorem exec_illegalInstruction (w : W32) (s : State) : exec (.illegalInstruction w) s = .next (s.trap 0x10 (w.zeroExtend 64)) := rfl

/-- The causes of R252's checks are none of the user's (R324). -/
theorem AccErr.cause_ge {e : AccErr} (h : ∀ m, e ≠ .mem m) : 0x10 ≤ e.cause.1 := by
  cases e with
  | mem m => exact absurd rfl (h m)
  | xlat f =>
    simp only [AccErr.cause]
    split
    · decide
    · split <;> decide
  | addr va => exact (by decide : 0x10 ≤ 0x12)
  | align va => exact (by decide : 0x10 ≤ 0x13)
  | bounds va => exact (by decide : 0x10 ≤ 0x14)
  | window w => exact (by decide : 0x10 ≤ 0x18)

theorem exec_fetchFault {e : AccErr} (hr : s.cur = .ring r) (hf : s.fetchErr (.ring r) (s.ring r).level s.pc = some e) (hm : ∀ m, e ≠ .mem m) :
    exec .instructionFetchFault s = .next (s.trap e.cause.1 e.cause.2) := by
  show execInstructionFetchFault s = _
  simp only [execInstructionFetchFault, hr, State.levelOf, hf]
  cases e with
  | mem m => exact absurd rfl (hm m)
  | _ => rfl

/-- Settles O23: each cause reaches S, whose entry writes what R325 says. -/
theorem supervisorTrapEntry : Obligations.SupervisorTrapEntry := by
  unfold Obligations.SupervisorTrapEntry
  intro entry
  have hentry {s : State} {r cause : Nat} {value : W64} (hr : s.cur = .ring r) : entry s (s.toS r s.pc (BitVec.ofNat 64 cause) value) r
      (BitVec.ofNat 64 cause) value := by
    have h := State.toS_frame hr s.pc (BitVec.ofNat 64 cause) value
    rwa [State.enterStatus_eq] at h
  have htrap {s : State} {r cause : Nat} {value : W64} (hr : s.cur = .ring r) (h : 0x10 ≤ cause ∨ s.userTaken r cause = false)
      (hh : s.hOnly r cause = false) (hb : s.badHandler r = false) : s.trap cause value = s.toS r s.pc (BitVec.ofNat 64 cause) value :=
    (State.trap_routed hr h value).trans (State.routeTrap_toS hh hb s.pc value)
  refine ⟨fun s r imm hr hu hb => ?_, fun s r w hr hd hb => ?_, fun s r e hr hf hm hh hb => ?_⟩
  · exact ⟨_, (exec_trap imm s).trans (congrArg _ (htrap hr (.inr hu) (s.hOnly_user r) hb)), hentry hr⟩
  · have hh : s.hOnly r 0x10 = false := by rw [State.hOnly_illegal, hd, Bool.not_true]
    exact ⟨_, (exec_illegalInstruction w s).trans (congrArg _ (htrap hr (.inl (Nat.le_refl _)) hh hb)), hentry hr⟩
  · exact ⟨_, (exec_fetchFault hr hf hm).trans (congrArg _ (htrap hr (.inl (AccErr.cause_ge hm)) hh hb)), hentry hr⟩

end Sys2Proof.Machine
end

section
/-! A trap that parks the RSQ, and a trap of a management core (R325, R327, R328). -/

namespace Sys2Proof.Machine

variable {s : State} {r d : Nat}

/-- A parked RSQ posts its event to the die, behind any number of others (R328; log 124). -/
theorem State.park_eq (s : State) (r : Nat) (pc : W64) (cause : Nat) (value : W64) :
    s.park r pc cause value = (s.updRing r fun x => x.parked pc (BitVec.ofNat 64 cause) value).updDie (dieOf r) fun x =>
      { x with hevt := x.hevt ++ [eventWord 0 cause 0 r] } := by
  simp only [State.park, State.post, true_or, if_true, State.setRcsr, State.updRing_updRing, Ring.parked]

/-- What parking writes, and what it leaves (R327). -/
theorem State.park_frame (s : State) (r : Nat) (pc : W64) (cause : Nat) (value : W64) :
    let t := s.park r pc cause value
    (t.ring r).run = .parked ∧ t.rcsr r 0x2106 = pc ∧ t.rcsr r 0x2107 = BitVec.ofNat 64 cause ∧ t.rcsr r 0x2108 = value ∧
      (t.ring r).seq = (s.ring r).seq ∧ (t.ring r).level = (s.ring r).level ∧
      (t.die (dieOf r)).hevt = (s.die (dieOf r)).hevt ++ [eventWord 0 cause 0 r] ∧
      (∀ n, n ∉ [0x2106, 0x2107, 0x2108] → t.rcsr r n = s.rcsr r n) ∧ ∀ k, t.byte k = s.byte k := by
  simp only [State.park_eq, State.rcsr, State.ring_updDie, State.ring_updRing_same, State.die_updDie_same, State.die_updRing, State.byte_updDie,
    State.byte_updRing, Ring.parked]
  refine ⟨trivial, ?_, ?_, ?_, trivial, trivial, trivial, fun n hn => ?_, fun _ => trivial⟩
  · simp [tget_tput]
  · simp [tget_tput]
  · simp
  · simp only [List.mem_cons, List.not_mem_nil, or_false, not_or] at hn
    obtain ⟨hpc, hcause, hval⟩ := hn
    rw [tget_tput_ne _ _ _ hval, tget_tput_ne _ _ _ hcause, tget_tput_ne _ _ _ hpc]

theorem State.trap_core (hd : s.cur = .core d) (cause : Nat) (value : W64) :
    s.trap cause value = s.coreTrap d (BitVec.ofNat 64 cause) value := by
  simp only [State.trap, hd]

/-- The core enters its handler (R328). -/
theorem State.coreTrap_enters (hv : badTarget (s.dcsr d 0x2002 &&& 0xFFFFFFFFFFFFFFFC) = false) (cause value : W64) :
    s.coreTrap d cause value = s.updDie d fun x =>
      x.inHandler (s.dcsr d 0x2002 &&& 0xFFFFFFFFFFFFFFFC) (entered (s.dcsr d 0x2006)) (s.die d).core.pc cause value := by
  simp only [State.coreTrap, hv, Bool.false_eq_true, if_false, State.setDcsr, State.updDie_updDie, Die.inHandler, entered]

/-- The core stops, and reports over I3C (R328, R441). -/
theorem State.coreTrap_stops (hv : badTarget (s.dcsr d 0x2002 &&& 0xFFFFFFFFFFFFFFFC) = true) (cause value : W64) :
    s.coreTrap d cause value = { s.updDie d fun x => { x with stopped := true } with i3c := some 1 } := by
  simp only [State.coreTrap, hv, if_true]

/-- What the entry of a core's handler writes, and what it leaves (R328). -/
theorem State.inHandler_frame (hd : s.cur = .core d) (target pc cause value : W64) :
    let t := s.updDie d fun x => x.inHandler target (entered (s.dcsr d 0x2006)) pc cause value
    OnlyDie d s t ∧ t.dcsr d 0x2003 = pc ∧ t.dcsr d 0x2004 = cause ∧ t.dcsr d 0x2005 = value ∧
      fld (t.dcsr d 0x2006) 0 0 = 0 ∧ fld (t.dcsr d 0x2006) 1 1 = fld (s.dcsr d 0x2006) 0 0 ∧ t.pc = target ∧ t.me.x = s.me.x ∧
      (∀ n, n ∉ [0x2003, 0x2004, 0x2005, 0x2006] → t.dcsr d n = s.dcsr d n) ∧ ∀ k, t.byte k = s.byte k := by
  intro t
  have hstatus : t.dcsr d 0x2006 = entered (s.dcsr d 0x2006) := (State.dcsr_updDie_same s d _ _).trans (tget_tput_same _ _ _ _)
  refine ⟨onlyDie_updDie s d _, ?_, ?_, ?_, ?_, ?_, ?_, ?_, fun n hn => ?_, State.byte_updDie s d _⟩
  · simp [t, State.dcsr_updDie_same, Die.inHandler, tget_tput]
  · simp [t, State.dcsr_updDie_same, Die.inHandler, tget_tput]
  · simp [t, State.dcsr_updDie_same, Die.inHandler, tget_tput]
  · rw [hstatus, fld_entered_enable]
  · rw [hstatus, fld_entered_previous]
  · rw [State.pc, State.me_updDie hd, Die.inHandler]
  · rw [State.me_updDie hd, State.me_core hd, Die.inHandler]
  · simp only [List.mem_cons, List.not_mem_nil, or_false, not_or] at hn
    obtain ⟨hepc, hcause, hval, hstat⟩ := hn
    rw [State.dcsr_updDie_same, Die.inHandler, tget_tput_ne _ _ _ hstat, tget_tput_ne _ _ _ hval, tget_tput_ne _ _ _ hcause,
      tget_tput_ne _ _ _ hepc, State.dcsr]

/-- Settles O24: a withheld cause and an unusable handler park the RSQ, and a core enters its handler or stops. -/
theorem parkAndCoreTraps : Obligations.ParkAndCoreTraps := by
  unfold Obligations.ParkAndCoreTraps
  refine ⟨fun s r w hr hd => ?_, fun s r imm hr hu hb => ?_, fun s d imm hd hlt => ?_, fun s d imm hd hge => ?_⟩
  · have hh : s.hOnly r 0x10 = true := by rw [State.hOnly_illegal, hd, Bool.not_false]
    have hpark := (State.trap_routed hr (.inl (Nat.le_refl _)) (w.zeroExtend 64)).trans (State.routeTrap_withheld hh _ _)
    exact ⟨_, (exec_illegalInstruction w s).trans (congrArg _ hpark), s.park_frame r s.pc 0x10 _⟩
  · have hpark := (State.trap_routed hr (.inr hu) (imm.zeroExtend 64)).trans (State.routeTrap_badHandler (s.hOnly_user r) hb _ _)
    obtain ⟨hrun, hpc, hcause, hval, hseq, -, -, -, hbyte⟩ := s.park_frame r s.pc 0x1B (BitVec.ofNat 64 (fld (BitVec.ofNat 64 1) 7 0))
    exact ⟨_, (exec_trap imm s).trans (congrArg _ hpark), hrun, hpc, hcause, hval, hseq, hbyte⟩
  · have henter := (State.trap_core hd 1 (imm.zeroExtend 64)).trans
      (State.coreTrap_enters (badTarget_eq_false (toNat_handler_mod _) hlt) _ _)
    rw [← State.me_core hd, ← State.pc] at henter
    exact ⟨_, (exec_trap imm s).trans (congrArg _ henter), State.inHandler_frame hd _ _ _ _⟩
  · have hstop := (State.trap_core hd 1 (imm.zeroExtend 64)).trans (State.coreTrap_stops (badTarget_eq_true (.inr hge)) _ _)
    refine ⟨_, (exec_trap imm s).trans (congrArg _ hstop), ?_, rfl, ?_⟩
    · exact congrArg Die.stopped (State.die_updDie_same s d fun x => { x with stopped := true })
    · exact (State.me_updDie hd fun x => { x with stopped := true }).trans (State.me_core hd).symm

end Sys2Proof.Machine
end

section
/-! What an access of a thread that reads and performs can change: the thread's accounts, what others must observe, and the count of transfers
(R106, R111, R116, R118, R248). -/

namespace Sys2Proof.Machine

variable {s t u : State} {th : Thread}

namespace OnlyAccess

theorem updSeq (h : OnlyAccess th s t) (f : Seq → Seq) : OnlyAccess th s (t.updSeq th f) := by
  obtain ⟨q, asyncs, past, linkSeq, rfl⟩ := h
  refine ⟨f q, asyncs, past, linkSeq, ?_⟩
  cases th <;>
    simp only [State.updSeq, State.updRing, State.setRing, State.ring, State.updDie, State.setDie, State.die, tput_tput, tget_tput_same]

theorem withPast (h : OnlyAccess th s t) (past : List Past) : OnlyAccess th s { t with past := past } := by
  obtain ⟨q, asyncs, _, linkSeq, rfl⟩ := h
  exact ⟨q, asyncs, past, linkSeq, rfl⟩

theorem withLinkSeq (h : OnlyAccess th s t) (n : W64) : OnlyAccess th s { t with linkSeq := n } := by
  obtain ⟨q, asyncs, past, _, rfl⟩ := h
  exact ⟨q, asyncs, past, n, rfl⟩

theorem updAsyncs {r : Nat} (h : OnlyAccess (.ring r) s t) (f : List Async → List Async) :
    OnlyAccess (.ring r) s (t.updRing r fun x => { x with asyncs := f x.asyncs }) := by
  obtain ⟨q, asyncs, past, linkSeq, rfl⟩ := h
  refine ⟨q, f asyncs, past, linkSeq, ?_⟩
  simp only [State.updRing, State.setRing, State.ring, tput_tput, tget_tput_same]

/-- A thread's accounts change after what others must observe does. -/
theorem of_updSeq (s : State) (th : Thread) (past : List Past) (f : Seq → Seq) : OnlyAccess th s (({ s with past := past } : State).updSeq th f) := by
  cases th with
  | ring r => exact ⟨f (s.ring r).seq, (s.ring r).asyncs, past, s.linkSeq, rfl⟩
  | core d => exact ⟨f (s.die d).core, [], past, s.linkSeq, rfl⟩

end OnlyAccess

/-- A change that OnlyAccess admits, and that leaves the thread its general registers, its pc and its outstanding accesses. -/
structure KeepsAccesses (th : Thread) (t u : State) : Prop where
  only : ∀ s, OnlyAccess th s t → OnlyAccess th s u
  loads : (u.seqOf th).loads = (t.seqOf th).loads
  stores : (u.seqOf th).stores = (t.seqOf th).stores
  pc : (u.seqOf th).pc = (t.seqOf th).pc
  x : (u.seqOf th).x = (t.seqOf th).x
  mem : u.mem = t.mem

namespace KeepsAccesses

theorem refl (th : Thread) (s : State) : KeepsAccesses th s s := ⟨fun _ h => h, rfl, rfl, rfl, rfl, rfl⟩

theorem trans (h : KeepsAccesses th s t) (k : KeepsAccesses th t u) : KeepsAccesses th s u :=
  ⟨fun v hv => k.only v (h.only v hv), k.loads.trans h.loads, k.stores.trans h.stores, k.pc.trans h.pc, k.x.trans h.x, k.mem.trans h.mem⟩

theorem foldl {α : Type} {f : State → α → State} (hf : ∀ st a, KeepsAccesses th st (f st a)) (l : List α) (s : State) :
    KeepsAccesses th s (l.foldl f s) :=
  List.foldlRecOn l f (refl th s) fun st hst a _ => hst.trans (hf st a)

theorem ite {p : Prop} [Decidable p] (ht : KeepsAccesses th s t) (hu : KeepsAccesses th s u) : KeepsAccesses th s (if p then t else u) := by
  split
  · exact ht
  · exact hu

theorem withPast (s : State) (past : List Past) : KeepsAccesses th s { s with past := past } := by
  have hseq : ({ s with past := past } : State).seqOf th = s.seqOf th := by cases th <;> rfl
  exact ⟨fun _ h => h.withPast past, by rw [hseq], by rw [hseq], by rw [hseq], by rw [hseq], rfl⟩

theorem withLinkSeq (s : State) (n : W64) : KeepsAccesses th s { s with linkSeq := n } := by
  have hseq : ({ s with linkSeq := n } : State).seqOf th = s.seqOf th := by cases th <;> rfl
  exact ⟨fun _ h => h.withLinkSeq n, by rw [hseq], by rw [hseq], by rw [hseq], by rw [hseq], rfl⟩

theorem updSeq (s : State) {f : Seq → Seq} (hf : ∀ q, (f q).loads = q.loads ∧ (f q).stores = q.stores ∧ (f q).pc = q.pc ∧ (f q).x = q.x) :
    KeepsAccesses th s (s.updSeq th f) := by
  obtain ⟨hloads, hstores, hpc, hx⟩ := hf (s.seqOf th)
  exact ⟨fun _ h => h.updSeq f, by rwa [State.seqOf_updSeq_same], by rwa [State.seqOf_updSeq_same], by rwa [State.seqOf_updSeq_same],
    by rwa [State.seqOf_updSeq_same], State.updSeq_mem s th f⟩

theorem updAsyncs (s : State) (r : Nat) (f : List Async → List Async) :
    KeepsAccesses (.ring r) s (s.updRing r fun x => { x with asyncs := f x.asyncs }) := by
  have hseq : (s.updRing r fun x => { x with asyncs := f x.asyncs }).seqOf (.ring r) = s.seqOf (.ring r) := s.seqOf_updRing r rfl _
  exact ⟨fun _ h => h.updAsyncs f, by rw [hseq], by rw [hseq], by rw [hseq], by rw [hseq], rfl⟩

theorem force (s : State) (wrote : Tab Nat) : KeepsAccesses th s (s.force wrote) := withPast s _

theorem transfers (s : State) (ps : List (Nat × MemAttr)) : KeepsAccesses th s (s.transfers ps) := withLinkSeq s _

/-- A release makes writes visible, and does nothing else (R110, R116). -/
theorem releaseBy (s : State) (c : Nat) : KeepsAccesses th s (s.releaseBy th c) := by
  cases th with
  | ring r => exact ite (refl _ s) (withPast s _)
  | core d => exact refl _ s

theorem acquire (s : State) (c : Nat) (d : Dep) : KeepsAccesses th s (s.acquire th c d) := updSeq s fun _ => ⟨rfl, rfl, rfl, rfl⟩

theorem tellAsyncs (s : State) (seq : Nat) (locs : List Nat) : KeepsAccesses th s (s.tellAsyncs th seq locs) := by
  cases th with
  | ring r => exact ite (refl _ s) (updAsyncs s r _)
  | core d => exact refl _ s

theorem fenceAsyncs (s : State) (f : RangeFence) (heard : Dep) : KeepsAccesses th s (s.fenceAsyncs th f heard) := by
  cases th with
  | ring r => exact ite (refl _ s) (updAsyncs s r _)
  | core d => exact refl _ s

/-- A fence that takes effect moves no access (R118). -/
theorem settleFence (s : State) (f : RangeFence) : KeepsAccesses th s (s.settleFence th f) := by
  refine (((updSeq s fun q => ?_).trans (fenceAsyncs _ f _)).trans (withPast _ _)).trans (releaseBy _ f.scope)
  split <;> exact ⟨rfl, rfl, rfl, rfl⟩

theorem settleRanges (s : State) : KeepsAccesses th s (s.settleRanges th) := foldl settleFence _ s

end KeepsAccesses

/-- A read that delivers leaves the thread its registers and its accesses (R106, R111). -/
theorem State.readFor_onlyAccess {seq : Nat} {dep : Dep} {va : W64} {ps : List (Nat × MemAttr)} {g : Got} (h : s.readFor th seq dep va ps = .ok g) :
    OnlyAccess th s g.state ∧ KeepsAccesses th s g.state := by
  simp only [State.readFor] at h
  split at h
  · cases h
  · cases h
    have hforce := KeepsAccesses.force (th := th) s (s.readerOf th seq dep va ps.length).front.wrote
    refine ⟨(OnlyAccess.of_updSeq s th _ _).withLinkSeq _, (hforce.trans ?_).trans (KeepsAccesses.transfers _ _)⟩
    exact KeepsAccesses.updSeq _ fun _ => ⟨rfl, rfl, rfl, rfl⟩

/-- The accounts of a thread whose load k has ended with a value (R195, R248, R255). -/
def Seq.loaded (q : Seq) (k : Nat) (rd : BitVec 5) (v : W64) (d : Dep) : Seq :=
  { q with loads := q.loads.eraseIdx k, x := if rd = 0 then q.x else tput q.x rd.toNat v,
           deps := if rd = 0 then q.deps else tset Dep.zero q.deps rd.toNat d }

theorem State.endLoad_eq (t : State) (th : Thread) (k : Nat) (rd : BitVec 5) (v : W64) (d : Dep) :
    ∃ w, KeepsAccesses th t w ∧ t.endLoad th k rd v d = (w.updSeq th fun q => q.loaded k rd v d).settleRanges th := by
  simp only [State.endLoad]
  split
  · exact ⟨_, KeepsAccesses.tellAsyncs t _ _, rfl⟩
  · exact ⟨t, KeepsAccesses.refl th t, rfl⟩

/-- A load that ends is no longer outstanding, and its register takes the value, unless that is x0 (R195, R248). -/
theorem State.endLoad_frame (h : OnlyAccess th s t) (k : Nat) (rd : BitVec 5) (v : W64) (d : Dep) :
    let u := t.endLoad th k rd v d
    OnlyAccess th s u ∧ (u.seqOf th).loads = (t.seqOf th).loads.eraseIdx k ∧ (u.seqOf th).stores = (t.seqOf th).stores ∧
      (u.seqOf th).pc = (t.seqOf th).pc ∧ (u.seqOf th).x = (if rd = 0 then (t.seqOf th).x else tput (t.seqOf th).x rd.toNat v) ∧
      u.mem = t.mem := by
  obtain ⟨w, hw, he⟩ := t.endLoad_eq th k rd v d
  have hset := KeepsAccesses.settleRanges (th := th) (w.updSeq th fun q => q.loaded k rd v d)
  have hseq := w.seqOf_updSeq_same th fun q => q.loaded k rd v d
  simp only [he]
  refine ⟨hset.only s ((hw.only s h).updSeq _), ?_, ?_, ?_, ?_, ?_⟩
  · rw [hset.loads, hseq, Seq.loaded, hw.loads]
  · rw [hset.stores, hseq, Seq.loaded, hw.stores]
  · rw [hset.pc, hseq, Seq.loaded, hw.pc]
  · rw [hset.x, hseq, Seq.loaded, hw.x]
  · rw [hset.mem, State.updSeq_mem, hw.mem]

end Sys2Proof.Machine
end

section
/-! The write-back of an aligned load (R248, R251, R254). -/

namespace Sys2Proof.Machine

/-- SEXT of a number is the signed value of its low bits (R8). -/
theorem sextN_eq_toInt (v : Nat) {n : Nat} (hn : 0 < n) : sextN v n = (BitVec.ofNat n v).toInt := by
  obtain ⟨m, rfl⟩ : ∃ m, n = m + 1 := ⟨n - 1, by omega⟩
  have hpow : 2 ^ (m + 1) = 2 * 2 ^ m := by rw [Nat.pow_succ, Nat.mul_comm]
  simp only [sextN, BitVec.toInt_eq_toNat_cond, BitVec.toNat_ofNat, Nat.add_sub_cancel, hpow]
  split <;> split <;> omega

/-- A load extends its bytes as its form says (R251). -/
theorem PendLoad.value_load {l : PendLoad} {g : Bool} (hk : l.kind = .load g) (hn : 0 < l.nb) (bs : List Byte) :
    l.value bs = if g then BitVec.ofInt 64 (BitVec.ofNat (8 * l.nb) (leNat bs)).toInt else BitVec.ofNat 64 (leNat bs) := by
  rw [PendLoad.value, hk, ← sextN_eq_toInt _ (Nat.mul_pos (by decide) hn)]
  rfl

/-- The thread as a load finds it whose bytes have been read: an acquiring one acquires what it has read (R116). -/
def Got.acquired (g : Got) (t : Thread) (l : PendLoad) : State :=
  if l.orders then g.state.acquire t l.scope.toNat (g.dep t l.scope.toNat) else g.state

theorem Got.acquired_keeps (g : Got) (t : Thread) (l : PendLoad) : KeepsAccesses t g.state (g.acquired t l) :=
  KeepsAccesses.ite (KeepsAccesses.acquire _ _ _) (KeepsAccesses.refl _ _)

theorem exec_loadWriteback_aligned {s : State} {th k part : Nat} {l : PendLoad} {g : Bool} {got : Got}
    (hl : (s.seqOf (threadOf th)).loads[k]? = some l) (hr : loadReady (s.seqOf (threadOf th)) l = true)
    (hb : s.bankBusy (threadOf th) l.locs = false) (hk : l.kind = .load g) (ha : l.va.toNat % l.nb = 0)
    (hg : s.readFor (threadOf th) l.seq l.dep l.va (l.locs.zip l.attrs) = .ok got) :
    exec (.loadWriteback th k part) s =
      .next ((got.acquired (threadOf th) l).endLoad (threadOf th) k l.rd (l.value got.bytes) (got.dep (threadOf th) 3)) := by
  show execLoadWriteback th k part s = _
  simp only [execLoadWriteback, hl, hr, hb, hk, ha, hg, Bool.not_true, Bool.or_self, Bool.false_eq_true, if_false, if_true, Got.acquired]

/-- Settles O16: the read and the end of the load leave all but the register, the load and what others must observe. -/
theorem loadReturns : Obligations.LoadReturns := by
  unfold Obligations.LoadReturns
  intro s th k part l g got hl hr hb hk ha hpos _ hg _
  obtain ⟨honly, hread⟩ := State.readFor_onlyAccess hg
  have hkeep := hread.trans (got.acquired_keeps (threadOf th) l)
  obtain ⟨hend, hloads, hstores, hpc, hx, hmem⟩ := State.endLoad_frame ((got.acquired_keeps (threadOf th) l).only s honly) k l.rd
    (l.value got.bytes) (got.dep (threadOf th) 3)
  refine ⟨_, exec_loadWriteback_aligned hl hr hb hk ha hg, hend, hloads.trans (congrArg (·.eraseIdx k) hkeep.loads),
    hstores.trans hkeep.stores, hpc.trans hkeep.pc, fun hd => ?_, fun n hn => ?_, fun a => ?_⟩
  · rw [hx, if_neg hd, tget_tput_same, PendLoad.value_load hk hpos]
  · rw [hx, hkeep.x]
    split
    next => rfl
    next hd => exact tget_tput_ne _ _ _ (hn.resolve_left hd)
  · rw [State.byte, hmem, hkeep.mem, State.byte]

end Sys2Proof.Machine
end

section
/-! No instruction and no event stops the device: each of its meanings branches, and every branch ends in a next state (R248, R252, R371, R382,
R428). -/

namespace Sys2Proof.Machine

/-- An outcome that is a next state. -/
def GoesOn (o : Out) : Prop := ∃ t, o = .next t

theorem goesOn_next (t : State) : GoesOn (.next t) := ⟨t, rfl⟩

theorem goesOn_ite {p : Prop} [Decidable p] {o o' : Out} (h : GoesOn o) (h' : GoesOn o') : GoesOn (if p then o else o') := by
  split
  · exact h
  · exact h'

/-- What waits, or traps, or is over in a first case, and otherwise goes on. -/
theorem goesOn_unless {p : Prop} [Decidable p] {t : State} {o : Out} (h : GoesOn o) : GoesOn (if p then .next t else o) :=
  goesOn_ite (goesOn_next t) h

theorem goesOn_regOp (d : BitVec 5) (srcs : List (BitVec 5)) (v : State → W64) (s : State) : GoesOn (regOp d srcs v s) :=
  goesOn_unless (goesOn_next _)

theorem goesOn_jumpTo (target : W64) (l : Option (BitVec 5)) (s : State) : GoesOn (jumpTo target l s) := by
  obtain ⟨_, h⟩ | ⟨_, h⟩ := jumpTo_cases target l s <;> exact ⟨_, h⟩

/-- The forms of R249 and R250 wait, or write their register. -/
theorem goesOn_of_scalarResult {i : Instr} {s : State} {d : BitVec 5} {regs : List (BitVec 5)} {v : W64}
    (h : scalarResult i s = some (d, regs, v)) : GoesOn (exec i s) := by
  obtain ⟨srcs, f, -, he, -⟩ := writesReg_of_scalarResult h
  rw [he]
  exact goesOn_regOp d srcs f s

/-- The branches of R257 wait, go on at the next word, or jump. -/
theorem goesOn_of_branchResult {i : Instr} {s : State} {regs : List (BitVec 5)} {off : Int} {taken : Bool}
    (h : branchResult i s = some (regs, off, taken)) : GoesOn (exec i s) := by
  obtain ⟨a, b, v, cond, -, -, -, he⟩ := exec_branchResult h
  rw [he]
  exact goesOn_unless (goesOn_ite (goesOn_jumpTo _ _ _) (goesOn_next _))

theorem goesOn_of_loadForm {i : Instr} {g : Bool} {d b : BitVec 5} {z o c : BitVec 2} {v : BitVec 10}
    (h : loadForm i = some (g, d, b, z, o, c, v)) (s : State) : GoesOn (exec i s) := by
  rw [exec_loadForm h]
  obtain h | ⟨_, _, h⟩ | ⟨_, _, _, _, h⟩ := loadOp_cases g d b z o c v s <;> exact ⟨_, h⟩

theorem goesOn_storeOp (d b : BitVec 5) (z o c : BitVec 2) (v : BitVec 10) (s : State) : GoesOn (storeOp d b z o c v s) := by
  obtain h | ⟨_, _, h⟩ | ⟨_, _, _, _, h⟩ := storeOp_cases d b z o c v s <;> exact ⟨_, h⟩

theorem goesOn_of_amoForm {i : Instr} {k d a b : BitVec 5} {c o : BitVec 2} {z : BitVec 1} (h : amoForm i = some (k, d, a, b, c, o, z))
    (s : State) : GoesOn (exec i s) := by
  rw [exec_amoForm h]
  obtain h | ⟨_, _, h⟩ | ⟨_, _, _, _, h⟩ := amoOp_cases k d a b c o z s <;> exact ⟨_, h⟩

section
variable {i : Instr} {f : Nat → State → Out} {s : State} (h : ∀ r t, GoesOn (f r t))
include h

/-- A form of an RSQ is illegal on a management core (R319). -/
theorem goesOn_onRing : GoesOn (onRing i f s) := by
  unfold onRing
  split
  · exact h _ _
  · exact goesOn_next _

theorem goesOn_atS : GoesOn (atS i f s) := by
  unfold atS
  split
  · exact goesOn_next _
  · exact goesOn_unless (h _ _)

theorem goesOn_atH : GoesOn (atH i f s) := by
  unfold atH
  split
  · exact goesOn_next _
  · exact h _ _

end

/-- A form that reads a record goes on with what it reads, or its access fails, waits, or stops the thread (R252, R412). -/
theorem goesOn_withRecord {regs : List (BitVec 5)} {va : W64} {n al : Nat} {k : List Byte → State → Out} {s : State}
    (h : ∀ l u, GoesOn (k l u)) : GoesOn (withRecord regs va n al k s) := by
  unfold withRecord
  split
  · exact goesOn_next _
  · split
    · exact goesOn_next _
    · exact goesOn_unless (h _ _)

theorem goesOn_jtab (d a : BitVec 5) (imm : BitVec 16) (s : State) : GoesOn (execJtab d a imm s) :=
  goesOn_unless (goesOn_unless (goesOn_withRecord fun _ _ => goesOn_unless (goesOn_next _)))

theorem goesOn_billetArm (d a : BitVec 5) (s : State) : GoesOn (execBilletArm d a s) :=
  goesOn_onRing fun _ _ => goesOn_unless (goesOn_unless (goesOn_withRecord fun _ _ => goesOn_next _))

theorem goesOn_crnDef (d a : BitVec 5) (s : State) : GoesOn (execCrnDef d a s) :=
  goesOn_onRing fun _ _ => goesOn_unless (goesOn_unless (goesOn_withRecord fun _ _ => goesOn_unless (goesOn_next _)))

theorem goesOn_launch (a : BitVec 5) (s : State) : GoesOn (execLaunch a s) := by
  refine goesOn_onRing fun r t => goesOn_unless (goesOn_withRecord fun l u => ?_)
  dsimp only
  split
  · exact goesOn_next _
  · refine goesOn_unless ?_
    split <;> exact goesOn_next _

theorem goesOn_gcfg (d a : BitVec 5) (s : State) : GoesOn (execGcfg d a s) :=
  goesOn_atH fun _ _ => goesOn_unless (goesOn_withRecord fun _ _ => goesOn_unless (goesOn_unless (goesOn_next _)))

theorem goesOn_ccfg (d a : BitVec 5) (s : State) : GoesOn (execCcfg d a s) :=
  goesOn_atH fun _ _ => goesOn_unless (goesOn_withRecord fun _ _ =>
    goesOn_unless (goesOn_ite (goesOn_unless (goesOn_next _)) (goesOn_unless (goesOn_unless (goesOn_next _)))))

/-- The forms with a shared meaning go on by its lemma, those that judge the level first by the meaning that follows, and every other by the branches
of its own meaning. -/
theorem exec_goesOn (i : Instr) (s : State) : GoesOn (exec i s) := by
  cases i with
  | add | sub | and | or | xor | andn | sll | srl | sra | slt | sltn | min | max | minn | maxn | mul | mulh | mulhn | div | divn | rem |
    remn | addw | clz | ctz | popc | sextW | zextW | addi | andi | ori | xori | slti | sltni | shiSll | shiSrl | shiSra | lui | auipc =>
    exact goesOn_of_scalarResult rfl
  | ld | ldn =>
    exact goesOn_of_loadForm rfl s
  | st => exact goesOn_storeOp _ _ _ _ _ _ s
  | amoAdd | amoAnd | amoOr | amoXor | amoMin | amoMax | amoMinn | amoMaxn | amoSwap | amoCas =>
    exact goesOn_of_amoForm rfl s
  | beq | bne | blt | bge | bltn | bgen =>
    exact goesOn_of_branchResult rfl
  | j off => exact goesOn_jumpTo (s.pc + BitVec.ofInt 64 (4 * off.toInt)) none s
  | jal | jalr => exact goesOn_unless (goesOn_jumpTo _ _ s)
  | jtab => exact goesOn_jtab _ _ _ _
  | tqcnt => exact goesOn_onRing fun _ _ => goesOn_regOp _ _ _ _
  | billetArm => exact goesOn_billetArm _ _ _
  | crnDef => exact goesOn_crnDef _ _ _
  | gcfg => exact goesOn_gcfg _ _ _
  | ccfg => exact goesOn_ccfg _ _ _
  | launch => exact goesOn_launch _ _
  | pload | pwait | cpy | cpyB | billetDisarm | tqpush | waitd | waitt | crnStep | crnForce | crnMap | crnUndef | crnStat | cset | mark |
    wopen | wseal | pstat =>
    simp only [exec, execPload, execPwait, execCpy, execCpyB, execBilletDisarm, execTqpush, execWaitd, execWaitt, execCrnStep,
      execCrnForce, execCrnMap, execCrnUndef, execCrnStat, execCset, execMark, execWopen, execWseal, execPstat]
    refine goesOn_onRing fun r t => ?_
    repeat' split
    all_goals exact goesOn_next _
  | tlbiVa | tlbiAsid | isave | irest =>
    simp only [exec, execTlbiVa, execTlbiAsid, execIsave, execIrest]
    refine goesOn_atS fun r t => ?_
    repeat' split
    all_goals exact goesOn_next _
  | halt | tlbiVf | scrub | dret | tlbiAll =>
    simp only [exec, execHalt, execTlbiVf, execScrub, execDret, execTlbiAll]
    refine goesOn_atH fun r t => ?_
    repeat' split
    all_goals exact goesOn_next _
  | loadWriteback | storePerform | fenceRg | waitSatisfied | interrupt | managementCoreInterrupt | instructionFetchFault | sret | hret |
    wfi | csrr | csrw | registerWrite =>
    simp only [exec, execLoadWriteback, execStorePerform, execFenceRg, execWaitSatisfied, execInterrupt, execManagementCoreInterrupt,
      execInstructionFetchFault, execSret, execHret, execWfi, execCsrr, execCsrw, execRegisterWrite]
    repeat' split
    all_goals exact goesOn_next _
  | phaseRetirement | agLineCompletion | prqHeldPlacement | tileDecision | copyAccept | billetFire | copyComplete | remoteRetryExhausted |
    asyncMaskSatisfied | ploadAccept | sweepmaxOverrun | tokenWake =>
    simp only [exec, execPhaseRetirement, execAgLineCompletion, execPrqHeldPlacement, execTileDecision, execCopyAccept, execBilletFire,
      execCopyComplete, execRemoteRetryExhausted, execAsyncMaskSatisfied, execPloadAccept, execSweepmaxOverrun, execTokenWake]
    repeat' split
    all_goals exact goesOn_next _
  | preemptionCapture | tenantSwitch | tsentEnable | rnoteWrite | lqtailWrite | doorbellWrite | launchConsume | ldoneWrite | launchPacket
    | rctlResume | rctlResumeInject | rimgctlDump | rimgctlRest | prqpopRead | prqForward | sprqRetry | sprqFail | qpstatClear =>
    simp only [exec, execPreemptionCapture, execTenantSwitch, execTsentEnable, execRnoteWrite, execLqtailWrite, execDoorbellWrite,
      execLaunchConsume, execLdoneWrite, execLaunchPacket, execRctlResume, execRctlResumeInject, execRimgctlDump, execRimgctlRest,
      execPrqpopRead, execPrqForward, execSprqRetry, execSprqFail, execQpstatClear]
    repeat' split
    all_goals exact goesOn_next _
  | powerTransitionComplete | i3cStartRequest | fclkRaise | linkStateChange | rdbgdRead | rdbgdWrite | clockStretch | hostAccess |
    laneRepair | kctlStopVf | kinitctlGo =>
    simp only [exec, execPowerTransitionComplete, execI3cStartRequest, execFclkRaise, execLinkStateChange, execRdbgdRead, execRdbgdWrite,
      execClockStretch, execHostAccess, execLaneRepair, execKctlStopVf, execKinitctlGo]
    repeat' split
    all_goals exact goesOn_next _
  | _ => exact goesOn_next _

/-- A move that is work of the device: an instruction or an event, or what no row of the opcode table names. -/
def Move.Acts : Move → Prop
  | .run _ _ => True
  | .idle _ => True
  | .stop _ => False

theorem Move.acts_ite {p : Prop} [Decidable p] {m m' : Move} (h : m.Acts) (h' : m'.Acts) : (if p then m else m').Acts := by
  split
  · exact h
  · exact h'

theorem State.fetchMove_acts (s : State) (t : Thread) : (s.fetchMove t).Acts := by
  unfold State.fetchMove
  split
  · trivial
  · dsimp only
    split
    · trivial
    · split <;> trivial

/-- A thread waits, is interrupted, or fetches (R203, R290, R323). -/
theorem State.threadMove_acts (s : State) (t : Thread) : (s.threadMove t).Acts := by
  cases t with
  | ring r => exact Move.acts_ite trivial (Move.acts_ite trivial (Move.acts_ite trivial (State.fetchMove_acts _ _)))
  | core d => exact Move.acts_ite trivial (Move.acts_ite trivial (Move.acts_ite trivial (State.fetchMove_acts _ _)))

theorem State.actMove_acts (s : State) (a : Act) : (s.actMove a).Acts := by
  cases a with
  | thread t => exact s.threadMove_acts t
  | fabric g =>
    simp only [State.actMove]
    split <;> trivial
  | clock =>
    simp only [State.actMove]
    generalize s.tick = u
    refine Move.acts_ite ?_ ?_ <;> trivial
  | event t i => exact Move.acts_ite trivial trivial
  | _ => trivial

/-- A device that has its supply always has work to do (R429). -/
theorem choose_acts {s : State} (h : HasSupply s) : (choose s).Acts := by
  have hp : s.powered = true := h
  simp only [choose, hp, if_true]
  exact State.actMove_acts _ _

theorem runs_of_choose_acts {s : State} (h : (choose s).Acts) : Runs s := by
  unfold Runs
  cases hm : choose s with
  | run i u => rw [step_of_run hm]; exact exec_goesOn i u
  | idle u => exact ⟨u, step_of_idle hm⟩
  | stop f => rw [hm] at h; exact h.elim

/-- Without its supply the device does not choose a move, unless it starts (R429). -/
theorem choose_supplyLost {s : State} (hp : s.powered = false) (hs : ∀ th f, s.nextAct.1 ≠ .event th (.powerOnStart f)) :
    choose s = .stop .supplyLost := by
  simp only [choose, hp, Bool.false_eq_true, if_false]

/-- Settles O9: every meaning ends in a next state, and only a device without its supply has a move that is no work. -/
theorem stepGoesOn : Obligations.StepGoesOn := by
  unfold Obligations.StepGoesOn
  refine ⟨exec_goesOn, fun s hs => runs_of_choose_acts (choose_acts hs), fun s hp hs => ?_⟩
  simp [step, choose_supplyLost hp hs]

end Sys2Proof.Machine
end

section
/-! The state after a cold start (R422). -/

namespace Sys2Proof.Machine

theorem csrReset_eq_zero {n : Nat} (hg : n ≠ 0x019) (ht : n ≠ 0x100B) : csrReset n = 0 := by
  unfold csrReset
  split
  · exact absurd rfl hg
  · exact absurd rfl ht
  · rfl

theorem coreCsrReset_eq_zero {n : Nat} (ht : n ≠ 0x2008) (hp : n ≠ 0x2020) (hc : n ≠ 0x2065) : coreCsrReset n = 0 := by
  unfold coreCsrReset
  split
  · exact absurd rfl ht
  · exact absurd rfl hp
  · exact absurd rfl hc
  · rfl

/-- Settles O1: at reset no ring, die, byte, key or window is listed, so that each reads as its kind resets. -/
theorem resetState : Obligations.ResetState := by
  unfold Obligations.ResetState
  refine ⟨fun _ => ⟨rfl, rfl, rfl, rfl, rfl, rfl⟩, fun _ _ hg ht => csrReset_eq_zero hg ht, fun _ => ⟨rfl, rfl⟩,
    fun _ _ ht hp hc => coreCsrReset_eq_zero ht hp hc, fun _ => ⟨rfl, rfl, rfl, rfl⟩, fun _ => rfl, fun _ => ⟨rfl, rfl, rfl⟩, rfl, rfl⟩

/-- Settles O2: no byte is listed. -/
theorem memoryFormAtReset : Obligations.MemoryFormAtReset := by
  unfold Obligations.MemoryFormAtReset
  exact rfl

end Sys2Proof.Machine
end

section
/-! The levels at which a form executes, and the trap where it does not (R319, R320, R330). -/

namespace Sys2Proof.Machine

variable {s : State} {r d : Nat}

/-- A form of an RSQ is illegal on a management core (R330). -/
theorem onRing_core (hd : s.cur = .core d) (i : Instr) (f : Nat → State → Out) : onRing i f s = .next (s.trap 0x10 (wordOf i)) := by
  simp only [onRing, hd]

theorem atS_ring (hr : s.cur = .ring r) (hl : (s.ring r).level ≠ .u) (i : Instr) (f : Nat → State → Out) : atS i f s = f r s := by
  simp only [atS, hr, if_neg hl]

theorem atS_user (hr : s.cur = .ring r) (hl : (s.ring r).level = .u) (i : Instr) (f : Nat → State → Out) :
    atS i f s = .next (s.trap 0x11 (wordOf i)) := by
  simp only [atS, hr, if_pos hl]

theorem atS_core (hd : s.cur = .core d) (i : Instr) (f : Nat → State → Out) : atS i f s = .next (s.trap 0x10 (wordOf i)) := by
  simp only [atS, hd]

theorem atH_core (hd : s.cur = .core d) (i : Instr) (f : Nat → State → Out) : atH i f s = f d s := by
  simp only [atH, hd]

theorem atH_ring (hr : s.cur = .ring r) (i : Instr) (f : Nat → State → Out) : atH i f s = .next (s.trap 0x11 (wordOf i)) := by
  simp only [atH, hr]

/-- A register of H, and below S one of S, is privileged on an RSQ (R320). -/
theorem State.csrTrap_above {n : Nat} (hr : s.cur = .ring r) (hn : n < 0x3000)
    (h : 0x2000 ≤ n ∨ 0x1000 ≤ n ∧ (s.ring r).level = .u) (wr : Bool) : s.csrTrap n wr = some 0x11 := by
  have habove : (decide (0x2000 ≤ n) || (decide (0x1000 ≤ n) && (s.ring r).level == .u)) = true := by
    simpa only [Bool.or_eq_true, Bool.and_eq_true, decide_eq_true_eq, beq_iff_eq] using h
  simp only [State.csrTrap, hr, habove, if_neg (Nat.not_le.2 hn), if_true]

/-- No level has a register past 0x2FFF (R320). -/
theorem State.csrTrap_none {n : Nat} (hn : 0x3000 ≤ n) (wr : Bool) : s.csrTrap n wr = some 0x10 := if_pos hn

theorem exec_csrr_trap {d : BitVec 5} {n : BitVec 14} {c : Nat} (h : s.csrTrap n.toNat false = some c) :
    exec (.csrr d n) s = .next (s.trap c (wordOf (.csrr d n))) := by
  show execCsrr d n s = _
  simp only [execCsrr, h]

theorem exec_csrw_trap {a : BitVec 5} {n : BitVec 14} {c : Nat} (h : s.csrTrap n.toNat true = some c) :
    exec (.csrw a n) s = .next (s.trap c (wordOf (.csrw a n))) := by
  show execCsrw a n s = _
  simp only [execCsrw, h]

/-- A register above the level of an RSQ is neither read nor written (R320). -/
theorem exec_csr_above {n : BitVec 14} (hr : s.cur = .ring r) (hn : n.toNat < 0x3000)
    (h : 0x2000 ≤ n.toNat ∨ 0x1000 ≤ n.toNat ∧ (s.ring r).level = .u) (d : BitVec 5) :
    exec (.csrr d n) s = .next (s.trap 0x11 (wordOf (.csrr d n))) ∧ exec (.csrw d n) s = .next (s.trap 0x11 (wordOf (.csrw d n))) :=
  ⟨exec_csrr_trap (State.csrTrap_above hr hn h false), exec_csrw_trap (State.csrTrap_above hr hn h true)⟩

theorem exec_wfi_user (hr : s.cur = .ring r) (hl : (s.ring r).level = .u) : exec .wfi s = .next (s.trap 0x11 (wordOf .wfi)) := by
  show execWfi s = _
  simp only [execWfi, hr, if_pos hl]

/-- The word of a form without operands (R195, R330). -/
theorem wordOf_hret : wordOf .hret = 0xE0000001 := by decide

theorem wordOf_sret : wordOf .sret = 0xE0000000 := by decide

/-- Settles O27: each form asks for its level first, and an access to a register for the register's. -/
theorem privilegeTraps : Obligations.PrivilegeTraps := by
  unfold Obligations.PrivilegeTraps
  refine ⟨fun s r i hr hi => ?_, fun s r d a hr => ?_, fun s r hr hl => exec_wfi_user hr hl, fun s r d a b hr hl => ?_, fun s c i hd hi => ?_,
    fun s r d n hr hlo hhi => exec_csr_above hr hhi (.inl hlo) d,
    fun s r d n hr hl hlo hhi => exec_csr_above hr (Nat.lt_trans hhi (by decide)) (.inr ⟨hlo, hl⟩) d,
    fun s d n hn => exec_csrr_trap (State.csrTrap_none hn false)⟩
  · simp only [List.mem_cons, List.not_mem_nil, or_false] at hi
    rcases hi with rfl | rfl
    · simp only [exec, execTlbiAll, atH_ring hr]
    · simp only [exec, execHret, hr, wordOf_hret]
  · simp only [exec, execHalt, execDret, execGcfg, execCcfg, execScrub, execTlbiVf, atH_ring hr, and_self]
  · simp only [exec, execTlbiVa, execTlbiAsid, execIrest, execIsave, atS_user hr hl, and_self]
  · obtain ⟨d, a, b, st, h, w, hi⟩ := hi
    simp only [List.mem_cons, List.not_mem_nil, or_false] at hi
    rcases hi with rfl | rfl | rfl | rfl | rfl | rfl | rfl | rfl | rfl | rfl | rfl | rfl | rfl | rfl | rfl | rfl | rfl | rfl | rfl | rfl | rfl |
      rfl | rfl | rfl | rfl | rfl | rfl
    all_goals
      simp only [exec, execPload, execCpy, execCpyB, execCrnStep, execPwait, execPstat, execCset, execMark, execWaitd, execWaitt, execBilletArm,
        execBilletDisarm, execTqpush, execTqcnt, execCrnDef, execCrnUndef, execCrnForce, execCrnMap, execCrnStat, execLaunch, execWopen,
        execWseal, execTlbiVa, execTlbiAsid, execIsave, execIrest, execSret, wordOf_sret, onRing_core hd, atS_core hd, hd]

end Sys2Proof.Machine
end

section
/-! Waits: what a waiting instruction does once what it awaits has completed, and until then (R119, R269, R279, R288 to R290). -/

namespace Sys2Proof.Machine

variable {s : State} {r : Nat} {l : List (Nat × List Nat)} {a : BitVec 5}

theorem State.snap_first (h : (s.ring r).wait = none) (mask : Nat) (sleep : Option W64) :
    s.snap r mask sleep = { slots := s.awaits r mask, sleep := sleep } := by
  simp only [State.snap, h]

theorem State.waitOver_good (h : s.waitErr r l = none) : s.waitOver r l = (s.acquireOwn r).done := by
  simp only [State.waitOver, h]

/-- The lowest slot with err set names the trap (R269). -/
theorem State.waitOver_err {i : Nat} {c : BitVec 8} (h : s.waitErr r l = some (i, c)) :
    s.waitOver r l = (s.acquireOwn r).trap 3 (BitVec.ofNat 64 (i + 256 * c.toNat)) := by
  simp only [State.waitOver, h]

/-- What a wait that is over leaves of its ring's thread is an update of the ring (R119). -/
theorem State.acquireOwn_eq (s : State) (r : Nat) : s.acquireOwn r = s.updRing r fun x =>
    { x with seq := { x.seq with front := x.seq.front.sup (s.ring r).joined, cut := x.seq.nextSeq } } := rfl

theorem exec_waitd_over (hr : s.cur = .ring r) (hw : (s.ring r).wait = none) {w : BitVec 8} (hs : s.satisfied r (s.awaits r w.toNat) = true) :
    exec (.waitd w) s = .next (s.waitOver r (s.awaits r w.toNat)) := by
  show execWaitd w s = _
  simp only [execWaitd, onRing_ring hr, State.snap_first hw, hs, if_true]

theorem exec_waitd_keeps (hr : s.cur = .ring r) (hw : (s.ring r).wait = none) {w : BitVec 8} (hs : s.satisfied r (s.awaits r w.toNat) = false) :
    exec (.waitd w) s = .next (s.keepWait r { slots := s.awaits r w.toNat, sleep := none }) := by
  show execWaitd w s = _
  simp only [execWaitd, onRing_ring hr, State.snap_first hw, hs, Bool.false_eq_true, if_false]

/-- What a waitt does whose register holds a value (R289). -/
theorem exec_waitt_first (hr : s.cur = .ring r) (hp : s.pendAny [a] = false) (hw : (s.ring r).wait = none) (st : BitVec 3) :
    exec (.waitt a st) s =
      if s.x a ≠ 0 ∧ s.time.toNat < (s.x a).toNat then
        .next (s.keepWait r { slots := s.awaits r (2 ^ st.toNat), sleep := if s.x a = 0 then none else some (s.x a) })
      else if s.satisfied r (s.awaits r (2 ^ st.toNat)) then .next (s.waitOver r (s.awaits r (2 ^ st.toNat)))
      else if s.x a = 0 then .next (s.keepWait r { slots := s.awaits r (2 ^ st.toNat), sleep := if s.x a = 0 then none else some (s.x a) })
      else .next (s.trap 2 (st.zeroExtend 64)) := by
  show execWaitt a st s = _
  simp only [execWaitt, onRing_ring hr, hp, State.snap_first hw, Bool.false_eq_true, if_false]

/-- A waitt whose TIME has come, or that names none, and whose slot is satisfied (R289). -/
theorem exec_waitt_over (hr : s.cur = .ring r) (hp : s.pendAny [a] = false) (hw : (s.ring r).wait = none)
    (ht : (s.x a).toNat ≤ s.time.toNat) {st : BitVec 3} (hs : s.satisfied r (s.awaits r (2 ^ st.toNat)) = true) :
    exec (.waitt a st) s = .next (s.waitOver r (s.awaits r (2 ^ st.toNat))) := by
  rw [exec_waitt_first hr hp hw, if_neg fun h => Nat.not_lt.2 ht h.2, if_pos hs]

theorem exec_waitSatisfied_over {w : WaitSnap} (hr : s.cur = .ring r) (hw : (s.ring r).wait = some w) (hsleep : w.sleep = none)
    (hrun : (s.ring r).run = .run) (hhalt : (s.ring r).halted = false) (hs : s.satisfied r w.slots = true) :
    exec .waitSatisfied s = .next (s.waitOver r w.slots) := by
  show execWaitSatisfied s = _
  simp only [execWaitSatisfied, hr, hw]
  refine if_neg ?_
  simp only [hsleep, hrun, hhalt, hs, Option.isSome_none, Bool.not_true, Bool.false_eq_true, ne_eq, not_true_eq_false, or_self,
    not_false_eq_true]

/-- The handles that pwait and pstat accept (R279). -/
theorem State.handleOk_iff {v : W64} : s.handleOk r v = true ↔ fld v 63 32 = 0 ∧ v ≠ 0 ∧ v.toNat ≤ (s.ring r).serial := by
  simp only [State.handleOk, Bool.and_eq_true, beq_iff_eq, decide_eq_true_eq, and_assoc]

theorem exec_pwait_retired (hr : s.cur = .ring r) (hp : s.pendAny [a] = false) (hok : s.handleOk r (s.x a) = true)
    (hrec : ∀ q, s.rec? r (s.x a).toNat = some q → q.state = 5) : exec (.pwait a) s = .next (s.acquireOwn r).done := by
  show execPwait a s = _
  simp only [execPwait, onRing_ring hr, hp, hok, Bool.not_true, Bool.false_eq_true, if_false]
  cases h : s.rec? r (s.x a).toNat with
  | none => rfl
  | some q => exact if_pos (hrec q h)

theorem exec_pwait_error {q : PhaseRec} (hr : s.cur = .ring r) (hp : s.pendAny [a] = false) (hok : s.handleOk r (s.x a) = true)
    (hrec : s.rec? r (s.x a).toNat = some q) (hq : q.state = 6) :
    exec (.pwait a) s = .next ((s.acquireOwn r).trap 4 (BitVec.ofNat 64 ((s.x a).toNat + q.code.toNat * 2 ^ 32))) := by
  show execPwait a s = _
  simp only [execPwait, onRing_ring hr, hp, hok, hrec, hq, Bool.not_true, Bool.false_eq_true, Nat.reduceEqDiff, if_false, if_true]

theorem exec_pwait_operand (hr : s.cur = .ring r) (hp : s.pendAny [a] = false) (hok : s.handleOk r (s.x a) = false) :
    exec (.pwait a) s = .next (s.trap 5 (s.x a)) := by
  show execPwait a s = _
  simp only [execPwait, onRing_ring hr, hp, hok, Bool.not_false, Bool.false_eq_true, if_false, if_true, State.operand]

/-- What a wait that is over, with which its instruction completes, leaves (R119, R248, R288). -/
theorem State.acquireOwn_done_frame (hr : s.cur = .ring r) :
    let t := (s.acquireOwn r).done
    OnlyRing r s t ∧ t.pc = s.pc + 4 ∧ t.me.x = s.me.x ∧ t.me.instret = s.me.instret + 1 ∧ (t.ring r).wait = none ∧
      ∀ k, t.byte k = s.byte k := by
  intro t
  have ht : t = s.updRing r fun x => Ring.completed
      { x with seq := { x.seq with front := x.seq.front.sup (s.ring r).joined, cut := x.seq.nextSeq } } := State.updRing_done hr _
  have hme : t.me = { s.me with pc := s.me.pc + 4, instret := s.me.instret + 1, front := s.me.front.sup (s.ring r).joined, cut := s.me.nextSeq } := by
    rw [ht, State.me_updRing hr, State.me_ring hr, Ring.completed]
  refine ⟨?_, ?_, ?_, ?_, ?_, fun k => ?_⟩
  · rw [ht]
    exact onlyRing_updRing s r _
  · rw [State.pc, hme, State.pc]
  · rw [hme]
  · rw [hme]
  · rw [ht, State.ring_updRing_same, Ring.completed]
  · rw [ht, State.byte_updRing]

/-- Settles O29: each wait is over, goes on or traps as its slots, its TIME or its phase's record say. -/
theorem waits : Obligations.Waits := by
  unfold Obligations.Waits
  refine ⟨?_, ?_, ?_, ?_, ?_, ?_, ?_, ?_, ?_, ?_, ?_, ?_, ?_⟩
  · intro s r w hr hw hs he
    exact ⟨_, (exec_waitd_over hr hw hs).trans (congrArg _ (State.waitOver_good he)), State.acquireOwn_done_frame hr⟩
  · intro s r w i c hr hw hs he
    rw [exec_waitd_over hr hw hs, State.waitOver_err he]
  · intro s r w hr hw hs
    exact exec_waitd_keeps hr hw hs
  · intro s r a st hr hp hw ht hs he
    rw [exec_waitt_over hr hp hw ht hs, State.waitOver_good he]
  · intro s r a st i c hr hp hw ht hs he
    rw [exec_waitt_over hr hp hw ht hs, State.waitOver_err he]
  · intro s r a st hr hp hw h0 hs
    simp only [exec_waitt_first hr hp hw, h0, hs, ne_eq, not_true_eq_false, false_and, Bool.false_eq_true, if_false, if_true, State.keepWait]
  · intro s r a st hr hp hw h0 ht
    rw [exec_waitt_first hr hp hw, if_pos ⟨h0, ht⟩, if_neg h0, State.keepWait]
  · intro s r a st hr hp hw h0 ht hs
    rw [exec_waitt_first hr hp hw, if_neg fun h => Nat.not_lt.2 ht h.2, if_neg (ne_true_of_eq_false hs), if_neg h0]
  · intro s r w hr hw hsleep hrun hhalt hs he
    rw [exec_waitSatisfied_over hr hw hsleep hrun hhalt hs, State.waitOver_good he]
  · intro s r a hr hp hhi h0 hle hrec
    exact exec_pwait_retired hr hp (State.handleOk_iff.2 ⟨hhi, h0, hle⟩) hrec
  · intro s r a q hr hp hhi h0 hle hrec hq
    exact exec_pwait_error hr hp (State.handleOk_iff.2 ⟨hhi, h0, hle⟩) hrec hq
  · intro s r a hr hp hbad
    refine exec_pwait_operand hr hp (Bool.eq_false_iff.2 fun hok => ?_)
    obtain ⟨hhi, h0, hle⟩ := State.handleOk_iff.1 hok
    rcases hbad with h | h | h
    · exact h hhi
    · exact h0 h
    · omega
  · intro s r
    simp only [State.acquireOwn_eq, State.seqOf, State.ring_updRing_same]
    exact ⟨trivial, trivial, onlyRing_updRing s r _, trivial⟩

end Sys2Proof.Machine
end

section
/-! Bits of a word, and the lowest bit of a field that is set (R8, R323). -/

namespace Sys2Proof.Machine

theorem bit_eq_testBit (w : W64) (n : Nat) : bit w n = w.toNat.testBit n := by
  simp only [bit, bitsOf, Nat.add_sub_cancel_left, Nat.pow_one, Nat.testBit_eq_decide_div_mod_eq, beq_eq_decide]

theorem bit_and (v w : W64) (n : Nat) : bit (v &&& w) n = (bit v n && bit w n) := by
  simp only [bit_eq_testBit, BitVec.toNat_and, Nat.testBit_and]

/-- The low field of a word is the word below a power of two (R8). -/
theorem fld_low (w : W64) (n : Nat) : fld w n 0 = w.toNat % 2 ^ (n + 1) := by
  simp only [fld, bitsOf, Nat.pow_zero, Nat.div_one, Nat.sub_zero]

/-- Of a number that has a bit below n, trailZeros finds the lowest (R250). -/
theorem trailZeros_lowest {n v : Nat} (h : v % 2 ^ n ≠ 0) :
    trailZeros n v < n ∧ v.testBit (trailZeros n v) = true ∧ ∀ m, m < trailZeros n v → v.testBit m = false := by
  induction n generalizing v with
  | zero => exact absurd (Nat.mod_one v) h
  | succ n ih =>
    rw [trailZeros]
    split
    next hodd => exact ⟨Nat.succ_pos n, by simpa only [Nat.testBit_zero, decide_eq_true_eq] using hodd, fun m hm => absurd hm (Nat.not_lt_zero m)⟩
    next heven =>
      have hhalf : v / 2 % 2 ^ n ≠ 0 := by
        intro hz
        rw [Nat.pow_succ'] at h
        refine h ?_
        rw [Nat.mod_mul, hz]
        omega
      obtain ⟨hlt, hset, hbelow⟩ := ih hhalf
      refine ⟨by omega, ?_, fun m hm => ?_⟩
      · rw [Nat.add_comm, Nat.testBit_succ, hset]
      · cases m with
        | zero => simpa only [Nat.testBit_zero, decide_eq_false_iff_not] using heven
        | succ m => rw [Nat.testBit_succ, hbelow m (by omega)]

/-- A field of one bit holds what is written to it (R8). -/
theorem bit_setFld_same {n : Nat} (hn : n < 64) (w : W64) (v : Nat) : bit (setFld w n n v) n = (v % 2 == 1) := by
  rw [bit_eq_testBit, setFld, BitVec.toNat_ofNat, Nat.testBit_mod_two_pow, decide_eq_true hn, Bool.true_and, Nat.testBit_eq_decide_div_mod_eq,
    bitsOf, Nat.add_sub_cancel_left, Nat.pow_one, beq_eq_decide]
  have hw : 2 ^ n * (2 * (w.toNat / 2 ^ n / 2)) + w.toNat / 2 ^ n % 2 * 2 ^ n + w.toNat % 2 ^ n = w.toNat := by
    rw [Nat.mul_comm (w.toNat / 2 ^ n % 2), ← Nat.mul_add, Nat.div_add_mod, Nat.div_add_mod]
  have hnew : w.toNat - w.toNat / 2 ^ n % 2 * 2 ^ n + v % 2 * 2 ^ n = 2 ^ n * (2 * (w.toNat / 2 ^ n / 2) + v % 2) + w.toNat % 2 ^ n := by
    rw [Nat.mul_add, Nat.mul_comm (2 ^ n) (v % 2)]
    omega
  rw [hnew, Nat.mul_add_div (Nat.two_pow_pos n), Nat.div_eq_of_lt (Nat.mod_lt _ (Nat.two_pow_pos n)), Nat.add_zero, Nat.mul_add_mod, Nat.mod_mod]

/-- A flag written as a number reads as itself. -/
theorem flag_beq (p : Prop) [Decidable p] : ((if p then 1 else 0) % 2 == 1) = decide p := by
  split
  next h => exact (decide_eq_true h).symm
  next h => exact (decide_eq_false h).symm

/-- A write of the lowest bit of a word leaves the others (R8). -/
theorem fld_setFld_lowest (w : W64) (v : Nat) : fld (setFld w 0 0 v) 63 1 = fld w 63 1 := by
  have hw := w.isLt
  simp only [setFld, fld, bitsOf, BitVec.toNat_ofNat, Nat.reduceAdd, Nat.reduceSub, Nat.reducePow, Nat.div_one, Nat.mul_one]
  rw [Nat.mod_eq_of_lt (by omega : _ < 18446744073709551616)]
  omega

end Sys2Proof.Machine
end

section
/-! Interrupts of an RSQ and of a management core, and wfi (R323, R325, R328, R331). -/

namespace Sys2Proof.Machine

variable {s : State} {r d n : Nat}

/-- The interrupt that an RSQ takes is the lowest bit of SIP that SIE enables (R323). -/
theorem State.ringInt_lowest (h : s.ringInt r = some n) :
    n < 5 ∧ bit (s.sip r) n = true ∧ bit (s.rcsr r 0x1009) n = true ∧ (∀ m, m < n → (bit (s.sip r) m && bit (s.rcsr r 0x1009) m) = false) ∧
      ((s.ring r).level = .u ∨ bit (s.rcsr r 0x1001) 0 = true) := by
  simp only [State.ringInt, Option.ite_none_right_eq_some, Option.some.injEq, fld_low] at h
  obtain ⟨⟨-, hp, hlevel⟩, rfl⟩ := h
  generalize hw : s.sip r &&& s.rcsr r 0x1009 = w at hp
  obtain ⟨hlt, hset, hbelow⟩ := trailZeros_lowest (n := 5) (v := w.toNat % 2 ^ (4 + 1)) (by rwa [Nat.mod_mod])
  generalize trailZeros 5 (w.toNat % 2 ^ (4 + 1)) = z at hlt hset hbelow
  have hbit : ∀ m, m < 5 → (w.toNat % 2 ^ (4 + 1)).testBit m = (bit (s.sip r) m && bit (s.rcsr r 0x1009) m) := by
    intro m hm
    rw [Nat.testBit_mod_two_pow, decide_eq_true hm, Bool.true_and, ← bit_and, hw, bit_eq_testBit]
  rw [hbit z hlt, Bool.and_eq_true] at hset
  exact ⟨hlt, hset.1, hset.2, fun m hm => (hbit m (by omega)).symm.trans (hbelow m hm), hlevel⟩

/-- An entry of S masks its interrupts (R325). -/
theorem State.fld_enterStatus (s : State) (r : Nat) : fld (s.enterStatus r) 0 0 = 0 := by
  rw [State.enterStatus_eq, fld_single, bit_eq_testBit, BitVec.toNat_ofNat, Nat.testBit_mod_two_pow, Nat.testBit_zero]
  split <;> split <;> split <;> rfl

theorem exec_interrupt (hr : s.cur = .ring r) (hn : s.ringInt r = some n) (hb : s.badHandler r = false) :
    exec .interrupt s = .next (s.toS r s.pc (BitVec.ofNat 64 (2 ^ 63 + n)) (Config.intValue s.free)) := by
  show execInterrupt s = _
  simp only [execInterrupt, hr, hn, State.sBranch, hb, Bool.false_eq_true, if_false, State.pc_ring hr]

theorem exec_managementCoreInterrupt (hd : s.cur = .core d) (hn : s.coreInt d = some n)
    (hlt : (s.dcsr d 0x2002 &&& 0xFFFFFFFFFFFFFFFC).toNat < 2 ^ 54) :
    exec .managementCoreInterrupt s = .next (s.updDie d fun x =>
      x.inHandler (s.dcsr d 0x2002 &&& 0xFFFFFFFFFFFFFFFC) (entered (s.dcsr d 0x2006)) s.pc (BitVec.ofNat 64 (2 ^ 63 + n)) (Config.intValue s.free)) := by
  show execManagementCoreInterrupt s = _
  simp only [execManagementCoreInterrupt, hd, hn, State.coreTrap_enters (badTarget_eq_false (toNat_handler_mod _) hlt), State.pc,
    State.me_core hd]

theorem exec_wfi_ring (hr : s.cur = .ring r) (hl : (s.ring r).level ≠ .u) :
    exec .wfi s = if s.ringWakes r then .next (s.updRing r fun x => { x with run := .run }).done
      else .next (s.updRing r fun x => { x with run := .wfi }) := by
  show execWfi s = _
  simp only [execWfi, hr, if_neg hl]

theorem exec_wfi_core (hd : s.cur = .core d) :
    exec .wfi s = if s.coreWake d then .next (s.updDie d fun x => { x with waiting := false }).done
      else .next (s.updDie d fun x => { x with waiting := true }) := by
  show execWfi s = _
  simp only [execWfi, hd]

/-- A change of a die beside its core's registers, with which the instruction completes: nothing else changes, and no general register and no memory. -/
theorem State.updDie_done_frame (hd : s.cur = .core d) {f : Die → Die} (hf : (f (s.die d)).core = (s.die d).core) :
    let t := (s.updDie d f).done
    OnlyDie d s t ∧ t.me.x = s.me.x ∧ t.pc = s.pc + 4 ∧ ∀ k, t.byte k = s.byte k := by
  have hkeep : KeepsThreads s (s.updDie d f) := KeepsThreads.updDie s d hf
  refine ⟨?_, ?_, ?_, fun k => ?_⟩
  · rw [State.done, State.goto_core (s := s.updDie d f) hd, State.updDie_updDie]
    exact onlyDie_updDie s d _
  · rw [State.done, State.me_goto, hkeep.me_x]
  · rw [State.pc_done, hkeep.pc_eq]
  · rw [State.byte, State.mem_done, hkeep.mem, State.byte]

theorem State.die_updDie_done (hd : s.cur = .core d) (f : Die → Die) : ((s.updDie d f).done.die d) =
    { f (s.die d) with core := { (f (s.die d)).core with pc := (f (s.die d)).core.pc + 4, instret := (f (s.die d)).core.instret + 1 } } := by
  rw [State.done, State.goto_core (s := s.updDie d f) hd, State.die_updDie_same, State.pc, State.me_updDie hd, State.die_updDie_same]

/-- Settles O25: an interrupt is the entry of its handler, and wfi completes where something wakes it. -/
theorem interruptEntry : Obligations.InterruptEntry := by
  unfold Obligations.InterruptEntry
  refine ⟨?_, fun s r n h => State.ringInt_lowest h, ?_, ?_, ?_, ?_, ?_⟩
  · intro s r n hr hn hb
    obtain ⟨honly, hepc, hcause, -, hstatus, hlevel, hpc, hx, -, -, hbyte⟩ :=
      State.toS_frame hr s.pc (BitVec.ofNat 64 (2 ^ 63 + n)) (Config.intValue s.free)
    exact ⟨_, exec_interrupt hr hn hb, honly, hepc, hcause, by rw [hstatus, State.fld_enterStatus], hlevel, hpc, hx, hbyte⟩
  · intro s d n hd hn hlt
    obtain ⟨honly, hepc, hcause, -, hie, hpie, hpc, hx, -, hbyte⟩ := State.inHandler_frame hd (s.dcsr d 0x2002 &&& 0xFFFFFFFFFFFFFFFC) s.pc
      (BitVec.ofNat 64 (2 ^ 63 + n)) (Config.intValue s.free)
    exact ⟨_, exec_managementCoreInterrupt hd hn hlt, honly, hepc, hcause, hie, hpie, hpc, hx, congrArg Die.waiting (State.die_updDie_same s d _),
      hbyte⟩
  · intro s r hr hl hw
    obtain ⟨honly, hx, hpc, hbyte⟩ := State.updRing_done_frame (f := fun x => { x with run := .run }) hr rfl
    exact ⟨_, (exec_wfi_ring hr hl).trans (if_pos hw), honly, congrArg Ring.run (State.ring_updRing_done hr _), hpc, hx, hbyte⟩
  · intro s r hr hl hw
    exact (exec_wfi_ring hr hl).trans (if_neg (ne_true_of_eq_false hw))
  · intro s d hd hw
    obtain ⟨honly, hx, hpc, hbyte⟩ := State.updDie_done_frame (f := fun x => { x with waiting := false }) hd rfl
    exact ⟨_, (exec_wfi_core hd).trans (if_pos hw), honly, congrArg Die.waiting (State.die_updDie_done hd _), hpc, hx, hbyte⟩
  · intro s d hd hw
    exact (exec_wfi_core hd).trans (if_neg (ne_true_of_eq_false hw))

end Sys2Proof.Machine
end

section
/-! The invalidations of translations (R333 to R335). -/

namespace Sys2Proof.Machine

variable {s : State} {r c : Nat} {a b : BitVec 5}

/-- What tlbi.va removes of the TLBs: what covers a byte of the page under the ASID, or globally (R333). -/
def TlbEntry.onPage (e : TlbEntry) (asid : BitVec 16) (va : Nat) : Bool :=
  (e.asid == none || e.asid == some asid) && decide (e.page < va / 65536 * 65536 + 65536) && decide (va / 65536 * 65536 < e.page + e.size)

theorem State.mem_dropTlb_tlb {v : Nat} {p : TlbEntry → Bool} {q : WalkEntry → Bool} {e : TlbEntry} :
    e ∈ (s.dropTlb v p q).tlb ↔ e ∈ s.tlb ∧ ¬(e.owner = some v ∧ p e = true) := by
  simp only [State.dropTlb, List.mem_filter, Bool.not_eq_true', Bool.and_eq_false_imp, beq_iff_eq, not_and, Bool.not_eq_true]

theorem State.mem_dropTlb_walks {v : Nat} {p : TlbEntry → Bool} {q : WalkEntry → Bool} {w : WalkEntry} :
    w ∈ (s.dropTlb v p q).walks ↔ w ∈ s.walks ∧ ¬(w.owner = v ∧ q w = true) := by
  simp only [State.dropTlb, List.mem_filter, Bool.not_eq_true', Bool.and_eq_false_imp, beq_iff_eq, not_and, Bool.not_eq_true]

/-- A change of a ring that leaves its RSQ the general registers and the pc. -/
theorem KeepsThreads.updRing_registers (s : State) (r : Nat) {f : Ring → Ring} (hx : (f (s.ring r)).seq.x = (s.ring r).seq.x)
    (hpc : (f (s.ring r)).seq.pc = (s.ring r).seq.pc) : KeepsThreads s (s.updRing r f) := by
  refine ⟨rfl, rfl, fun th => ?_, fun th => ?_⟩
  all_goals
    cases th with
    | core d => rfl
    | ring q =>
      by_cases h : q = r
      · rwa [h, State.seqOf, State.ring_updRing_same]
      · rw [State.seqOf, State.ring_updRing_ne s f h, State.seqOf]

/-- An invalidation by a ring's thread keeps the registers, the pc and memory (R333). -/
theorem State.shedTlb_keeps (s : State) (r : Nat) (p : TlbEntry → Bool) (q : WalkEntry → Bool) : KeepsThreads s (s.shedTlb r p q) := by
  have hdrop : KeepsThreads s (s.dropTlb (s.vfNum r) p q) := KeepsThreads.of_parts rfl rfl rfl rfl
  rw [State.shedTlb]
  exact hdrop.trans (KeepsThreads.updRing_registers _ r rfl rfl)

/-- What an instruction that completes leaves of a state that keeps the threads. -/
theorem KeepsThreads.done {t : State} (h : KeepsThreads s t) : t.done.me.x = s.me.x ∧ t.done.pc = s.pc + 4 ∧ t.done.mem = s.mem := by
  refine ⟨?_, ?_, ?_⟩
  · rw [State.done, State.me_goto, h.me_x]
  · rw [State.pc_done, h.pc_eq]
  · rw [State.mem_done, h.mem]

/-- What an invalidation by a ring's thread leaves (R333, R334). -/
theorem State.shedTlb_done_frame (s : State) (r : Nat) (p : TlbEntry → Bool) (q : WalkEntry → Bool) :
    let t := (s.shedTlb r p q).done
    t.me.x = s.me.x ∧ t.pc = s.pc + 4 ∧ t.mem = s.mem ∧ (∀ e, e ∈ t.tlb ↔ e ∈ s.tlb ∧ ¬(e.owner = some (s.vfNum r) ∧ p e = true)) ∧
      ∀ w, w ∈ t.walks ↔ w ∈ s.walks ∧ ¬(w.owner = s.vfNum r ∧ q w = true) := by
  obtain ⟨hx, hpc, hmem⟩ := (s.shedTlb_keeps r p q).done
  refine ⟨hx, hpc, hmem, fun e => ?_, fun w => ?_⟩
  · rw [State.done_tlb]
    exact State.mem_dropTlb_tlb (q := q)
  · rw [State.done_walks]
    exact State.mem_dropTlb_walks (p := p)

theorem exec_tlbiVa (hr : s.cur = .ring r) (hl : (s.ring r).level ≠ .u) (hp : s.pendAny [a, b] = false) (hq : s.quiet = true)
    (hv : s.vfDrained (s.vfNum r) = true) : exec (.tlbiVa a b) s = .next (s.shedTlb r (fun e => e.onPage ((s.x b).truncate 16) (s.x a).toNat)
      fun w => w.onWay ((s.x b).truncate 16) (s.x a).toNat).done := by
  show execTlbiVa a b s = _
  simp only [execTlbiVa, atS_ring hr hl, hp, hq, hv, Bool.not_true, Bool.or_self, Bool.false_eq_true, if_false, TlbEntry.onPage]

theorem exec_tlbiAsid (hr : s.cur = .ring r) (hl : (s.ring r).level ≠ .u) (hp : s.pendAny [a] = false) (hq : s.quiet = true)
    (hv : s.vfDrained (s.vfNum r) = true) : exec (.tlbiAsid a) s = .next (s.shedTlb r (fun e => e.asid == some ((s.x a).truncate 16))
      fun w => w.asid == some ((s.x a).truncate 16)).done := by
  show execTlbiAsid a s = _
  simp only [execTlbiAsid, atS_ring hr hl, hp, hq, hv, Bool.not_true, Bool.or_self, Bool.false_eq_true, if_false]

theorem exec_tlbiVf (hd : s.cur = .core c) (hp : s.pendAny [a] = false) (hq : s.quiet = true) (hv : s.vfDrained (fld (s.x a) 6 0) = true) :
    exec (.tlbiVf a) s = .next (s.dropTlb (fld (s.x a) 6 0) (fun _ => true) fun _ => true).done := by
  show execTlbiVf a s = _
  simp only [execTlbiVf, atH_core hd, hp, hq, hv, Bool.not_true, Bool.or_self, Bool.false_eq_true, if_false]

theorem exec_tlbiAll (hd : s.cur = .core c) (hq : s.quiet = true) (hv : s.allDrained = true) :
    exec .tlbiAll s = .next ({ s with tlb := [], walks := [] } : State).done := by
  show execTlbiAll s = _
  simp only [execTlbiAll, atH_core hd, hq, hv, Bool.not_true, Bool.or_self, Bool.false_eq_true, if_false]

/-- An invalidation waits while something translated earlier is outstanding (R334; log 96). -/
theorem exec_tlbi_ring_waits (hr : s.cur = .ring r) (hl : (s.ring r).level ≠ .u) (h : (s.quiet && s.vfDrained (s.vfNum r)) = false) :
    exec (.tlbiVa a b) s = .next s ∧ exec (.tlbiAsid a) s = .next s := by
  rw [← Bool.not_eq_true', Bool.not_and] at h
  show execTlbiVa a b s = _ ∧ execTlbiAsid a s = _
  simp only [execTlbiVa, execTlbiAsid, atS_ring hr hl, h, if_true, ite_self, and_self]

theorem exec_tlbiVf_waits (hd : s.cur = .core c) (h : (s.quiet && s.vfDrained (fld (s.x a) 6 0)) = false) : exec (.tlbiVf a) s = .next s := by
  rw [← Bool.not_eq_true', Bool.not_and] at h
  show execTlbiVf a s = _
  simp only [execTlbiVf, atH_core hd, h, if_true, ite_self]

theorem exec_tlbiAll_waits (hd : s.cur = .core c) (h : (s.quiet && s.allDrained) = false) : exec .tlbiAll s = .next s := by
  rw [← Bool.not_eq_true', Bool.not_and] at h
  show execTlbiAll s = _
  simp only [execTlbiAll, atH_core hd, h, if_true]

/-- Settles O38: each form waits, or completes with the entries that it names gone. -/
theorem invalidations : Obligations.Invalidations := by
  unfold Obligations.Invalidations
  refine ⟨?_, ?_, ?_, ?_, fun s r a b hr hl h => exec_tlbi_ring_waits hr hl h, fun s c a hd h => exec_tlbiVf_waits hd h,
    fun s c hd h => exec_tlbiAll_waits hd h⟩
  · intro s r a b hr hl hp hq hv
    obtain ⟨hx, hpc, hmem, htlb, hwalks⟩ := s.shedTlb_done_frame r (fun e => e.onPage ((s.x b).truncate 16) (s.x a).toNat)
      fun w => w.onWay ((s.x b).truncate 16) (s.x a).toNat
    refine ⟨_, exec_tlbiVa hr hl hp hq hv, hx, hpc, hmem, fun e => ?_, fun w => ?_⟩
    · rw [htlb e]
      simp only [TlbEntry.onPage, Bool.and_eq_true, Bool.or_eq_true, beq_iff_eq, decide_eq_true_eq, and_assoc]
    · rw [hwalks w]
      simp only [WalkEntry.onWay, Bool.or_eq_true, Bool.and_eq_true, beq_iff_eq]
  · intro s r a hr hl hp hq hv
    obtain ⟨hx, hpc, hmem, htlb, hwalks⟩ := s.shedTlb_done_frame r (fun e => e.asid == some ((s.x a).truncate 16))
      fun w => w.asid == some ((s.x a).truncate 16)
    refine ⟨_, exec_tlbiAsid hr hl hp hq hv, hx, hpc, hmem, fun e => ?_, fun w => ?_⟩
    · rw [htlb e, beq_iff_eq]
    · rw [hwalks w, beq_iff_eq]
  · intro s c a hd hp hq hv
    obtain ⟨hx, hpc, hmem⟩ := (KeepsThreads.of_parts rfl rfl rfl rfl :
      KeepsThreads s (s.dropTlb (fld (s.x a) 6 0) (fun _ => true) fun _ => true)).done
    refine ⟨_, exec_tlbiVf hd hp hq hv, hx, hpc, hmem, fun e => ?_, fun w => ?_⟩
    · rw [State.done_tlb, State.mem_dropTlb_tlb, eq_self, and_true]
    · rw [State.done_walks, State.mem_dropTlb_walks, eq_self, and_true]
  · intro s c hd hq hv
    obtain ⟨hx, hpc, hmem⟩ := (KeepsThreads.of_parts rfl rfl rfl rfl : KeepsThreads s ({ s with tlb := [], walks := [] } : State)).done
    exact ⟨_, exec_tlbiAll hd hq hv, State.done_tlb _, State.done_walks _, hx, hpc, hmem⟩

end Sys2Proof.Machine
end

section
/-! Timers, sweep overruns, captures and the tenant scheduler (R322, R328, R353 to R357, R384). -/

namespace Sys2Proof.Machine

variable {s : State} {r d : Nat}

theorem State.bit_sip_timer (s : State) (r : Nat) : bit (s.sip r) 0 = decide ((s.rcsr r 0x100B).toNat ≤ s.time.toNat) :=
  (bit_setFld_same (by decide) _ _).trans (flag_beq _)

theorem State.bit_hstatus_timer (s : State) (d : Nat) : bit (s.hstatus d) 9 = decide ((s.dcsr d 0x2008).toNat ≤ s.time.toNat) :=
  (bit_setFld_same (by decide) _ _).trans (flag_beq _)

/-- What a sweep's overrun does of a group that has one now (R357). -/
theorem exec_sweepmaxOverrun {gk m : Nat} {g : Group} (hg : s.group? gk = some g) (hm : s.sweepLimit g = some m) (ho : g.overrun = false)
    (hd : g.draining = false) (hc : m ≤ g.sweepCtr) :
    exec (.sweepmaxOverrun gk) s = .next (((s.setGroup gk { g with overrun := true }).overran g.issuer g.serial).preempt
      (s.ring g.issuer).sbase none) := by
  show execSweepmaxOverrun gk s = _
  simp only [execSweepmaxOverrun, hg, hm, ho, hd, Nat.not_lt.2 hc, Bool.false_eq_true, or_self, if_false]

/-- An issuer that runs, or waits in wfi, parks (R357). -/
theorem State.overran_parks {n : Nat} (hrun : (s.ring r).run = .run ∨ (s.ring r).run = .wfi) (hh : (s.ring r).halted = false) :
    s.overran r n = s.park r (s.ring r).seq.pc 0x19 (BitVec.ofNat 64 n) := by
  rw [State.overran, if_neg (fun h => hrun.elim h.1 h.2), if_neg (ne_true_of_eq_false hh)]

/-- An issuer in a debug halt parks at its dret (R357; log 77). -/
theorem State.overran_halted {n : Nat} (hrun : (s.ring r).run = .run ∨ (s.ring r).run = .wfi) (hh : (s.ring r).halted = true) :
    s.overran r n = s.updRing r fun x => { x with due := some n } := by
  rw [State.overran, if_neg (fun h => hrun.elim h.1 h.2), if_pos hh]

/-- An issuer that is parked or idle stays as it is (log 77). -/
theorem State.overran_still {n : Nat} (hrun : (s.ring r).run ≠ .run) (hwfi : (s.ring r).run ≠ .wfi) : s.overran r n = s := by
  rw [State.overran, if_pos ⟨hrun, hwfi⟩]

theorem exec_preemptionCapture_alone (hc : (s.strip (s.ring r).sbase).capture = true) (hready : s.captureReady (s.ring r).sbase = true)
    (hn : (s.strip (s.ring r).sbase).next = none) :
    exec (.preemptionCapture r) s = .next (s.capture (s.ring r).sbase (s.rcsr (s.ring r).sbase 0x2120)
      (if bit (s.rcsr (s.ring r).sbase 0x2121) 3 then 1 else 0)) := by
  show execPreemptionCapture r s = _
  simp only [execPreemptionCapture, hc, hready, hn, Bool.not_true, Bool.false_eq_true, or_self, if_false]

/-- A capture for the next tenant, which takes the strip where the capture went well (R354, R384). -/
theorem exec_preemptionCapture_next {n : Nat} (hc : (s.strip (s.ring r).sbase).capture = true)
    (hready : s.captureReady (s.ring r).sbase = true) (hn : (s.strip (s.ring r).sbase).next = some n) :
    exec (.preemptionCapture r) s =
      let u := s.capture (s.ring r).sbase (s.saveArea (s.ring r).sbase (s.strip (s.ring r).sbase).cur) 0
      .next (if (u.strip (s.ring r).sbase).st = 2 then u.switchTo (s.ring r).sbase n else u) := by
  show execPreemptionCapture r s = _
  simp only [execPreemptionCapture, hc, hready, hn, Bool.not_true, Bool.false_eq_true, or_self, if_false]
  split <;> rfl

/-- The tenant that is next takes its quantum, and asks for the strip where another holds it (R354). -/
theorem exec_tenantSwitch {n : Nat} (hs : (s.ring (s.ring r).sbase).shared = true) (hv : (s.ring (s.ring r).sbase).vf ≠ none)
    (hc : (s.strip (s.ring r).sbase).capture = false)
    (hw : ¬(s.hasWork (s.ring r).sbase (s.strip (s.ring r).sbase).cur = true ∧
      0 < (s.strip (s.ring r).sbase).deficit (s.strip (s.ring r).sbase).cur))
    (hf : (((List.range 8).map fun i => ((s.strip (s.ring r).sbase).cur + 1 + i) % 8).find? (s.runnable (s.ring r).sbase)) = some n) :
    exec (.tenantSwitch r) s =
      let b := (s.ring r).sbase
      let q : Int := ((fld (s.rcsr b (0x2111 + n)) 15 8 * fld (s.rcsr b 0x2110) 31 0 * (s.ring b).slen : Nat) : Int)
      let u := s.updStrip b fun y => y.setDeficit n (min (y.deficit n + q) q)
      .next (if n = (s.strip b).cur then u else u.preempt b (some n)) := by
  have hvf : (s.ring (s.ring r).sbase).vf.isNone = false := by rw [Option.isNone_eq_false_iff, Option.isSome_iff_ne_none]; exact hv
  show execTenantSwitch r s = _
  simp only [execTenantSwitch, hs, hvf, hc, hf, if_neg hw, Bool.not_true, Bool.false_eq_true, or_self, if_false]
  split <;> rfl

/-- A TSENT write that enables a tenant starts it with no queue and no image (R353, R355; log 99). -/
theorem exec_tsentEnable_starts {i : Nat} {v : W64} (hs : s.tsSel s.rsel = true) (hi : i < 8) (hnew : bit v 7 = true)
    (hold : bit (s.rcsr s.rsel (0x2111 + i)) 7 = false) :
    exec (.tsentEnable i v) s = .next (((s.setRcsr s.rsel (0x2111 + i) v).updVf (fld v 6 0) fun f => { f with csr := [], qpErr := [] }).updStrip
      s.rsel fun t => { t with imaged := t.imaged.filter (· != i) }) := by
  show execTsentEnable i v s = _
  simp only [execTsentEnable, hs, hnew, hold, Nat.not_le.2 hi, Bool.not_true, Bool.not_false, Bool.false_eq_true, or_self, and_self, if_false,
    if_true]

theorem exec_tsentEnable_stores {i : Nat} {v : W64} (hs : s.tsSel s.rsel = true) (hi : i < 8)
    (h : ¬(bit v 7 = true ∧ bit (s.rcsr s.rsel (0x2111 + i)) 7 = false)) :
    exec (.tsentEnable i v) s = .next (s.setRcsr s.rsel (0x2111 + i) v) := by
  show execTsentEnable i v s = _
  simp only [execTsentEnable, hs, Nat.not_le.2 hi, Bool.not_true, Bool.false_eq_true, or_self, if_false, Bool.not_eq_true', if_neg h]

/-- A CSR of a ring that is written changes nothing else (R8). -/
theorem onlyRing_setRcsr (s : State) (r n : Nat) (v : W64) : OnlyRing r s (s.setRcsr r n v) := onlyRing_updRing s r _

theorem onlyDie_setDcsr (s : State) (d n : Nat) (v : W64) : OnlyDie d s (s.setDcsr d n v) := onlyDie_updDie s d _

/-- Settles O55: each event acts as its state asks. -/
theorem schedulerEvents : Obligations.SchedulerEvents := by
  unfold Obligations.SchedulerEvents
  refine ⟨fun s r => ?_, fun s d => ?_, fun s gk g m hg hm ho hd hc => ⟨fun hrun hh => ?_, fun hrun hh => ?_, fun hrun hwfi => ?_⟩,
    fun s r hc hready hn => exec_preemptionCapture_alone hc hready hn, fun s r n hc hready hn => exec_preemptionCapture_next hc hready hn,
    fun s r n hs hv hc hw hf => exec_tenantSwitch hs hv hc hw hf, fun s i v hs hi => ?_⟩
  · refine ⟨s.setRcsr r 0x100A (s.sip r), rfl, onlyRing_setRcsr s r _ _, ?_, ?_, fun n hn => State.rcsr_setRcsr_ne s _ (.inr hn)⟩
    · rw [State.rcsr_setRcsr_same, State.bit_sip_timer]
    · rw [State.rcsr_setRcsr_same, State.sip, fld_setFld_lowest]
  · refine ⟨s.setDcsr d 0x2006 (s.hstatus d), rfl, onlyDie_setDcsr s d _ _, ?_, fun n hn => State.dcsr_setDcsr_ne s _ (.inr hn)⟩
    rw [State.dcsr_setDcsr_same, State.bit_hstatus_timer]
  · rw [exec_sweepmaxOverrun hg hm ho hd hc, State.overran_parks (s := s.setGroup gk _) hrun hh, State.ring_setGroup]
  · rw [exec_sweepmaxOverrun hg hm ho hd hc, State.overran_halted (s := s.setGroup gk _) hrun hh]
  · rw [exec_sweepmaxOverrun hg hm ho hd hc, State.overran_still (s := s.setGroup gk _) hrun hwfi]
  · by_cases hen : bit v 7 = true ∧ bit (s.rcsr s.rsel (0x2111 + i)) 7 = false
    · refine ⟨_, exec_tsentEnable_starts hs hi hen.1 hen.2, State.rcsr_setRcsr_same s s.rsel _ v, fun _ _ => ⟨?_, ?_⟩, fun _ => rfl⟩
      · rw [State.vfOf_updStrip, State.vfOf_updVf_same]
      · rw [State.strip_updStrip_same, List.mem_filter, bne_self_eq_false]
        exact fun h => Bool.false_ne_true h.2
    · exact ⟨_, exec_tsentEnable_stores hs hi hen, State.rcsr_setRcsr_same s s.rsel _ v, fun hnew hold => absurd ⟨hnew, hold⟩ hen, fun _ => rfl⟩

end Sys2Proof.Machine
end

section
/-! H's window on a ring, its event queue and its page requests, and the debugger's window (R325, R328, R329, R374, R376, R383, R395, R421). -/

namespace Sys2Proof.Machine

variable {s t : State} {r c : Nat}

theorem KeepsThreads.x_eq (h : KeepsThreads s t) (q : BitVec 5) : t.x q = s.x q := by rw [State.x, h.me_x, State.x]

/-- A register that has been written, x0 included (R195). -/
theorem State.x_setX_self (s : State) (d : BitVec 5) (v : W64) : (s.setX d v).x d = if d = 0 then 0 else v := by
  split
  next h => rw [h, State.x_zero]
  next h => exact s.x_setX_same v h

/-- A write of a core's register leaves every field of its die beside the core's registers. -/
theorem State.die_setX_field {α : Type} (f : Die → α) (hf : ∀ x q, f { x with core := q } = f x) (s : State) (d : BitVec 5) (v : W64) (c : Nat) :
    f ((s.setX d v).die c) = f (s.die c) := by
  unfold State.setX State.setXd
  split
  · rfl
  · cases s.cur with
    | ring q => rfl
    | core n =>
      by_cases h : c = n
      · rw [h, State.updSeq, State.die_updDie_same, hf]
      · rw [State.updSeq, State.die_updDie_ne s _ h]

/-- A core's register and its die are written together (R329, R376). -/
theorem State.onlyDie_setX_updDie (hd : s.cur = .core c) (d : BitVec 5) (v : W64) (f : Die → Die) : OnlyDie c s ((s.setX d v).updDie c f) := by
  unfold State.setX State.setXd
  split
  · exact onlyDie_updDie s c f
  · rw [hd, State.updSeq, State.updDie_updDie]
    exact onlyDie_updDie s c _

/-- What a change of the die leaves of a register that was written before it. -/
theorem State.x_setX_updDie (s : State) (d : BitVec 5) (v : W64) (n : Nat) {f : Die → Die} (hf : ∀ x, (f x).core = x.core) :
    ((s.setX d v).updDie n f).x d = (if d = 0 then 0 else v) ∧ ∀ q, q ≠ d → ((s.setX d v).updDie n f).x q = s.x q := by
  have hkeep : KeepsThreads (s.setX d v) ((s.setX d v).updDie n f) := KeepsThreads.updDie _ n (hf _)
  exact ⟨(hkeep.x_eq d).trans (s.x_setX_self d v), fun q hq => (hkeep.x_eq q).trans (s.x_setX_ne v hq)⟩

theorem State.myDie_core (hd : s.cur = .core c) : s.myDie = c := by simp only [State.myDie, hd]

/-! The RSEL window (R325, R329, R383). -/

theorem exec_rnoteWrite_ring (h : s.tenantSel s.rsel = none) (v : W64) :
    exec (.rnoteWrite v) s = .next ((s.setRcsr s.rsel 0x100D v).setRcsr s.rsel 0x100A (s.rcsr s.rsel 0x100A ||| 2)) := by
  show execRnoteWrite v s = _
  simp only [execRnoteWrite, h]

/-- A note for a tenant that is switched out is held for it (R354). -/
def Ring.noteFor (x : Ring) (vf : Nat) (v : W64) : Ring :=
  { x with tenantNote := tput x.tenantNote vf v, tenantPend := tput x.tenantPend vf (tget 0 x.tenantPend vf ||| 2) }

theorem exec_rnoteWrite_tenant {n : Nat} (h : s.tenantSel s.rsel = some n) (v : W64) :
    exec (.rnoteWrite v) s =
      .next (s.updRing s.rsel fun x => x.noteFor (fld (s.rcsr (s.ring s.rsel).sbase (0x2111 + n)) 6 0) v) := by
  show execRnoteWrite v s = _
  simp only [execRnoteWrite, h, Ring.noteFor]

theorem exec_rctlPreq (h : (s.ring s.rsel).vf ≠ none) : exec .rctlPreq s = .next (s.preempt (s.ring s.rsel).sbase none) := by
  show execRctlPreq s = _
  simp only [execRctlPreq, Option.isSome_iff_ne_none.2 h, if_true]

theorem exec_rctlResume (h : (s.ring s.rsel).run = .parked) : exec .rctlResume s =
    .next (s.updRing s.rsel fun x => { x with run := .run, seq := { x.seq with pc := s.rcsr s.rsel 0x2106 } }) := by
  show execRctlResume s = _
  simp only [execRctlResume, if_pos h]

theorem exec_rctlResumeInject (h : (s.ring s.rsel).run = .parked) (hb : s.badHandler s.rsel = false) :
    exec .rctlResumeInject s = .next (s.toS s.rsel (s.rcsr s.rsel 0x2106) (s.rcsr s.rsel 0x2107) (s.rcsr s.rsel 0x2108)) := by
  show execRctlResumeInject s = _
  simp only [execRctlResumeInject, if_pos h, State.sBranch, hb, Bool.false_eq_true, if_false]

/-- The entry of S of a ring that need not be the running one (R325). -/
theorem State.toS_ring_frame (s : State) (r : Nat) (pc cause value : W64) :
    let t := s.toS r pc cause value
    OnlyRing r s t ∧ (t.ring r).run = .run ∧ (t.ring r).level = .s ∧ t.rcsr r 0x1003 = pc ∧ t.rcsr r 0x1004 = cause ∧ t.rcsr r 0x1005 = value ∧
      (t.ring r).seq.pc = s.stvec r := by
  simp only [State.toS_eq, State.rcsr_updRing_same, State.ring_updRing_same, Ring.inSupervisor]
  exact ⟨onlyRing_updRing s r _, trivial, trivial, by simp [tget_tput], by simp [tget_tput], by simp [tget_tput], trivial⟩

/-! The event queue and the page requests of a die (R328, R374, R376). -/

theorem exec_hevtRead (hd : s.cur = .core c) (d : BitVec 5) :
    exec (.hevtRead d) s = .next ((s.setX d ((s.die c).hevt.headD 0)).updDie c fun x => { x with hevt := x.hevt.drop 1 }) := by
  show execHevtRead d s = _
  simp only [execHevtRead, State.myDie_core hd]

theorem exec_prqpopRead_some {e : Nat} (hd : s.cur = .core c) (he : s.oldestNew c = some e) (d : BitVec 5) :
    exec (.prqpopRead d) s = .next ((s.setX d (BitVec.ofNat 64 (2 ^ 63 + e))).setPrqSt c e .taken) := by
  show execPrqpopRead d s = _
  simp only [execPrqpopRead, State.myDie_core hd, he]

theorem exec_prqpopRead_none (hd : s.cur = .core c) (he : s.oldestNew c = none) (d : BitVec 5) :
    exec (.prqpopRead d) s = .next (s.setX d 0) := by
  show execPrqpopRead d s = _
  simp only [execPrqpopRead, State.myDie_core hd, he]

/-- A page request takes a state, and the others keep theirs (R375). -/
theorem State.prq_setPrqSt {d e : Nat} {q : PrqReq} (h : tfind (s.die d).prq e = some q) (st : PrqSt) :
    tfind ((s.setPrqSt d e st).die d).prq e = some { q with st := st } ∧
      ∀ n, n ≠ e → tfind ((s.setPrqSt d e st).die d).prq n = tfind (s.die d).prq n := by
  simp only [State.setPrqSt, State.die_updDie_same, h]
  exact ⟨tfind_tput_same _ e _, fun n hn => tfind_tput_ne _ _ hn⟩

theorem State.setPrqSt_keeps (s : State) (d e : Nat) (st : PrqSt) : KeepsThreads s (s.setPrqSt d e st) := by
  rw [State.setPrqSt]
  exact KeepsThreads.updDie s d rfl

theorem State.answerEntry_some {d e : Nat} {q : PrqReq} (h : tfind (s.die d).prq e = some q) (ok : Bool) :
    s.answerEntry d e ok = (s.updDie d fun x => { x with prq := tdel x.prq e }).answer ok q.waiters := by
  simp only [State.answerEntry, h]

theorem exec_prqForward {q : PrqReq} (h : tfind (s.die s.myDie).prq s.hprqSel = some q) :
    exec .prqForward s = .next (if q.stage2 then s else s.setPrqSt s.myDie s.hprqSel .forwarded) := by
  show execPrqForward s = _
  simp only [execPrqForward, h]
  split <;> rfl

theorem exec_sprq {e : Nat} {q : PrqReq} (hr : s.cur = .ring r) (h : s.sprqEntry r = some (e, q)) :
    exec .sprqRetry s = .next (s.answerEntry (dieOf r) e true) ∧ exec .sprqFail s = .next (s.answerEntry (dieOf r) e false) := by
  show execSprqRetry s = _ ∧ execSprqFail s = _
  simp only [execSprqRetry, execSprqFail, hr, State.sprqAnswer, h, and_self]

/-! Queue pairs (R421). -/

theorem exec_qpstatClear (hr : s.cur = .ring r) : exec .qpstatClear s = .next (s.qpClear (s.vfNum r)) := by
  show execQpstatClear s = _
  simp only [execQpstatClear, hr]

/-- A clear takes its queue pair, and no other, from those in error (R421). -/
theorem State.mem_qpClear_qpErr {v n : Nat} :
    n ∈ ((s.qpClear v).vfOf v).qpErr ↔ n ∈ (s.vfOf v).qpErr ∧ n ≠ fld (s.vcsr v 0x1042) 9 0 := by
  have hvfs : (s.qpClear v).vfs = (s.updVf v fun f => { f with qpErr := f.qpErr.filter (· != fld (s.vcsr v 0x1042) 9 0) }).vfs := by
    simp only [State.qpClear]
    split <;> rfl
  rw [State.vfOf, hvfs, ← State.vfOf, State.vfOf_updVf_same, List.mem_filter, bne_iff_ne]

theorem State.mem_qpClear (s : State) (v : Nat) : (s.qpClear v).mem = s.mem := by
  simp only [State.qpClear]
  split <;> rfl

/-! The debugger's window (R395). -/

theorem exec_rdbgdRead (s : State) (d : BitVec 5) {o : Option W64}
    (h : (if (s.ring s.rsel).halted then s.dbgValue s.rsel (dbgAddr (s.rcsr s.rsel 0x2122)) else none) = o) :
    exec (.rdbgdRead d) s = .next ((s.setX d (o.getD 0)).dbgErr s.rsel o.isNone) := by
  show execRdbgdRead d s = _
  simp only [execRdbgdRead, h]
  cases o <;> rfl

theorem exec_rdbgdWrite_refused {v : W64}
    (h : (s.ring s.rsel).halted = false ∨ s.dbgStore s.rsel (dbgAddr (s.rcsr s.rsel 0x2122)) v = none) :
    exec (.rdbgdWrite v) s = .next (s.dbgErr s.rsel true) := by
  show execRdbgdWrite v s = _
  simp only [execRdbgdWrite]
  rcases h with h | h
  · rw [h, if_pos (.inl rfl)]
  · rw [h, ite_self]

theorem exec_rdbgdWrite_stores {v : W64} (hh : (s.ring s.rsel).halted = true)
    (hv : (s.dbgValue s.rsel (dbgAddr (s.rcsr s.rsel 0x2122))).isSome = true)
    (hs : s.dbgStore s.rsel (dbgAddr (s.rcsr s.rsel 0x2122)) v = some t) : exec (.rdbgdWrite v) s = .next (t.dbgErr s.rsel false) := by
  show execRdbgdWrite v s = _
  simp only [execRdbgdWrite, hh, Option.isNone_eq_false_iff.2 hv, hs, Bool.not_true, Bool.false_eq_true, or_self, if_false]

/-- Settles O56: each register reads and writes the part of the device that it stands for. -/
theorem windowRegisters : Obligations.WindowRegisters := by
  unfold Obligations.WindowRegisters
  refine ⟨?_, ?_, fun s h => exec_rctlPreq h, ?_, ?_, ?_, ?_, fun s c rd hd he => exec_prqpopRead_none hd he rd, ?_,
    fun s r e q hr h => exec_sprq hr h, ?_, ?_, ?_, fun s v t hh hv hs => exec_rdbgdWrite_stores hh hv hs,
    fun s v h => exec_rdbgdWrite_refused (.inr h), fun s v h => exec_rdbgdWrite_refused (.inl h)⟩
  · intro s v h
    refine ⟨_, exec_rnoteWrite_ring h v, ?_, ?_, State.rcsr_setRcsr_same _ _ _ _, fun n hnote hsip => ?_⟩
    · simp only [State.setRcsr, State.updRing_updRing]
      exact onlyRing_updRing s s.rsel _
    · rw [State.rcsr_setRcsr_ne _ _ (.inr (by decide)), State.rcsr_setRcsr_same]
    · rw [State.rcsr_setRcsr_ne _ _ (.inr hsip), State.rcsr_setRcsr_ne _ _ (.inr hnote)]
  · intro s v n h vf
    refine ⟨_, exec_rnoteWrite_tenant h v, onlyRing_updRing s s.rsel _, ?_, ?_, ?_⟩
    · rw [State.ring_updRing_same]
      exact tfind_tput_same _ _ _
    · rw [State.ring_updRing_same, Ring.noteFor, tget_tput_same, bit_eq_testBit, BitVec.toNat_or, Nat.testBit_or]
      exact Bool.or_true _
    · rw [State.ring_updRing_same, Ring.noteFor]
  · intro s h
    refine ⟨_, exec_rctlResume h, onlyRing_updRing s s.rsel _, ?_⟩
    rw [State.ring_updRing_same]
    exact ⟨rfl, rfl, rfl, rfl⟩
  · intro s h hb
    exact ⟨_, exec_rctlResumeInject h hb, s.toS_ring_frame s.rsel _ _ _⟩
  · intro s c rd hd
    obtain ⟨hx, hother⟩ := s.x_setX_updDie rd ((s.die c).hevt.headD 0) c (f := fun x => { x with hevt := x.hevt.drop 1 }) fun _ => rfl
    refine ⟨_, exec_hevtRead hd rd, State.onlyDie_setX_updDie hd rd _ _, ?_, hx, hother⟩
    rw [State.die_updDie_same]
    exact congrArg (List.drop 1) (State.die_setX_field Die.hevt (fun _ _ => rfl) s rd _ c)
  · intro s c rd e q hd he hq
    have hprq : ∀ n, tfind ((s.setX rd (BitVec.ofNat 64 (2 ^ 63 + e))).die c).prq n = tfind (s.die c).prq n :=
      fun n => congrArg (tfind · n) (State.die_setX_field Die.prq (fun _ _ => rfl) s rd _ c)
    obtain ⟨htaken, hother⟩ := State.prq_setPrqSt ((hprq e).trans hq) .taken
    exact ⟨_, exec_prqpopRead_some hd he rd, htaken, fun n hn => (hother n hn).trans (hprq n),
      ((State.setPrqSt_keeps _ c e .taken).x_eq rd).trans (s.x_setX_self rd _)⟩
  · intro s q h freed
    refine ⟨congrArg _ (State.answerEntry_some h true), congrArg _ (State.answerEntry_some h false), fun h2 => ?_, fun h2 => ?_⟩
    · exact ⟨_, (exec_prqForward h).trans (congrArg _ (if_neg (ne_true_of_eq_false h2))), onlyDie_updDie s s.myDie _,
        (State.prq_setPrqSt h .forwarded).1⟩
    · exact (exec_prqForward h).trans (congrArg _ (if_pos h2))
  · intro s r hr
    refine ⟨_, exec_qpstatClear hr, fun h => (State.mem_qpClear_qpErr.1 h).2 rfl, fun n hn => ?_, s.mem_qpClear _⟩
    rw [State.mem_qpClear_qpErr, and_iff_left hn]
  · intro s rd v hh hv
    exact exec_rdbgdRead s rd (o := some v) (by rw [if_pos hh, hv])
  · intro s rd hh
    exact exec_rdbgdRead s rd (o := none) (if_neg (ne_true_of_eq_false hh))

end Sys2Proof.Machine
end

section
/-! A launch packet that every check passes (R348 to R350). -/

namespace Sys2Proof.Machine

variable {s u : State} {d e : Nat} {et : BitVec 16} {bs : List Byte}

/-- A frame that is no packet is not judged (R348). -/
theorem exec_launchPacket_ignored (h : et.toNat ≠ fld (s.dcsr d 0x2020) 15 0 ∨ bs.length < 80) : exec (.launchPacket d et bs) s = .next s := by
  show execLaunchPacket d et bs s = _
  exact if_pos h

/-- The entry that a packet names judges it (R350; log 131). -/
theorem exec_launchPacket_entry (ht : et.toNat = fld (s.dcsr d 0x2020) 15 0) (hl : 80 ≤ bs.length)
    (he : ((List.range 64).find? fun e => bit ((s.die d).lpEntry e).ent 7 && ((s.die d).lpEntry e).tenant.toNat == field bs 0 2) = some e) :
    exec (.launchPacket d et bs) s = .next (s.packetChecks d e ((s.die d).lpEntry e) bs) := by
  show execLaunchPacket d et bs s = _
  simp only [execLaunchPacket, ht, Nat.not_lt.2 hl, he, ne_eq, not_true_eq_false, or_self, if_false]

/-- A packet of no entry is reported (R350). -/
theorem exec_launchPacket_none (ht : et.toNat = fld (s.dcsr d 0x2020) 15 0) (hl : 80 ≤ bs.length)
    (he : ((List.range 64).find? fun e => bit ((s.die d).lpEntry e).ent 7 && ((s.die d).lpEntry e).tenant.toNat == field bs 0 2) = none) :
    exec (.launchPacket d et bs) s = .next (s.post d 1 1 0 0x7F) := by
  show execLaunchPacket d et bs s = _
  simp only [execLaunchPacket, ht, Nat.not_lt.2 hl, he, ne_eq, not_true_eq_false, or_self, if_false, State.rejectPacket, Option.getD_none]

/-- Settles O36: with every check passed the record is enqueued, and the entry counts it. -/
theorem launchPackets : Obligations.LaunchPackets := by
  unfold Obligations.LaunchPackets
  intro s d et bs e sz u ht hl he p v seq diff hz hz' hv hcheck hpos hlt hb p2 hopen hfull henq
  have hdiff : ¬(diff = 0 ∨ 2 ^ 31 ≤ diff) := by
    rintro (h | h)
    · exact absurd h (Nat.ne_of_gt hpos)
    · exact absurd hlt (Nat.not_lt.2 h)
  have hpassed : s.packetChecks d e p bs =
      u.setLp d e { p2 with stat := setFld p2.stat 31 0 (sat32 (fld p2.stat 31 0 + 1)) } := by
    rw [State.packetChecks, if_neg (by rw [hz, hz']; exact Bool.false_ne_true), if_neg (not_not.2 hv), if_neg (not_not.2 hcheck), if_neg hdiff,
      if_neg (Nat.not_lt.2 hb)]
    simp only [p2, p, v, seq] at hopen hfull henq ⊢
    simp only [hopen, hfull, henq, Bool.false_eq_true, if_false]
  exact (exec_launchPacket_entry ht hl he).trans (congrArg _ hpassed)

end Sys2Proof.Machine
end

section
/-! What a write of memory leaves of the agents (R106, R409, R411). -/

namespace Sys2Proof.Machine

/-- The running thread, the rings, the dies and the VFs are as they were. -/
structure KeepsAgents (s t : State) : Prop where
  cur : t.cur = s.cur
  rings : t.rings = s.rings
  dies : t.dies = s.dies
  vfs : t.vfs = s.vfs

namespace KeepsAgents

variable {s t u : State}

theorem refl (s : State) : KeepsAgents s s := ⟨rfl, rfl, rfl, rfl⟩

theorem trans (h : KeepsAgents s t) (k : KeepsAgents t u) : KeepsAgents s u :=
  ⟨k.cur.trans h.cur, k.rings.trans h.rings, k.dies.trans h.dies, k.vfs.trans h.vfs⟩

theorem foldl {α : Type} {f : State → α → State} (hf : ∀ st a, KeepsAgents st (f st a)) (l : List α) (s : State) : KeepsAgents s (l.foldl f s) :=
  List.foldlRecOn l f (refl s) fun st hst a _ => hst.trans (hf st a)

theorem ring (h : KeepsAgents s t) (r : Nat) : t.ring r = s.ring r := by rw [State.ring, h.rings, State.ring]

theorem die (h : KeepsAgents s t) (d : Nat) : t.die d = s.die d := by rw [State.die, h.dies, State.die]

theorem vfOf (h : KeepsAgents s t) (v : Nat) : t.vfOf v = s.vfOf v := by rw [State.vfOf, h.vfs, State.vfOf]

theorem vcsr (h : KeepsAgents s t) (v n : Nat) : t.vcsr v n = s.vcsr v n := by rw [State.vcsr, h.vfOf, State.vcsr]

theorem seqOf (h : KeepsAgents s t) (th : Thread) : t.seqOf th = s.seqOf th := by
  cases th with
  | ring r => exact congrArg Ring.seq (h.ring r)
  | core d => exact congrArg Die.core (h.die d)

theorem me (h : KeepsAgents s t) : t.me = s.me := by rw [State.me, h.cur, h.seqOf, State.me]

/-- The counter tree and the tags lie beside the agents (R411). -/
theorem setCtrBlock (s : State) (level g b : Nat) (x : CtrBlock) : KeepsAgents s (s.setCtrBlock level g b x) := by
  unfold State.setCtrBlock
  split <;> exact ⟨rfl, rfl, rfl, rfl⟩

theorem retag (s : State) (level g b i : Nat) (all : Bool) : KeepsAgents s (s.retag level g b i all) := by
  unfold State.retag
  refine foldl (fun st j => ?_) _ s
  dsimp only
  split
  · split <;> exact ⟨rfl, rfl, rfl, rfl⟩
  · exact setCtrBlock st _ _ _ _

theorem bumpTree (s : State) (pa : Nat) : KeepsAgents s (s.bumpTree pa) := by
  unfold State.bumpTree
  extract_lets g s1 r top y
  have hpath : KeepsAgents s s1 := foldl (fun st _ => (setCtrBlock st _ _ _ _).trans (retag _ _ _ _ _ _)) _ s
  refine (hpath.trans ?_).trans (setCtrBlock _ _ _ _ _)
  exact ⟨rfl, rfl, rfl, rfl⟩

theorem sealLine (s : State) (p : Nat × MemAttr) : KeepsAgents s (s.sealLine p) := by
  unfold State.sealLine
  dsimp only
  split
  · refine KeepsAgents.trans ?_ (bumpTree _ _)
    exact ⟨rfl, rfl, rfl, rfl⟩
  · exact refl s

theorem putSeen (s : State) (who : Agent) (lag : Bool) (sync : Tab Dep) (ps : List (Nat × MemAttr)) (bs : List Byte) :
    KeepsAgents s (s.putSeen who lag sync ps bs) := by
  induction ps generalizing s bs with
  | nil => exact refl s
  | cons p ps ih =>
    cases bs with
    | nil => exact refl s
    | cons b bs =>
      rw [State.putSeen]
      refine KeepsAgents.trans ?_ (ih _ bs)
      exact ⟨rfl, rfl, rfl, rfl⟩

theorem transfers (s : State) (ps : List (Nat × MemAttr)) : KeepsAgents s (s.transfers ps) := ⟨rfl, rfl, rfl, rfl⟩

theorem writeAt {who : Agent} {lag : Bool} {sync : Tab Dep} {ps : List (Nat × MemAttr)} {bs : List Byte}
    (h : s.writeAt who lag sync ps bs = .ok t) : KeepsAgents s t := by
  unfold State.writeAt at h
  split at h
  · cases h
  · split at h
    · cases h
    · cases h
      exact ((putSeen s who lag sync ps bs).trans (foldl sealLine _ _)).trans (transfers _ ps)

theorem engPut {lag : Bool} {c : XCtx} {va : W64} {bs : List Byte} (h : s.engPut lag c va bs = .ok t) : KeepsAgents s t := by
  unfold State.engPut at h
  split at h
  · cases h
  · split at h
    next => cases h
    next hw => cases h; exact writeAt hw

theorem linked {ε : Type} (s : State) (ps : Except ε (List (Nat × MemAttr))) : KeepsAgents s (s.linked ps) := by
  cases ps with
  | ok l => exact transfers s l
  | error e => exact refl s

theorem engLinked (s : State) (c : XCtx) (l : List (W64 × Nat)) : KeepsAgents s (s.engLinked c l) := foldl (fun st _ => linked st _) l s

end KeepsAgents

theorem State.engLinked_mem (s : State) (c : XCtx) (l : List (W64 × Nat)) : (s.engLinked c l).mem = s.mem := by
  rw [State.engLinked]
  refine foldl_mem _ (fun st x => ?_) s l
  cases s.spanPlaces c .load x.1 x.2 <;> rfl

@[simp] theorem State.vcsr_setVcsr_same (s : State) (v n : Nat) (x : W64) : (s.setVcsr v n x).vcsr v n = x := by
  rw [State.vcsr, State.setVcsr, State.vfOf_updVf_same, tget_tput_same]

end Sys2Proof.Machine
end

section
/-! Rings that are updated together (R332, R338, R341). -/

namespace Sys2Proof.Machine

variable {α : Type}

/-- The rings that a list names take an update each, and nothing else changes. -/
def State.updRings (s : State) (l : List α) (place : α → Nat) (f : α → Ring → Ring) : State :=
  l.foldl (fun st x => st.updRing (place x) (f x)) s

theorem State.ring_updRings_ne (l : List α) (place : α → Nat) (f : α → Ring → Ring) {n : Nat} (h : n ∉ l.map place) (s : State) :
    (s.updRings l place f).ring n = s.ring n := by
  induction l generalizing s with
  | nil => rfl
  | cons x l ih =>
    rw [List.map_cons, List.mem_cons, not_or] at h
    exact (ih h.2 _).trans (State.ring_updRing_ne s (f x) h.1)

/-- A ring that is named once takes its own update. -/
theorem State.ring_updRings_mem {l : List α} {place : α → Nat} (hd : (l.map place).Nodup) {x : α} (hx : x ∈ l) (f : α → Ring → Ring) (s : State) :
    (s.updRings l place f).ring (place x) = f x (s.ring (place x)) := by
  induction l generalizing s with
  | nil => exact absurd hx List.not_mem_nil
  | cons y l ih =>
    rw [List.map_cons, List.nodup_cons] at hd
    rcases List.mem_cons.1 hx with rfl | hx
    · exact (State.ring_updRings_ne l place f hd.1 _).trans (State.ring_updRing_same s _ _)
    · have hne : place x ≠ place y := fun h => hd.1 (h ▸ List.mem_map_of_mem hx)
      exact (ih hd.2 hx _).trans (congrArg (f x) (State.ring_updRing_ne s (f y) hne))

/-- Rings that a list names by number. -/
theorem State.ring_updRings_self {l : List Nat} (hd : l.Nodup) {r : Nat} (hr : r ∈ l) (f : Nat → Ring → Ring) (s : State) :
    (s.updRings l id f).ring r = f r (s.ring r) := State.ring_updRings_mem (by rwa [List.map_id]) hr f s

theorem State.ring_updRings_other {l : List Nat} {r : Nat} (hr : r ∉ l) (f : Nat → Ring → Ring) (s : State) :
    (s.updRings l id f).ring r = s.ring r := State.ring_updRings_ne l id f (by rwa [List.map_id]) s

/-- Rings that are updated together are the only part of the device that changes. -/
theorem State.updRings_eq (s : State) (l : List α) (place : α → Nat) (f : α → Ring → Ring) :
    s.updRings l place f = { s with rings := (s.updRings l place f).rings } :=
  List.foldlRecOn l _ (motive := fun t : State => t = { s with rings := t.rings }) rfl fun st hst x _ => by
    rw [hst]
    rfl

theorem State.updRings_mem (s : State) (l : List α) (place : α → Nat) (f : α → Ring → Ring) : (s.updRings l place f).mem = s.mem := by
  rw [State.updRings_eq]

theorem State.updRings_vfs (s : State) (l : List α) (place : α → Nat) (f : α → Ring → Ring) : (s.updRings l place f).vfs = s.vfs := by
  rw [State.updRings_eq]

theorem State.updRings_dies (s : State) (l : List α) (place : α → Nat) (f : α → Ring → Ring) : (s.updRings l place f).dies = s.dies := by
  rw [State.updRings_eq]

theorem State.updRings_cur (s : State) (l : List α) (place : α → Nat) (f : α → Ring → Ring) : (s.updRings l place f).cur = s.cur := by
  rw [State.updRings_eq]

theorem mem_runOf {first k n : Nat} : n ∈ runOf first k ↔ first ≤ n ∧ n < first + k := by
  simp only [runOf, List.mem_map, List.mem_range]
  constructor
  · rintro ⟨j, hj, rfl⟩
    omega
  · rintro ⟨hlo, hhi⟩
    exact ⟨n - first, by omega, by omega⟩

theorem nodup_runOf (first k : Nat) : (runOf first k).Nodup :=
  List.Nodup.map (fun _ _ h => Nat.add_left_cancel h) List.nodup_range

theorem getElem?_runOf {first k j : Nat} (hj : j < k) : (runOf first k)[j]? = some (first + j) := by
  rw [runOf, List.getElem?_map, List.getElem?_range hj, Option.map_some]

end Sys2Proof.Machine
end

section
/-! Launches: the queue of a VF, its doorbell, and the start and the end of a graph (R296, R341 to R347, R420). -/

namespace Sys2Proof.Machine

variable {s t u w : State} {r d vf sz : Nat} {a : BitVec 5} {v : W64} {l : List Byte}

/-! A record enters the queue (R296, R346). -/

/-- A record that is enqueued moves the tail, and leaves every thread's registers (R346). -/
theorem State.enqueue_frame {c : XCtx} (h : s.enqueue c vf sz l = .ok u) :
    u.vcsr vf 0x1013 = BitVec.ofNat 64 ((fld (s.vcsr vf 0x1013) 15 0 + 1) % 2 ^ sz) ∧ u.me = s.me := by
  simp only [State.enqueue] at h
  split at h
  next => cases h
  next s1 hput =>
    cases h
    have hkeep : KeepsAgents s s1 := KeepsAgents.engPut hput
    refine ⟨State.vcsr_setVcsr_same _ _ _ _, ?_⟩
    rw [← hkeep.me]
    exact State.seqOf_setVcsr s1 s1.cur vf 0x1013 _

theorem exec_launch_queued {ps : List (Nat × MemAttr)} (hr : s.cur = .ring r) (hp : s.pendAny [a] = false)
    (ha : s.access .load (s.x a) 64 (some 64) = .ok ps) (hn : s.readNow [a] (s.x a) ps = some (l, w)) (hs : w.stoppedNow = false)
    (ho : w.lqOpen (w.vfNum r) = some sz) (hf : w.lqFull (w.vfNum r) sz = false) (hb : w.me.busy = false)
    (hq : w.enqueue (w.ctxStage2 r) (w.vfNum r) sz l = .ok u) : exec (.launch a) s = .next (u.releaseAll r).done := by
  show execLaunch a s = _
  simp only [execLaunch, onRing_ring hr, hp, withRecord_read ha hn hs, ho, hf, State.quiet, hb, hq, Bool.not_false, Bool.not_true, Bool.or_self,
    Bool.false_eq_true, if_false]

/-- A tail write within the queue's size stores the tail (R346). -/
theorem State.writeTail_within (h : fld v 15 0 < 2 ^ fld (s.vcsr vf 0x1011) 15 12) :
    s.writeTail vf v = s.setVcsr vf 0x1013 (BitVec.ofNat 64 (fld v 15 0)) := if_pos h

theorem exec_lqtailWrite (hr : s.cur = .ring r) : exec (.lqtailWrite v) s = .next (s.writeTail (s.vfNum r) v) := by
  show execLqtailWrite v s = _
  simp only [execLqtailWrite, hr]

/-! The doorbell region (R420). -/

/-- An address of the open region names a page and an offset. -/
theorem State.doorPage_open (ho : s.doorOpen = true) {o : Nat} (hvf : vf < 128) (hlt : o < 65536) :
    s.doorPage (fld (s.dcsr 0 0x2067) 54 23 * 2 ^ 23 + 65536 * vf + o) = some (vf, o) := by
  simp only [State.doorPage]
  rw [if_pos ⟨ho, by omega, by omega⟩, Option.some.injEq, Prod.mk.injEq]
  constructor <;> omega

theorem State.doorPage_closed {addr : Nat} (h : s.doorOpen = false ∨ addr < fld (s.dcsr 0 0x2067) 54 23 * 2 ^ 23 ∨
    fld (s.dcsr 0 0x2067) 54 23 * 2 ^ 23 + 2 ^ 23 ≤ addr) : s.doorPage addr = none := by
  refine if_neg fun hin => ?_
  obtain ⟨ho, hlo, hhi⟩ := hin
  rcases h with h | h | h
  · rw [h] at ho
    cases ho
  · omega
  · omega

theorem State.doorRead_of_page {addr o : Nat} (h : s.doorPage addr = some (vf, o)) :
    s.doorRead addr = if o = 8 then s.vcsr vf 0x1012 else 0 := by
  unfold State.doorRead
  rw [h]
  split
  next he => cases he; rfl
  next hne heq =>
    cases heq
    exact (if_neg fun ho => hne vf (by rw [ho])).symm
  next he => cases he

theorem exec_doorbellWrite_of_page {addr o : Nat} (h : s.doorPage addr = some (vf, o)) :
    exec (.doorbellWrite addr v) s = .next (if o = 0 then (s.writeTail vf v).door vf else s) := by
  show execDoorbellWrite addr v s = _
  unfold execDoorbellWrite
  rw [h]
  cases o <;> rfl

/-- A closed region does not respond (R420). -/
theorem State.door_closed {addr : Nat} (h : s.doorPage addr = none) : exec (.doorbellWrite addr v) s = .next s ∧ s.doorRead addr = 0 := by
  show execDoorbellWrite addr v s = _ ∧ _
  simp only [execDoorbellWrite, State.doorRead, h, and_self]

/-! The start of a graph (R341, R342, R347). -/

/-- A ring that starts a graph, which observes every write so far (R342; log 116). -/
def Ring.started (x : Ring) (q : LaunchRec) (j now : Nat) : Ring :=
  { x.launch q j with seq := { (x.launch q j).seq with front := Front.zero.all now } }

/-- A VF with a launch under way (R344). -/
def Vf.launching (f : Vf) (i : Nat) (q : LaunchRec) (rings : List Nat) (map : List (W64 × Nat × Nat)) : Vf :=
  { f with launches := f.launches ++ [{ index := i, tag := q.tag, rings := rings, left := rings, codes := [], map := map }] }

theorem State.startLaunch_eq (s : State) (v i : Nat) (q : LaunchRec) (rings : List Nat) (map : List (W64 × Nat × Nat)) :
    s.startLaunch v i q rings map =
      (s.updRings rings.zipIdx Prod.fst fun x y => y.started q x.2 s.free).updVf v fun f => f.launching i q rings map := rfl

/-- A ring of a launch starts with its own index (R341). -/
theorem State.ring_startLaunch (s : State) (v i : Nat) (q : LaunchRec) (map : List (W64 × Nat × Nat)) (first : Nat) {k j : Nat} (hj : j < k) :
    (s.startLaunch v i q (runOf first k) map).ring (first + j) = (s.ring (first + j)).started q j s.free := by
  have hd : ((runOf first k).zipIdx.map Prod.fst).Nodup := by
    rw [List.zipIdx_map_fst]
    exact nodup_runOf first k
  have hmem : (first + j, j) ∈ (runOf first k).zipIdx := List.mem_zipIdx_iff_getElem?.2 (getElem?_runOf hj)
  exact State.ring_updRings_mem hd hmem (fun x y => y.started q x.2 s.free) s

theorem State.ring_startLaunch_ne (s : State) (v i : Nat) (q : LaunchRec) {rings : List Nat} (map : List (W64 × Nat × Nat)) {n : Nat}
    (h : n ∉ rings) : (s.startLaunch v i q rings map).ring n = s.ring n :=
  State.ring_updRings_ne _ _ _ (by rwa [List.zipIdx_map_fst]) s

theorem State.vcsr_startLaunch (s : State) (v i : Nat) (q : LaunchRec) (rings : List Nat) (map : List (W64 × Nat × Nat)) (n : Nat) :
    (s.startLaunch v i q rings map).vcsr v n = s.vcsr v n := by
  have hvf : ∀ f, (s.updRings rings.zipIdx Prod.fst f).vfOf v = s.vfOf v := fun f => by rw [State.vfOf, State.updRings_vfs, State.vfOf]
  rw [State.startLaunch_eq, State.vcsr, State.vfOf_updVf_same, hvf, Vf.launching, State.vcsr]

theorem State.mem_startLaunch (s : State) (v i : Nat) (q : LaunchRec) (rings : List Nat) (map : List (W64 × Nat × Nat)) :
    (s.startLaunch v i q rings map).mem = s.mem := by
  rw [State.startLaunch_eq, State.updVf_mem, State.updRings_mem]

/-- A ring that starts: x1 and x9 from its record, the other registers 0, and no slot, billet or phase of the graph before (R342). -/
theorem Ring.started_fields (x : Ring) (q : LaunchRec) (j now : Nat) :
    let y := x.started q j now
    y.seq.pc = q.entry ∧ tget 0 y.seq.x 1 = q.ret ∧ tget 0 y.seq.x 9 = q.argbase + BitVec.ofNat 64 (j * q.argstride) ∧
      (∀ n, n ≠ 1 → n ≠ 9 → tget 0 y.seq.x n = 0) ∧ y.level = .u ∧ y.run = .run ∧ y.deps = [] ∧ y.billets = [] ∧ y.serial = 0 ∧
      y.launchTag = q.tag ∧ y.tqs = x.tqs := by
  refine ⟨rfl, ?_, tget_tset_same _ _ _ _, fun n h1 h9 => ?_, rfl, rfl, rfl, rfl, rfl, rfl, rfl⟩
  · exact (tget_tset_ne _ _ _ (by decide)).trans (tget_tset_same _ _ _ _)
  · exact (tget_tset_ne _ _ _ h9).trans (tget_tset_ne _ _ _ h1)

/-- The CSRs of U are at their launch values, and those above keep theirs (R342). -/
theorem Ring.started_csr (x : Ring) (q : LaunchRec) (j now n : Nat) (c : W64) :
    tget c (x.started q j now).csr n = if 0x1000 ≤ n then tget c x.csr n else c := by
  have hfind : tfind (x.started q j now).csr n = if decide (0x1000 ≤ n) = true then tfind x.csr n else none :=
    tfind_filter (fun k => decide (0x1000 ≤ k)) x.csr n
  simp only [decide_eq_true_eq] at hfind
  by_cases h : 0x1000 ≤ n
  · simp only [tget, hfind, if_pos h]
  · simp only [tget, hfind, if_neg h]

theorem State.beginLaunch_unmapped {i : Nat} {q : LaunchRec} (hm : q.mapped = false)
    (hfree : ((q.rings (s.ring r).sbase).any fun n => !(s.ring n).idle || !s.offered n) = false) :
    s.beginLaunch r vf sz i q = (s.headOn vf sz).startLaunch vf i q (q.rings (s.ring r).sbase) [] := by
  simp only [State.beginLaunch, hfree, hm, Bool.not_false, Bool.false_eq_true, if_false, if_true]

/-- What the dispatcher does with a record that it reads (R347). -/
theorem exec_launchConsume_read (hr : s.ringOfVf vf = some r) (ho : s.lqOpen vf = some sz) (hc : s.lqCount vf sz ≠ 0)
    (hs : (s.vfOf vf).stopped = false) (hcap : (s.strip (s.ring r).sbase).capture = false)
    (hl : s.engRead (s.ctxStage2 r) (s.vcsr vf 0x1010 + BitVec.ofNat 64 (64 * (fld (s.vcsr vf 0x1012) 15 0 % 2 ^ sz))) 64 = .ok l) :
    exec (.launchConsume vf) s =
      let i := fld (s.vcsr vf 0x1012) 15 0 % 2 ^ sz
      let s1 := s.engLinked (s.ctxStage2 r) [(s.vcsr vf 0x1010 + BitVec.ofNat 64 (64 * i), 64)]
      if launchOk l (s.ring r).slen then .next (s1.beginLaunch r vf sz i (launchRecOf l))
      else .next ((s1.headOn vf sz).completion r vf i (launchRecOf l).tag 1 0) := by
  show execLaunchConsume vf s = _
  simp only [execLaunchConsume, hr, ho, hc, hs, hcap, hl, Bool.false_eq_true, or_self, if_false]

/-- The dispatcher starts the rings of a record that keeps the rules (R342, R347). -/
theorem State.consumed_frame {i : Nat} {q : LaunchRec} (h : KeepsAgents s t) (hmem : t.mem = s.mem) (first : Nat) :
    let u := (t.headOn vf sz).startLaunch vf i q (runOf first q.rcount) []
    u.vcsr vf 0x1012 = BitVec.ofNat 64 ((fld (s.vcsr vf 0x1012) 15 0 + 1) % 2 ^ sz) ∧
      (∀ j, j < q.rcount → u.ring (first + j) = (s.ring (first + j)).started q j t.free) ∧
      (∀ j, j < q.rcount → ∀ n, u.rcsr (first + j) n = if 0x1000 ≤ n then s.rcsr (first + j) n else csrReset n) ∧
      (∀ n, n ∉ runOf first q.rcount → u.ring n = s.ring n) ∧ u.mem = s.mem := by
  intro u
  have hring : ∀ n, (t.headOn vf sz).ring n = s.ring n := h.ring
  have hstart : ∀ j, j < q.rcount → u.ring (first + j) = (s.ring (first + j)).started q j t.free := by
    intro j hj
    rw [State.ring_startLaunch _ _ _ _ _ _ hj, hring]
    rfl
  refine ⟨?_, hstart, fun j hj n => ?_, fun n hn => ?_, ?_⟩
  · rw [State.vcsr_startLaunch, State.headOn, State.vcsr_setVcsr_same, h.vcsr]
  · rw [State.rcsr, hstart j hj, Ring.started_csr, State.rcsr]
  · rw [State.ring_startLaunch_ne _ _ _ _ _ hn, hring]
  · rw [State.mem_startLaunch]
    exact hmem

/-! The end of a graph (R343, R344). -/

/-- The graph that ends leaves its ring idle where every launch of the VF goes on elsewhere (R344). -/
theorem State.endGraph_idle (h : ∀ l ∈ (s.vfOf (s.vfNum r)).launches, ∃ q ∈ l.left, q ≠ r) : ((s.endGraph r).ring r).run = .idle := by
  unfold State.endGraph
  dsimp only
  split
  next => rw [State.ring_updRing_same]
  next l hl =>
    obtain ⟨q, hq, hne⟩ := h l (List.mem_reverse.1 (List.mem_of_find?_eq_some hl))
    have hmem : q ∈ l.left.filter (· != r) := List.mem_filter.2 ⟨hq, bne_iff_ne.2 hne⟩
    rw [if_neg (by rw [List.isEmpty_iff]; exact List.ne_nil_of_mem hmem), State.ring_updVf, State.ring_updRing_same]

theorem exec_ldoneWrite (hr : s.cur = .ring r) : exec (.ldoneWrite v) s =
    let u := s.setRcsr r 0x030 (BitVec.ofNat 64 (fld v 31 0))
    .next (if u.graphOver r then u.endGraph r else u) := by
  show execLdoneWrite v s = _
  simp only [execLdoneWrite, hr]
  split <;> rfl

/-- LDONE is a register that U writes (R320). -/
theorem State.csrTrap_ldone (hr : s.cur = .ring r) : s.csrTrap 0x030 true = none := by
  simp [State.csrTrap, State.csrKind, hr, show ringCsrKind 0x030 = .rw by decide]

/-- A csrw to LDONE completes, and then the graph ends (R343; log 100). -/
theorem exec_csrw_ldone (hr : s.cur = .ring r) (hp : s.pendAny [a] = false) (hg : (s.ringWrite r 0x030 (s.x a)).graphOver r = true) :
    exec (.csrw a 0x030) s = .next ((s.ringWrite r 0x030 (s.x a)).done.endGraph r) := by
  have hn : (0x030 : BitVec 14).toNat = 0x030 := rfl
  have hrel : releaseCsr 0x030 = false := rfl
  show execCsrw a 0x030 s = _
  simp only [execCsrw, hn, State.csrTrap_ldone hr, hp, hrel, Bool.false_eq_true, false_and, or_self, if_false, hr, if_true, hg]

/-- Settles O35: each form acts on the queue or the rings that it names. -/
theorem launches : Obligations.Launches := by
  unfold Obligations.Launches
  refine ⟨?_, ?_, ?_, fun s addr v h => State.door_closed (State.doorPage_closed h), ?_, ?_, fun s r a hr hp hg => exec_csrw_ldone hr hp hg,
    fun s d et bs h => exec_launchPacket_ignored h, ?_⟩
  · intro s w r a ps l sz u hr hp ha hn hs ho hf hb hq
    have hkeep : KeepsThreads s w := KeepsThreads.readNow hn
    obtain ⟨htail, hme⟩ := State.enqueue_frame hq
    exact ⟨exec_launch_queued hr hp ha hn hs ho hf hb hq, htail, hme, hkeep.me_x, hkeep.pc_eq⟩
  · intro s r v hr h
    rw [exec_lqtailWrite hr, State.writeTail_within h]
  · intro s vf v ho hvf page
    have hpage : ∀ o, o < 65536 → s.doorPage (page + o) = some (vf, o) := fun o hlt => State.doorPage_open ho hvf hlt
    have hfirst : s.doorPage page = some (vf, 0) := by simpa only [Nat.add_zero] using hpage 0 (by decide)
    refine ⟨?_, fun o hpos hlt => ?_, ?_, fun o hlt hne => ?_⟩
    · rw [exec_doorbellWrite_of_page hfirst, if_pos rfl]
    · rw [exec_doorbellWrite_of_page (hpage o hlt), if_neg (Nat.ne_of_gt hpos)]
    · rw [State.doorRead_of_page (hpage 8 (by decide)), if_pos rfl]
    · rw [State.doorRead_of_page (hpage o hlt), if_neg hne]
  · intro s vf r sz l hr ho hc hs hcap i hl q first
    have hexec := exec_launchConsume_read hr ho hc hs hcap hl
    refine ⟨fun hok hm hfree => ?_, fun hbad => hexec.trans (if_neg (ne_true_of_eq_false hbad))⟩
    have hread := hexec.trans (if_pos hok)
    have hmem := s.engLinked_mem (s.ctxStage2 r) [(s.vcsr vf 0x1010 + BitVec.ofNat 64 (64 * i), 64)]
    have hkeep := KeepsAgents.engLinked s (s.ctxStage2 r) [(s.vcsr vf 0x1010 + BitVec.ofNat 64 (64 * i), 64)]
    generalize s.engLinked (s.ctxStage2 r) [(s.vcsr vf 0x1010 + BitVec.ofNat 64 (64 * i), 64)] = t at hread hmem hkeep
    have hbegin : t.beginLaunch r vf sz i q = (t.headOn vf sz).startLaunch vf i q (runOf first q.rcount) [] := by
      rw [State.beginLaunch_unmapped hm (by simpa only [hkeep.ring, State.offered, LaunchRec.rings] using hfree), hkeep.ring, LaunchRec.rings]
    obtain ⟨hhead, hstart, hcsr, hother, hmem⟩ := State.consumed_frame (vf := vf) (sz := sz) (i := i) (q := q) hkeep hmem first
    refine ⟨_, hread.trans (congrArg _ hbegin), hhead, fun j hj => ?_, hother, hmem⟩
    intro y
    have hy : y = (s.ring (first + j)).started q j t.free := hstart j hj
    obtain ⟨hpc, hret, harg, hzero, hlevel, hrun, hdeps, hbillets, hserial, htag, htqs⟩ := (s.ring (first + j)).started_fields q j t.free
    rw [hy]
    exact ⟨hpc, hret, harg, hzero, hlevel, hrun, hdeps, hbillets, hserial, htag, htqs, (hcsr j hj 0x030).trans (if_neg (by decide)),
      fun n hn => (hcsr j hj n).trans (if_pos hn)⟩
  · intro s r v hr u
    refine ⟨fun hg => ⟨(exec_ldoneWrite hr).trans (congrArg _ (if_pos hg)), fun hl => State.endGraph_idle ?_⟩,
      fun hg => (exec_ldoneWrite hr).trans (congrArg _ (if_neg (ne_true_of_eq_false hg)))⟩
    have hvf : u.vfNum r = s.vfNum r := by simp only [u, State.vfNum, State.setRcsr, State.ring_updRing_same]
    rw [hvf]
    exact hl
  · intro s d et bs ht hl he
    refine exec_launchPacket_none ht hl (List.find?_eq_none.2 fun e hmem hfit => ?_)
    rw [Bool.and_eq_true, beq_iff_eq] at hfit
    exact he e (List.mem_range.1 hmem) hfit.1 hfit.2

end Sys2Proof.Machine
end

section
/-! Context images: isave and irest, and the dump and the restoration of a strip (R330, R336, R337, R386, R387). -/

namespace Sys2Proof.Machine

variable {s u : State} {r : Nat} {d a b : BitVec 5} {ps qs : List (Nat × MemAttr)} {h l : List Byte}

/-- The size of the image that isave writes (R336). -/
def State.saveSize (s : State) (r : Nat) : Nat := (s.imageBytes (s.ring r).sbase r 3 (s.seqSection r (s.pc + 4) none 2) []).length

/-- The sequencer section of the image that isave writes: the image resumes after it with code 0x80 in its register (R336). -/
def State.saveSeq (s : State) (r : Nat) (d : BitVec 5) : List Byte :=
  s.seqSection r (s.pc + 4) (if d = 0 then none else some (d.toNat, statusWord 0x80 (s.saveSize r))) 2

section
variable (hr : s.cur = .ring r) (hl : (s.ring r).level ≠ .u)
include hr hl

theorem exec_isave_small (hp : s.pendAny [d, a, b] = false) (hs : s.spanFor r .store (s.x a) (s.x b).toNat 64 = .ok ps)
    (hrest : s.atRest r = true) (hsize : (s.x b).toNat < s.saveSize r) :
    exec (.isave d a b) s = .next (s.setX d (statusWord 6 (s.saveSize r))).done := by
  rw [State.saveSize] at hsize ⊢
  show execIsave d a b s = _
  simp only [execIsave, atS_ring hr hl, hp, hs, hrest, hsize, Bool.not_true, Bool.false_eq_true, if_false, if_true]

theorem exec_isave_writes (hp : s.pendAny [d, a, b] = false) (hs : s.spanFor r .store (s.x a) (s.x b).toNat 64 = .ok ps)
    (hrest : s.atRest r = true) (hsize : s.saveSize r ≤ (s.x b).toNat)
    (hw : s.writeAt (.ring r) false [] (ps.take (s.saveSize r)) (s.imageBytes (s.ring r).sbase r 3 (s.saveSeq r d) []) = .ok u) :
    exec (.isave d a b) s = .next (u.setX d (statusWord 0 (s.saveSize r))).done := by
  rw [State.saveSeq] at hw
  rw [State.saveSize] at hsize hw ⊢
  show execIsave d a b s = _
  simp only [execIsave, atS_ring hr hl, hp, hs, hrest, Nat.not_lt.2 hsize, hw, Bool.not_true, Bool.false_eq_true, if_false]

/-- An image whose header fails its checks is refused (R337). -/
theorem exec_irest_badHeader (hp : s.pendAny [d, a] = false) (hs : s.spanFor r .load (s.x a) 64 64 = .ok ps) (hrest : s.atRest r = true)
    (hh : s.ownBytes r ps = .ok h) (hbad : field h 0 4 ≠ 0x4C474349 ∨ field h 6 1 ≠ 3 ∨ 12 * 2 ^ 20 < field h 8 8) :
    exec (.irest d a) s = .next (s.setX d 7).done := by
  show execIrest d a s = _
  simp only [execIrest, atS_ring hr hl, hp, hs, hrest, hh, if_pos hbad, Bool.not_true, Bool.false_eq_true, if_false]
  rfl

/-- An image that passes its checks takes the ring's place (R337). -/
theorem exec_irest_loads (hp : s.pendAny [d, a] = false) (hs : s.spanFor r .load (s.x a) 64 64 = .ok ps) (hrest : s.atRest r = true)
    (hh : s.ownBytes r ps = .ok h) (hmagic : field h 0 4 = 0x4C474349) (hkind : field h 6 1 = 3) (hsize : field h 8 8 ≤ 12 * 2 ^ 20)
    (hqs : s.spanFor r .load (s.x a) (field h 8 8) 64 = .ok qs) (hb : s.ownBytes r qs = .ok l)
    (hok : (imgOk l [3] && field l 18 1 == s.vfNum r) = true) :
    exec (.irest d a) s =
      .next (((((((((s.transfers ps).transfers qs).loadBanks r l).loadShared (s.vfNum r) l).loadTiles (s.vfNum r) l).boundRegions
        (s.vfNum r)).loadSeq r l).updRing r fun x => { x with level := .s, run := .run, launchTag := (s.ring r).launchTag }).reissueAll r
          (imgSection l 1) fun _ => none) := by
  have hhead : ¬(field h 0 4 ≠ 0x4C474349 ∨ field h 6 1 ≠ 3 ∨ 12 * 2 ^ 20 < field h 8 8) := by
    simp only [hmagic, hkind, ne_eq, not_true_eq_false, false_or, Nat.not_lt, hsize]
  have hvf : ((s.transfers ps).transfers qs).vfNum r = s.vfNum r := rfl
  show execIrest d a s = _
  simp only [execIrest, atS_ring hr hl, hp, hs, hrest, hh, if_neg hhead, hqs, hb, hvf, hok, Bool.not_true, Bool.false_eq_true, if_false, if_true]
  rfl

end

/-- A strip whose rings are all halted or parked is dumped, and the dump is posted (R387; logs 36 and 78). -/
theorem exec_rimgctlDump_written {imgs : List (Nat × List Byte)} (hsel : s.stripSel s.rsel = true) (hc : (s.strip s.rsel).capture = false)
    (hall : ((s.stripRings s.rsel).all fun n => (s.ring n).halted || (s.ring n).run == .parked) = true)
    (hroom : areaOffset (s.rcsr s.rsel 0x2120) + 6 * 2 ^ 20 ≤ treeBase) (himgs : s.imagesOf s.rsel 2 [] = some imgs)
    (hw : s.writeImages (s.vfNum s.rsel) (areaOffset (s.rcsr s.rsel 0x2120)) imgs = .ok u) :
    exec .rimgctlDump s = .next ((u.updStrip s.rsel fun t =>
      { t with st := 2, size := (imgs.map fun i => i.2.length).sum % 2 ^ 32 }).post (dieOf s.rsel) 3 0 0 s.rsel) := by
  show execRimgctlDump s = _
  simp only [execRimgctlDump, hsel, hc, hall, decide_eq_true hroom, himgs, hw, Bool.not_true, Bool.and_self, Bool.false_eq_true, or_self,
    if_false, if_true]

theorem exec_rimgctlRest (hsel : s.stripSel s.rsel = true) (hc : (s.strip s.rsel).capture = false) :
    exec .rimgctlRest s = .next (s.restore s.rsel (s.rcsr s.rsel 0x2120)) := by
  show execRimgctlRest s = _
  simp only [execRimgctlRest, hsel, hc, Bool.not_false, and_self, if_true]

/-- Settles O39: each form answers by the checks of its image. -/
theorem images : Obligations.Images := by
  unfold Obligations.Images
  refine ⟨?_, ?_, fun s imgs u hsel hc hall hroom himgs hw => exec_rimgctlDump_written hsel hc hall hroom himgs hw,
    fun s hsel hc => exec_rimgctlRest hsel hc⟩
  · intro s r d a b ps hr hl hp hs hrest size seq
    exact ⟨fun hsize => exec_isave_small hr hl hp hs hrest hsize, fun u hsize hw => exec_isave_writes hr hl hp hs hrest hsize hw⟩
  · intro s r d a ps h qs l hr hl hp hs hrest hh
    exact ⟨fun hbad => exec_irest_badHeader hr hl hp hs hrest hh hbad,
      fun hmagic hkind hsize hqs hb hok => exec_irest_loads hr hl hp hs hrest hh hmagic hkind hsize hqs hb hok⟩

end Sys2Proof.Machine
end

section
/-! What a form of a management core leaves when it completes with a status (R330, R340). -/

namespace Sys2Proof.Machine

variable {s u : State} {c : Nat} {d a : BitVec 5}

/-- A thread of a core that changes its registers changes no ring. -/
theorem State.updSeq_core_rings (s : State) (c : Nat) (f : Seq → Seq) : (s.updSeq (.core c) f).rings = s.rings := rfl

theorem State.setX_core_rings (hd : s.cur = .core c) (d : BitVec 5) (v : W64) : (s.setX d v).rings = s.rings := by
  unfold State.setX State.setXd
  rw [hd]
  split
  · rfl
  · exact State.updSeq_core_rings s c _

theorem State.done_core_rings (hd : s.cur = .core c) : s.done.rings = s.rings := by
  unfold State.done State.goto
  rw [hd]
  exact State.updSeq_core_rings s c _

/-- A status is written, and nothing but the core's registers changes (R330). -/
theorem State.status_frame (hd : s.cur = .core c) (d : BitVec 5) (v : W64) :
    let t := (s.setX d v).done
    t.rings = s.rings ∧ t.strips = s.strips ∧ t.mem = s.mem ∧ t.pc = s.pc + 4 ∧ t.x d = (if d = 0 then 0 else v) ∧
      ∀ n, n ≠ d → t.x n = s.x n := by
  refine ⟨?_, ?_, ?_, ?_, ?_, fun n hn => ?_⟩
  · rw [State.done_core_rings (c := c) (by rw [State.setX_cur, hd]), State.setX_core_rings hd]
  · rw [State.done_strips, State.setX_strips]
  · rw [State.mem_done, State.setX_mem]
  · rw [State.pc_done, State.pc_setX]
  · rw [State.x_done, State.x_setX_self]
  · rw [State.x_done, State.x_setX_ne s v hn]

/-- A form that succeeds returns 0 (R330). -/
theorem State.success_frame (hd : s.cur = .core c) (d : BitVec 5) :
    let t := (s.setX d 0).done
    (∀ r, t.ring r = s.ring r) ∧ (∀ b, t.strip b = s.strip b) ∧ t.mem = s.mem ∧ t.pc = s.pc + 4 ∧ t.x d = 0 ∧
      ∀ n, n ≠ d → t.x n = s.x n := by
  obtain ⟨hrings, hstrips, hmem, hpc, hx, hother⟩ := State.status_frame hd d 0
  exact ⟨fun r => by rw [State.ring, hrings, State.ring], fun b => by rw [State.strip, hstrips, State.strip], hmem, hpc, hx.trans (ite_self _), hother⟩

/-- A core is stopped by no integrity fault (log 7). -/
theorem State.stoppedNow_core (hd : s.cur = .core c) : s.stoppedNow = false := by simp only [State.stoppedNow, hd]

/-- A read of a core leaves every ring (R106, R428). -/
theorem State.readNow_core_rings {regs : List (BitVec 5)} {va : W64} {ps : List (Nat × MemAttr)} {l : List Byte} (hd : s.cur = .core c)
    (h : s.readNow regs va ps = some (l, u)) : u.rings = s.rings := by
  simp only [State.readNow, hd] at h
  split at h
  · cases h
  · split at h
    next g hg =>
      cases h
      simp only [State.readFor] at hg
      split at hg
      · cases hg
      · cases hg
        rfl
    next e he =>
      cases h
      cases e with
      | machine pa =>
        simp only [State.threadFail, State.post]
        split <;> rfl
      | integrity pa => rfl
      | gated => rfl

end Sys2Proof.Machine
end

section
/-! Debug halts (R332, R357, R394). -/

namespace Sys2Proof.Machine

variable {s : State} {c r : Nat} {d a : BitVec 5}

theorem State.nodup_haltRings (s : State) (r : Nat) : (s.haltRings r).Nodup := by
  unfold State.haltRings
  split
  · exact nodup_runOf _ _
  · exact List.nodup_singleton r

section
variable (hd : s.cur = .core c) (hp : s.pendAny [d, a] = false)
include hd hp

theorem exec_halt_stops (h0 : fld (s.x a) 63 7 = 0) (hpow : (s.ring (fld (s.x a) 6 0)).power < 3)
    (hrun : (s.ring (fld (s.x a) 6 0)).halted = false) (hready : s.haltable (fld (s.x a) 6 0) = true) :
    exec (.halt d a) s = .next ((s.updRings (s.haltRings (fld (s.x a) 6 0)) id fun _ => Ring.halt).setX d 0).done := by
  show execHalt d a s = _
  simp only [execHalt, atH_core hd, hp, h0, Nat.not_le.2 hpow, hrun, hready, ne_eq, not_true_eq_false, Bool.not_true, Bool.false_eq_true, if_false]
  rfl

theorem exec_dret_resumes (h0 : fld (s.x a) 63 7 = 0) (hpow : (s.ring (fld (s.x a) 6 0)).power < 3)
    (hhalt : (s.ring (fld (s.x a) 6 0)).halted = true) :
    exec (.dret d a) s = .next ((((s.haltRings (fld (s.x a) 6 0)).foldl State.unhalt s).askAgain (s.ring (fld (s.x a) 6 0)).sbase).setX d 0).done := by
  show execDret d a s = _
  simp only [execDret, atH_core hd, hp, h0, Nat.not_le.2 hpow, hhalt, ne_eq, not_true_eq_false, Bool.not_true, Bool.false_eq_true, if_false]
  rfl

/-- An operand that names no ring is refused (R332). -/
theorem exec_halt_dret_operand (h0 : fld (s.x a) 63 7 ≠ 0) :
    exec (.halt d a) s = .next (s.setX d 1).done ∧ exec (.dret d a) s = .next (s.setX d 1).done := by
  show execHalt d a s = _ ∧ execDret d a s = _
  simp only [execHalt, execDret, atH_core hd, hp, if_pos h0, Bool.false_eq_true, if_false]
  exact ⟨rfl, rfl⟩

end

theorem State.unhalt_none (h : (s.ring r).due = none) : s.unhalt r = s.updRing r fun x => { x with halted := false } := by
  simp only [State.unhalt, h]
  refine State.updRing_congr s r ?_
  rw [← h]

/-- A ring whose sweep overran while it was halted parks as it goes on (R357; log 77). -/
theorem State.unhalt_some {n : Nat} (h : (s.ring r).due = some n) :
    s.unhalt r = (s.updRing r fun x => { x with halted := false, due := none }).overran r n := by
  simp only [State.unhalt, h]

theorem State.askAgain_none {b : Nat} (h : (s.strip b).asked = none) : s.askAgain b = s := by
  simp only [State.askAgain, h]

/-- What a halt leaves: the rings of the group are halted (R332). -/
theorem State.halted_frame (hd : s.cur = .core c) (r : Nat) (d : BitVec 5) :
    let t := ((s.updRings (s.haltRings r) id fun _ => Ring.halt).setX d 0).done
    (∀ q ∈ s.haltRings r, (t.ring q).halted = true) ∧ (∀ q, q ∉ s.haltRings r → t.ring q = s.ring q) ∧
      t.x d = 0 ∧ (∀ n, n ≠ d → t.x n = s.x n) ∧ t.pc = s.pc + 4 ∧ t.mem = s.mem := by
  have hkeep : (s.updRings (s.haltRings r) id fun _ => Ring.halt).me = s.me := by
    rw [State.me_core (d := c) (by rw [State.updRings_cur, hd]), State.die, State.updRings_dies, State.me_core hd, State.die]
  obtain ⟨hring, -, hmem, hpc, hx, hother⟩ := State.success_frame (s := s.updRings (s.haltRings r) id fun _ => Ring.halt) (c := c)
    (by rw [State.updRings_cur, hd]) d
  refine ⟨fun q hq => ?_, fun q hq => ?_, hx, fun n hn => ?_, ?_, ?_⟩
  · rw [hring]
    exact congrArg Ring.halted (State.ring_updRings_self (s.nodup_haltRings r) hq (fun _ => Ring.halt) s)
  · rw [hring, State.ring_updRings_other hq]
  · rw [hother n hn, State.x, hkeep, State.x]
  · rw [hpc, State.pc, hkeep, State.pc]
  · rw [hmem, State.updRings_mem]

end Sys2Proof.Machine
end

section
/-! Strips and guards (R338, R339). -/

namespace Sys2Proof.Machine

variable {s u : State} {c : Nat} {d a : BitVec 5} {l : List Byte}

/-- A ring that differs from another in CSRs from number n on alone. -/
def Ring.CsrsFrom (n : Nat) (x y : Ring) : Prop := ∃ csr, y = { x with csr := csr } ∧ ∀ m, m < n → tfind csr m = tfind x.csr m

theorem Ring.CsrsFrom.refl (n : Nat) (x : Ring) : x.CsrsFrom n x := ⟨x.csr, rfl, fun _ _ => rfl⟩

theorem Ring.CsrsFrom.trans {n : Nat} {x y z : Ring} (h : x.CsrsFrom n y) (k : y.CsrsFrom n z) : x.CsrsFrom n z := by
  obtain ⟨csr, rfl, hcsr⟩ := h
  obtain ⟨csr', rfl, hcsr'⟩ := k
  exact ⟨csr', rfl, fun m hm => (hcsr' m hm).trans (hcsr m hm)⟩

theorem State.setRcsr_csrsFrom (s : State) (b : Nat) {n k : Nat} (hk : n ≤ k) (v : W64) (r : Nat) :
    (s.ring r).CsrsFrom n ((s.setRcsr b k v).ring r) := by
  by_cases h : r = b
  · rw [h, State.setRcsr, State.ring_updRing_same]
    exact ⟨_, rfl, fun m hm => tfind_tput_ne _ _ (by omega)⟩
  · rw [State.setRcsr, State.ring_updRing_ne s _ h]
    exact Ring.CsrsFrom.refl n _

theorem State.ring_setRcsr_ne (s : State) {r b : Nat} (h : r ≠ b) (n : Nat) (v : W64) : (s.setRcsr b n v).ring r = s.ring r :=
  State.ring_updRing_ne s _ h

/-- The record of the first offender of a strip's guards, cleared (R339, R403). -/
def State.clearGuards (s : State) (b : Nat) : State := ((s.setRcsr b 0x2130 0).setRcsr b 0x2131 0).setRcsr b 0x2132 0

theorem State.clearGuards_csrsFrom (s : State) (b r : Nat) : (s.ring r).CsrsFrom 0x2111 ((s.clearGuards b).ring r) :=
  ((State.setRcsr_csrsFrom s b (by decide) 0 r).trans (State.setRcsr_csrsFrom _ b (by decide) 0 r)).trans
    (State.setRcsr_csrsFrom _ b (by decide) 0 r)

theorem State.ring_clearGuards_ne (s : State) {b r : Nat} (h : r ≠ b) : (s.clearGuards b).ring r = s.ring r := by
  rw [State.clearGuards, State.ring_setRcsr_ne _ h, State.ring_setRcsr_ne _ h, State.ring_setRcsr_ne _ h]

theorem State.clearGuards_keeps (s : State) (b : Nat) : KeepsThreads s (s.clearGuards b) :=
  ((KeepsThreads.setRcsr s b _ _).trans (KeepsThreads.setRcsr _ b _ _)).trans (KeepsThreads.setRcsr _ b _ _)

/-- An update of rings beside their RSQs' registers keeps the threads. -/
theorem State.updRings_keeps {α : Type} (s : State) (l : List α) (place : α → Nat) {f : α → Ring → Ring} (hf : ∀ x y, (f x y).seq = y.seq) :
    KeepsThreads s (s.updRings l place f) := KeepsThreads.foldl (fun st x => KeepsThreads.updRing st (place x) (hf x _)) l s

/-- A strip that is assigned, its first tenant aside (R338, R353). -/
def State.assigned (s : State) (q : StripRec) : State :=
  (((s.updRings (runOf q.base q.len) id fun _ x => x.assign q).updVf q.vf fun f => { f with csr := [], qpErr := [] }).setStrip q.base
    Strip.reset).clearGuards q.base

theorem State.assign_eq (s : State) (q : StripRec) :
    s.assign q = if q.ts then (s.assigned q).setRcsr q.base 0x2111 (BitVec.ofNat 64 (128 + q.vf)) else s.assigned q := rfl

theorem State.assign_keeps (s : State) (q : StripRec) : KeepsThreads s (s.assign q) := by
  have hrings := s.updRings_keeps (runOf q.base q.len) id (f := fun _ x => x.assign q) fun _ _ => rfl
  have hparts : KeepsThreads (s.updRings (runOf q.base q.len) id fun _ x => x.assign q)
      (((s.updRings (runOf q.base q.len) id fun _ x => x.assign q).updVf q.vf fun f => { f with csr := [], qpErr := [] }).setStrip q.base
        Strip.reset) := KeepsThreads.of_parts rfl rfl rfl rfl
  have hassigned : KeepsThreads s (s.assigned q) := (hrings.trans hparts).trans (State.clearGuards_keeps _ _)
  rw [State.assign_eq]
  exact KeepsThreads.ite (hassigned.trans (KeepsThreads.setRcsr _ _ _ _)) hassigned

/-- Each ring of the strip is as ccfg assigns it, but for the scheduler's and the guards' registers (R338). -/
theorem State.assign_csrsFrom (s : State) {q : StripRec} {r : Nat} (hr : r ∈ runOf q.base q.len) :
    ((s.ring r).assign q).CsrsFrom 0x2111 ((s.assign q).ring r) := by
  have hring : ((s.ring r).assign q).CsrsFrom 0x2111 ((s.assigned q).ring r) := by
    rw [← State.ring_updRings_self (nodup_runOf _ _) hr (fun _ x => x.assign q) s]
    exact State.clearGuards_csrsFrom _ q.base r
  rw [State.assign_eq]
  split
  · exact hring.trans (State.setRcsr_csrsFrom _ _ (by decide) _ r)
  · exact hring

theorem State.ring_assign_ne (s : State) {q : StripRec} (hq : q.base ∈ runOf q.base q.len) {r : Nat} (hr : r ∉ runOf q.base q.len) :
    (s.assign q).ring r = s.ring r := by
  have hne : r ≠ q.base := fun h => hr (h ▸ hq)
  have hring : (s.assigned q).ring r = s.ring r := by
    rw [State.assigned, State.ring_clearGuards_ne _ hne, State.ring_setStrip, State.ring_updVf,
      State.ring_updRings_other hr]
  rw [State.assign_eq]
  split
  · rw [State.ring_setRcsr_ne _ hne, hring]
  · exact hring

/-- Assigning a ring puts its S CSRs at their reset values (R338). -/
theorem Ring.assign_csr (x : Ring) (q : StripRec) {n : Nat} (hlo : 0x1000 ≤ n) (hhi : n < 0x2000) : tfind (x.assign q).csr n = none := by
  have hfind : tfind (x.assign q).csr n = if (decide (n < 0x1000) || (decide (0x2000 ≤ n) && !(decide (0x2110 ≤ n) && decide (n ≤ 0x211A)))) = true
      then tfind x.csr n else none :=
    tfind_filter (fun k => decide (k < 0x1000) || (decide (0x2000 ≤ k) && !(decide (0x2110 ≤ k) && decide (k ≤ 0x211A)))) x.csr n
  rw [hfind, decide_eq_false (Nat.not_lt.2 hlo), decide_eq_false (Nat.not_le.2 hhi)]
  rfl

/-- A strip record that keeps the rules names at least the ring of its base (R338). -/
theorem base_mem_of_stripRecOk (h : stripRecOk l = true) : (stripRecOf l).base ∈ runOf (stripRecOf l).base (stripRecOf l).len := by
  simp only [stripRecOk, Bool.and_eq_true, decide_eq_true_eq] at h
  obtain ⟨⟨⟨⟨⟨-, hlen⟩, -⟩, -⟩, -⟩, -⟩ := h
  exact mem_runOf.2 ⟨Nat.le_refl _, by omega⟩

/-- What a core's form leaves that changes the device beside the threads and then succeeds. -/
theorem KeepsThreads.success {t : State} (h : KeepsThreads s t) (hd : s.cur = .core c) (d : BitVec 5) :
    (∀ r, (t.setX d 0).done.ring r = t.ring r) ∧ (∀ b, (t.setX d 0).done.strip b = t.strip b) ∧ (t.setX d 0).done.x d = 0 ∧
      (t.setX d 0).done.pc = s.pc + 4 ∧ (t.setX d 0).done.mem = s.mem := by
  obtain ⟨hring, hstrip, hmem, hpc, hx, -⟩ := State.success_frame (h.cur.trans hd) d
  exact ⟨hring, hstrip, hx, by rw [hpc, h.pc_eq], hmem.trans h.mem⟩

/-! What ccfg and gcfg answer, by the record that they read. -/

section
variable {s₀ : State} {ps : List (Nat × MemAttr)} (hd : s₀.cur = .core c) (hp : s₀.pendAny [d, a] = false)
  (ha : s₀.access .load (s₀.x a) 16 (some 16) = .ok ps) (hn : s₀.readNow [a] (s₀.x a) ps = some (l, s))
include hd hp ha hn

/-- What a ccfg does with the record that it reads (R338). -/
theorem exec_ccfg_record : exec (.ccfg d a) s₀ =
    if !stripRecOk l then s.status d 5
    else if (stripRecOf l).vf = 0xFF then
      if s.releasable (stripRecOf l) then
        (s.updRings (runOf (stripRecOf l).base (stripRecOf l).len) id fun _ x => { x with vf := none }).status d 0
      else s.status d 2
    else if !s.assignable (stripRecOf l) then s.status d 2
    else if (runOf (stripRecOf l).base (stripRecOf l).len).any fun r => (s.ring r).owner.any (· != (stripRecOf l).vf) then s.status d 3
    else (s.assign (stripRecOf l)).status d 0 := by
  have hs : s.stoppedNow = false := State.stoppedNow_core ((KeepsThreads.readNow hn).cur.trans hd)
  show execCcfg d a s₀ = _
  simp only [execCcfg, atH_core hd, hp, withRecord_read ha hn hs, Bool.false_eq_true, if_false]
  rfl

/-- What a gcfg does with the record that it reads (R339). -/
theorem exec_gcfg_record : exec (.gcfg d a) s₀ =
    if 4 ≤ field l 1 1 ∨ !zeroBytes l 4 12 then s.status d 5
    else if 128 ≤ field l 0 1 ∨ !s.stripSel (field l 0 1) then s.status d 2
    else
      let u := s.updStrip (field l 0 1) fun x => { x with mute := field l 1 1 / 2 == 1, gap := field l 2 2, muted := x.muted && !(field l 1 1 % 2 == 1) }
      (if field l 1 1 % 2 == 1 then u.clearGuards (field l 0 1) else u).status d 0 := by
  have hs : s.stoppedNow = false := State.stoppedNow_core ((KeepsThreads.readNow hn).cur.trans hd)
  show execGcfg d a s₀ = _
  simp only [execGcfg, atH_core hd, hp, withRecord_read ha hn hs, Bool.false_eq_true, if_false]
  rfl

theorem exec_ccfg_badRecord (hok : stripRecOk l = false) : exec (.ccfg d a) s₀ = .next (s.setX d 5).done := by
  rw [exec_ccfg_record hd hp ha hn, hok]
  rfl

/-- ccfg assigns a strip whose record its rules accept (R338). -/
theorem exec_ccfg_assigns (hok : stripRecOk l = true) (hv : (stripRecOf l).vf ≠ 0xFF) (has : s.assignable (stripRecOf l) = true)
    (how : ((runOf (stripRecOf l).base (stripRecOf l).len).any fun r => (s.ring r).owner.any (· != (stripRecOf l).vf)) = false) :
    exec (.ccfg d a) s₀ = .next ((s.assign (stripRecOf l)).setX d 0).done := by
  rw [exec_ccfg_record hd hp ha hn, if_neg (by rw [hok]; exact Bool.false_ne_true), if_neg hv,
    if_neg (by rw [has]; exact Bool.false_ne_true), if_neg (ne_true_of_eq_false how)]
  rfl

/-- ccfg releases a strip (R338). -/
theorem exec_ccfg_releases (hok : stripRecOk l = true) (hv : (stripRecOf l).vf = 0xFF) (hrel : s.releasable (stripRecOf l) = true) :
    exec (.ccfg d a) s₀ =
      .next ((s.updRings (runOf (stripRecOf l).base (stripRecOf l).len) id fun _ x => { x with vf := none }).setX d 0).done := by
  rw [exec_ccfg_record hd hp ha hn, if_neg (by rw [hok]; exact Bool.false_ne_true), if_pos hv, if_pos hrel]
  rfl

theorem exec_gcfg_badRecord (hbad : 4 ≤ field l 1 1 ∨ zeroBytes l 4 12 = false) : exec (.gcfg d a) s₀ = .next (s.setX d 5).done := by
  rw [exec_gcfg_record hd hp ha hn, if_pos (by rwa [Bool.not_eq_true'])]
  rfl

/-- gcfg writes the guard of a strip, whose first-offender record goes where the record says so (R339). -/
theorem exec_gcfg_writes (hf : field l 1 1 < 4) (hz : zeroBytes l 4 12 = true) (hb : field l 0 1 < 128)
    (hsel : s.stripSel (field l 0 1) = true) :
    exec (.gcfg d a) s₀ =
      let u := s.updStrip (field l 0 1) fun x => { x with mute := field l 1 1 / 2 == 1, gap := field l 2 2, muted := x.muted && !(field l 1 1 % 2 == 1) }
      .next ((if field l 1 1 % 2 == 1 then u.clearGuards (field l 0 1) else u).setX d 0).done := by
  have hrec : ¬(4 ≤ field l 1 1 ∨ (!zeroBytes l 4 12) = true) := by
    simp only [Nat.not_le.2 hf, hz, Bool.not_true, Bool.false_eq_true, or_self, not_false_eq_true]
  have hstrip : ¬(128 ≤ field l 0 1 ∨ (!s.stripSel (field l 0 1)) = true) := by
    simp only [Nat.not_le.2 hb, hsel, Bool.not_true, Bool.false_eq_true, or_self, not_false_eq_true]
  rw [exec_gcfg_record hd hp ha hn, if_neg hrec, if_neg hstrip]
  rfl

end

/-- What an assignment leaves (R338). -/
theorem State.assign_frame (hd : s.cur = .core c) {q : StripRec} (hq : q.base ∈ runOf q.base q.len) (d : BitVec 5) :
    let t := ((s.assign q).setX d 0).done
    (∀ r ∈ runOf q.base q.len, (t.ring r).vf = some q.vf ∧ (t.ring r).owner = some q.vf ∧ (t.ring r).rvf = q.vf ∧ (t.ring r).sbase = q.base ∧
        (t.ring r).slen = q.len ∧ (t.ring r).billets = [] ∧ (t.ring r).tqs = [] ∧ t.rcsr r 0x1002 = 0) ∧
      (∀ r, r ∉ runOf q.base q.len → t.ring r = s.ring r) ∧ t.x d = 0 ∧ t.pc = s.pc + 4 ∧ t.mem = s.mem := by
  obtain ⟨hring, -, hx, hpc, hmem⟩ := (s.assign_keeps q).success hd d
  refine ⟨fun r hr => ?_, fun r hr => (hring r).trans (s.ring_assign_ne hq hr), hx, hpc, hmem⟩
  obtain ⟨csr, hcsrs, hlow⟩ := s.assign_csrsFrom hr
  rw [State.rcsr, hring r, hcsrs]
  refine ⟨rfl, rfl, rfl, rfl, rfl, rfl, rfl, ?_⟩
  simp only [tget, (hlow 0x1002 (by decide)).trans (Ring.assign_csr _ q (by decide) (by decide))]
  rfl

/-- What a release leaves: the rings keep their owner tag and RVF (R338; log 94). -/
theorem State.release_frame (hd : s.cur = .core c) (q : StripRec) (d : BitVec 5) :
    let t := ((s.updRings (runOf q.base q.len) id fun _ x => { x with vf := none }).setX d 0).done
    (∀ r ∈ runOf q.base q.len, (t.ring r).vf = none ∧ (t.ring r).rvf = (s.ring r).rvf ∧ (t.ring r).owner = (s.ring r).owner) ∧
      (∀ r, r ∉ runOf q.base q.len → t.ring r = s.ring r) ∧ t.x d = 0 ∧ t.pc = s.pc + 4 ∧ t.mem = s.mem := by
  obtain ⟨hring, -, hx, hpc, hmem⟩ :=
    (s.updRings_keeps (runOf q.base q.len) id (f := fun _ x => { x with vf := none }) fun _ _ => rfl).success hd d
  refine ⟨fun r hr => ?_, fun r hr => ?_, hx, hpc, hmem⟩
  · rw [hring r, State.ring_updRings_self (nodup_runOf _ _) hr]
    exact ⟨rfl, rfl, rfl⟩
  · rw [hring r, State.ring_updRings_other hr]

/-- A strip with a guard of its own (R339). -/
theorem State.guard_frame (hd : s.cur = .core c) (b : Nat) (f : Strip → Strip) (clr : Bool) (d : BitVec 5) :
    let u := s.updStrip b f
    let t := ((if clr then u.clearGuards b else u).setX d 0).done
    t.strip b = f (s.strip b) ∧ (clr = true → t.rcsr b 0x2130 = 0) ∧ t.x d = 0 ∧ t.pc = s.pc + 4 ∧ t.mem = s.mem := by
  intro u
  have hu : KeepsThreads s u := KeepsThreads.of_parts rfl rfl rfl rfl
  have hstrip : u.strip b = f (s.strip b) := State.strip_updStrip_same s b f
  cases clr with
  | false =>
    obtain ⟨-, hs, hx, hpc, hmem⟩ := hu.success hd d
    exact ⟨(hs b).trans hstrip, fun h => absurd h Bool.false_ne_true, hx, hpc, hmem⟩
  | true =>
    obtain ⟨hring, hs, hx, hpc, hmem⟩ := (hu.trans (u.clearGuards_keeps b)).success hd d
    refine ⟨(hs b).trans hstrip, fun _ => ?_, hx, hpc, hmem⟩
    refine (congrArg (fun y : Ring => tget (csrReset 0x2130) y.csr 0x2130) (hring b)).trans ?_
    show (u.clearGuards b).rcsr b 0x2130 = 0
    rw [State.clearGuards, State.rcsr_setRcsr_ne _ _ (.inr (by decide)), State.rcsr_setRcsr_ne _ _ (.inr (by decide)), State.rcsr_setRcsr_same]

end Sys2Proof.Machine
end

section
/-! Scrubbing, and the forms of a management core (R330, R332, R338 to R340, R394). -/

namespace Sys2Proof.Machine

variable {s u : State} {c r : Nat} {d a : BitVec 5}

/-- A byte that a scrub of ring r zeroes (R340). -/
def scrubs (r : Nat) (pool camp : Bool) (k : Nat) : Bool :=
  (pool && decide (poolKey r 0 ≤ k) && decide (k < poolKey r (48 * 131072))) || (camp && decide (campKey r 0 ≤ k) && decide (k < campKey r (4 * 2 ^ 20)))

theorem scrubs_iff {pool camp : Bool} {k : Nat} : scrubs r pool camp k = true ↔
    (pool = true ∧ poolKey r 0 ≤ k ∧ k < poolKey r (48 * 131072)) ∨ (camp = true ∧ campKey r 0 ≤ k ∧ k < campKey r (4 * 2 ^ 20)) := by
  simp only [scrubs, Bool.or_eq_true, Bool.and_eq_true, decide_eq_true_eq, and_assoc]

@[simp] theorem State.post_rings (s : State) (n kind code mid low : Nat) : (s.post n kind code mid low).rings = s.rings := by
  rw [State.post]
  split <;> rfl

@[simp] theorem State.post_cur (s : State) (n kind code mid low : Nat) : (s.post n kind code mid low).cur = s.cur :=
  (KeepsThreads.post s n kind code mid low).cur

theorem State.wipe_rings (s : State) (r : Nat) (pool camp : Bool) : (s.wipe r pool camp).rings = s.rings := by
  simp only [State.wipe]
  split
  · exact State.post_rings s _ _ _ _ _
  · rfl

theorem State.wipe_cur (s : State) (r : Nat) (pool camp : Bool) : (s.wipe r pool camp).cur = s.cur := by
  simp only [State.wipe]
  split
  · exact State.post_cur s _ _ _ _ _
  · rfl

/-- A scrub changes no thread, also where it posts an uncorrectable error (R340, R428). -/
theorem State.seqOf_wipe (s : State) (r : Nat) (pool camp : Bool) (th : Thread) : (s.wipe r pool camp).seqOf th = s.seqOf th := by
  have hmem : ∀ (t : State) mem past bad, ({ t with mem := mem, past := past, bad := bad } : State).seqOf th = t.seqOf th := by
    intros
    cases th <;> rfl
  simp only [State.wipe, hmem]
  split
  · exact s.seqOf_post th _ _ _ _ _
  · rfl

/-- A scrub zeroes the bytes of its banks, and no other (R340). -/
theorem State.byte_wipe (s : State) (r : Nat) (pool camp : Bool) (k : Nat) :
    (s.wipe r pool camp).byte k = if scrubs r pool camp k then 0 else s.byte k := by
  have hfind : tfind (s.wipe r pool camp).mem k = if (!scrubs r pool camp k) = true then tfind s.mem k else none :=
    tfind_filter (fun n => !scrubs r pool camp n) s.mem k
  simp only [State.byte, tget, hfind]
  cases scrubs r pool camp k <;> rfl

theorem exec_scrub_wipes (hd : s.cur = .core c) (hp : s.pendAny [d, a] = false) (h7 : bit (s.x a) 7 = false) (h0 : fld (s.x a) 63 10 = 0)
    (hpow : (s.ring (fld (s.x a) 6 0)).power < 3) (he : s.atEase (fld (s.x a) 6 0) = true) (hv : (s.ring (fld (s.x a) 6 0)).vf = none) :
    exec (.scrub d a) s = .next (((s.wipe (fld (s.x a) 6 0) (bit (s.x a) 8) (bit (s.x a) 9)).updRing (fld (s.x a) 6 0) fun x =>
      x.scrubbed (bit (s.x a) 8) (bit (s.x a) 9)).setX d 0).done := by
  show execScrub d a s = _
  simp only [execScrub, atH_core hd, hp, h7, h0, Nat.not_le.2 hpow, he, hv, ne_eq, not_true_eq_false, Option.isSome_none, Bool.not_true,
    Bool.false_eq_true, false_and, and_false, or_self, if_false]
  rfl

theorem exec_scrub_operand (hd : s.cur = .core c) (hp : s.pendAny [d, a] = false) (hbad : bit (s.x a) 7 = true ∨ fld (s.x a) 63 10 ≠ 0) :
    exec (.scrub d a) s = .next (s.setX d 1).done := by
  show execScrub d a s = _
  simp only [execScrub, atH_core hd, hp, if_pos hbad, Bool.false_eq_true, if_false]
  rfl

/-- What a scrub leaves (R340). -/
theorem State.scrub_frame (hd : s.cur = .core c) (r : Nat) (pool camp : Bool) (d : BitVec 5) :
    let t := (((s.wipe r pool camp).updRing r fun x => x.scrubbed pool camp).setX d 0).done
    t.x d = 0 ∧ t.pc = s.pc + 4 ∧ (∀ k, t.byte k = if scrubs r pool camp k then 0 else s.byte k) ∧
      t.ring r = (s.ring r).scrubbed pool camp := by
  have hcur : (s.wipe r pool camp).cur = .core c := by rw [State.wipe_cur, hd]
  have hpc : (s.wipe r pool camp).pc = s.pc := by rw [State.pc, State.me, State.wipe_cur, State.seqOf_wipe, State.pc, State.me]
  have hupd : KeepsThreads (s.wipe r pool camp) ((s.wipe r pool camp).updRing r fun x => x.scrubbed pool camp) := by
    refine KeepsThreads.updRing _ r ?_
    rw [Ring.scrubbed]
    split <;> rfl
  obtain ⟨hring, -, hx, hdone, hmem⟩ := hupd.success hcur d
  refine ⟨hx, hdone.trans (by rw [hpc]), fun k => ?_, ?_⟩
  · rw [State.byte, hmem]
    exact s.byte_wipe r pool camp k
  · rw [hring, State.ring_updRing_same, State.ring, State.wipe_rings, State.ring]

/-- The owner tag of an unassigned ring goes once both sets of banks are clean (R340). -/
theorem Ring.scrubbed_owner {x : Ring} (hv : x.vf = none) (pool camp : Bool) :
    (x.scrubbed pool camp).owner = if (x.cleanPool || pool) && (x.cleanCamp || camp) then none else x.owner := by
  simp only [Ring.scrubbed, hv, Option.isSome_none, Bool.false_eq_true, if_false]

/-- Settles O37: each form refuses its operand or its record, or changes the rings that it names and returns 0. -/
theorem coreForms : Obligations.CoreForms := by
  unfold Obligations.CoreForms
  refine ⟨?_, ?_, fun s r n h => State.unhalt_some h, fun s b h => State.askAgain_none h, fun s c d a hd hp h0 => exec_halt_dret_operand hd hp h0,
    ?_, ?_, fun s c d a hd hp hbad => exec_scrub_operand hd hp hbad⟩
  · intro s c d a hd hp r h0 hpow
    exact ⟨fun hrun hready => ⟨_, exec_halt_stops hd hp h0 hpow hrun hready, State.halted_frame hd r d⟩,
      fun hhalt => exec_dret_resumes hd hp h0 hpow hhalt⟩
  · intro s r h
    rw [State.unhalt_none h]
    exact ⟨onlyRing_updRing s r _, State.ring_updRing_same s r _⟩
  · intro s₀ s c d a ps l hd hp ha hn q
    have hkeep : KeepsThreads s₀ s := KeepsThreads.readNow hn
    have hcur : s.cur = .core c := hkeep.cur.trans hd
    refine ⟨fun hok => exec_ccfg_badRecord hd hp ha hn hok, fun hok hv has how => ?_, fun hok hv hrel => ?_, fun hf hz hb hsel => ?_,
      fun hbad => exec_gcfg_badRecord hd hp ha hn hbad, State.readNow_core_rings hd hn, hkeep.me_x, hkeep.pc_eq, hkeep.mem⟩
    · exact ⟨_, exec_ccfg_assigns hd hp ha hn hok hv has how, State.assign_frame hcur (base_mem_of_stripRecOk hok) d⟩
    · exact ⟨_, exec_ccfg_releases hd hp ha hn hok hv hrel, State.release_frame hcur q d⟩
    · obtain ⟨hstrip, hclr, hx, hpc, hmem⟩ := State.guard_frame hcur (field l 0 1) (fun x =>
        { x with mute := field l 1 1 / 2 == 1, gap := field l 2 2, muted := x.muted && !(field l 1 1 % 2 == 1) }) (field l 1 1 % 2 == 1) d
      refine ⟨_, exec_gcfg_writes hd hp ha hn hf hz hb hsel, ?_, ?_, fun hodd => ⟨?_, hclr (beq_iff_eq.2 hodd)⟩, hx, hpc, hmem⟩
      · exact congrArg Strip.mute hstrip
      · exact congrArg Strip.gap hstrip
      · refine (congrArg Strip.muted hstrip).trans ?_
        rw [hodd, beq_self_eq_true, Bool.not_true, Bool.and_false]
  · intro s c d a hd hp h7 h0 r hpow he hv
    obtain ⟨hx, hpc, hbyte, hring⟩ := State.scrub_frame hd r (bit (s.x a) 8) (bit (s.x a) 9) d
    refine ⟨_, exec_scrub_wipes hd hp h7 h0 hpow he hv, hx, hpc, fun hpool o ho => ?_, fun hcamp o ho => ?_, fun k hpool hcamp => ?_, ?_⟩
    · rw [hbyte, if_pos (scrubs_iff.2 (.inl ⟨hpool, ?_, ?_⟩))]
      · simp only [poolKey]; omega
      · simp only [poolKey]; omega
    · rw [hbyte, if_pos (scrubs_iff.2 (.inr ⟨hcamp, ?_, ?_⟩))]
      · simp only [campKey]; omega
      · simp only [campKey]; omega
    · rw [hbyte, if_neg fun h => ?_]
      rcases scrubs_iff.1 h with ⟨hp, hlo, hhi⟩ | ⟨hc, hlo, hhi⟩
      · have hout := hpool hp
        omega
      · have hout := hcamp hc
        omega
    · rw [hring, Ring.scrubbed_owner hv]

end Sys2Proof.Machine
end

section
/-! What the shared operations leave of memory: a function that writes none of its bytes leaves all of it, and says so here once. -/

namespace Sys2Proof.Machine

@[simp] theorem State.setSlot_mem (s : State) (g : Group) (gs : Nat) (x : Slot) : (State.setSlot s g gs x).mem = s.mem := rfl

@[simp] theorem State.setElem_mem (s : State) (g : Group) (gs pos : Nat) (x : Elem) : (State.setElem s g gs pos x).mem = s.mem := rfl

@[simp] theorem State.setChan_mem (s : State) (k : Nat) (c : Chan) : (State.setChan s k c).mem = s.mem := rfl

@[simp] theorem State.dropWords_mem (s : State) (gk : Nat) (g : Group) (key : Nat) (p : Port) (n : Nat) :
    (State.dropWords s gk g key p n).mem = s.mem := by
  unfold State.dropWords
  split <;> rfl

@[simp] theorem State.setPort_mem (s : State) (gk : Nat) (key : Nat) (p : Port) : (State.setPort s gk key p).mem = s.mem := by
  unfold State.setPort
  split <;> rfl

@[simp] theorem State.takeWords_mem (s : State) (gk key n : Nat) : (s.takeWords gk key n).2.2.mem = s.mem := by
  unfold State.takeWords
  split
  · rfl
  · split
    · rfl
    · dsimp only
      split
      · rfl
      · simp

@[simp] theorem State.takeOffer_mem (s : State) (gk key n : Nat) : (s.takeOffer gk key n).2.2.mem = s.mem := by
  unfold State.takeOffer
  repeat' split
  all_goals simp

@[simp] theorem State.startOffer_mem (s : State) (gk key : Nat) (void : Bool) : (s.startOffer gk key void).2.mem = s.mem := by
  unfold State.startOffer
  dsimp only
  repeat' split
  all_goals simp

@[simp] theorem State.endOffer_mem (s : State) (gk key : Nat) : (State.endOffer s gk key).mem = s.mem := by
  unfold State.endOffer
  repeat' split
  all_goals simp

@[simp] theorem State.discardItems_mem (s : State) (gk : Nat) : (State.discardItems s gk).mem = s.mem := by
  unfold State.discardItems
  split
  · rfl
  · exact foldl_mem _ (fun _ _ => State.setSlot_mem _ _ _ _) _ _

@[simp] theorem State.dropItems_mem (s : State) (gk : Nat) : (State.dropItems s gk).mem = s.mem := by
  unfold State.dropItems
  split <;> simp

@[simp] theorem State.phaseFault_mem (s : State) (gk kind : Nat) (at_ : FaultAt) (fval : W64) : (State.phaseFault s gk kind at_ fval).mem = s.mem :=
  by
  unfold State.phaseFault
  dsimp only
  repeat' split
  all_goals simp

@[simp] theorem State.tlbAdd_mem (s : State) (e : TlbEntry) : (State.tlbAdd s e).mem = s.mem := by
  unfold State.tlbAdd
  dsimp only
  repeat' split
  all_goals simp

@[simp] theorem State.cacheXlate_mem (s : State) (t : Thread) (va : W64) (n : Nat) : (State.cacheXlate s t va n).mem = s.mem := by
  unfold State.cacheXlate
  dsimp only
  repeat' split
  all_goals simp

@[simp] theorem State.cacheWalk_mem (s : State) (r stage level : Nat) (a : W64) : (State.cacheWalk s r stage level a).mem = s.mem := by
  unfold State.cacheWalk
  dsimp only
  repeat' split
  all_goals simp

@[simp] theorem State.reachWith_mem (s : State) (ok : Past → Bool) : (State.reachWith s ok).mem = s.mem := rfl

@[simp] theorem State.flush_mem (s : State) (r : Nat) : (State.flush s r).mem = s.mem := rfl

@[simp] theorem State.force_mem (s : State) (wrote : Tab Nat) : (State.force s wrote).mem = s.mem := rfl

@[simp] theorem State.releaseAll_mem (s : State) (r : Nat) : (State.releaseAll s r).mem = s.mem := rfl

@[simp] theorem State.releaseBy_mem (s : State) (t : Thread) (c : Nat) : (State.releaseBy s t c).mem = s.mem := by
  unfold State.releaseBy
  repeat' split
  all_goals simp

@[simp] theorem State.spread_mem (s : State) (n : Nat) : (State.spread s n).mem = s.mem := by
  unfold State.spread
  split <;> rfl

@[simp] theorem State.post_mem (s : State) (d kind code mid low : Nat) : (State.post s d kind code mid low).mem = s.mem := by
  unfold State.post
  dsimp only
  repeat' split
  all_goals simp

@[simp] theorem State.raiseVf_mem (s : State) (v : Nat) (bits : W64) : (State.raiseVf s v bits).mem = s.mem := by
  unfold State.raiseVf
  simp [foldl_mem, apply_ite State.mem]

@[simp] theorem State.countLife_mem (s : State) (i : Nat) : (State.countLife s i).mem = s.mem := rfl

@[simp] theorem State.mcheck_mem (s : State) (v addr src : Nat) : (State.mcheck s v addr src).mem = s.mem := by
  unfold State.mcheck
  dsimp only
  repeat' split
  all_goals simp

@[simp] theorem State.park_mem (s : State) (r : Nat) (pc : W64) (cause : Nat) (value : W64) : (State.park s r pc cause value).mem = s.mem := rfl

@[simp] theorem State.overran_mem (s : State) (r serial : Nat) : (State.overran s r serial).mem = s.mem := by
  unfold State.overran
  dsimp only
  repeat' split
  all_goals simp

@[simp] theorem State.stopVf_mem (s : State) (v pa : Nat) : (State.stopVf s v pa).mem = s.mem := by
  unfold State.stopVf
  simp [foldl_mem, apply_ite State.mem]

@[simp] theorem State.integrityFault_mem (s : State) (v d pa : Nat) : (State.integrityFault s v d pa).mem = s.mem := by
  unfold State.integrityFault
  split <;> simp

@[simp] theorem State.linked_mem (s : State) (ps : Except ε (List (Nat × MemAttr))) : (State.linked s ps).mem = s.mem := by
  unfold State.linked
  split <;> rfl

@[simp] theorem State.memFail_mem (s : State) (r : Nat) (src : Nat) (e : MemErr) : (State.memFail s r src e).mem = s.mem := by
  unfold State.memFail
  split <;> simp

@[simp] theorem View.takeIn_mem (w : View) (n : Nat) (s : State) : (w.takeIn n s).2.mem = s.mem := by
  unfold View.takeIn
  cases w.inKey with
  | none => rfl
  | some key =>
    dsimp only
    split
    · rfl
    · split
      · split <;> simp
      · split <;> simp

@[simp] theorem View.queue_mem (w : View) (late : Bool) (due : Nat) (k : WrKind) (s : State) : (View.queue w late due k s).mem = s.mem := by
  unfold View.queue
  split <;> rfl

@[simp] theorem View.writeDest_mem (w : View) (late : Bool) (due : Nat) (d : BitVec 5) (v : W32) (s : State) :
    (View.writeDest w late due d v s).mem = s.mem := by
  unfold View.writeDest
  repeat' split
  all_goals simp

theorem veBody_mem {srcs : List (BitVec 5)} {body : Ops → State → State} (hb : ∀ o st, (body o st).mem = st.mem) (w : View) (s : State) :
    (veBody srcs body w s).mem = s.mem := by
  unfold veBody
  split
  · exact (hb _ _).trans (View.takeIn_mem w 1 s)
  · exact hb _ _

theorem veWord_mem (g : BitVec 2) (srcs : List (BitVec 5)) {body : Ops → State → State} (hb : ∀ o st, (body o st).mem = st.mem) (s : State) :
    (veWord g srcs body s).mem = s.mem := by
  obtain ⟨-, h⟩ | ⟨w, -, -, h⟩ | ⟨w, -, -, h⟩ := veWord_cases g srcs body s
  · rw [h]
  · rw [h]
  · rw [h, veBody_mem hb]

theorem veImm_mem (srcs : List (BitVec 5)) {body : Ops → State → State} (hb : ∀ o st, (body o st).mem = st.mem) (s : State) :
    (veImm srcs body s).mem = s.mem := by
  unfold veImm
  split
  · rfl
  · exact veBody_mem hb _ _

@[simp] theorem veValue_mem (g : BitVec 2) (srcs : List (BitVec 5)) (d : BitVec 5) (f : Ops → W32) (s : State) :
    (veValue g srcs d f s).mem = s.mem := veWord_mem _ _ (fun _ _ => View.writeDest_mem _ _ _ _ _ _) _

@[simp] theorem veOp2_mem (g : BitVec 2) (a b d : BitVec 5) (f : Bool → W32 → W32 → W32 → W32) (s : State) : (veOp2 g a b d f s).mem = s.mem := by
  simp [veOp2]

@[simp] theorem veOp1_mem (g : BitVec 2) (a d : BitVec 5) (f : Bool → W32 → W32) (s : State) : (veOp1 g a d f s).mem = s.mem := by
  simp [veOp1]

@[simp] theorem veFlag_mem (g : BitVec 2) (srcs : List (BitVec 5)) (i : Nat) (f : Ops → Bool) (s : State) : (veFlag g srcs i f s).mem = s.mem :=
  veWord_mem _ _ (fun _ _ => View.queue_mem _ _ _ _ _) _

theorem View.bankFault_mem {w : View} {o : Nat} {s t : State} (h : w.bankFault o s = some t) : t.mem = s.mem := by
  unfold View.bankFault at h
  split at h
  · obtain rfl := Option.some.inj h
    simp
  · split at h
    · obtain rfl := Option.some.inj h
      simp
    · simp at h

@[simp] theorem View.bankLoad_mem (w : View) (d : BitVec 5) (o : Nat) (s : State) : (View.bankLoad w d o s).mem = s.mem := by
  unfold View.bankLoad
  split
  · rename_i h
    exact View.bankFault_mem h
  · exact View.writeDest_mem _ _ _ _ _ _

@[simp] theorem veFltOp_mem (t : BitVec 4) (a b d : BitVec 5) (g : BitVec 2) (sat : BitVec 1) (r : BitVec 2) (f : FVal → FVal → FVal → FVal)
    (s : State) : (veFltOp t a b d g sat r f s).mem = s.mem := by
  simp [veFltOp]

@[simp] theorem View.setLfsr_mem (w : View) (l : W32) (s : State) : (View.setLfsr w l s).mem = s.mem := by
  unfold View.setLfsr
  split <;> rfl

@[simp] theorem veConvert_mem (g : BitVec 2) (srcs : List (BitVec 5)) (d : BitVec 5) (t : Nat) (sat : Bool) (mode : Rnd) (sr : Bool)
    (vals : Ops → List FVal) (s : State) : (veConvert g srcs d t sat mode sr vals s).mem = s.mem := by
  unfold veConvert
  exact veWord_mem _ _ (fun o st => by dsimp only; repeat' split; all_goals simp) _

@[simp] theorem veUnpack_mem (t : BitVec 4) (a d : BitVec 5) (g : BitVec 2) (hi : Bool) (s : State) : (veUnpack t a d g hi s).mem = s.mem := by
  simp [veUnpack]

@[simp] theorem veSpecial_mem (a d : BitVec 5) (g : BitVec 2) (f : FVal → Nat) (s : State) : (veSpecial a d g f s).mem = s.mem := by
  simp [veSpecial]

@[simp] theorem meIssue_mem (mk : BlockRun) (s : State) : (meIssue mk s).mem = s.mem := by
  unfold meIssue
  dsimp only
  repeat' split
  all_goals simp

@[simp] theorem meWord_mem (i : Instr) (s : State) : (meWord i s).mem = s.mem := by
  unfold meWord
  split <;> simp

@[simp] theorem State.feedA_mem (s : State) (gk gs : Nat) : (State.feedA s gk gs).mem = s.mem := by
  unfold State.feedA
  split <;> rfl

@[simp] theorem State.giveMarks_mem (s : State) (gk item : Nat) (ms : List Nat) : (State.giveMarks s gk item ms).mem = s.mem := by
  unfold State.giveMarks
  split
  · rfl
  · split
    · rfl
    · exact foldl_mem _ (fun _ _ => State.setSlot_mem _ _ _ _) _ _

@[simp] theorem State.feedB_mem (s : State) (gk idx : Nat) : (State.feedB s gk idx).mem = s.mem := by
  unfold State.feedB
  split
  · rfl
  · split
    · rfl
    · split
      · rfl
      · split
        · rfl
        · split
          · rfl
          · dsimp only
            repeat' split
            all_goals simp

@[simp] theorem State.blockCycle_mem (s : State) (gk : Nat) : (State.blockCycle s gk).mem = s.mem := by
  unfold State.blockCycle
  dsimp only
  repeat' split
  all_goals simp [foldl_mem, apply_ite State.mem]

@[simp] theorem State.drainRow_mem (s : State) (gk idx : Nat) : (State.drainRow s gk idx).mem = s.mem := by
  unfold State.drainRow
  split
  · rfl
  · split
    · rfl
    · split
      · rfl
      · dsimp only
        split
        · exact foldl_mem _ (fun _ _ => State.setElem_mem _ _ _ _ _) _ _
        · rfl

@[simp] theorem State.enterStripe_mem (s : State) (g : Group) (gs : Nat) (bank : Nat) (record : Option (StripeImg × List Byte)) :
    (State.enterStripe s g gs bank record).mem = s.mem := by
  unfold State.enterStripe
  refine foldl_mem _ (fun st p => ?_) _ _
  dsimp only
  split <;> exact State.setElem_mem _ _ _ _ _

@[simp] theorem State.loadBlock_mem (s : State) (g : Group) (gs v bank k : Nat) : (State.loadBlock s g gs v bank k).mem = s.mem := by
  unfold State.loadBlock
  split
  · rfl
  · refine foldl_mem _ (fun st p => ?_) _ _
    dsimp only
    split <;> exact State.setElem_mem _ _ _ _ _

@[simp] theorem State.applyUpd_mem (s : State) (gk gs : Nat) (u : CsetUpd) : (State.applyUpd s gk gs u).mem = s.mem := by
  unfold State.applyUpd
  split
  · rfl
  · dsimp only
    split
    · rfl
    · split
      · simp
      · rw [State.updRec_mem]
        exact foldl_mem _ (fun _ _ => State.setElem_mem _ _ _ _ _) _ _

@[simp] theorem State.applyMarks_mem (s : State) (gk : Nat) : (State.applyMarks s gk).mem = s.mem := by
  unfold State.applyMarks
  dsimp only
  repeat' split
  all_goals simp [foldl_mem]

@[simp] theorem veCompare_mem (rel : Rel) (t : BitVec 4) (a b : BitVec 5) (q g : BitVec 2) (s : State) : (veCompare rel t a b q g s).mem = s.mem := by
  simp [veCompare]

@[simp] theorem State.snapPorts_mem (s : State) (gk : Nat) : (State.snapPorts s gk).mem = s.mem := by
  unfold State.snapPorts
  split <;> rfl

@[simp] theorem State.voidReads_mem (s : State) (gk : Nat) : (State.voidReads s gk).mem = s.mem := by
  unfold State.voidReads
  dsimp only
  repeat' split
  all_goals simp

@[simp] theorem State.landLoads_mem (s : State) (gk : Nat) : (s.landLoads gk).mem = s.mem := by
  cases hg : s.group? gk with
  | none => rw [State.landLoads, hg]
  | some g =>
    rw [State.landLoads_eq hg, State.setGroup_mem]
    refine foldl_mem _ (fun st e => ?_) _ _
    unfold State.landOne
    split
    · rfl
    · split <;> simp

@[simp] theorem State.enterItem_mem (s : State) (gk gs : Nat) (item : Option Item) : (State.enterItem s gk gs item).mem = s.mem := by
  unfold State.enterItem
  split
  · rfl
  · dsimp only
    split
    · exact State.setSlot_mem _ _ _ _
    · split
      · rw [foldl_mem _ fun _ _ => State.startOffer_mem _ _ _ _, State.setSlot_mem]
        exact foldl_mem _ (fun _ _ => State.setElem_mem _ _ _ _ _) _ _
      · rw [foldl_mem _ fun _ _ => by split <;> simp, State.setSlot_mem]
        exact foldl_mem _ (fun _ _ => State.setElem_mem _ _ _ _ _) _ _

@[simp] theorem State.reachSlot_mem (s : State) (gk : Nat) (g : Group) (gs : Nat) (item : Option Item) :
    (State.reachSlot s gk g gs item).mem = s.mem := by
  unfold State.reachSlot
  split <;> simp

@[simp] theorem State.leaveSlot_mem (s : State) (gk gs : Nat) : (State.leaveSlot s gk gs).mem = s.mem := by
  unfold State.leaveSlot
  dsimp only
  repeat' split
  all_goals simp

@[simp] theorem State.changeStripe_mem (s : State) (gk gs : Nat) : (State.changeStripe s gk gs).mem = s.mem := by
  unfold State.changeStripe
  dsimp only
  repeat' split
  all_goals simp

@[simp] theorem State.switchSlot_mem (s : State) (gk gs : Nat) : (State.switchSlot s gk gs).mem = s.mem := by
  unfold State.switchSlot
  repeat' split
  all_goals simp

@[simp] theorem State.slotSwitch_mem (s : State) (r : Nat) : (State.slotSwitch s r).mem = s.mem := by
  unfold State.slotSwitch
  repeat' split
  all_goals simp

@[simp] theorem State.skipWords_mem (s : State) (gk key tile outw : Nat) : (State.skipWords s gk key tile outw).mem = s.mem := by
  unfold State.skipWords
  repeat' split
  all_goals simp

@[simp] theorem State.creditOne_mem (s : State) (gk i : Nat) : (State.creditOne s gk i).mem = s.mem := by
  unfold State.creditOne
  dsimp only
  repeat' split
  all_goals simp

@[simp] theorem State.creditTile_mem (s : State) (gk : Nat) : (State.creditTile s gk).mem = s.mem := by
  unfold State.creditTile
  split
  · rfl
  · exact foldl_mem _ (fun _ _ => State.creditOne_mem _ _ _) _ _

@[simp] theorem State.takeIn_mem (s : State) (gk : Nat) (it : Item) : (State.takeIn s gk it).mem = s.mem := by
  unfold State.takeIn
  split <;> simp

@[simp] theorem State.discardLoads_mem (s : State) (gk : Nat) : (State.discardLoads s gk).mem = s.mem := by
  unfold State.discardLoads
  split
  · rfl
  · split
    · exact foldl_mem _ (fun _ _ => State.setSlot_mem _ _ _ _) _ _
    · rfl

@[simp] theorem State.settle_mem (s0 : State) (gk : Nat) : (State.settle s0 gk).mem = s0.mem := by
  unfold State.settle
  dsimp only
  repeat' split
  all_goals simp [foldl_mem]

@[simp] theorem State.toS_mem (s : State) (r : Nat) (pc : W64) (cause value : W64) : (State.toS s r pc cause value).mem = s.mem := rfl

@[simp] theorem State.sBranch_mem (s : State) (r : Nat) (pc : W64) (cause value : W64) : (State.sBranch s r pc cause value).mem = s.mem := by
  unfold State.sBranch
  split <;> rfl

@[simp] theorem State.routeTrap_mem (s : State) (r : Nat) (pc : W64) (cause : Nat) (value : W64) :
    (State.routeTrap s r pc cause value).mem = s.mem := by
  unfold State.routeTrap
  split <;> simp

@[simp] theorem State.toUser_mem (s : State) (r : Nat) (pc : W64) (cause : Nat) (value : W64) : (State.toUser s r pc cause value).mem = s.mem := rfl

@[simp] theorem State.trapRing_mem (s : State) (r : Nat) (cause : Nat) (value : W64) : (State.trapRing s r cause value).mem = s.mem := by
  unfold State.trapRing
  repeat' split
  all_goals simp

@[simp] theorem State.coreTrap_mem (s : State) (d : Nat) (cause value : W64) : (State.coreTrap s d cause value).mem = s.mem := by
  unfold State.coreTrap
  dsimp only
  repeat' split
  all_goals simp

@[simp] theorem State.trap_mem (s : State) (cause : Nat) (value : W64) : (State.trap s cause value).mem = s.mem := by
  unfold State.trap
  split <;> simp

@[simp] theorem State.threadFail_mem (s : State) (t : Thread) (e : MemErr) : (State.threadFail s t e).mem = s.mem := by
  unfold State.threadFail
  split <;> simp

@[simp] theorem State.accTrap_mem (s : State) (e : AccErr) : (State.accTrap s e).mem = s.mem := by
  unfold State.accTrap
  dsimp only
  repeat' split
  all_goals simp

@[simp] theorem State.accTrapTo_mem (s : State) (d : BitVec 5) (e : AccErr) : (State.accTrapTo s d e).mem = s.mem := by
  unfold State.accTrapTo
  split <;> simp

@[simp] theorem State.showHost_mem (s : State) (t : Thread) (c : Nat) : (State.showHost s t c).mem = s.mem := rfl

@[simp] theorem State.fenceAsyncs_mem (s : State) (t : Thread) (f : RangeFence) (heard : Dep) : (State.fenceAsyncs s t f heard).mem = s.mem := by
  unfold State.fenceAsyncs
  repeat' split
  all_goals simp

@[simp] theorem State.settleFence_mem (s : State) (t : Thread) (f : RangeFence) : (State.settleFence s t f).mem = s.mem := by
  simp [State.settleFence]

@[simp] theorem State.settleRanges_mem (s : State) (t : Thread) : (State.settleRanges s t).mem = s.mem := by
  unfold State.settleRanges
  simp [foldl_mem]

@[simp] theorem State.acquire_mem (s : State) (t : Thread) (c : Nat) (d : Dep) : (State.acquire s t c d).mem = s.mem := by
  simp [State.acquire]

@[simp] theorem State.acquireOwn_mem (s : State) (r : Nat) : (State.acquireOwn s r).mem = s.mem := rfl

@[simp] theorem State.issueLoad_mem (s : State) (l : PendLoad) : (State.issueLoad s l).mem = s.mem := by
  simp [State.issueLoad]

@[simp] theorem State.issueStore_mem (s : State) (b : BufStore) (whole : Bool) : (State.issueStore s b whole).mem = s.mem := by
  unfold State.issueStore
  repeat' split
  all_goals simp

theorem State.readNow_mem {s t : State} {regs : List (BitVec 5)} {va : W64} {ps : List (Nat × MemAttr)} {l : List Byte}
    (h : s.readNow regs va ps = some (l, t)) : t.mem = s.mem := (KeepsThreads.readNow h).mem

@[simp] theorem State.tellAsyncs_mem (s : State) (t : Thread) (seq : Nat) (locs : List Nat) : (State.tellAsyncs s t seq locs).mem = s.mem := by
  unfold State.tellAsyncs
  dsimp only
  repeat' split
  all_goals simp

@[simp] theorem State.endLoad_mem (s : State) (t : Thread) (k : Nat) (rd : BitVec 5) (v : W64) (d : Dep) :
    (State.endLoad s t k rd v d).mem = s.mem := by
  unfold State.endLoad
  split <;> simp

@[simp] theorem State.loadFail_mem (s : State) (t : Thread) (k : Nat) (rd : BitVec 5) (e : MemErr) : (State.loadFail s t k rd e).mem = s.mem := by
  unfold State.loadFail
  split <;> simp

@[simp] theorem State.newOp_mem (s : State) (r : Nat) (set : Option Nat) : (s.newOp r set).2.mem = s.mem := by
  unfold State.newOp
  split <;> rfl

@[simp] theorem State.asyncErr_mem (s : State) (r : Nat) (op : Nat) (code : BitVec 8) : (State.asyncErr s r op code).mem = s.mem := by
  unfold State.asyncErr
  dsimp only
  repeat' split
  all_goals simp

@[simp] theorem State.endOp_mem (s : State) (r id : Nat) (set : Option Nat) (err : Option (BitVec 8)) : (State.endOp s r id set err).mem = s.mem := by
  unfold State.endOp
  split <;> rfl

@[simp] theorem State.endCopy_mem (s : State) (r id : Nat) (src : CopySrc) (set : Option Nat) (err : Option (BitVec 8)) :
    (State.endCopy s r id src set err).mem = s.mem := by
  unfold State.endCopy
  repeat' split
  all_goals simp

@[simp] theorem State.newEntry_mem (s : State) (d e : Nat) (q : PrqReq) : (State.newEntry s d e q).mem = s.mem := by
  simp [State.newEntry]

@[simp] theorem State.placeReq_mem (s : State) (d : Nat) (q : PrqReq) : (State.placeReq s d q).mem = s.mem := by
  unfold State.placeReq
  dsimp only
  repeat' split
  all_goals simp

@[simp] theorem State.pageAsk_mem (s : State) (a : Ask) : (State.pageAsk s a).mem = s.mem := by
  simp [State.pageAsk]

@[simp] theorem State.agEos_mem (s : State) (gk key : Nat) : (State.agEos s gk key).mem = s.mem := by
  unfold State.agEos
  repeat' split
  all_goals simp

@[simp] theorem State.agFatal_mem (s : State) (gk r n : Nat) : (State.agFatal s gk r n).mem = s.mem := by
  unfold State.agFatal
  dsimp only
  repeat' split
  all_goals simp

@[simp] theorem State.engMemFail_mem (s : State) (gk r : Nat) (e : MemErr) : (State.engMemFail s gk r e).mem = s.mem := by
  unfold State.engMemFail
  split <;> simp

@[simp] theorem State.agFail_mem (s : State) (gk r n : Nat) (a : Ag) (d : AgDesc) (e : AccErr) : (State.agFail s gk r n a d e).mem = s.mem := by
  unfold State.agFail
  split <;> simp

@[simp] theorem State.agMemFail_mem (s : State) (gk r n k : Nat) (e : MemErr) : (State.agMemFail s gk r n k e).mem = s.mem := by
  unfold State.agMemFail
  split <;> simp

@[simp] theorem State.agReadPart_mem (s : State) (gk r n k : Nat) (a : Ag) (u : AgUnit) (ps : List (Nat × MemAttr)) :
    (State.agReadPart s gk r n k a u ps).mem = s.mem := by
  unfold State.agReadPart
  dsimp only
  repeat' split
  all_goals simp

@[simp] theorem State.cairnFail_mem (s : State) (gk : Nat) (g : Group) (i : Nat) (c : Cairn) (wr : Bool) (e : EngErr) :
    (State.cairnFail s gk g i c wr e).mem = s.mem := by
  unfold State.cairnFail
  split <;> simp

@[simp] theorem State.dropAsync_mem (s : State) (r id : Nat) : (State.dropAsync s r id).mem = s.mem := rfl

@[simp] theorem State.setAsync_mem (s : State) (r : Nat) (a : Async) : (State.setAsync s r a).mem = s.mem := rfl

@[simp] theorem State.refusePload_mem (s : State) (r : Nat) (a : Async) (serial : Nat) (code : BitVec 8) :
    (State.refusePload s r a serial code).mem = s.mem := by
  simp [State.refusePload]

@[simp] theorem State.xlatPload_mem (s : State) (r : Nat) (a : Async) (serial : Nat) (va : W64) : (State.xlatPload s r a serial va).mem = s.mem := by
  simp [State.xlatPload]

@[simp] theorem State.ploadFail_mem (s : State) (r : Nat) (a : Async) (serial : Nat) (e : LoadErr) : (State.ploadFail s r a serial e).mem = s.mem :=
  by
  unfold State.ploadFail
  split <;> simp

@[simp] theorem State.placePload_mem (s : State) (r : Nat) (a : Async) (desc gsel : W64) (serial : Nat) :
    (State.placePload s r a desc gsel serial).mem = s.mem := by
  unfold State.placePload
  dsimp only
  repeat' split
  all_goals simp

@[simp] theorem State.bindAgs_mem (s : State) (gk : Nat) (g : Group) (l : Loaded) : (State.bindAgs s gk g l).mem = s.mem := by
  unfold State.bindAgs
  refine foldl_mem _ (fun st x => ?_) _ _
  dsimp only
  repeat' split
  all_goals simp

@[simp] theorem State.bindChans_mem (s : State) (g : Group) : (State.bindChans s g).mem = s.mem := by
  unfold State.bindChans
  refine foldl_mem _ (fun st x => ?_) _ _
  split <;> rfl

@[simp] theorem State.updRegion_mem (s : State) (vf n : Nat) (f : Region → Region) : (State.updRegion s vf n f).mem = s.mem := rfl

@[simp] theorem State.startSlots_mem (s : State) (g : Group) : (State.startSlots s g).mem = s.mem :=
  foldl_mem _ (fun _ _ => State.setSlot_mem _ _ _ _) _ _

@[simp] theorem State.setM_mem (s : State) (set : List Nat) (m : Nat) : (State.setM s set m).mem = s.mem :=
  foldl_mem _ (fun _ _ => State.updDie_mem _ _ _) _ _

@[simp] theorem State.joinClocks_mem (s : State) (d : Nat) : (State.joinClocks s d).mem = s.mem := by
  unfold State.joinClocks
  dsimp only
  repeat' split
  all_goals simp

@[simp] theorem State.acceptPhase_mem (s : State) (g : Group) (l : Loaded) : (State.acceptPhase s g l).mem = s.mem := by
  unfold State.acceptPhase
  dsimp only
  rw [foldl_mem _ fun _ _ => by simp, State.startSlots_mem, State.bindAgs_mem, State.bindChans_mem, State.joinClocks_mem, State.setGroup_mem,
    foldl_mem _ fun _ _ => by rfl]

@[simp] theorem State.drainIn_mem (s : State) (gk key : Nat) : (State.drainIn s gk key).mem = s.mem := by
  unfold State.drainIn
  dsimp only
  repeat' split
  all_goals simp

@[simp] theorem State.closeChans_mem (s : State) (g : Group) : (State.closeChans s g).mem = s.mem := by
  unfold State.closeChans
  refine foldl_mem _ (fun st x => ?_) _ _
  split <;> rfl

@[simp] theorem State.freeGroup_mem (s : State) (gk : Nat) (g : Group) : (State.freeGroup s gk g).mem = s.mem := by
  unfold State.freeGroup
  dsimp only
  rw [foldl_mem _ fun _ _ => by rfl, foldl_mem _ fun _ _ => by simp, foldl_mem _ fun _ _ => by rfl]

@[simp] theorem State.publish_mem (s : State) (g : Group) : (State.publish s g).mem = s.mem := rfl

@[simp] theorem State.retire_mem (s : State) (gk : Nat) (g : Group) : (State.retire s gk g).mem = s.mem := by
  unfold State.retire
  simp only [State.endOp_mem, State.freeGroup_mem, State.closeChans_mem]
  rw [foldl_mem _ fun _ _ => by simp, State.updRec_mem, State.publish_mem]

@[simp] theorem State.guardDrop_mem (s : State) (base : Nat) (east : Bool) (vf stream kind pos slot ring : Nat) :
    (State.guardDrop s base east vf stream kind pos slot ring).mem = s.mem := by
  unfold State.guardDrop
  dsimp only
  repeat' split
  all_goals simp

@[simp] theorem State.putReg_mem (s : State) (r : Nat) (rd : Option (BitVec 5)) (v : W64) : (State.putReg s r rd v).mem = s.mem := by
  unfold State.putReg
  repeat' split
  all_goals simp

@[simp] theorem State.refuseCopy_mem (s : State) (r id : Nat) (src : CopySrc) (set : Option Nat) (rd : Option (BitVec 5)) (e : BitVec 8) :
    (State.refuseCopy s r id src set rd e).mem = s.mem := by
  simp [State.refuseCopy]

@[simp] theorem State.branches_mem (s : State) (r : Nat) (j : CopyJob) : (s.branches r j).1.mem = s.mem := by
  unfold State.branches
  dsimp only
  split
  · rfl
  · exact foldl_mem _ (fun _ _ => foldl_mem _ (fun _ _ => State.guardDrop_mem _ _ _ _ _ _ _ _ _) _ _) _ _

@[simp] theorem State.acceptCopy_mem (s : State) (r : Nat) (j : CopyJob) : (State.acceptCopy s r j).mem = s.mem := by
  unfold State.acceptCopy
  dsimp only
  repeat' split
  all_goals simp [State.engLinked_mem]

@[simp] theorem State.setCopy_mem (s : State) (r k : Nat) (j : CopyJob) : (State.setCopy s r k j).mem = s.mem := rfl

@[simp] theorem State.copyFail_mem (s : State) (r k : Nat) (j : CopyJob) (wr : Bool) (e : EngErr) : (State.copyFail s r k j wr e).mem = s.mem := by
  unfold State.copyFail
  repeat' split
  all_goals simp

@[simp] theorem State.copyWrote_mem (s : State) (r k : Nat) (j : CopyJob) (i b : Nat) (sinks : List (Option CopySink)) :
    (State.copyWrote s r k j i b sinks).mem = s.mem := rfl

@[simp] theorem State.opDone_mem (s : State) (r : Nat) (f : Front) : (State.opDone s r f).mem = s.mem := rfl

theorem State.sendToken_mem {s t : State} {r q : Nat} {tok : W32} (h : s.sendToken r q tok = some t) : t.mem = s.mem := by
  unfold State.sendToken at h
  dsimp only at h
  repeat' split at h
  all_goals cases h
  all_goals rfl

@[simp] theorem State.drainEdge_mem (s : State) (r n : Nat) : (s.drainEdge r n).mem = s.mem := by
  induction n generalizing s with
  | zero => rfl
  | succ n ih =>
    unfold State.drainEdge
    dsimp only
    split
    · rfl
    · split
      · rw [ih, State.setRing_mem]
      · rfl

@[simp] theorem State.qpClear_mem (s : State) (v : Nat) : (State.qpClear s v).mem = s.mem := by
  unfold State.qpClear
  dsimp only
  repeat' split
  all_goals simp

@[simp] theorem State.issue_mem (s : State) (r : Nat) (op : AsyncOp) (i : Instr) (set : Option Nat) (mask : Nat) (rd : BitVec 5) :
    (State.issue s r op i set mask rd).mem = s.mem := by
  simp [State.issue]

@[simp] theorem State.refuseAsync_mem (s : State) (r : Nat) (a : Async) (e : BitVec 8) : (State.refuseAsync s r a e).mem = s.mem := by
  simp [State.refuseAsync]

@[simp] theorem State.readyCopy_mem (s : State) (r : Nat) (a : Async) (d : CopyDesc) : (State.readyCopy s r a d).mem = s.mem := by
  unfold State.readyCopy
  split <;> simp

@[simp] theorem State.startCpy_mem (s : State) (r : Nat) (a : Async) (va : W64) : (State.startCpy s r a va).mem = s.mem := by
  unfold State.startCpy
  repeat' split
  all_goals simp [State.engLinked_mem]

@[simp] theorem State.startCrn_mem (s : State) (r : Nat) (a : Async) (sel : W64) : (State.startCrn s r a sel).mem = s.mem := by
  unfold State.startCrn
  dsimp only
  repeat' split
  all_goals simp

@[simp] theorem State.waitOver_mem (s : State) (r : Nat) (l : List (Nat × List Nat)) : (State.waitOver s r l).mem = s.mem := by
  unfold State.waitOver
  split <;> simp

@[simp] theorem State.keepWait_mem (s : State) (r : Nat) (w : WaitSnap) : (State.keepWait s r w).mem = s.mem := rfl

@[simp] theorem State.arm_mem (s : State) (r n : Nat) (b : Option Billet) : (State.arm s r n b).mem = s.mem := rfl

@[simp] theorem State.showWindows_mem (s : State) (v : Nat) : (State.showWindows s v).mem = s.mem := rfl

@[simp] theorem State.answer_mem (s : State) (ok : Bool) (l : List (Waiter × W64)) : (s.answer ok l).mem = s.mem := by
  induction l generalizing s with
  | nil => simp [State.answer]
  | cons x l ih =>
    obtain ⟨w, addr⟩ := x
    cases w <;> simp only [State.answer, ih]
    all_goals repeat' split
    all_goals simp

@[simp] theorem State.answerEntry_mem (s : State) (d e : Nat) (ok : Bool) : (State.answerEntry s d e ok).mem = s.mem := by
  unfold State.answerEntry
  split <;> simp

@[simp] theorem State.writeTail_mem (s : State) (v : Nat) (x : W64) : (State.writeTail s v x).mem = s.mem := by
  unfold State.writeTail
  dsimp only
  repeat' split
  all_goals simp

@[simp] theorem State.door_mem (s : State) (v : Nat) : (State.door s v).mem = s.mem := by
  unfold State.door
  repeat' split
  all_goals simp

@[simp] theorem State.startLaunch_mem (s : State) (v i : Nat) (q : LaunchRec) (rings : List Nat) (map : List (W64 × Nat × Nat)) :
    (State.startLaunch s v i q rings map).mem = s.mem := by
  unfold State.startLaunch
  dsimp only
  rw [State.updVf_mem, foldl_mem _ fun _ _ => State.updRing_mem _ _ _]

@[simp] theorem State.headOn_mem (s : State) (v sz : Nat) : (State.headOn s v sz).mem = s.mem := rfl

@[simp] theorem State.setLp_mem (s : State) (d e : Nat) (p : LpEntry) : (State.setLp s d e p).mem = s.mem := rfl

@[simp] theorem State.rejectPacket_mem (s : State) (d : Nat) (e : Option Nat) (reason : Nat) : (State.rejectPacket s d e reason).mem = s.mem := by
  unfold State.rejectPacket
  split <;> simp

@[simp] theorem State.preemptGroup_mem (s : State) (gk : Nat) (g : Group) : (State.preemptGroup s gk g).mem = s.mem := rfl

@[simp] theorem State.preempt_mem (s : State) (b : Nat) (next : Option Nat) : (State.preempt s b next).mem = s.mem := by
  unfold State.preempt
  split
  · rfl
  · split
    · rfl
    · split
      · rfl
      · rw [foldl_mem _ fun _ _ => State.preemptGroup_mem _ _ _]
        rfl

@[simp] theorem State.askAgain_mem (s : State) (b : Nat) : (State.askAgain s b).mem = s.mem := by
  unfold State.askAgain
  split <;> simp

@[simp] theorem State.unload_mem (s : State) (gk : Nat) (g : Group) : (State.unload s gk g).mem = s.mem := by
  unfold State.unload
  dsimp only
  rw [foldl_mem _ fun _ _ => by simp, State.updRec_mem, State.updRing_mem, State.freeGroup_mem]

@[simp] theorem State.stashRing_mem (s : State) (b r : Nat) : (State.stashRing s b r).mem = s.mem := rfl

@[simp] theorem State.unloadAll_mem (s : State) (b : Nat) : (State.unloadAll s b).mem = s.mem := by
  unfold State.unloadAll
  simp [foldl_mem]

@[simp] theorem State.wakeStrip_mem (s : State) (b : Nat) : (State.wakeStrip s b).mem = s.mem := foldl_mem _ (fun _ _ => State.updRing_mem _ _ _) _ _

@[simp] theorem State.captureFailed_mem (s : State) (b : Nat) : (State.captureFailed s b).mem = s.mem := by
  unfold State.captureFailed
  simp [foldl_mem, apply_ite State.mem]

@[simp] theorem State.loadSeq_mem (s : State) (r : Nat) (l : List Byte) : (State.loadSeq s r l).mem = s.mem := rfl

@[simp] theorem State.loadShared_mem (s : State) (v : Nat) (l : List Byte) : (State.loadShared s v l).mem = s.mem := by
  unfold State.loadShared
  dsimp only
  rw [foldl_mem _ fun _ _ => State.updWindow_mem _ _ _]
  rfl

@[simp] theorem State.loadTiles_mem (s : State) (v : Nat) (l : List Byte) : (State.loadTiles s v l).mem = s.mem := by
  unfold State.loadTiles
  simp [foldl_mem, apply_ite State.mem]

@[simp] theorem State.reissue_mem (s : State) (r : Nat) (e : List Byte) (serial : Nat) (grp : Option (Nat × Nat)) :
    (State.reissue s r e serial grp).mem = s.mem := by
  unfold State.reissue
  dsimp only
  split <;> simp

@[simp] theorem State.reissueAll_mem (s : State) (r : Nat) (q : List Byte) (restart : Nat → Option (Nat × Nat)) :
    (s.reissueAll r q restart).mem = s.mem := by
  unfold State.reissueAll
  dsimp only
  generalize List.filterMap (fun h : Nat × Nat => _) _ = w
  generalize List.filterMap _ (List.range 32) = es
  induction es generalizing s w with
  | nil => rfl
  | cons e es ih =>
    rw [List.foldl_cons]
    split
    · rw [ih, State.reissue_mem]
    · rw [ih, State.reissue_mem]

@[simp] theorem State.resumeFail_mem (s : State) (r : Nat) (a : Async) (serial : Nat) (e : LoadErr) :
    (State.resumeFail s r a serial e).mem = s.mem := by
  unfold State.resumeFail
  split <;> simp

@[simp] theorem State.resumePhase_mem (s : State) (b : Nat) (imgs : List (List Byte)) (l : List Byte) :
    (State.resumePhase s b imgs l).mem = s.mem := by
  unfold State.resumePhase
  dsimp only
  split
  · rfl
  · split
    · simp
    · split
      · simp
      · rw [foldl_mem _ fun _ _ => State.setAg_mem _ _ _ _, State.acceptPhase_mem, State.newOp_mem]

@[simp] theorem State.boundRegions_mem (s : State) (v : Nat) : (State.boundRegions s v).mem = s.mem := rfl

@[simp] theorem State.giveHeld_mem (s : State) (r vf : Nat) : (State.giveHeld s r vf).mem = s.mem := by
  unfold State.giveHeld
  dsimp only
  repeat' split
  all_goals simp

@[simp] theorem State.setPrqSt_mem (s : State) (d e : Nat) (st : PrqSt) : (State.setPrqSt s d e st).mem = s.mem := rfl

@[simp] theorem State.sprqAnswer_mem (s : State) (r : Nat) (ok : Bool) : (State.sprqAnswer s r ok).mem = s.mem := by
  unfold State.sprqAnswer
  split <;> simp

@[simp] theorem State.keyDone_mem (s : State) (err : Bool) : (State.keyDone s err).mem = s.mem := rfl

@[simp] theorem State.keyOp_mem (s : State) (f : Tab (BitVec 256) → Nat → Tab (BitVec 256)) : (State.keyOp s f).mem = s.mem := by
  unfold State.keyOp
  repeat' split
  all_goals simp

@[simp] theorem State.endPhase_mem (s : State) (gk : Nat) (g : Group) : (State.endPhase s gk g).mem = s.mem := by
  unfold State.endPhase
  simp only [State.endOp_mem, State.freeGroup_mem, State.closeChans_mem]
  rw [foldl_mem _ fun _ _ => by simp, State.updRec_mem, State.publish_mem]

@[simp] theorem State.endRing_mem (s : State) (r : Nat) : (State.endRing s r).mem = s.mem := by
  unfold State.endRing
  dsimp only
  rw [State.updRing_mem, foldl_mem _ fun _ _ => by simp, foldl_mem _ fun _ _ => by simp, foldl_mem _ fun _ a => by split <;> simp]

@[simp] theorem State.endVf_mem (s : State) (v : Nat) : (State.endVf s v).mem = s.mem := by
  unfold State.endVf
  dsimp only
  repeat' split
  all_goals simp [foldl_mem]

@[simp] theorem State.powerReq_mem (s : State) (r : Nat) (next : Option Nat) : (State.powerReq s r next).mem = s.mem := by
  unfold State.powerReq
  split <;> rfl

@[simp] theorem State.setLink_mem (s : State) (d n : Nat) (v : W64) : (State.setLink s d n v).mem = s.mem := rfl

@[simp] theorem State.clearDeps_mem (s : State) (r : Nat) (v : W64) : (State.clearDeps s r v).mem = s.mem := by
  unfold State.clearDeps
  simp [foldl_mem, apply_ite State.mem]

@[simp] theorem State.ringWrite_mem (s : State) (r n : Nat) (v : W64) : (State.ringWrite s r n v).mem = s.mem := by
  unfold State.ringWrite
  repeat' split
  all_goals simp

@[simp] theorem State.setElemOf_mem (s : State) (r : Nat) (a : DbgAddr) (e : Elem) : (State.setElemOf s r a e).mem = s.mem := rfl

theorem State.dbgStore_mem {s t : State} {r : Nat} {a : DbgAddr} {v : W64} (h : s.dbgStore r a v = some t) : t.mem = s.mem := by
  unfold State.dbgStore at h
  dsimp only at h
  repeat' split at h
  all_goals cases h
  all_goals simp

@[simp] theorem State.dbgErr_mem (s : State) (r : Nat) (err : Bool) : (State.dbgErr s r err).mem = s.mem := rfl

@[simp] theorem State.releaseMine_mem (s : State) : (State.releaseMine s).mem = s.mem := by
  simp [State.releaseMine]

@[simp] theorem State.addFence_mem (s : State) (base len : Nat) (c : BitVec 2) : (State.addFence s base len c).mem = s.mem := by
  simp [State.addFence]

@[simp] theorem State.unhalt_mem (s : State) (r : Nat) : (State.unhalt s r).mem = s.mem := by
  unfold State.unhalt
  split <;> simp

@[simp] theorem State.dropTlb_mem (s : State) (v : Nat) (p : TlbEntry → Bool) (q : WalkEntry → Bool) : (State.dropTlb s v p q).mem = s.mem := rfl

@[simp] theorem State.shedTlb_mem (s : State) (r : Nat) (p : TlbEntry → Bool) (q : WalkEntry → Bool) : (State.shedTlb s r p q).mem = s.mem := rfl

@[simp] theorem State.assign_mem (s : State) (q : StripRec) : (State.assign s q).mem = s.mem := by
  unfold State.assign
  dsimp only
  split <;> simp only [State.setRcsr_mem, State.setStrip_mem, State.updVf_mem, foldl_mem _ fun _ _ => State.updRing_mem _ _ _]

@[simp] theorem veIntOp_mem (t : BitVec 4) (a b d : BitVec 5) (g : BitVec 2) (sat : BitVec 1) (f : Int → Int → Int → Int) (s : State) :
    (veIntOp t a b d g sat f s).mem = s.mem := by
  simp [veIntOp]

@[simp] theorem veIntOp1_mem (t : BitVec 4) (a d : BitVec 5) (g : BitVec 2) (sat : BitVec 1) (f : Int → Int) (s : State) :
    (veIntOp1 t a d g sat f s).mem = s.mem := by
  simp [veIntOp1]

@[simp] theorem veShift_mem (t : BitVec 4) (a b d : BitVec 5) (g : BitVec 2) (sat : Bool) (f : Int → Nat → Int) (s : State) :
    (veShift t a b d g sat f s).mem = s.mem := by
  simp [veShift]

@[simp] theorem State.toStage_mem (s : State) (gk : Nat) (st : Stage) : (State.toStage s gk st).mem = s.mem := by
  unfold State.toStage
  split <;> rfl

@[simp] theorem State.endFreeze_mem (s : State) (g : Group) : (State.endFreeze s g).mem = s.mem := by
  unfold State.endFreeze
  split <;> rfl

@[simp] theorem State.checkFreeze_mem (s : State) (gk : Nat) : (s.checkFreeze gk).2.mem = s.mem := by
  unfold State.checkFreeze
  dsimp only
  repeat' split
  all_goals simp

@[simp] theorem State.elemMove_mem (s : State) (gk : Nat) (g : Group) : (s.elemMove gk g).2.mem = s.mem := by
  unfold State.elemMove
  dsimp only
  repeat' split
  all_goals simp

@[simp] theorem State.fetchWord_mem (s : State) (t : Thread) : (s.fetchWord t).2.mem = s.mem := by
  unfold State.fetchWord
  dsimp only
  split
  · exact State.threadFail_mem _ _ _
  · exact State.transfers_mem _ _

@[simp] theorem State.chargeStrip_mem (s : State) (b : Nat) : (State.chargeStrip s b).mem = s.mem := rfl

@[simp] theorem State.dieEdge_mem (s : State) (d : Nat) : (State.dieEdge s d).mem = s.mem := foldl_mem _ State.chargeStrip_mem _ _

@[simp] theorem State.dieTick_mem (s : State) (d : Nat) : (State.dieTick s d).mem = s.mem := by
  unfold State.dieTick
  dsimp only
  repeat' split
  all_goals simp

@[simp] theorem State.warm_mem (s : State) : (State.warm s).mem = s.mem := rfl

@[simp] theorem State.tick_mem (s : State) : (State.tick s).mem = s.mem := by
  unfold State.tick
  dsimp only
  rw [foldl_mem _ fun _ _ => State.drainEdge_mem _ _ _, State.warm_mem, foldl_mem _ State.dieTick_mem]

@[simp] theorem State.decay_mem (s : State) (n : Nat) : (State.decay s n).mem = s.mem := by
  unfold State.decay
  repeat' split
  all_goals simp

@[simp] theorem State.linkReplay_mem (s : State) (d : Nat) : (State.linkReplay s d).mem = s.mem := by
  unfold State.linkReplay
  split <;> rfl

@[simp] theorem State.nextAct_mem (s : State) : s.nextAct.2.mem = s.mem := by
  unfold State.nextAct
  split <;> rfl

@[simp] theorem State.first_mem (s : State) (a : Act) : (State.first s a).mem = s.mem := rfl

@[simp] theorem State.keyed_mem (s : State) : (State.keyed s).mem = s.mem := by
  unfold State.keyed
  split <;> rfl

end Sys2Proof.Machine
end

section
/-! What the writing operations keep: memory stays in canonical form under each of them (R104, R407, R418). -/

namespace Sys2Proof.Machine

/-- A fold whose every step keeps the form of memory keeps it. -/
theorem memWf_foldl {α : Type} {f : State → α → State} (hf : ∀ s x, memWf s.mem = true → memWf (f s x).mem = true) {s : State}
    (hm : memWf s.mem = true) (l : List α) : memWf (l.foldl f s).mem = true := by
  induction l generalizing s with
  | nil => exact hm
  | cons x t ih => exact ih (hf s x hm)

/-- A write of a cycle that is bound for an element enters it (R62, R73). -/
def State.commitOne (g : Group) (st : State) (e : Wr) : State :=
  match e.kind with
  | .y v => st.setElem g e.slot e.pos { st.elem g e.slot e.pos with y := v }
  | .k n v => st.setElem g e.slot e.pos { st.elem g e.slot e.pos with k := tset 0 (st.elem g e.slot e.pos).k n v }
  | .q i b => st.setElem g e.slot e.pos
      { st.elem g e.slot e.pos with q := if b then (st.elem g e.slot e.pos).q ||| (1#4 <<< i) else (st.elem g e.slot e.pos).q &&& ~~~(1#4 <<< i) }
  | .out _ _ => st

theorem State.commitOne_mem (g : Group) (st : State) (e : Wr) : (st.commitOne g e).mem = st.mem := by
  unfold State.commitOne
  split <;> simp

/-- The item time of a slot ends: the item that leaves is noted with its slot and stripe (R38). -/
def State.endSlot (gk : Nat) (g : Group) (acc : State × List (Nat × Nat × Item)) (gs : Nat) : State × List (Nat × Nat × Item) :=
  let v := ((acc.1.slot g gs).v).getD 0
  match acc.1.endItemTime gk gs with
  | (st, some it) => (st, acc.2 ++ [(gs, v, it)])
  | (st, none) => (st, acc.2)

/-- The item times of every slot end. -/
def State.endSlots (s : State) (gk : Nat) (g : Group) : State × List (Nat × Nat × Item) :=
  (List.range (s.plen g)).foldl (State.endSlot gk g) (s, [])

/-- An item that leaves its slot goes to its destination: the slots that items reach are gathered (R38, R44, R56). -/
def State.moveItem (p : Nat) (acc : State × Group × List (Nat × Item)) (x : Nat × Nat × Item) : State × Group × List (Nat × Item) :=
  let (st, g, ins) := acc
  let (gs, v, it) := x
  let sl := st.slot g gs
  let st1 := st.setSlot g gs { sl with left := sl.left + 1, item := none }
  match st1.destOf g gs v with
  | .gone => (st1, { g with exited := g.exited + 1 }, ins)
  | .wrap => (st1.storeWrap g it, { g with wrap := g.wrap ++ [{ it with pass := it.pass + 1 }] }, ins)
  | .slot n => (st1, g, ins ++ [(n, it)])
  | .cross n => (st1, { g with cross := g.cross ++ [(24, n, if n = p then { it with pass := it.pass + 1 } else it)] }, ins)

/-- An item whose crossing is over enters its slot, one a slot (R56; log 113). -/
def arriveItem (p : Nat) (acc : List (Nat × Item) × List (Nat × Nat × Item)) (x : Nat × Nat × Item) :
    List (Nat × Item) × List (Nat × Nat × Item) :=
  if x.1 = 0 ∧ x.2.1 < p ∧ !(acc.1.any fun y => y.1 == x.2.1) ∧ !(acc.2.any fun y => y.2.1 == x.2.1) then (acc.1 ++ [(x.2.1, x.2.2)], acc.2)
  else (acc.1, acc.2 ++ [x])

/-- Every slot takes the item that reaches it. -/
def State.reachSlots (s : State) (gk p : Nat) (g : Group) (ins : List (Nat × Item)) : State :=
  (List.range p).foldl (fun st gs => st.reachSlot gk g gs ((ins.find? fun y => y.1 == gs).map (·.2))) s

theorem State.itemBoundary_eq {s : State} {gk : Nat} {g0 g1 : Group} (h0 : s.group? gk = some g0) (h1 : (s.endSlots gk g0).1.group? gk = some g1)
    (hm : ¬(g1.mark.isSome ∧ g0.mark.isNone)) :
    s.itemBoundary gk =
      let p := s.plen g0
      let (s2, g2, ins) := (s.endSlots gk g0).2.foldl (State.moveItem p) ((s.endSlots gk g0).1, g1, [])
      let (ins', cross') := g2.cross.foldl (arriveItem p) (ins, [])
      (s2.setGroup gk { g2 with cross := cross' }).reachSlots gk p g2 ins' := by
  unfold State.itemBoundary
  rw [h0]
  change (match (s.endSlots gk g0).1.group? gk with
    | none => _
    | some g1 => _) = _
  rw [h1]
  exact if_neg hm

theorem State.itemBoundary_stopped {s : State} {gk : Nat} {g0 : Group} (h0 : s.group? gk = some g0)
    (h1 : ∀ g1, (s.endSlots gk g0).1.group? gk = some g1 → g1.mark.isSome ∧ g0.mark.isNone) :
    s.itemBoundary gk = (s.endSlots gk g0).1 := by
  unfold State.itemBoundary
  rw [h0]
  change (match (s.endSlots gk g0).1.group? gk with
    | none => _
    | some g1 => _) = _
  cases hg : (s.endSlots gk g0).1.group? gk with
  | none => rfl
  | some g1 => exact if_pos (h1 g1 hg)

@[simp] theorem memWf_putWord {s : State} (hm : memWf s.mem = true) (r k v : Nat) : memWf (State.putWord s r k v).mem = true := by
  simp [State.putWord, hm, memWf_putSeen]

@[simp] theorem memWf_enqueueFifo {s : State} (hm : memWf s.mem = true) (gk : Nat) (g : Group) (k : Nat) (ip : Port) (w : W32) :
    memWf (State.enqueueFifo s gk g k ip w).mem = true := by
  unfold State.enqueueFifo
  repeat' split
  all_goals simp [hm, memWf_putNum]

@[simp] theorem memWf_fifoWords {s : State} (hm : memWf s.mem = true) (g : Group) (k : Nat) (ip : Port) (at_ : Nat) (ws : List W32) :
    memWf (State.fifoWords s g k ip at_ ws).mem = true := by
  unfold State.fifoWords
  split
  · exact memWf_foldl (fun _ _ h => memWf_putNum _ _ _ _ h) hm _
  all_goals exact hm

@[simp] theorem memWf_enqueueRec {s : State} (hm : memWf s.mem = true) (gk : Nat) (g : Group) (k : Nat) (ip : Port) (tag : Option (BitVec 16))
    (ws : List W32) : memWf (State.enqueueRec s gk g k ip tag ws).mem = true := by
  unfold State.enqueueRec
  repeat' split
  all_goals simp [hm]

@[simp] theorem memWf_outWord {s : State} (hm : memWf s.mem = true) (gk key item pos ctx : Nat) (tag : Option (BitVec 16)) (gone : Bool) (w : W32) :
    memWf (State.outWord s gk key item pos ctx tag gone w).mem = true := by
  unfold State.outWord
  dsimp only
  repeat' split
  all_goals simp [hm]

@[simp] theorem memWf_freshHalf {s : State} (hm : memWf s.mem = true) (g j : Nat) : memWf (State.freshHalf s g j).mem = true := memWf_filter _ _ hm

@[simp] theorem memWf_bankStore {s : State} (hm : memWf s.mem = true) (w : View) (o : Nat) (v : W32) : memWf (View.bankStore w o v s).mem = true := by
  unfold View.bankStore
  split
  · exact hm
  · split
    · rename_i h
      rwa [View.bankFault_mem h]
    · exact memWf_putWord hm _ _ _

@[simp] theorem memWf_bankAtomic {s : State} (hm : memWf s.mem = true) (w : View) (d : BitVec 5) (o : Nat) (f : W32 → W32) :
    memWf (View.bankAtomic w d o f s).mem = true := by
  unfold View.bankAtomic
  split
  · exact hm
  · split
    · rename_i h
      rwa [View.bankFault_mem h]
    · rw [View.writeDest_mem]
      exact memWf_putWord hm _ _ _

@[simp] theorem memWf_landOut {s : State} (hm : memWf s.mem = true) (gk : Nat) (e : Wr) : memWf (State.landOut s gk e).mem = true := by
  unfold State.landOut
  dsimp only
  repeat' split
  all_goals simp [hm]

@[simp] theorem memWf_commit {s : State} (hm : memWf s.mem = true) (gk : Nat) : memWf (State.commit s gk).mem = true := by
  unfold State.commit
  split
  · exact hm
  · dsimp only
    have hset (g : Group) (l : List Wr) : (l.foldl (State.commitOne g) s).mem = s.mem := foldl_mem _ (State.commitOne_mem g) _ _
    split
    · exact (congrArg memWf (hset _ _)).trans hm
    · refine memWf_foldl (fun _ _ h => memWf_landOut h _ _) ?_ _
      exact (congrArg memWf (hset _ _)).trans hm

@[simp] theorem memWf_settleRec {s : State} (hm : memWf s.mem = true) (gk key n : Nat) : memWf (s.settleRec gk key n).mem = true := by
  induction n generalizing s with
  | zero => exact hm
  | succ n ih =>
    have hfifo (l : List W32) (k : Nat) {t : State} (ht : memWf t.mem = true) : memWf (l.foldl (fun st w =>
        match st.group? gk with
        | some g2 =>
          match tfind g2.ports k with
          | some ip2 => st.enqueueFifo gk g2 k ip2 w
          | none => st
        | none => st) t).mem = true := by
      refine memWf_foldl (fun st w h => ?_) ht _
      repeat' split
      all_goals simp [h]
    unfold State.settleRec
    split
    · exact hm
    · split
      · exact hm
      · split
        · exact hm
        · dsimp only
          split
          · exact hm
          · split
            · split
              · exact ih (by simpa using hm)
              · split
                · simpa using hm
                · split
                  · simpa using hm
                  · refine ih ?_
                    split
                    · exact hfifo _ _ (by simpa using hm)
                    · exact memWf_enqueueRec (by simpa using hm) _ _ _ _ _ _
            all_goals exact hm

@[simp] theorem memWf_settleRecs {s : State} (hm : memWf s.mem = true) (gk : Nat) : memWf (State.settleRecs s gk).mem = true := by
  unfold State.settleRecs
  split
  · exact hm
  · exact memWf_foldl (fun _ _ h => memWf_settleRec h _ _ _) hm _

@[simp] theorem memWf_endItemTime {s : State} (hm : memWf s.mem = true) (gk gs : Nat) : memWf (s.endItemTime gk gs).1.mem = true := by
  unfold State.endItemTime
  split
  · exact hm
  · extract_lets sl
    split
    · exact hm
    · split
      · exact hm
      · dsimp only
        split
        · dsimp only
          rw [foldl_mem _ fun _ _ => State.endOffer_mem _ _ _, foldl_mem _ fun _ _ => State.setElem_mem _ _ _ _ _]
          exact hm
        · refine memWf_foldl (fun st p h => ?_) ?_ _
          · repeat' split
            all_goals simp [h]
          · rw [foldl_mem _ fun _ _ => State.endOffer_mem _ _ _, foldl_mem _ fun _ _ => State.setElem_mem _ _ _ _ _]
            exact hm

@[simp] theorem memWf_storeWrap {s : State} (hm : memWf s.mem = true) (g : Group) (it : Item) : memWf (State.storeWrap s g it).mem = true := by
  unfold State.storeWrap
  dsimp only
  repeat' split
  all_goals simp [hm, memWf_putBytes]

@[simp] theorem memWf_crossTick {s : State} (hm : memWf s.mem = true) (gk : Nat) : memWf (State.crossTick s gk).mem = true := by
  unfold State.crossTick
  split
  · exact hm
  · rw [State.setGroup_mem]
    exact memWf_foldl (fun _ _ h => memWf_storeWrap h _ _) hm _

@[simp] theorem memWf_itemBoundary {s : State} (hm : memWf s.mem = true) (gk : Nat) : memWf (State.itemBoundary s gk).mem = true := by
  cases h0 : s.group? gk with
  | none => rw [State.itemBoundary, h0]; exact hm
  | some g0 =>
    have he : memWf (s.endSlots gk g0).1.mem = true :=
      List.foldlRecOn (motive := fun acc : State × List (Nat × Nat × Item) => memWf acc.1.mem = true) _ (State.endSlot gk g0) hm fun acc h gs _ => by
        have hs := memWf_endItemTime h gk gs
        unfold State.endSlot
        split <;> simpa [*] using hs
    by_cases h1 : ∀ g1, (s.endSlots gk g0).1.group? gk = some g1 → g1.mark.isSome ∧ g0.mark.isNone
    · rwa [State.itemBoundary_stopped h0 h1]
    · push Not at h1
      obtain ⟨g1, h1, hmark⟩ := h1
      rw [State.itemBoundary_eq h0 h1 (by simpa using hmark)]
      dsimp only
      rw [State.reachSlots, foldl_mem _ fun _ _ => State.reachSlot_mem _ _ _ _ _, State.setGroup_mem]
      refine List.foldlRecOn (motive := fun acc : State × Group × List (Nat × Item) => memWf acc.1.mem = true) _ _ he fun acc h x _ => ?_
      unfold State.moveItem
      dsimp only
      split <;> simp [h]

@[simp] theorem memWf_serveJob {s : State} (hm : memWf s.mem = true) (g : Group) (j : Job) : memWf (State.serveJob s g j).mem = true := by
  unfold State.serveJob
  dsimp only
  repeat' split
  all_goals simp [hm, memWf_putBytes]

@[simp] theorem memWf_scrStep {s : State} (hm : memWf s.mem = true) (r : Nat) : memWf (State.scrStep s r).mem = true := by
  unfold State.scrStep
  repeat' split
  all_goals simp [hm]

@[simp] theorem memWf_scrollCycle {s : State} (hm : memWf s.mem = true) (gk first : Nat) (leave : Nat → Option Nat) (now : Nat) :
    memWf (State.scrollCycle s gk first leave now).mem = true := by
  unfold State.scrollCycle
  split
  · exact hm
  · extract_lets rings s1 p s2
    have h1 : memWf s1.mem = true := memWf_foldl (fun _ _ h => memWf_scrStep h _) hm _
    have h2 : s2.mem = s1.mem := foldl_mem _ (fun st gs => by
      dsimp only
      repeat' split
      all_goals simp) _ _
    rwa [foldl_mem _ fun _ _ => State.slotSwitch_mem _ _, h2]

@[simp] theorem memWf_itemAdmission {s0 : State} (hm : memWf s0.mem = true) (gk : Nat) : memWf (State.itemAdmission s0 gk).mem = true := by
  unfold State.itemAdmission
  dsimp only
  repeat' split
  all_goals simp [hm]

theorem memWf_writeFor {s t : State} {th : Thread} {rel : Bool} {c : BitVec 2} {seq : Nat} {va : W64} {sync : Tab Dep} {ps : List (Nat × MemAttr)}
    {bs : List Byte} (h : s.writeFor th rel c seq va sync ps bs = .ok t) (hm : memWf s.mem = true) : memWf t.mem = true := by
  unfold State.writeFor at h
  dsimp only at h
  split at h
  · cases h
  · rename_i u he
    obtain rfl := Except.ok.inj h
    rw [State.updSeq_mem]
    refine memWf_writeAt he ?_
    split <;> simpa using hm

@[simp] theorem memWf_performAmo {s : State} (hm : memWf s.mem = true) (t : Thread) (k : Nat) (l : PendLoad) (kind : BitVec 5) (z c : W64) :
    memWf (State.performAmo s t k l kind z c).mem = true := by
  unfold State.performAmo
  dsimp only
  split
  · simpa using hm
  · split
    · exact hm
    · split
      · split <;> simpa using hm
      · split
        · rename_i h
          rw [State.tellAsyncs_mem]
          refine memWf_writeFor h ?_
          split <;> simpa using hm
        · rw [State.threadFail_mem]
          split <;> simpa using hm

theorem memWf_engPut {s t : State} {lag : Bool} {c : XCtx} {va : W64} {bs : List Byte} (h : s.engPut lag c va bs = .ok t) (hm : memWf s.mem = true) :
    memWf t.mem = true := by
  unfold State.engPut at h
  split at h
  · cases h
  · split at h
    · cases h
    · rename_i u he
      obtain rfl := Except.ok.inj h
      exact memWf_writeAt he hm

theorem memWf_engWrite {s t : State} {c : XCtx} {va : W64} {bs : List Byte} (h : s.engWrite c va bs = .ok t) (hm : memWf s.mem = true) :
    memWf t.mem = true := memWf_engPut h hm

@[simp] theorem memWf_stageWord {s : State} (hm : memWf s.mem = true) (g : Group) (c : Cairn) (t : Nat) (w : W32) :
    memWf (State.stageWord s g c t w).mem = true := by
  unfold State.stageWord
  dsimp only
  repeat' split
  all_goals simp [hm, memWf_putNum]

@[simp] theorem memWf_agWords {s : State} (hm : memWf s.mem = true) (gk key : Nat) (ws : List W32) : memWf (State.agWords s gk key ws).mem = true :=
  by
  unfold State.agWords
  refine memWf_foldl (fun st w h => ?_) hm _
  repeat' split
  all_goals simp [h]

@[simp] theorem memWf_agFinish {s : State} (hm : memWf s.mem = true) (r n : Nat) : memWf (State.agFinish s r n).mem = true := by
  unfold State.agFinish
  dsimp only
  repeat' split
  all_goals simp [hm]

@[simp] theorem memWf_agDrain {s : State} (hm : memWf s.mem = true) (r n fuel : Nat) : memWf (s.agDrain r n fuel).mem = true := by
  induction fuel generalizing s with
  | zero => exact hm
  | succ fuel ih =>
    unfold State.agDrain
    dsimp only
    repeat' split
    all_goals simp [hm, ih]

theorem memWf_agIndex {s : State} (hm : memWf s.mem = true) (r n : Nat) (a : Ag) (d : AgDesc) : ∀ t ∈ s.agIndex r n a d, memWf t.mem = true := by
  unfold State.agIndex
  dsimp only
  repeat' split
  all_goals simp [hm]

section
variable {o o' : Option State}

theorem memWf_some {t : State} (h : memWf t.mem = true) : ∀ u ∈ some t, memWf u.mem = true := fun u hu => by
  obtain rfl := Option.mem_some_iff.1 hu
  exact h

theorem memWf_none : ∀ u ∈ (none : Option State), memWf u.mem = true := fun _ h => absurd h (Option.not_mem_none _)

theorem memWf_ite {c : Prop} [Decidable c] (h : ∀ u ∈ o, memWf u.mem = true) (h' : ∀ u ∈ o', memWf u.mem = true) :
    ∀ u ∈ (if c then o else o'), memWf u.mem = true := by
  split
  · exact h
  · exact h'

end

/-- An AG delivers, ends, takes an index or issues a request: none of it writes memory but what it delivers into a FIFO (R104, R152). -/
theorem memWf_agTry {s : State} (hm : memWf s.mem = true) (r n : Nat) : ∀ t ∈ s.agTry r n, memWf t.mem = true := by
  unfold State.agTry
  extract_lets a0
  split
  · split
    · exact memWf_none
    · refine memWf_ite memWf_none (memWf_ite (memWf_some (memWf_agDrain hm _ _ _)) (memWf_ite memWf_none ?_))
      split
      · exact memWf_none
      · rename_i u hu
        have h1 := memWf_agIndex hm r n _ _ u hu
        extract_lets a part
        refine memWf_ite (memWf_some h1) (memWf_ite (memWf_ite (memWf_some (memWf_agFinish h1 _ _)) memWf_none) (memWf_ite ?_
          (memWf_ite memWf_none (memWf_ite memWf_none (memWf_ite ?_ ?_)))))
        · intro t ht
          obtain ⟨x, -, rfl⟩ := Option.map_eq_some_iff.1 ht
          rwa [State.setAg_mem]
        · refine memWf_ite (memWf_ite memWf_none ?_) ?_
          · split
            · exact memWf_some (by rwa [State.agFail_mem])
            · exact memWf_some (by rwa [State.setAg_mem])
          · split
            · exact memWf_some (by rwa [State.agFail_mem])
            · exact memWf_some (by rwa [State.setAg_mem])
        · refine memWf_ite memWf_none ?_
          split
          · exact memWf_some (by rwa [State.agFail_mem])
          · exact memWf_some (by rwa [State.setAg_mem])
  · exact memWf_none

@[simp] theorem memWf_agLoaded {s : State} (hm : memWf s.mem = true) (gk r n k : Nat) (a : Ag) (d : AgDesc) (u : AgUnit) :
    memWf (State.agLoaded s gk r n k a d u).mem = true := by
  unfold State.agLoaded
  dsimp only
  repeat' split
  all_goals simp [hm]

@[simp] theorem memWf_agWritePart {s : State} (hm : memWf s.mem = true) (gk r n k : Nat) (d : AgDesc) (u : AgUnit) (ps : List (Nat × MemAttr)) :
    memWf (State.agWritePart s gk r n k d u ps).mem = true := by
  unfold State.agWritePart
  dsimp only
  split
  · simpa using hm
  · rename_i h
    have h1 := memWf_writeAt h hm
    repeat' split
    all_goals simp [h1]

theorem memWf_clearMap {s t : State} {x : XCtx} {rg : Region} {step n fuel : Nat} (h : s.clearMap x rg step n fuel = .ok t)
    (hm : memWf s.mem = true) :
    memWf t.mem = true := by
  induction fuel generalizing s n with
  | zero =>
    obtain rfl := Except.ok.inj h
    exact hm
  | succ fuel ih =>
    unfold State.clearMap at h
    dsimp only at h
    split at h
    · obtain rfl := Except.ok.inj h
      exact hm
    · split at h
      · cases h
      · split at h
        · cases h
        · rename_i he
          exact ih h (memWf_engPut he (by rwa [State.engLinked_mem]))

@[simp] theorem memWf_agRefill {s : State} (hm : memWf s.mem = true) (g : Group) (key : Nat) : memWf (State.agRefill s g key).mem = true := by
  unfold State.agRefill
  split
  · exact memWf_agDrain hm _ _ _
  · exact hm

@[simp] theorem memWf_decideTile {s : State} (hm : memWf s.mem = true) (gk i k : Nat) (skip : Bool) :
    memWf (State.decideTile s gk i k skip).mem = true := by
  unfold State.decideTile
  split
  · exact hm
  · split
    · exact hm
    · split
      · extract_lets tiles s1 s2 s3
        have h1 : memWf s1.mem = true := hm
        have h2 : memWf s2.mem = true := by
          simp only [s2]
          split
          · exact h1
          · refine memWf_foldl (fun st w h => ?_) (by simpa using h1) _
            repeat' split
            all_goals simp [h]
        have h3 : memWf s3.mem = true := by
          simp only [s3]
          repeat' split
          all_goals simp [h2]
        exact memWf_agRefill h3 _ _
      · exact hm

@[simp] theorem memWf_startRecords {s : State} (hm : memWf s.mem = true) (g : Group) : memWf (State.startRecords s g).mem = true := by
  unfold State.startRecords
  split
  · exact hm
  · refine memWf_foldl (fun st v h => ?_) hm _
    split
    · split
      · exact memWf_putBytes _ _ _ h
      · exact h
    · exact h

@[simp] theorem memWf_drainStep {s : State} (hm : memWf s.mem = true) (gk : Nat) : memWf (State.drainStep s gk).mem = true := by
  unfold State.drainStep
  split
  · exact hm
  · extract_lets s1 s2
    have h2 : memWf s2.mem = true := by
      simp only [s2]
      rw [foldl_mem _ fun _ _ => State.drainIn_mem _ _ _]
      exact hm
    split
    · exact h2
    · refine memWf_foldl (fun st a h => ?_) h2 _
      extract_lets x loads
      split
      · exact memWf_agFinish h _ _
      · exact h

@[simp] theorem memWf_tagWrite {s : State} (hm : memWf s.mem = true) (gk key : Nat) (ws : List W32) :
    memWf (State.tagWrite s gk key ws).mem = true := by
  unfold State.tagWrite
  refine memWf_foldl (fun st w h => ?_) hm _
  repeat' split
  all_goals simp [h]

@[simp] theorem memWf_tagSink {s : State} (hm : memWf s.mem = true) (r k : Nat) (j : CopyJob) (i b q : Nat) (bs : List Byte)
    (sinks : List (Option CopySink)) : memWf (State.tagSink s r k j i b q bs sinks).mem = true := by
  unfold State.tagSink
  repeat' split
  all_goals simp [hm]

@[simp] theorem memWf_copyPut {s : State} (hm : memWf s.mem = true) (r k : Nat) (j : CopyJob) (i b : Nat) (va : W64) (bs : List Byte)
    (l : List (Option CopySink)) : memWf (State.copyPut s r k j i b va bs l).mem = true := by
  unfold State.copyPut
  split
  · split
    · exact hm
    · refine memWf_foldl (fun st p h => ?_) hm _
      split
      · exact h
      · split
        · simpa using h
        · rename_i he
          simpa using memWf_engWrite he h
  · split
    · simpa using hm
    · rename_i he
      simpa using memWf_engWrite he hm

@[simp] theorem memWf_copyPart {s : State} (hm : memWf s.mem = true) (r k i b : Nat) : memWf (State.copyPart s r k i b).mem = true := by
  unfold State.copyPart
  split
  · exact hm
  · split
    · exact hm
    · split
      · split
        · exact hm
        · split
          · simpa using hm
          · simpa [State.engLinked_mem] using hm
      · dsimp only
        split
        · simpa using hm
        · split
          · exact hm
          · split
            · split
              · exact hm
              · exact memWf_copyPut hm _ _ _ _ _ _ _ _
            · split
              · exact hm
              · split
                · simpa using hm
                · rename_i he
                  simpa using memWf_writeAt he hm
            · exact memWf_tagSink hm _ _ _ _ _ _ _ _
            · exact hm

@[simp] theorem memWf_crnPart {s : State} (hm : memWf s.mem = true) (r k : Nat) : memWf (State.crnPart s r k).mem = true := by
  unfold State.crnPart
  split
  · exact hm
  · split
    · exact hm
    · dsimp only
      split
      · rename_i he
        have h1 := memWf_engWrite he hm
        split <;> simpa using h1
      · simpa using hm
      · split <;> simpa using hm
      · simpa using hm

theorem memWf_enqueue {s t : State} {c : XCtx} {v sz : Nat} {rec : List Byte} (h : s.enqueue c v sz rec = .ok t) (hm : memWf s.mem = true) :
    memWf t.mem = true := by
  unfold State.enqueue at h
  dsimp only at h
  split at h
  · cases h
  · rename_i he
    obtain rfl := Except.ok.inj h
    rw [State.setVcsr_mem]
    exact memWf_engPut he hm

@[simp] theorem memWf_completion {s : State} (hm : memWf s.mem = true) (r v i : Nat) (tag : W64) (status code : Nat) :
    memWf (State.completion s r v i tag status code).mem = true := by
  unfold State.completion
  dsimp only
  split
  · simpa using hm
  · simpa using hm
  · split
    · rename_i he
      rw [State.door_mem]
      exact memWf_writeAt he (by simpa using hm)
    · simpa using hm

@[simp] theorem memWf_beginLaunch {s : State} (hm : memWf s.mem = true) (r v sz i : Nat) (q : LaunchRec) :
    memWf (State.beginLaunch s r v sz i q).mem = true := by
  unfold State.beginLaunch
  dsimp only
  repeat' split
  all_goals simp [hm, State.engLinked_mem]

@[simp] theorem memWf_endGraph {s : State} (hm : memWf s.mem = true) (r : Nat) : memWf (State.endGraph s r).mem = true := by
  unfold State.endGraph
  dsimp only
  repeat' split
  all_goals simp [hm]

theorem memWf_packetEnqueue {s t : State} {v sz : Nat} {rec : List Byte} (h : s.packetEnqueue v sz rec = .ok t) (hm : memWf s.mem = true) :
    memWf t.mem = true := by
  unfold State.packetEnqueue at h
  split at h
  · cases h
  · extract_lets x i root s1 at h
    split at h
    · exact memWf_enqueue h hm
    · split at h
      · cases h
      · rename_i he
        obtain rfl := Except.ok.inj h
        rw [State.updRing_mem]
        exact memWf_enqueue he hm

@[simp] theorem memWf_packetChecks {s : State} (hm : memWf s.mem = true) (d e : Nat) (p : LpEntry) (l : List Byte) :
    memWf (State.packetChecks s d e p l).mem = true := by
  unfold State.packetChecks
  extract_lets v seq diff p1 p2 s1
  have h1 : memWf s1.mem = true := by simpa [s1] using hm
  split
  · simpa using hm
  · split
    · simpa using hm
    · split
      · simpa using hm
      · split
        · simpa using hm
        · split
          · simpa using hm
          · split
            · simpa using h1
            · split
              · simpa using h1
              · split
                · simpa using h1
                · simpa using h1
                · simpa using h1
                · rename_i he
                  simpa using memWf_packetEnqueue he h1

@[simp] theorem memWf_saveHeld {s : State} (hm : memWf s.mem = true) (g : Group) : memWf (State.saveHeld s g).mem = true := by
  unfold State.saveHeld
  split
  · exact hm
  · refine memWf_foldl (fun st v h => ?_) hm _
    dsimp only
    split
    · split
      · exact memWf_putBytes _ _ _ h
      · exact h
    · exact h

theorem memWf_writeImages {s t : State} {v o : Nat} {l : List (Nat × List Byte)} (h : s.writeImages v o l = .ok t) (hm : memWf s.mem = true) :
    memWf t.mem = true := by
  induction l generalizing s with
  | nil =>
    obtain rfl := Except.ok.inj h
    exact hm
  | cons x l ih =>
    unfold State.writeImages at h
    split at h
    · cases h
    · rename_i he
      exact ih h (memWf_writeAt he hm)

theorem memWf_writeRooted {s t : State} {b v o kind : Nat} {gone : List Group} {imgs : List (Nat × List Byte)}
    (h : s.writeRooted b v o kind gone imgs = .ok t) (hm : memWf s.mem = true) : memWf t.mem = true := by
  unfold State.writeRooted at h
  split at h
  · cases h
  · rename_i he
    split at h
    · exact memWf_writeImages h hm
    · obtain rfl := Except.ok.inj h
      exact memWf_writeImages he hm

@[simp] theorem memWf_captured {s : State} (hm : memWf s.mem = true) (b : Nat) : memWf (State.captured s b).mem = true := by
  unfold State.captured
  dsimp only
  refine memWf_foldl (fun _ _ h => memWf_saveHeld h _) ?_ _
  rw [State.unloadAll_mem, foldl_mem _ fun _ _ => by simp]
  exact hm

/-- The strip as its capture leaves it: its rings' state is put by, their phases are gone, and the event is posted (R384). -/
def State.afterCapture (s1 : State) (b size : Nat) : State :=
  let s2 := (s1.stripRings b).foldl (init := s1) fun st r => st.stashRing b r
  let s3 := (s2.stripGroups b).foldl (init := s2) fun st g => st.freeGroup g.1 g.2
  let s4 := (s3.stripRings b).foldl (init := s3) fun st r => st.updRing r Ring.emptied
  let s5 := { s4 with chans := s4.chans.filter fun c => !(s1.stripChans b).any fun d => d.1 == c.1 }
  (s5.updStrip b fun t => { t with st := 2, size := size % 2 ^ 32, capture := false, next := none }).post (dieOf b) 3 0 0 b

/-- A capture fails, with its memory or without, or its images are written (R384). The body of `State.capture` is reached through the bare
constant: the kernel would evaluate the test of the applied one. -/
theorem State.capture_cases {P : State → Prop} {s0 : State} {b : Nat} {area : W64} {kind : Nat} (h1 : P (s0.captureFailed b))
    (h2 : ∀ e, P ((s0.captureFailed b).memFail b 0 e))
    (h3 : ∀ v o gone imgs s1 n, (s0.captured b).writeRooted b v o kind gone imgs = .ok s1 → P (s1.afterCapture b n)) :
    P (s0.capture b area kind) := by
  have h : @State.capture = @State.capture := rfl
  conv_rhs at h => delta State.capture
  rw [h]
  clear h
  beta_reduce
  extract_lets o v s1
  generalize (if treeBase < o + 6 * 2 ^ 20 ∨ (kind = 1 ∧ 1 < s1.tenants b) then none else s1.imagesOf b kind (s0.discarded b)) = im
  cases im with
  | none => exact h1
  | some imgs =>
    dsimp -zeta only
    cases he : s1.writeRooted b v o kind (s0.discarded b) imgs with
    | error e => exact h2 e
    | ok s2 => exact h3 v o (s0.discarded b) imgs s2 _ he

theorem memWf_afterCapture {s : State} (hm : memWf s.mem = true) (b n : Nat) : memWf (s.afterCapture b n).mem = true := by
  unfold State.afterCapture
  rw [State.post_mem, State.updStrip_mem]
  dsimp only
  rwa [foldl_mem _ fun _ _ => State.updRing_mem _ _ _, foldl_mem _ fun _ _ => State.freeGroup_mem _ _ _,
    foldl_mem _ fun _ _ => State.stashRing_mem _ _ _]

@[simp] theorem memWf_capture {s : State} (hm : memWf s.mem = true) (b : Nat) (area : W64) (kind : Nat) : memWf (s.capture b area kind).mem = true :=
  State.capture_cases (P := fun t => memWf t.mem = true) (by simpa using hm) (fun _ => by simpa using hm)
    fun _ _ _ _ _ _ he => memWf_afterCapture (memWf_writeRooted he (memWf_captured hm _)) _ _

@[simp] theorem memWf_fillBytes {s : State} (hm : memWf s.mem = true) (k : Nat) (bs : List Byte) : memWf (State.fillBytes s k bs).mem = true := by
  simp [State.fillBytes, hm, memWf_putBytes]

@[simp] theorem memWf_loadBanks {s : State} (hm : memWf s.mem = true) (r : Nat) (l : List Byte) : memWf (State.loadBanks s r l).mem = true := by
  simp [State.loadBanks, hm]

/-- A root counter of a migration image is installed, and what lies under a counter of 0 is fresh (R410, R418). -/
def State.rootFrom (p : List Byte) (r : Nat) (st : State) (i : Nat) (south : Bool) (j : Nat) : State :=
  let root : W64 := BitVec.ofNat 64 (field p (32 + 8 * i) 8)
  let st1 := if root = 0 then st.freshHalf (ringChan r south) j else st
  { st1 with roots := tput st1.roots (2 * ringChan r south + j) root }

theorem State.loadRoot_eq (s : State) (r v : Nat) (l : List Byte) : s.loadRoot r v l = match field l 6 1, s.migKey with
    | 1, some k =>
      let p := gcmText (keyBytes k) (slice (imgSection l 7) 0 12) (slice (imgSection l 7) 16 64)
      State.rootFrom p r (State.rootFrom p r (State.rootFrom p r (State.rootFrom p r
        { s with vfKeys := tput s.vfKeys v (BitVec.ofNat 256 (field p 0 32)) } 0 false 0) 1 false 1) 2 true 0) 3 true 1
    | _, _ => s := rfl

theorem memWf_rootFrom {st : State} (h : memWf st.mem = true) (p : List Byte) (r i : Nat) (south : Bool) (j : Nat) :
    memWf (State.rootFrom p r st i south j).mem = true := by
  unfold State.rootFrom
  dsimp only
  split
  · exact memWf_filter _ _ h
  · exact h

@[simp] theorem memWf_loadRoot {s : State} (hm : memWf s.mem = true) (r v : Nat) (l : List Byte) : memWf (s.loadRoot r v l).mem = true := by
  rw [State.loadRoot_eq]
  generalize field l 6 1 = f
  rcases f with _ | _ | f <;> cases s.migKey
  case succ.zero.some k =>
    show memWf (State.rootFrom _ r _ 3 true 1).mem = true
    refine memWf_rootFrom ?_ _ _ _ _ _
    refine memWf_rootFrom ?_ _ _ _ _ _
    refine memWf_rootFrom ?_ _ _ _ _ _
    refine memWf_rootFrom ?_ _ _ _ _ _
    exact hm
  all_goals exact hm

@[simp] theorem memWf_loadStrip {s : State} (hm : memWf s.mem = true) (b v : Nat) (imgs : List (List Byte)) :
    memWf (State.loadStrip s b v imgs).mem = true := by
  unfold State.loadStrip
  dsimp only
  rw [foldl_mem _ fun _ _ => by split <;> simp, State.updVf_mem, foldl_mem _ fun _ _ => State.reissueAll_mem _ _ _ _, State.boundRegions_mem,
    foldl_mem _ fun _ _ => State.resumePhase_mem _ _ _ _, foldl_mem _ fun _ _ => by split <;> rfl, foldl_mem _ fun _ _ => State.loadTiles_mem _ _ _]
  exact memWf_foldl (fun _ _ h => by simp [memWf_loadRoot, memWf_loadBanks, h]) hm _

@[simp] theorem memWf_restore {s : State} (hm : memWf s.mem = true) (b : Nat) (area : W64) : memWf (State.restore s b area).mem = true := by
  unfold State.restore
  extract_lets o v rings fit failed
  have hf : memWf failed.mem = true := by simpa [failed] using hm
  split
  · exact hf
  · split
    · exact hf
    · simpa using hf
    · split
      · rw [State.updStrip_mem]
        exact memWf_loadStrip hm _ _ _
      · exact hf

@[simp] theorem memWf_wipe {s : State} (hm : memWf s.mem = true) (r : Nat) (pool camp : Bool) : memWf (State.wipe s r pool camp).mem = true := by
  unfold State.wipe
  exact memWf_filter _ _ hm

@[simp] theorem memWf_switchRing {s : State} (hm : memWf s.mem = true) (r old new vf : Nat) : memWf (State.switchRing s r old new vf).mem = true := by
  simp [State.switchRing, hm]

@[simp] theorem memWf_switchTo {s : State} (hm : memWf s.mem = true) (b t : Nat) : memWf (State.switchTo s b t).mem = true := by
  unfold State.switchTo
  extract_lets e vf old rings s1 had s2 s3
  have h1 : memWf s1.mem = true := memWf_foldl (fun _ _ h => memWf_switchRing h _ _ _ _) hm _
  have h2 : memWf s2.mem = true := by
    simp only [s2]
    rwa [State.updStrip_mem]
  have h3 : memWf s3.mem = true := by
    simp only [s3]
    split
    · exact memWf_restore h2 _ _
    · exact h2
  rwa [foldl_mem _ fun _ _ => State.giveHeld_mem _ _ _]

@[simp] theorem memWf_freshChannel {s : State} (hm : memWf s.mem = true) (g : Nat) : memWf (State.freshChannel s g).mem = true := by
  simp [State.freshChannel, hm]

@[simp] theorem memWf_start {s : State} (hm : memWf s.mem = true) (want failStep : Nat) : memWf (State.start s want failStep).mem = true := by
  unfold State.start
  exact memWf_filter _ _ hm

@[simp] theorem memWf_cycleRest {s : State} (hm : memWf s.mem = true) (gk : Nat) (st : Stage) : memWf (State.cycleRest s gk st).mem = true := by
  unfold State.cycleRest
  extract_lets drainAll close land
  have hd {u : State} (hu : memWf u.mem = true) : memWf (drainAll u).mem = true := by
    simp only [drainAll]
    split
    · exact hu
    · rw [foldl_mem _ fun _ _ => State.drainRow_mem _ _ _]
      exact hu
  have hc {u : State} (hu : memWf u.mem = true) : memWf (close u).mem = true := by
    simp only [close]
    split
    · exact hu
    · split
      · exact memWf_itemBoundary hu _
      · exact hu
  have hl {u : State} (hu : memWf u.mem = true) : memWf (land u).mem = true := hc (memWf_settleRecs (memWf_commit hu _) _)
  split
  · exact hm
  · exact hm
  · exact hl (hd (by simpa using hm))
  · exact hl (hd (by simpa using hm))
  · exact hl (hd hm)
  · refine hl ?_
    split
    · exact hd hm
    · exact hm
  · exact hl hm
  · exact hc hm
  · exact hc hm
  · exact memWf_settleRecs hm _

@[simp] theorem memWf_endFault {s : State} (hm : memWf s.mem = true) (gk : Nat) : memWf (State.endFault s gk).mem = true := by
  unfold State.endFault
  dsimp only
  repeat' split
  all_goals simp [hm]

@[simp] theorem memWf_fabricMove {s : State} (hm : memWf s.mem = true) (gk : Nat) : memWf (s.fabricMove gk).2.mem = true := by
  have hc : memWf ((s.commit gk).settleRecs gk).mem = true := memWf_settleRecs (memWf_commit hm gk) gk
  unfold State.fabricMove
  split
  · exact hm
  · dsimp only
    repeat' split
    all_goals simp [hm, hc, memWf_crossTick]

end Sys2Proof.Machine
end

section
/-! Every meaning keeps the form of memory: those that share a shape by a lemma of the shape, and the others by their branches. -/

namespace Sys2Proof.Machine

/-- What a meaning answers keeps the form of memory. -/
def EndsWf (o : Out) : Prop := ∀ t, o = .next t → memWf t.mem = true

@[simp] theorem endsWf_next {t : State} : EndsWf (.next t) ↔ memWf t.mem = true :=
  ⟨fun h => h t rfl, fun h u e => by
    obtain rfl := Host.Outcome.next.inj e
    exact h⟩

theorem endsWf_ite {p : Prop} [Decidable p] {o o' : Out} (h : EndsWf o) (h' : EndsWf o') : EndsWf (if p then o else o') := by
  split
  · exact h
  · exact h'

theorem endsWf_regOp {s : State} (hm : memWf s.mem = true) (d : BitVec 5) (srcs : List (BitVec 5)) (v : State → W64) : EndsWf (regOp d srcs v s) :=
  endsWf_ite (endsWf_next.2 hm) (endsWf_next.2 (by simpa using hm))

theorem endsWf_jumpTo {s : State} (hm : memWf s.mem = true) (a : W64) (l : Option (BitVec 5)) : EndsWf (jumpTo a l s) := by
  obtain ⟨_, h⟩ | ⟨_, h⟩ := jumpTo_cases a l s
  · simpa [h] using hm
  · cases l <;> simpa [h] using hm

section
variable {i : Instr} {f : Nat → State → Out} {s : State} (hm : memWf s.mem = true) (h : ∀ r t, memWf t.mem = true → EndsWf (f r t))
include hm h

theorem endsWf_onRing : EndsWf (onRing i f s) := by
  unfold onRing
  split
  · exact h _ _ hm
  · simpa using hm

theorem endsWf_atS : EndsWf (atS i f s) := by
  unfold atS
  split
  · simpa using hm
  · exact endsWf_ite (by simpa using hm) (h _ _ hm)

theorem endsWf_atH : EndsWf (atH i f s) := by
  unfold atH
  split
  · simpa using hm
  · exact h _ _ hm

end

theorem endsWf_withRecord {s : State} (hm : memWf s.mem = true) {regs : List (BitVec 5)} {va : W64} {n al : Nat} {k : List Byte → State → Out}
    (h : ∀ l u, memWf u.mem = true → EndsWf (k l u)) : EndsWf (withRecord regs va n al k s) := by
  unfold withRecord
  split
  · simpa using hm
  · split
    · simpa using hm
    · rename_i hr
      have h1 := (congrArg memWf (State.readNow_mem hr)).trans hm
      exact endsWf_ite (endsWf_next.2 h1) (h _ _ h1)

theorem memWf_arrival {s : State} (hm : memWf s.mem = true) (vf qp : Nat) {k : State → Nat → List Byte → Except EngErr State}
    (hk : ∀ t r l u, memWf t.mem = true → k t r l = .ok u → memWf u.mem = true) : memWf (s.arrival vf qp k).mem = true := by
  unfold State.arrival
  split
  · exact hm
  · extract_lets fail
    have hfail (e : EngErr) : memWf (fail e).mem = true := by
      simp only [fail]
      split
      · simpa using hm
      · exact hm
    split
    · exact hfail _
    · exact hm
    · split
      · exact hfail _
      · rename_i he
        exact hk _ _ _ _ (by rwa [State.engLinked_mem]) he

theorem memWf_readFor {s : State} (hm : memWf s.mem = true) {th : Thread} {seq : Nat} {dep : Dep} {va : W64} {ps : List (Nat × MemAttr)} {g : Got}
    (h : s.readFor th seq dep va ps = .ok g) : memWf g.state.mem = true :=
  (congrArg memWf (KeepsThreads.readFor h).mem).trans hm

theorem memWf_outState {s : State} (hm : memWf s.mem = true) {o : Out} (ho : EndsWf o) : memWf (outState s o).mem = true := by
  cases o with
  | next t => exact endsWf_next.1 ho
  | fault => exact hm
  | refused => exact hm

section
variable {s : State} (hm : memWf s.mem = true)
include hm

theorem endsWf_loadWriteback (th k part : Nat) : EndsWf (execLoadWriteback th k part s) := by
  unfold execLoadWriteback
  extract_lets t q
  split
  · exact endsWf_next.2 hm
  · refine endsWf_ite (endsWf_next.2 hm) ?_
    extract_lets fail
    have hfail (e : MemErr) : EndsWf (fail e) := endsWf_next.2 (by simpa using hm)
    split
    · exact endsWf_next.2 (memWf_performAmo hm _ _ _ _ _ _)
    · split
      · exact hfail _
      · rename_i hg
        exact endsWf_next.2 (by simpa using memWf_readFor hm hg)
    · refine endsWf_ite ?_ ?_
      · split
        · rename_i hg
          refine endsWf_next.2 ?_
          split <;> simpa using memWf_readFor hm hg
        · exact hfail _
      · split
        · exact endsWf_next.2 hm
        · split
          · exact hfail _
          · rename_i hg
            have h1 := memWf_readFor hm hg
            exact endsWf_ite (endsWf_next.2 (by simpa using h1)) (endsWf_next.2 (by simpa using h1))

theorem endsWf_storePerform (th k : Nat) : EndsWf (execStorePerform th k s) := by
  unfold execStorePerform
  extract_lets t q
  split
  · exact endsWf_next.2 hm
  · refine endsWf_ite (endsWf_next.2 hm) ?_
    have h1 (f : Seq → Seq) : memWf (s.updSeq t f).mem = true := by simpa using hm
    split
    · rename_i he
      exact endsWf_next.2 (by simpa using memWf_writeFor he (h1 _))
    · rw [endsWf_next, State.settleRanges_mem, State.threadFail_mem]
      exact h1 _

theorem endsWf_tileDecision (gk : Nat) : EndsWf (execTileDecision gk s) := by
  unfold execTileDecision
  split
  · exact endsWf_next.2 hm
  · refine endsWf_ite (endsWf_next.2 hm) ?_
    dsimp only
    split
    · exact endsWf_next.2 hm
    · split
      · exact endsWf_next.2 (by simpa using hm)
      · rename_i he
        exact endsWf_next.2 (by simpa using memWf_clearMap he hm)
    · split
      · exact endsWf_next.2 hm
      · exact endsWf_next.2 (memWf_decideTile hm _ _ _ _)
      · split
        · split
          · exact endsWf_next.2 (by simpa [State.engLinked_mem] using hm)
          · rename_i u1 he1
            have h1 : memWf u1.mem = true := by
              split at he1
              · obtain rfl := Except.ok.inj he1
                simpa [State.engLinked_mem] using hm
              · exact memWf_engPut he1 (by simpa [State.engLinked_mem] using hm)
            split
            · exact endsWf_next.2 (by simpa [State.engLinked_mem] using hm)
            · rename_i he2
              split
              · exact endsWf_next.2 (by simpa [State.engLinked_mem] using hm)
              · rename_i he3
                exact endsWf_next.2 (memWf_decideTile (memWf_engPut he3 (memWf_engPut he2 h1)) _ _ _ _)
        all_goals exact endsWf_next.2 (by simpa using hm)

theorem endsWf_ploadAccept (r k : Nat) : EndsWf (execPloadAccept r k s) := by
  unfold execPloadAccept
  split
  · exact endsWf_next.2 hm
  · split
    · refine endsWf_ite (endsWf_next.2 hm) ?_
      split
      · exact endsWf_next.2 (by simpa using hm)
      · dsimp only
        refine endsWf_ite (endsWf_next.2 (by simpa using hm)) (endsWf_ite (endsWf_next.2 hm) ?_)
        split
        · exact endsWf_next.2 (by simpa using hm)
        · split
          · exact endsWf_next.2 (by simpa using hm)
          · refine endsWf_next.2 ?_
            rw [State.updRec_mem]
            exact memWf_startRecords (by simpa [State.engLinked_mem] using hm) _
    · exact endsWf_next.2 hm

theorem endsWf_remoteWriteImmediateArrival (vf qp : Nat) (addr : BitVec 64) (data : List (BitVec 8)) (imm : BitVec 32) :
    EndsWf (execRemoteWriteImmediateArrival vf qp addr data imm s) := by
  refine endsWf_next.2 (memWf_arrival hm _ _ fun t r l u ht hu => ?_)
  split at hu
  · obtain rfl := Except.ok.inj hu
    exact ht
  · split at hu
    · cases hu
    · rename_i t1 he
      obtain rfl := Except.ok.inj hu
      cases hk : (t1.opDone r Front.zero).sendToken r (field l 20 1 % 16) imm with
      | none => exact ht
      | some t2 =>
        rw [Option.getD_some, State.sendToken_mem hk, State.opDone_mem]
        exact memWf_engWrite he ht

theorem endsWf_remoteAccessArrival (vf qp : Nat) (addr : BitVec 64) (wr : Option (List (BitVec 8))) (n : Nat) :
    EndsWf (execRemoteAccessArrival vf qp addr wr n s) := by
  refine endsWf_next.2 (memWf_arrival hm _ _ fun t r l u ht hu => ?_)
  split at hu
  · exact memWf_engWrite hu ht
  · split at hu
    · cases hu
    · obtain rfl := Except.ok.inj hu
      rwa [State.engLinked_mem]

theorem endsWf_launch (a : BitVec 5) : EndsWf (execLaunch a s) := by
  refine endsWf_onRing hm fun r t ht => endsWf_ite (endsWf_next.2 ht) (endsWf_withRecord ht fun l u hu => ?_)
  dsimp only
  split
  · exact endsWf_next.2 (by simpa using hu)
  · refine endsWf_ite (endsWf_next.2 hu) ?_
    split
    · rename_i he
      exact endsWf_next.2 (by simpa using memWf_enqueue he hu)
    all_goals exact endsWf_next.2 (by simpa using hu)

theorem endsWf_isave (d a b : BitVec 5) : EndsWf (execIsave d a b s) := by
  refine endsWf_atS hm fun r t ht => endsWf_ite (endsWf_next.2 ht) ?_
  cases t.spanFor r .store (t.x a) (t.x b).toNat 64 with
  | error e => simpa using ht
  | ok ps =>
    dsimp only
    generalize (State.imageBytes _ _ _ _ _ _).length = size
    generalize State.imageBytes _ _ _ _ _ _ = bs
    refine endsWf_ite (endsWf_next.2 ht) (endsWf_ite (endsWf_next.2 (by simpa using ht)) ?_)
    split
    · simpa using ht
    · simpa using ht
    · simpa using ht
    · rename_i he
      simpa using memWf_writeAt he ht

theorem endsWf_rimgctlDump : EndsWf (execRimgctlDump s) := by
  unfold execRimgctlDump
  refine endsWf_ite (endsWf_next.2 hm) ?_
  dsimp only
  split
  · exact endsWf_next.2 (by simpa using hm)
  · split
    · exact endsWf_next.2 (by simpa using hm)
    · rename_i he
      exact endsWf_next.2 (by simpa using memWf_writeImages he hm)

theorem endsWf_hostAccess (pa : Nat) (wr : Option (List (BitVec 8))) : EndsWf (execHostAccess pa wr s) := by
  unfold execHostAccess
  extract_lets r sync
  refine endsWf_ite ?_ (endsWf_ite (endsWf_next.2 hm) ?_)
  · split
    · exact endsWf_next.2 hm
    · exact endsWf_next.2 (memWf_putSeen _ _ _ _ _ _ hm)
  · split
    · exact endsWf_next.2 hm
    · split
      · rename_i he
        exact endsWf_next.2 (memWf_writeAt he hm)
      · exact endsWf_next.2 (by simpa using hm)
    · split
      · exact endsWf_next.2 (by simpa using hm)
      · exact endsWf_next.2 hm

end

theorem memWf_of_ite {p : Prop} [Decidable p] {t u : State} (ht : memWf t.mem = true) (hu : memWf u.mem = true) :
    memWf (if p then t else u).mem = true := by
  split
  · exact ht
  · exact hu

theorem memWf_veBody {srcs : List (BitVec 5)} {body : Ops → State → State} (hb : ∀ o st, memWf st.mem = true → memWf (body o st).mem = true)
    (w : View) {s : State} (hm : memWf s.mem = true) : memWf (veBody srcs body w s).mem = true := by
  unfold veBody
  split
  · exact hb _ _ ((congrArg memWf (View.takeIn_mem w 1 s)).trans hm)
  · exact hb _ _ hm

theorem memWf_veWord {s : State} (hm : memWf s.mem = true) {g : BitVec 2} {srcs : List (BitVec 5)} {body : Ops → State → State}
    (hb : ∀ o st, memWf st.mem = true → memWf (body o st).mem = true) : memWf (veWord g srcs body s).mem = true := by
  cases hv : s.view with
  | none => simpa [veWord, hv] using hm
  | some w =>
    simp only [veWord, hv]
    split
    · exact memWf_veBody hb w hm
    · exact hm

theorem memWf_veImm {s : State} (hm : memWf s.mem = true) {srcs : List (BitVec 5)} {body : Ops → State → State}
    (hb : ∀ o st, memWf st.mem = true → memWf (body o st).mem = true) : memWf (veImm srcs body s).mem = true := by
  cases hv : s.view with
  | none => simpa [veImm, hv] using hm
  | some w =>
    simp only [veImm, hv]
    exact memWf_veBody hb w hm

section
variable {s : State} (hm : memWf s.mem = true)
include hm

theorem memWf_outNext {o : Out} (h : EndsWf o) : EndsWf (.next (outState s o).done) := by
  rw [endsWf_next, State.done_mem]
  exact memWf_outState hm h

theorem endsWf_tsentEnable (n : Nat) (v : BitVec 64) : EndsWf (execTsentEnable n v s) := by
  simp only [execTsentEnable]
  repeat' split
  all_goals simp [hm]

theorem endsWf_rctlResumeInject : EndsWf (execRctlResumeInject s) := by
  simp only [execRctlResumeInject]
  repeat' split
  all_goals simp [hm]

theorem endsWf_rctlResume : EndsWf (execRctlResume s) := by
  simp only [execRctlResume]
  repeat' split
  all_goals simp [hm]

theorem endsWf_rctlPreq : EndsWf (execRctlPreq s) := by
  simp only [execRctlPreq]
  repeat' split
  all_goals simp [hm]

theorem endsWf_rnoteWrite (v : BitVec 64) : EndsWf (execRnoteWrite v s) := by
  simp only [execRnoteWrite]
  repeat' split
  all_goals simp [hm]

theorem endsWf_rimgctlRest : EndsWf (execRimgctlRest s) := by
  simp only [execRimgctlRest]
  repeat' split
  all_goals simp [hm]

theorem endsWf_prqRetry : EndsWf (execPrqRetry s) := by
  simp only [execPrqRetry]
  simp [hm]

theorem endsWf_prqFail : EndsWf (execPrqFail s) := by
  simp only [execPrqFail]
  simp [hm]

theorem endsWf_prqForward : EndsWf (execPrqForward s) := by
  simp only [execPrqForward]
  repeat' split
  all_goals simp [hm]

theorem endsWf_kctlLoad : EndsWf (execKctlLoad s) := by
  simp only [execKctlLoad]
  simp [hm]

theorem endsWf_kctlDraw : EndsWf (execKctlDraw s) := by
  simp only [execKctlDraw]
  simp [hm]

theorem endsWf_kctlDestroy : EndsWf (execKctlDestroy s) := by
  simp only [execKctlDestroy]
  simp [hm]

theorem endsWf_kctlLoadMigration : EndsWf (execKctlLoadMigration s) := by
  simp only [execKctlLoadMigration]
  simp [hm]

theorem endsWf_kctlStopVf : EndsWf (execKctlStopVf s) := by
  simp only [execKctlStopVf]
  repeat' split
  all_goals simp [hm]

theorem endsWf_kinitctlGo : EndsWf (execKinitctlGo s) := by
  simp only [execKinitctlGo]
  repeat' split
  all_goals simp [hm]

theorem endsWf_wvalidSet : EndsWf (execWvalidSet s) := by
  simp only [execWvalidSet]
  simp [hm]

theorem endsWf_wvalidClear : EndsWf (execWvalidClear s) := by
  simp only [execWvalidClear]
  simp [hm]

theorem endsWf_rpwrQuiesce : EndsWf (execRpwrQuiesce s) := by
  simp only [execRpwrQuiesce]
  repeat' split
  all_goals simp [hm]

theorem endsWf_rpwrSave : EndsWf (execRpwrSave s) := by
  simp only [execRpwrSave]
  repeat' split
  all_goals simp [hm]

theorem endsWf_rpwrGateClock : EndsWf (execRpwrGateClock s) := by
  simp only [execRpwrGateClock]
  repeat' split
  all_goals simp [hm]

theorem endsWf_rpwrGateRail : EndsWf (execRpwrGateRail s) := by
  simp only [execRpwrGateRail]
  repeat' split
  all_goals simp [hm]

theorem endsWf_rpwrWake : EndsWf (execRpwrWake s) := by
  simp only [execRpwrWake]
  repeat' split
  all_goals simp [hm]

theorem endsWf_rdbgdWrite (v : BitVec 64) : EndsWf (execRdbgdWrite v s) := by
  unfold execRdbgdWrite
  refine endsWf_ite (by simpa using hm) ?_
  split
  · rename_i h
    simpa [State.dbgStore_mem h] using hm
  · simpa using hm

/-- A write of RCTL resumes the ring, with or without its injected entry, and then requests its pre-emption (R355). -/
theorem memWf_rctlWrite (v : W64) : memWf (let s1 := if bit v 0 then (if bit v 1 then outState s (execRctlResumeInject s)
    else outState s (execRctlResume s)) else s; if bit v 3 then outState s1 (execRctlPreq s1) else s1).mem = true := by
  have h1 : memWf (if bit v 0 then (if bit v 1 then outState s (execRctlResumeInject s) else outState s (execRctlResume s)) else s).mem
      = true := by
    refine memWf_of_ite (memWf_of_ite ?_ ?_) hm
    · exact memWf_outState hm (endsWf_rctlResumeInject hm)
    · exact memWf_outState hm (endsWf_rctlResume hm)
  exact memWf_of_ite (memWf_outState h1 (endsWf_rctlPreq h1)) h1

/-- A write of RIMGCTL dumps the strip, and then restores it (R357). -/
theorem memWf_rimgctlWrite (v : W64) : memWf (let s2 := if bit v 2 then outState s (execRimgctlDump s) else s;
    if bit v 1 then outState s2 (execRimgctlRest s2) else s2).mem = true := by
  have h1 : memWf (if bit v 2 then outState s (execRimgctlDump s) else s).mem = true :=
    memWf_of_ite (memWf_outState hm (endsWf_rimgctlDump hm)) hm
  exact memWf_of_ite (memWf_outState h1 (endsWf_rimgctlRest h1)) h1

theorem memWf_windowWrite (r n : Nat) (v : W64) : memWf (s.windowWrite r n v).mem = true := by
  unfold State.windowWrite
  extract_lets act
  refine memWf_of_ite ?_ (memWf_of_ite (memWf_outState hm (endsWf_tsentEnable hm _ _)) ?_)
  · split
    · simpa using hm
    · simpa using hm
  · split
    case h_1 => exact memWf_rctlWrite hm v
    case h_3 => exact memWf_outState hm (endsWf_rnoteWrite hm v)
    case h_7 =>
      refine memWf_of_ite ?_ hm
      exact memWf_rimgctlWrite (s := s.setRcsr r 0x2121 (v &&& 8)) (by simpa using hm) v
    case h_9 => exact memWf_outState hm (endsWf_rdbgdWrite hm v)
    case h_10 =>
      split
      · exact memWf_outState hm (endsWf_rpwrQuiesce hm)
      · exact memWf_outState hm (endsWf_rpwrSave hm)
      · exact memWf_outState hm (endsWf_rpwrGateClock hm)
      · exact memWf_outState hm (endsWf_rpwrGateRail hm)
      · exact memWf_outState hm (endsWf_rpwrWake hm)
      · exact hm
    all_goals
      repeat' split
      all_goals simp [hm]

theorem memWf_coreWrite (d n : Nat) (v : W64) : memWf (s.coreWrite d n v).mem = true := by
  unfold State.coreWrite
  extract_lets act x e
  refine memWf_of_ite (memWf_windowWrite hm _ _ _) ?_
  split
  case h_10 =>
    split
    · exact memWf_outState hm (endsWf_prqRetry hm)
    · exact memWf_outState hm (endsWf_prqFail hm)
    · exact memWf_outState hm (endsWf_prqForward hm)
    · exact hm
  case h_11 =>
    split
    · exact memWf_outState hm (endsWf_kctlLoad hm)
    · exact memWf_outState hm (endsWf_kctlDraw hm)
    · exact memWf_outState hm (endsWf_kctlDestroy hm)
    · exact memWf_outState hm (endsWf_kctlLoadMigration hm)
    · exact memWf_outState hm (endsWf_kctlStopVf hm)
    · exact hm
  case h_12 =>
    exact memWf_of_ite (memWf_outState hm (endsWf_kinitctlGo hm)) hm
  case h_16 => exact memWf_outState hm (by simp [execWmemWrite, hm])
  case h_17 => exact memWf_outState hm (by simp [execWmemWrite, hm])
  case h_18 =>
    exact memWf_of_ite (memWf_outState hm (endsWf_wvalidSet hm)) (memWf_outState hm (endsWf_wvalidClear hm))
  all_goals
    repeat' split
    all_goals simp [hm]

end

theorem State.foldl_updRing_mem (f : Ring → Ring) (s : State) (l : List Nat) : (l.foldl (fun st r => st.updRing r f) s).mem = s.mem :=
  foldl_mem _ (fun _ _ => State.updRing_mem _ _ _) _ _

@[simp] theorem endsWf_operand {s : State} {v : W64} : EndsWf (s.operand v) ↔ memWf s.mem = true := by
  rw [State.operand, endsWf_next, State.trap_mem]

@[simp] theorem endsWf_status {s : State} {d : BitVec 5} {c : Nat} : EndsWf (s.status d c) ↔ memWf s.mem = true := by
  rw [State.status, endsWf_next, State.done_mem, State.setX_mem]

theorem endsWf_loadOp {s : State} (hm : memWf s.mem = true) (g : Bool) (d b : BitVec 5) (z o c : BitVec 2) (v : BitVec 10) :
    EndsWf (loadOp g d b z o c v s) := by
  obtain h | ⟨_, _, h⟩ | ⟨_, _, _, _, h⟩ := loadOp_cases g d b z o c v s <;> simpa [h] using hm

theorem endsWf_storeOp {s : State} (hm : memWf s.mem = true) (d b : BitVec 5) (z o c : BitVec 2) (v : BitVec 10) :
    EndsWf (storeOp d b z o c v s) := by
  obtain h | ⟨_, _, h⟩ | ⟨_, _, _, _, h⟩ := storeOp_cases d b z o c v s <;> simpa [h] using hm

theorem endsWf_amoOp {s : State} (hm : memWf s.mem = true) (k d a b : BitVec 5) (c o : BitVec 2) (z : BitVec 1) :
    EndsWf (amoOp k d a b c o z s) := by
  obtain h | ⟨_, _, h⟩ | ⟨_, _, _, _, h⟩ := amoOp_cases k d a b c o z s <;> simpa [h] using hm

theorem endsWf_of_scalarResult {i : Instr} {s : State} (hm : memWf s.mem = true) {d : BitVec 5} {regs : List (BitVec 5)} {v : W64}
    (h : scalarResult i s = some (d, regs, v)) : EndsWf (exec i s) := by
  obtain ⟨srcs, f, -, he, -⟩ := writesReg_of_scalarResult h
  rw [he]
  exact endsWf_regOp hm d srcs f

theorem endsWf_of_branchResult {i : Instr} {s : State} (hm : memWf s.mem = true) {regs : List (BitVec 5)} {off : Int} {taken : Bool}
    (h : branchResult i s = some (regs, off, taken)) : EndsWf (exec i s) := by
  obtain ⟨a, b, v, cond, -, -, -, he⟩ := exec_branchResult h
  rw [he]
  exact endsWf_ite (endsWf_next.2 hm) (endsWf_ite (endsWf_jumpTo hm _ _) (endsWf_next.2 (by simpa using hm)))

theorem endsWf_of_loadForm {i : Instr} {s : State} (hm : memWf s.mem = true) {g : Bool} {d b : BitVec 5} {z o c : BitVec 2} {v : BitVec 10}
    (h : loadForm i = some (g, d, b, z, o, c, v)) : EndsWf (exec i s) := by
  rw [exec_loadForm h]
  exact endsWf_loadOp hm _ _ _ _ _ _ _

theorem endsWf_of_amoForm {i : Instr} {s : State} (hm : memWf s.mem = true) {k d a b : BitVec 5} {c o : BitVec 2} {z : BitVec 1}
    (h : amoForm i = some (k, d, a, b, c, o, z)) : EndsWf (exec i s) := by
  rw [exec_amoForm h]
  exact endsWf_amoOp hm _ _ _ _ _ _ _

section
variable {s : State} (hm : memWf s.mem = true)
include hm

theorem endsWf_jtab (d a : BitVec 5) (imm : BitVec 16) : EndsWf (execJtab d a imm s) :=
  endsWf_ite (endsWf_next.2 hm) (endsWf_ite (endsWf_next.2 (by simpa using hm)) (endsWf_withRecord hm fun _ _ hu =>
    endsWf_ite (endsWf_next.2 (by simpa using hu)) (endsWf_next.2 (by simpa using hu))))

theorem endsWf_billetArm (d a : BitVec 5) : EndsWf (execBilletArm d a s) :=
  endsWf_onRing hm fun _ _ ht => endsWf_ite (endsWf_next.2 ht) (endsWf_ite (endsWf_next.2 (by simpa using ht))
    (endsWf_withRecord ht fun _ _ hu => endsWf_next.2 (by simpa using hu)))

theorem endsWf_crnDef (d a : BitVec 5) : EndsWf (execCrnDef d a s) :=
  endsWf_onRing hm fun _ _ ht => endsWf_ite (endsWf_next.2 ht) (endsWf_ite (endsWf_next.2 (by simpa using ht))
    (endsWf_withRecord ht fun _ _ hu => endsWf_ite (endsWf_next.2 (by simpa using hu)) (endsWf_next.2 (by simpa using hu))))

theorem endsWf_gcfg (d a : BitVec 5) : EndsWf (execGcfg d a s) := by
  refine endsWf_atH hm fun _ _ ht => endsWf_ite (endsWf_next.2 ht) (endsWf_withRecord ht fun _ _ hu => ?_)
  dsimp only
  repeat' split
  all_goals simp [hu]

theorem endsWf_ccfg (d a : BitVec 5) : EndsWf (execCcfg d a s) := by
  refine endsWf_atH hm fun _ _ ht => endsWf_ite (endsWf_next.2 ht) (endsWf_withRecord ht fun _ u hu => ?_)
  have h1 (f : Ring → Ring) (l : List Nat) : memWf (l.foldl (fun st r => st.updRing r f) u).mem = true :=
    (congrArg memWf (State.foldl_updRing_mem f u l)).trans hu
  dsimp only
  repeat' split
  all_goals simp [hu, h1]

theorem endsWf_bootctlCold (n : Nat) : EndsWf (execBootctlCold n s) := by
  simp only [execBootctlCold]
  simp [hm]

theorem endsWf_bootctlWarm (n : Nat) : EndsWf (execBootctlWarm n s) := by
  simp only [execBootctlWarm]
  simp [hm]

theorem endsWf_registerWrite (n : Nat) (v : BitVec 64) : EndsWf (execRegisterWrite n v s) := by
  unfold execRegisterWrite
  split
  · simpa using hm
  · exact endsWf_next.2 (memWf_coreWrite hm _ _ _)

theorem endsWf_csrw (a : BitVec 5) (n : BitVec 14) : EndsWf (execCsrw a n s) := by
  unfold execCsrw
  extract_lets k
  split
  · simpa using hm
  · refine endsWf_ite (endsWf_next.2 hm) ?_
    extract_lets
    split
    · refine endsWf_ite (by simpa using hm) (endsWf_ite ?_ (by simpa using hm))
      extract_lets s1
      have h1 : memWf s1.done.mem = true := by simpa [s1] using hm
      exact endsWf_ite (endsWf_next.2 (memWf_endGraph h1 _)) (by simpa [s1] using hm)
    · refine endsWf_ite (endsWf_ite (endsWf_bootctlCold hm _) (endsWf_bootctlWarm hm _)) ?_
      rw [endsWf_next, State.done_mem]
      exact memWf_coreWrite hm _ _ _

theorem endsWf_csrr (d : BitVec 5) (n : BitVec 14) : EndsWf (execCsrr d n s) := by
  simp only [execCsrr]
  split
  · simpa using hm
  · refine endsWf_ite (endsWf_next.2 hm) ?_
    split
    · simpa using hm
    · split
      · refine memWf_outNext hm ?_
        simp only [execHevtRead]
        simp [hm]
      · refine memWf_outNext hm ?_
        simp only [execPrqpopRead]
        repeat' split
        all_goals simp [hm]
      · refine memWf_outNext hm ?_
        simp only [execRdbgdRead]
        repeat' split
        all_goals simp [hm]
      · simpa using hm

theorem endsWf_agLineRequest (r n : Nat) : EndsWf (execAgLineRequest r n s) := by
  rw [execAgLineRequest, endsWf_next]
  cases h : s.agTry r n with
  | none => exact hm
  | some t => exact memWf_agTry hm _ _ t h

theorem endsWf_tokenWake (r q : Nat) (tok : BitVec 32) : EndsWf (execTokenWake r q tok s) := by
  unfold execTokenWake
  split
  · simpa using hm
  · rename_i h
    simpa [State.sendToken_mem h] using hm

theorem endsWf_launchConsume (vf : Nat) : EndsWf (execLaunchConsume vf s) := by
  simp only [execLaunchConsume]
  repeat' split
  all_goals simp [hm, State.engLinked_mem]

/-- The forms with a shared meaning keep the form of memory by its lemma, and every other by the branches of its own meaning. -/
theorem exec_endsWf (i : Instr) : EndsWf (exec i s) := by
  cases i with
  | add | sub | and | or | xor | andn | sll | srl | sra | slt | sltn | min | max | minn | maxn | mul | mulh | mulhn | div | divn | rem |
    remn | addw | clz | ctz | popc | sextW | zextW | addi | andi | ori | xori | slti | sltni | shiSll | shiSrl | shiSra | lui | auipc =>
    exact endsWf_of_scalarResult hm rfl
  | ld | ldn => exact endsWf_of_loadForm hm rfl
  | st => exact endsWf_storeOp hm _ _ _ _ _ _
  | amoAdd | amoAnd | amoOr | amoXor | amoMin | amoMax | amoMinn | amoMaxn | amoSwap | amoCas => exact endsWf_of_amoForm hm rfl
  | beq | bne | blt | bge | bltn | bgen => exact endsWf_of_branchResult hm rfl
  | j off => exact endsWf_jumpTo hm (s.pc + BitVec.ofInt 64 (4 * off.toInt)) none
  | jal | jalr => exact endsWf_ite (endsWf_next.2 hm) (endsWf_jumpTo hm _ _)
  | jtab => exact endsWf_jtab hm _ _ _
  | tqcnt => exact endsWf_onRing hm fun _ _ ht => endsWf_regOp ht _ _ _
  | billetArm => exact endsWf_billetArm hm _ _
  | crnDef => exact endsWf_crnDef hm _ _
  | gcfg => exact endsWf_gcfg hm _ _
  | ccfg => exact endsWf_ccfg hm _ _
  | launch => exact endsWf_launch hm _
  | isave => exact endsWf_isave hm _ _ _
  | csrr => exact endsWf_csrr hm _ _
  | csrw => exact endsWf_csrw hm _ _
  | registerWrite => exact endsWf_registerWrite hm _ _
  | loadWriteback => exact endsWf_loadWriteback hm _ _ _
  | storePerform => exact endsWf_storePerform hm _ _
  | tileDecision => exact endsWf_tileDecision hm _
  | ploadAccept => exact endsWf_ploadAccept hm _ _
  | remoteWriteImmediateArrival => exact endsWf_remoteWriteImmediateArrival hm _ _ _ _ _
  | remoteAccessArrival => exact endsWf_remoteAccessArrival hm _ _ _ _ _
  | hostAccess => exact endsWf_hostAccess hm _ _
  | rimgctlDump => exact endsWf_rimgctlDump hm
  | rdbgdWrite => exact endsWf_rdbgdWrite hm _
  | agLineRequest => exact endsWf_agLineRequest hm _ _
  | tokenWake => exact endsWf_tokenWake hm _ _ _
  | launchConsume => exact endsWf_launchConsume hm _
  | i3cStartRequest => exact endsWf_ite (endsWf_bootctlCold hm _) (endsWf_bootctlWarm hm _)
  | steer | emit | dropw | ldb | ldt =>
    refine endsWf_next.2 (memWf_veWord hm fun o st hst => ?_)
    repeat' split
    all_goals simp [hst]
  | veAddi | movi | ldbi =>
    exact endsWf_next.2 (memWf_veImm hm fun o st hst => by simp [hst])
  | stb | stt => exact endsWf_next.2 (memWf_veWord hm fun o st hst => memWf_bankStore hst _ _ _)
  | stbi => exact endsWf_next.2 (memWf_veImm hm fun o st hst => memWf_bankStore hst _ _ _)
  | atadd | atmin | atmax | atxchg | atcas => exact endsWf_next.2 (memWf_veWord hm fun o st hst => memWf_bankAtomic hst _ _ _ _)
  | pload | pwait | cpy | cpyB | billetDisarm | tqpush | waitd | waitt | crnStep | crnForce | crnMap | crnUndef | crnStat | cset | mark |
    wopen | wseal | pstat =>
    simp only [exec, execPload, execPwait, execCpy, execCpyB, execBilletDisarm, execTqpush, execWaitd, execWaitt, execCrnStep,
      execCrnForce, execCrnMap, execCrnUndef, execCrnStat, execCset, execMark, execWopen, execWseal, execPstat]
    refine endsWf_onRing hm fun r t ht => ?_
    repeat' split
    all_goals simp [ht]
  | tlbiVa | tlbiAsid | irest =>
    simp only [exec, execTlbiVa, execTlbiAsid, execIrest]
    refine endsWf_atS hm fun r t ht => ?_
    repeat' split
    all_goals simp [ht]
  | halt | tlbiVf | scrub | dret | tlbiAll =>
    simp only [exec, execHalt, execTlbiVf, execScrub, execDret, execTlbiAll]
    refine endsWf_atH hm fun r t ht => ?_
    repeat' split
    all_goals simp [ht, State.foldl_updRing_mem, foldl_mem]
  | itemTimeBoundary | itemAdmission | slotSwitch | scrJobStep | phaseRetirement | mergeDeadlock | agLineCompletion | prqHeldPlacement |
    bankLoadWriteback | accDrain | copyAccept | billetFire | copyComplete | remoteRetryExhausted | asyncMaskSatisfied | supervisorTimer |
    hypervisorTimer | sweepmaxOverrun | preemptionCapture | tenantSwitch =>
    simp only [exec, execItemTimeBoundary, execItemAdmission, execSlotSwitch, execScrJobStep, execPhaseRetirement, execMergeDeadlock,
      execAgLineCompletion, execPrqHeldPlacement, execBankLoadWriteback, execAccDrain, execCopyAccept, execBilletFire, execCopyComplete,
      execRemoteRetryExhausted, execAsyncMaskSatisfied, execSupervisorTimer, execHypervisorTimer, execSweepmaxOverrun, execPreemptionCapture,
      execTenantSwitch]
    repeat' split
    all_goals simp [hm]
  | tsentEnable | rnoteWrite | hevtRead | prqpopRead | wmemWrite | powerTransitionComplete | powerOnStart | bootctlCold | bootctlWarm | i3cRead
    | droopTrip | fclkRaise | linkStateChange | lqtailWrite | doorbellWrite | ldoneWrite | launchPacket | rdbgdRead | fence | fenceRg =>
    simp only [exec, execTsentEnable, execRnoteWrite, execHevtRead, execPrqpopRead, execWmemWrite, execPowerTransitionComplete,
      execPowerOnStart, execBootctlCold, execBootctlWarm, execI3cRead, execDroopTrip, execFclkRaise, execLinkStateChange, execLqtailWrite,
      execDoorbellWrite, execLdoneWrite, execLaunchPacket, execRdbgdRead, execFence, execFenceRg]
    repeat' split
    all_goals simp [hm]
  | trap | illegalInstruction | clockStretch | laneRepair | testAccessPortInstruction | waitSatisfied | interrupt | rctlPreq | rctlResume |
    rctlResumeInject | prqRetry | prqFail | prqForward | sprqRetry | sprqFail | kctlLoad | kctlDraw | kctlDestroy | kctlLoadMigration |
    kctlStopVf =>
    simp only [exec, execTrap, execIllegalInstruction, execClockStretch, execLaneRepair, execTestAccessPortInstruction, execWaitSatisfied,
      execInterrupt, execRctlPreq, execRctlResume, execRctlResumeInject, execPrqRetry, execPrqFail, execPrqForward, execSprqRetry, execSprqFail,
      execKctlLoad, execKctlDraw, execKctlDestroy, execKctlLoadMigration, execKctlStopVf]
    repeat' split
    all_goals simp [hm]
  | kinitctlGo | wvalidSet | wvalidClear | rimgctlRest | rpwrQuiesce | rpwrSave | rpwrGateClock | rpwrGateRail | rpwrWake | lifetimeStoreWrite |
    orderlyPowerDown | qpstatClear | nop | mpass | sret | hret | wfi | instructionFetchFault | managementCoreInterrupt | channelInitComplete =>
    simp only [exec, execKinitctlGo, execWvalidSet, execWvalidClear, execRimgctlRest, execRpwrQuiesce, execRpwrSave, execRpwrGateClock,
      execRpwrGateRail, execRpwrWake, execLifetimeStoreWrite, execOrderlyPowerDown, execQpstatClear, execNop, execMpass, execSret, execHret,
      execWfi, execInstructionFetchFault, execManagementCoreInterrupt, execChannelInitComplete]
    repeat' split
    all_goals simp [hm]
  | powerFailure =>
    simp only [exec, execPowerFailure]
    simp [hm]
  | _ => exact endsWf_next.2 (by simpa using hm)

end

end Sys2Proof.Machine
end

section
/-! A step keeps the form of memory (R5). -/

namespace Sys2Proof.Machine

/-- What a move starts from keeps the form of memory. -/
def Move.Wf : Move → Prop
  | .run _ s => memWf s.mem = true
  | .idle s => memWf s.mem = true
  | .stop _ => True

theorem Move.wf_ite {p : Prop} [Decidable p] {m m' : Move} (h : m.Wf) (h' : m'.Wf) : (if p then m else m').Wf := by
  split
  · exact h
  · exact h'

theorem State.fetchMove_wf {s : State} (hm : memWf s.mem = true) (t : Thread) : (s.fetchMove t).Wf := by
  have hw : memWf (s.fetchWord t).2.mem = true := by simpa using hm
  unfold State.fetchMove
  split
  · exact hm
  · dsimp only
    split
    · exact hw
    · split
      · exact hw
      · exact hw

theorem State.threadMove_wf {s : State} (hm : memWf s.mem = true) (t : Thread) : (s.threadMove t).Wf := by
  have hf (u : Thread) : (({ s with cur := u } : State).fetchMove u).Wf := State.fetchMove_wf (s := { s with cur := u }) hm u
  cases t with
  | ring r => exact Move.wf_ite hm (Move.wf_ite hm (Move.wf_ite hm (hf _)))
  | core d => exact Move.wf_ite hm (Move.wf_ite hm (Move.wf_ite hm (hf _)))

/-- A clock tick, a step of a copy or of a crown, and what caches, banks and links do keep the form of memory; so does each part of a group's cycle
(R24, R37, R105, R369, R419, R428). -/
theorem State.actMove_wf {s : State} (hm : memWf s.mem = true) (a : Act) : (s.actMove a).Wf := by
  cases a with
  | thread t => exact State.threadMove_wf hm t
  | fabric g =>
    have h := memWf_fabricMove hm g
    simp only [State.actMove]
    split
    · rename_i heq
      exact (heq ▸ h :)
    · rename_i heq
      exact (heq ▸ h :)
  | clock =>
    have h : memWf s.tick.mem = true := (congrArg memWf s.tick_mem).trans hm
    simp only [State.actMove]
    generalize s.tick = u at h ⊢
    exact Move.wf_ite h h
  | copyPart r k j b =>
    simp only [State.actMove, Move.Wf]
    exact memWf_of_ite (memWf_copyPart hm _ _ _ _) (memWf_crnPart hm _ _)
  | spread n => exact (congrArg memWf (s.spread_mem n)).trans hm
  | tlbFill t va n => exact (congrArg memWf (s.cacheXlate_mem t va n)).trans hm
  | walkFill r stage level x => exact memWf_of_ite ((congrArg memWf (s.cacheWalk_mem r stage level x)).trans hm) hm
  | decay n => exact (congrArg memWf (s.decay_mem n)).trans hm
  | corrected i => exact memWf_of_ite ((congrArg memWf (s.countLife_mem i)).trans hm) hm
  | replay d => exact (congrArg memWf (s.linkReplay_mem d)).trans hm
  | event t i => exact Move.wf_ite hm hm

theorem choose_wf {s : State} (hm : memWf s.mem = true) : (choose s).Wf := by
  have h1 : memWf s.nextAct.2.mem = true := (congrArg memWf s.nextAct_mem).trans hm
  unfold choose
  dsimp only
  refine Move.wf_ite (State.actMove_wf h1 _) ?_
  split
  · exact h1
  · trivial

/-- Settles O3: a move is chosen without a byte out of form, and every meaning then keeps the form. -/
theorem memoryFormKept : Obligations.MemoryFormKept := by
  unfold Obligations.MemoryFormKept
  intro s t hm hs
  have hc : (choose s).Wf := choose_wf hm
  cases h : choose s with
  | run i u =>
    have hu : memWf u.mem = true := by
      rw [h] at hc
      exact hc
    have he : exec i u = .next t := (step_of_run h).symm.trans hs
    exact exec_endsWf hu i t he
  | idle u =>
    have hu : memWf u.mem = true := by
      rw [h] at hc
      exact hc
    have he : Host.Outcome.next u = .next t := (step_of_idle h).symm.trans hs
    exact Host.Outcome.next.inj he ▸ hu
  | stop f => simp [step, h] at hs

end Sys2Proof.Machine
end

section
/-! What a turn executes in the place of the instruction that stands next: wfi again, an interrupt, or the event of a fetch that fails; and the free
events (R323, R328, R331). -/

namespace Sys2Proof.Machine

/-- A thread whose turn it is moves in the state of its turn (R203). -/
theorem choose_turn {s : State} {t : Thread} {rest : List Act} (hp : s.powered = true) (ha : s.agenda = .thread t :: rest) :
    choose s = (s.turnOf t).threadMove t := by
  rw [choose_first hp ha]
  simp [State.actMove, State.threadMove, State.turnOf, ha]

/-- A ring that neither stands still nor is captured executes its wfi again, or takes a pending interrupt (R323, R331). -/
theorem State.threadMove_ring {s : State} {r : Nat} (hstill : s.ringStill r = false) (hcap : (s.strip (s.ring r).sbase).capture = false)
    (hcur : s.cur = .ring r) :
    ((s.ring r).run = .wfi → s.threadMove (.ring r) = .run .wfi s) ∧
      ((s.ring r).run ≠ .wfi → (s.ringInt r).isSome = true → s.threadMove (.ring r) = .run .interrupt s) := by
  have hs : ({ s with cur := .ring r } : State) = s := by rw [← hcur]
  constructor
  · intro hw
    simp [State.threadMove, hs, hstill, hcap, hw]
  · intro hw hi
    simp [State.threadMove, hs, hstill, hcap, hw, hi]

/-- A management core that runs executes its wfi again, or takes a pending interrupt (R328, R331). -/
theorem State.threadMove_core {s : State} {d : Nat} (hd : d < 4) (hstop : (s.die d).stopped = false) (hcur : s.cur = .core d) :
    ((s.die d).waiting = true → s.threadMove (.core d) = .run .wfi s) ∧
      ((s.die d).waiting = false → (s.coreInt d).isSome = true → s.threadMove (.core d) = .run .managementCoreInterrupt s) := by
  have hs : ({ s with cur := .core d } : State) = s := by rw [← hcur]
  have hd' : ¬ 4 ≤ d := by omega
  constructor
  · intro hw
    simp [State.threadMove, hs, hd', hstop, hw]
  · intro hw hi
    simp [State.threadMove, hs, hd', hstop, hw, hi]

/-- A fetch that fails is the fetch-fault event (R201). -/
theorem State.fetchMove_fault {s : State} {t : Thread} (h : (s.fetchErr t (s.levelOf t) (s.seqOf t).pc).isSome = true) :
    s.fetchMove t = .run .instructionFetchFault s := by
  obtain ⟨e, he⟩ := Option.isSome_iff_exists.1 h
  simp [State.fetchMove, he]

/-- Settles O8: each clause names the branch of a thread's move, or of the agenda's event, that its hypotheses select. -/
theorem stepTakesEvents : Obligations.StepTakesEvents := by
  unfold Obligations.StepTakesEvents
  refine ⟨?_, ?_, ?_, ?_⟩
  · intro s r rest hp ha hstill hcap
    have hmove := choose_turn hp ha
    obtain ⟨hwfi, hint⟩ := State.threadMove_ring hstill hcap rfl
    exact ⟨fun h => step_of_run (hmove.trans (hwfi h)), fun h hi => step_of_run (hmove.trans (hint h hi))⟩
  · intro s d rest hd hp ha hstop
    have hmove := choose_turn hp ha
    obtain ⟨hwfi, hint⟩ := State.threadMove_core (s := s.turnOf (.core d)) hd hstop rfl
    exact ⟨fun h => step_of_run (hmove.trans (hwfi h)), fun h hi => step_of_run (hmove.trans (hint h hi))⟩
  · intro s th rest hp ha hn hf
    exact step_of_run ((choose_thread hp ha hn).trans (State.fetchMove_fault hf))
  · intro s th i rest hp ha hi
    have hturn : s.turnOf th = { s with agenda := rest, free := s.free + 1, cur := th } := by simp [State.turnOf, ha]
    have hmove : choose s = .run i (s.turnOf th) := by
      rw [choose_first hp ha, hturn]
      simp [State.actMove, hi]
    exact step_of_run hmove

end Sys2Proof.Machine
end

section
/-! The integer and word words of an element (R213 to R216). -/

namespace Sys2Proof.Machine

/-- By a number that is not negative the quotient of R9 is the Euclidean one. -/
theorem floorDiv_eq_div (x : Int) (n : Nat) : floorDiv x n = x / n :=
  Int.fdiv_eq_ediv_of_nonneg x (Int.natCast_nonneg n)

theorem floorDiv_two_pow (x : Int) (n : Nat) : floorDiv x ((2 ^ n : Nat) : Int) = x / 2 ^ n := by
  rw [floorDiv_eq_div]
  push_cast
  rfl

/-- An integer word of two sources computes its function of the lanes, wrapped or saturated (R213, R214). -/
theorem exec_intForm {i : Instr} {n : IntForm} (h : intForm i = some n) (s : State) :
    exec i s = .next (veOp2 n.g n.a n.b n.d (fun _ x z w => intLanes n.t.toNat n.sat n.f x z w) s) := by
  unfold intForm at h
  split at h <;> cases h
  case h_4 =>
    simp only [exec, execVeMulh, veIntOp, floorDiv_two_pow]
    rfl
  case h_8 =>
    simp only [exec, execAvg, veIntOp, show ∀ x : Int, floorDiv x 2 = x / 2 from fun x => floorDiv_eq_div x 2]
    rfl
  all_goals rfl

/-- A word of one lane list, or of the whole word, computes its function of its operands (R214 to R216). -/
theorem exec_wordForm {i : Instr} {n : WordForm} (h : wordForm i = some n) (s : State) :
    exec i s = .next (veValue n.g n.srcs n.d (fun o => n.f o.get) s) := by
  unfold wordForm at h
  split at h <;> cases h
  case h_11 =>
    simp only [exec, execShl, veShift]
    push_cast
    rfl
  case h_12 =>
    simp only [exec, execShr, veShift, floorDiv_two_pow]
    rfl
  all_goals rfl

/-- Settles O40: each form's function of the lanes behind a true gate. -/
theorem integerWords : Obligations.IntegerWords := by
  unfold Obligations.IntegerWords
  intro i n s w hi hv hg
  rw [exec_intForm hi, veOp2_open hv hg]
  rfl

/-- Settles O41: each form's function of its operands behind a true gate; the immediate words have no gate. -/
theorem wordWords : Obligations.WordWords := by
  unfold Obligations.WordWords
  refine ⟨?_, ?_, ?_⟩
  · intro i n s w hi hv hg
    rw [exec_wordForm hi, veValue, veWord_open hv hg]
  · intro t a im d s w hv
    simp only [exec, execVeAddi, veImm, hv]
  · intro a im d s w hv
    simp only [exec, execMovi, veImm, hv]
    rfl

end Sys2Proof.Machine
end

section
/-! What queues and lands: the values of an element's words, and the words that do nothing in a bubble or behind a false gate (R38, R62, R63, R73). -/

namespace Sys2Proof.Machine

@[simp] theorem State.setGroup_setGroup (s : State) (gk : Nat) (x y : Group) : (s.setGroup gk x).setGroup gk y = s.setGroup gk y := by
  simp [State.setGroup]

/-- The view of an element names its group as it stands. -/
theorem State.view_group {s : State} {w : View} (hv : s.view = some w) : s.group? w.gk = some w.grp := by
  unfold State.view at hv
  split at hv
  · cases hv
  · rename_i g hg
    dsimp only at hv
    split at hv
    · obtain rfl := Option.some.inj hv
      exact hg
    · cases hv

/-- The write that an element queues of a value (R62). -/
def View.write (w : View) (late : Bool) (due : Nat) (k : WrKind) : Wr :=
  { late := late, due := due, slot := w.gs, pos := w.pos, ctx := w.at_.ctx, item := w.item.n, tag := w.item.tag, kind := k }

theorem View.queue_eq {w : View} {s : State} {g : Group} (hg : s.group? w.gk = some g) (late : Bool) (due : Nat) (k : WrKind) :
    w.queue late due k s = s.setGroup w.gk { g with wq := g.wq ++ [w.write late due k] } := by
  simp only [View.queue, hg, View.write]

/-- A value for d queues its writes, and changes nothing else (R73, R227). -/
theorem View.writeDest_eq {w : View} {s : State} {g : Group} (hg : s.group? w.gk = some g) (late : Bool) (due : Nat) (d : BitVec 5) (v : W32) :
    w.writeDest late due d v s = s.setGroup w.gk { g with wq := g.wq ++ w.destWrites late due d v } := by
  unfold View.writeDest View.destWrites
  change _ = s.setGroup w.gk { g with wq := g.wq ++ (w.write late due (.y v) :: _) }
  rw [View.queue_eq hg]
  split
  · rw [View.queue_eq (State.group_setGroup_same _ _ _)]
    simp [View.write]
  · split
    · cases ho : w.outKey with
      | none => rfl
      | some key =>
        dsimp only
        rw [View.queue_eq (State.group_setGroup_same _ _ _)]
        simp [View.write]
    · rfl

/-- A word that does not name `in` runs its body in the state as it stands (R210). -/
theorem veBody_of_not_reads {srcs : List (BitVec 5)} (h : (30 : BitVec 5) ∉ srcs) (body : Ops → State → State) (w : View) (s : State) :
    veBody srcs body w s = body { w := w, get := w.src s 0 } s := by
  have hc : ¬ srcs.contains 30#5 = true := by simpa using h
  unfold veBody
  rw [if_neg hc]
  rfl

/-- In a bubble a word does nothing (R38). -/
theorem veWord_bubble {s : State} (hv : s.view = none) (g : BitVec 2) (srcs : List (BitVec 5)) (body : Ops → State → State) :
    veWord g srcs body s = s := by
  simp only [veWord, hv]

theorem veImm_bubble {s : State} (hv : s.view = none) (srcs : List (BitVec 5)) (body : Ops → State → State) : veImm srcs body s = s := by
  simp only [veImm, hv]

theorem meIssue_bubble {s : State} (hv : s.view = none) (mk : BlockRun) : meIssue mk s = s := by
  simp only [meIssue, hv]

/-- An immediate word is one whose gate is true (R181). -/
theorem veImm_eq_veWord (srcs : List (BitVec 5)) (body : Ops → State → State) (s : State) : veImm srcs body s = veWord 0 srcs body s := by
  unfold veImm veWord
  cases s.view with
  | none => rfl
  | some w => exact (if_pos rfl).symm

theorem exec_bankLoadForm {i : Instr} {g : BitVec 2} {srcs : List (BitVec 5)} {d : BitVec 5} {off : Ops → Nat}
    (h : bankLoadForm i = some (g, srcs, d, off)) (s : State) :
    exec i s = .next (veWord g srcs (fun o st => o.w.bankLoad d (off o) st) s) := by
  unfold bankLoadForm at h
  split at h <;> cases h
  · rfl
  · rfl
  · exact congrArg Host.Outcome.next (veImm_eq_veWord _ _ _)

theorem exec_bankStoreForm {i : Instr} {g : BitVec 2} {srcs : List (BitVec 5)} {off : Ops → Nat} {v : Ops → W32}
    (h : bankStoreForm i = some (g, srcs, off, v)) (s : State) :
    exec i s = .next (veWord g srcs (fun o st => o.w.bankStore (off o) (v o) st) s) := by
  unfold bankStoreForm at h
  split at h <;> cases h
  · rfl
  · rfl
  · exact congrArg Host.Outcome.next (veImm_eq_veWord _ _ _)

/-- atmin keeps the smaller word, signed for type 0 (R228). -/
theorem pickWord_smaller (t : BitVec 1) (m z : W32) : pickWord t false m z =
    if t = 0 then (if z.toInt ≤ m.toInt then z else m) else (if z.toNat ≤ m.toNat then z else m) := by
  by_cases ht : t = 0#1 <;> simp [pickWord, ht]

/-- atmax keeps the larger word, signed for type 0 (R228). Of equal words either is both. -/
theorem pickWord_larger (t : BitVec 1) (m z : W32) : pickWord t true m z =
    if t = 0 then (if m.toInt ≤ z.toInt then z else m) else (if m.toNat ≤ z.toNat then z else m) := by
  by_cases ht : t = 0#1
  · by_cases he : m.toInt = z.toInt
    · simp [pickWord, ht, BitVec.eq_of_toInt_eq he]
    · have hiff : m.toInt < z.toInt ↔ m.toInt ≤ z.toInt := by omega
      simp [pickWord, ht, hiff]
  · by_cases he : m.toNat = z.toNat
    · simp [pickWord, ht, BitVec.eq_of_toNat_eq he]
    · have hiff : m.toNat < z.toNat ↔ m.toNat ≤ z.toNat := by omega
      simp [pickWord, ht, hiff]

theorem exec_bankAtomicForm {i : Instr} {g : BitVec 2} {a b d : BitVec 5} {f : Ops → W32 → W32}
    (h : bankAtomicForm i = some (g, a, b, d, f)) (s : State) :
    exec i s = .next (veWord g [a, b] (fun o st => o.w.bankAtomic d (o.w.offA (o.get a)) (f o) st) s) := by
  unfold bankAtomicForm at h
  split at h <;> cases h
  case h_2 =>
    simp only [exec, execAtmin, pickWord_smaller]
  case h_3 =>
    simp only [exec, execAtmax, pickWord_larger]
  all_goals rfl

/-- Behind its false gate a word of one of the forms does nothing (R63). -/
theorem exec_shut {i : Instr} {n : BitVec 2} {s : State} {w : View}
    (hi : (intForm i).map (·.g) = some n ∨ (wordForm i).map (·.g) = some n ∨ (floatForm i).map (·.g) = some n ∨
      (bankLoadForm i).map (·.1) = some n ∨ (bankStoreForm i).map (·.1) = some n ∨ (bankAtomicForm i).map (·.1) = some n ∨
      (compareForm i).map (·.2.2.2.2.2) = some n)
    (hv : s.view = some w) (hg : gateOpen w.el.q n = false) : exec i s = .next s := by
  have hshut : ∀ u, s.view = some u → gateOpen u.el.q n = false := fun u hu => by rwa [Option.some.inj (hu.symm.trans hv)]
  have hnext (srcs : List (BitVec 5)) (body : Ops → State → State) : (Host.Outcome.next (veWord n srcs body s) : Out) = .next s :=
    congrArg Host.Outcome.next (veWord_shut hshut srcs body)
  rcases hi with h | h | h | h | h | h | h <;> obtain ⟨f, hf, rfl⟩ := Option.map_eq_some_iff.1 h
  · exact (exec_intForm hf s).trans (hnext _ _)
  · exact (exec_wordForm hf s).trans (hnext _ _)
  · exact (exec_floatForm hf s).trans (hnext _ _)
  · exact (exec_bankLoadForm hf s).trans (hnext _ _)
  · exact (exec_bankStoreForm hf s).trans (hnext _ _)
  · exact (exec_bankAtomicForm hf s).trans (hnext _ _)
  · exact (exec_compareForm hf s).trans (hnext _ _)

/-- In a slot without an item every context word does nothing: those of a block, mpass and nop as they stand, the others by their shape (R38). -/
theorem exec_elem_bubble {i : Instr} {s : State} (hi : i.isElem = true) (hv : s.view = none) : exec i s = .next s := by
  have hw (g : BitVec 2) (srcs : List (BitVec 5)) (body : Ops → State → State) := veWord_bubble hv g srcs body
  have hb (mk : BlockRun) := meIssue_bubble hv mk
  cases i with
  | nop => rfl
  | mpass => simp only [exec, execMpass, hv]
  | veAddi | movi | ldbi | stbi => exact congrArg Host.Outcome.next (veImm_bubble hv _ _)
  | mma | mmx | azero | adrain | aload | ascale => exact (exec_blockForm rfl s).trans (congrArg Host.Outcome.next (hb _))
  | veAdd | veSub | veMul | veMulh | mad | veMin | veMax | avg | clamp =>
    exact (exec_intForm rfl s).trans (congrArg Host.Outcome.next (hw _ _ _))
  | mov | abs | neg | veAnd | veOr | veXor | veAndn | not | shl | shr | rol | veClz | vePopc =>
    exact (exec_wordForm rfl s).trans (congrArg Host.Outcome.next (hw _ _ _))
  | fadd | fsub | fmul | fma | fms | fmin | fmax | fclamp => exact (exec_floatForm rfl s).trans (congrArg Host.Outcome.next (hw _ _ _))
  | fabs | fneg | frnd => exact (exec_floatForm1 rfl s).trans (congrArg Host.Outcome.next (hw _ _ _))
  | exp2 | log2 | rcp | rsq | tanh => exact (exec_specialForm rfl s).trans (congrArg Host.Outcome.next (hw _ _ _))
  | cmpEq | cmpNe | cmpLt | cmpLe | cmpGt | cmpGe | cmpUn => exact (exec_compareForm rfl s).trans (congrArg Host.Outcome.next (hw _ _ _))
  | ldb | ldt | stb | stt | atadd | atmin | atmax | atxchg | atcas | plog | sel | gate | steer | cvt | pack | unpklo | unpkhi | dot | dotx |
    emit | dropw | pcnt | eos =>
    exact congrArg Host.Outcome.next (hw _ _ _)
  | _ => exact absurd hi Bool.false_ne_true

end Sys2Proof.Machine
end

section
/-! What lands at the end of a cycle: the writes of elements, and then the words for the ports, which leave the elements alone (R62, R73, R135). -/

namespace Sys2Proof.Machine

theorem State.putBytes_rings (s : State) (k : Nat) (l : List Byte) : (s.putBytes k l).rings = s.rings := by
  induction l generalizing s k with
  | nil => rfl
  | cons b l ih => exact ih _ _

/-- Every element reads as it did: the elements and the slot counts of every ring are as they were. -/
structure KeepsElems (s t : State) : Prop where
  elems : ∀ r, (t.ring r).elems = (s.ring r).elems
  ringp : ∀ r, (t.ring r).ringp = (s.ring r).ringp

namespace KeepsElems

variable {s t u : State}

theorem refl (s : State) : KeepsElems s s := ⟨fun _ => rfl, fun _ => rfl⟩

theorem trans (h : KeepsElems s t) (k : KeepsElems t u) : KeepsElems s u :=
  ⟨fun r => (k.elems r).trans (h.elems r), fun r => (k.ringp r).trans (h.ringp r)⟩

/-- What changes no ring changes no element. -/
theorem of_rings (h : t.rings = s.rings) : KeepsElems s t :=
  ⟨fun r => by rw [State.ring, h, State.ring], fun r => by rw [State.ring, h, State.ring]⟩

theorem updRing (s : State) (r : Nat) {f : Ring → Ring} (he : ∀ x, (f x).elems = x.elems) (hp : ∀ x, (f x).ringp = x.ringp) :
    KeepsElems s (s.updRing r f) := by
  refine ⟨fun n => ?_, fun n => State.ringp_updRing s r f (hp _) n⟩
  by_cases hn : n = r
  · rw [hn, State.ring_updRing_same, he]
  · rw [State.ring_updRing_ne s f hn]

theorem foldl {α : Type} {f : State → α → State} (hf : ∀ st a, KeepsElems st (f st a)) (l : List α) (s : State) : KeepsElems s (l.foldl f s) :=
  List.foldlRecOn l f (refl s) fun st hst a _ => hst.trans (hf st a)

theorem slotPlace (h : KeepsElems s t) (g : Group) (gs : Nat) : t.slotPlace g gs = s.slotPlace g gs := State.slotPlace_congr h.ringp g gs

theorem elem (h : KeepsElems s t) (g : Group) (gs p : Nat) : t.elem g gs p = s.elem g gs p := by
  rw [State.elem_eq, State.elem_eq, h.slotPlace, h.elems]

theorem setGroup (s : State) (gk : Nat) (x : Group) : KeepsElems s (s.setGroup gk x) := of_rings rfl

theorem setChan (s : State) (k : Nat) (c : Chan) : KeepsElems s (s.setChan k c) := of_rings rfl

theorem setPort (s : State) (gk key : Nat) (p : Port) : KeepsElems s (s.setPort gk key p) := by
  unfold State.setPort
  split <;> exact of_rings rfl

theorem setSlot (s : State) (g : Group) (gs : Nat) (x : Slot) : KeepsElems s (s.setSlot g gs x) :=
  updRing s _ (f := fun q => { q with slots := tput q.slots (s.slotPlace g gs).2 x }) (fun _ => rfl) fun _ => rfl

theorem updRec (s : State) (r n : Nat) (f : PhaseRec → PhaseRec) : KeepsElems s (s.updRec r n f) :=
  updRing s _ (fun _ => rfl) fun _ => rfl

theorem discardItems (s : State) (gk : Nat) : KeepsElems s (s.discardItems gk) := by
  unfold State.discardItems
  split
  · exact refl s
  · exact (foldl (fun st gs => setSlot st _ gs _) _ s).trans (setGroup _ _ _)

theorem dropItems (s : State) (gk : Nat) : KeepsElems s (s.dropItems gk) := by
  unfold State.dropItems
  split
  · exact refl s
  · exact (setGroup s _ _).trans (discardItems _ gk)

theorem phaseFault (s : State) (gk kind : Nat) (a : FaultAt) (v : W64) : KeepsElems s (s.phaseFault gk kind a v) := by
  unfold State.phaseFault
  split
  · exact refl s
  · dsimp only
    split
    · exact refl s
    · split
      · exact (updRec s _ _ _).trans (setGroup _ _ _)
      · exact ((updRec s _ _ _).trans (setGroup _ _ _)).trans (dropItems _ gk)

theorem putNum (s : State) (k n v : Nat) : KeepsElems s (s.putNum k n v) := of_rings (State.putBytes_rings s k (leBytes n v))

theorem putWord (s : State) (r k v : Nat) : KeepsElems s (s.putWord r k v) := of_rings (KeepsAgents.putSeen _ _ _ _ _ _).rings

theorem enqueueFifo (s : State) (gk : Nat) (g : Group) (k : Nat) (ip : Port) (w : W32) : KeepsElems s (s.enqueueFifo gk g k ip w) := by
  unfold State.enqueueFifo
  split
  · exact (putNum s _ _ _).trans (setPort _ _ _ _)
  · exact setPort s _ _ _
  all_goals exact refl s

theorem outWord (s : State) (gk key item pos ctx : Nat) (tag : Option (BitVec 16)) (gone : Bool) (w : W32) :
    KeepsElems s (s.outWord gk key item pos ctx tag gone w) := by
  unfold State.outWord
  split
  · exact refl s
  · split
    · exact refl s
    · dsimp only
      split
      · split
        · split
          · exact setPort s _ _ _
          · split
            · exact (setPort s _ _ _).trans (enqueueFifo _ _ _ _ _ _)
            · exact setPort s _ _ _
        · exact setPort s _ _ _
      · split
        · exact setPort s _ _ _
        · exact (setPort s _ _ _).trans (updRing _ _ (fun _ => rfl) fun _ => rfl)
      · exact ((putWord s _ _ _).trans (setChan _ _ _)).trans (setPort _ _ _ _)
      · exact (setChan s _ _).trans (setPort _ _ _ _)
      · refine KeepsElems.trans ?_ (setPort _ _ _ _)
        exact updRing s _ (fun _ => rfl) fun _ => rfl

theorem landOut (s : State) (gk : Nat) (e : Wr) : KeepsElems s (s.landOut gk e) := by
  have hleave {p : Prop} [Decidable p] (a : FaultAt) (key : Nat) (tag : Option (BitVec 16)) (gone : Bool) (w : W32) :
      KeepsElems s (if p then s.phaseFault gk 5 a 0 else s.outWord gk key e.item e.pos e.ctx tag gone w) := by
    split
    · exact phaseFault s _ _ _ _
    · exact outWord s _ _ _ _ _ _ _ _
  unfold State.landOut
  split
  · split
    · exact refl s
    · split
      · exact refl s
      · exact hleave _ _ _ _ _
  · exact refl s

end KeepsElems

theorem State.commitOne_onlyElems (g : Group) (st : State) (e : Wr) : OnlyElems st (st.commitOne g e) := by
  unfold State.commitOne
  split
  · exact OnlyElems.setElem _ _ _ _ _
  · exact OnlyElems.setElem _ _ _ _ _
  · exact OnlyElems.setElem _ _ _ _ _
  · exact OnlyElems.refl st

/-- The elements after a cycle are those that its writes leave, in the order of the queue (R62, R73). -/
theorem State.elem_commit {s : State} {gk : Nat} {g : Group} (hg : s.group? gk = some g) (h : Group) (gs p : Nat) :
    (s.commit gk).elem h gs p = ((g.wq.filter fun e => !e.late).foldl (State.commitOne g) s).elem h gs p := by
  have hg1 : ((g.wq.filter fun e => !e.late).foldl (State.commitOne g) s).group? gk = some g := by
    rw [(OnlyElems.foldl (State.commitOne_onlyElems g) _ s).group, hg]
  unfold State.commit
  rw [hg]
  change (match ((g.wq.filter fun e : Wr => !e.late).foldl (State.commitOne g) s).group? gk with
    | none => ((g.wq.filter fun e : Wr => !e.late).foldl (State.commitOne g) s)
    | some g1 => _).elem h gs p = _
  rw [hg1]
  exact (KeepsElems.foldl (fun st e => KeepsElems.landOut st gk e) _ _).elem h gs p

/-- A queued write is bound for a port, or for another element. -/
def Wr.Elsewhere (s : State) (g : Group) (gs p : Nat) (e : Wr) : Prop :=
  (∃ key x, e.kind = .out key x) ∨ (e.pos < 32 ∧ (e.pos ≠ p ∨ s.slotPlace g e.slot ≠ s.slotPlace g gs))

theorem State.elem_commitOne_elsewhere {s : State} {g : Group} {gs p : Nat} {e : Wr} (hp : p < 32) (h : e.Elsewhere s g gs p) :
    (s.commitOne g e).elem g gs p = s.elem g gs p := by
  rcases h with ⟨key, x, h⟩ | ⟨hpos, hne⟩
  · simp only [State.commitOne, h]
  · have hset (x : Elem) : (s.setElem g e.slot e.pos x).elem g gs p = s.elem g gs p := by
      rw [State.elem_setElem s g x hpos hp, if_neg]
      rintro ⟨h1, h2⟩
      exact hne.elim (fun h => h h2.symm) (fun h => h h1.symm)
    unfold State.commitOne
    split
    · exact hset _
    · exact hset _
    · exact hset _
    · rfl

theorem State.elem_commits_elsewhere {g : Group} {gs p : Nat} (hp : p < 32) (l : List Wr) (s : State) (h : ∀ e ∈ l, e.Elsewhere s g gs p) :
    (l.foldl (State.commitOne g) s).elem g gs p = s.elem g gs p := by
  induction l generalizing s with
  | nil => rfl
  | cons e l ih =>
    have hsame : ∀ n, (s.commitOne g e).slotPlace g n = s.slotPlace g n := (State.commitOne_onlyElems g s e).slotPlace g
    rw [List.foldl_cons, ih, State.elem_commitOne_elsewhere hp (h e (by simp))]
    intro e' he'
    simpa only [Wr.Elsewhere, hsame] using h e' (by simp [he'])

/-- A value for d lands in y, and where d names a register in that register too (R73). -/
theorem State.elem_commits_destWrites (s : State) (g : Group) (w : View) (due : Nat) (d : BitVec 5) (v : W32) (hp : w.pos < 32) :
    ((w.destWrites false due d v).foldl (State.commitOne g) s).elem g w.gs w.pos = { s.elem g w.gs w.pos with
      y := v, k := if d.toNat < 16 then tset 0 (s.elem g w.gs w.pos).k (physReg w.el.base d.toNat) v else (s.elem g w.gs w.pos).k } := by
  unfold View.destWrites
  split
  · simp [State.commitOne, State.elem_setElem_same _ _ _ hp]
  · split
    · split <;> simp [State.commitOne, State.elem_setElem_same _ _ _ hp]
    · simp [State.commitOne, State.elem_setElem_same _ _ _ hp]

theorem View.destWrites_now (w : View) (due : Nat) (d : BitVec 5) (v : W32) :
    ((w.destWrites false due d v).filter fun e => !e.late) = w.destWrites false due d v := by
  rw [List.filter_eq_self]
  intro e he
  unfold View.destWrites at he
  split at he
  · simp only [List.mem_cons, List.not_mem_nil, or_false] at he
    rcases he with rfl | rfl <;> rfl
  · split at he
    · split at he <;> simp only [List.mem_cons, List.not_mem_nil, or_false] at he
      · rcases he with rfl | rfl <;> rfl
      · rw [he]; rfl
    · simp only [List.mem_cons, List.not_mem_nil, or_false] at he
      rw [he]; rfl

/-- Settles O42: a value queues its writes and nothing else, a word that is shut out does nothing, and at the end of the cycle an element takes the
writes that name it. -/
theorem elementWrites : Obligations.ElementWrites := by
  unfold Obligations.ElementWrites
  intro away
  have helse {s : State} {g : Group} {gs p : Nat} {l : List Wr} (h : ∀ e ∈ l, away s g gs p e) :
      ∀ e ∈ l.filter fun e => !e.late, e.Elsewhere s g gs p := by
    intro e he
    obtain ⟨hmem, hnow⟩ := List.mem_filter.1 he
    refine (h e hmem).resolve_left fun hl => ?_
    simp [hl] at hnow
  refine ⟨?_, fun i n s w => exec_shut, fun i s => exec_elem_bubble, ?_, ?_, ?_, ?_⟩
  · intro s w srcs late due d v hv hsrcs
    rw [veBody_of_not_reads hsrcs]
    exact View.writeDest_eq (State.view_group hv) late due d _
  · intro s gk g e v hg hq hl hk
    rw [State.elem_commit hg, hq]
    simp [hl, State.commitOne, hk, State.elem_setElem_self]
  · intro s gk g e n v hg hq hl hk
    rw [State.elem_commit hg, hq]
    simp only [hl, Bool.not_false, List.filter_cons_of_pos, List.filter_nil, List.foldl_cons, List.foldl_nil, State.commitOne, hk,
      State.elem_setElem_self]
    exact ⟨tget_tset_same _ _ _ _, fun m hm => tget_tset_ne _ _ _ hm⟩
  · intro s gk g w l due d v hg hq hp haway
    rw [State.elem_commit hg, hq, List.filter_append, View.destWrites_now, List.foldl_append, State.elem_commits_destWrites _ _ _ _ _ _ hp,
      State.elem_commits_elsewhere hp _ _ (helse haway)]
  · intro s gk g gs p hg hp haway
    rw [State.elem_commit hg, State.elem_commits_elsewhere hp _ _ (helse haway)]

end Sys2Proof.Machine
end

section
/-! The bank words of an element: where an access takes place, and the four bytes it reaches (R226, R228, R428). -/

namespace Sys2Proof.Machine

/-- An access outside the carve faults, one of an uncorrectable word too with a machine check, and every other takes place (R226, R428). -/
theorem View.bankFault_getD (w : View) (o : Nat) (st k : State) : (w.bankFault o st).getD k =
    if carveScratch w.grp.carve * 65536 ≤ o then st.phaseFault w.gk 3 w.at_ (BitVec.ofNat 64 o)
    else if st.bad.contains (errUnit (w.bankKey st o)) then
      (st.mcheck (st.vfNum (w.ringNo st)) (w.bankKey st o) 1).phaseFault w.gk 13 FaultAt.zero (BitVec.ofNat 64 (mcAddr (w.bankKey st o)))
    else k := by
  unfold View.bankFault View.inScratch
  by_cases hc : carveScratch w.grp.carve * 65536 ≤ o
  · have hlt : ¬ o < carveScratch w.grp.carve * 65536 := by omega
    simp [hc, hlt]
  · have hlt : o < carveScratch w.grp.carve * 65536 := by omega
    by_cases hb : st.bad.contains (errUnit (w.bankKey st o)) = true
    · simp only [hc, hlt, hb, if_true, if_false, decide_true, Bool.not_true, Bool.false_eq_true, Option.getD_some]
    · simp only [hc, hlt, hb, if_false, decide_true, Bool.not_true, Bool.false_eq_true, Option.getD_none]

theorem View.bankFault_none {w : View} {o : Nat} {st : State} (hc : o < carveScratch w.grp.carve * 65536) (hb : errUnit (w.bankKey st o) ∉ st.bad) :
    w.bankFault o st = none := by
  simp [View.bankFault, View.inScratch, hc, hb]

theorem View.bankLoad_getD (w : View) (d : BitVec 5) (o : Nat) (s : State) :
    w.bankLoad d o s = (w.bankFault o s).getD (w.writeDest true 4 d (BitVec.ofNat 32 (s.num (w.bankKey s o) 4)) s) := by
  unfold View.bankLoad
  cases w.bankFault o s <;> rfl

theorem View.bankStore_getD (w : View) (o : Nat) (v : W32) (s : State) :
    w.bankStore o v s = if w.void then s else (w.bankFault o s).getD (s.putWord (w.ringNo s) (w.bankKey s o) v.toNat) := by
  unfold View.bankStore
  cases w.bankFault o s <;> rfl

theorem View.bankAtomic_getD (w : View) (d : BitVec 5) (o : Nat) (f : W32 → W32) (s : State) :
    w.bankAtomic d o f s = if w.void then s
      else (w.bankFault o s).getD (w.writeDest true 4 d (BitVec.ofNat 32 (s.num (w.bankKey s o) 4))
        (s.putWord (w.ringNo s) (w.bankKey s o) (f (BitVec.ofNat 32 (s.num (w.bankKey s o) 4))).toNat)) := by
  unfold View.bankAtomic
  cases w.bankFault o s <;> rfl

theorem length_leBytes (n v : Nat) : (leBytes n v).length = n := by
  induction n generalizing v with
  | zero => rfl
  | succ n ih => rw [leBytes, List.length_cons, ih]

theorem getElem_leBytes {n i : Nat} (v : Nat) (h : i < (leBytes n v).length) : (leBytes n v)[i] = BitVec.ofNat 8 (v / 256 ^ i) := by
  induction n generalizing v i with
  | zero => simp [leBytes] at h
  | succ n ih =>
    cases i with
    | zero => simp [leBytes]
    | succ i =>
      simp only [leBytes, List.getElem_cons_succ]
      rw [ih, Nat.div_div_eq_div_mul, Nat.pow_succ']

/-- A word of on-chip memory is its four bytes, little-endian (R97). -/
theorem State.putWord_mem (s : State) (r k v : Nat) :
    (s.putWord r k v).mem = (s.putBytesAt ((List.range 4).map (k + ·)) (leBytes 4 v)).mem := by
  rw [State.putWord, State.putSeen_mem, List.map_map]
  rfl

theorem State.byte_putWord_out (s : State) (r a v : Nat) {k : Nat} (hk : k < a ∨ a + 4 ≤ k) : (s.putWord r a v).byte k = s.byte k := by
  have hout : k ∉ (List.range 4).map (a + ·) := by
    intro h
    obtain ⟨n, hn, rfl⟩ := List.mem_map.1 h
    have := List.mem_range.1 hn
    omega
  simpa only [State.byte, State.putWord_mem] using State.byte_putBytesAt_out s _ (leBytes 4 v) hout

theorem State.byte_putWord_in (s : State) (r a v : Nat) {n : Nat} (hn : n < 4) :
    (s.putWord r a v).byte (a + n) = BitVec.ofNat 8 (v / 256 ^ n) := by
  have hnd : ((List.range 4).map (a + ·)).Nodup := List.Nodup.map (fun _ _ h => Nat.add_left_cancel h) List.nodup_range
  have h := State.byte_putBytesAt_in s ((List.range 4).map (a + ·)) (leBytes 4 v) hnd (i := n) (by simpa using hn)
    (by rwa [length_leBytes])
  rw [getElem_leBytes] at h
  rw [State.byte, State.putWord_mem]
  simpa [State.byte] using h

/-- A store changes no byte outside its word (R228). -/
theorem View.byte_bankStore_out (w : View) (o : Nat) (v : W32) (s : State) {k : Nat} (hk : k < w.bankKey s o ∨ w.bankKey s o + 4 ≤ k) :
    (w.bankStore o v s).byte k = s.byte k := by
  unfold View.bankStore
  split
  · rfl
  · split
    · rename_i h
      exact congrArg (fun m => tget 0 m k) (View.bankFault_mem h)
    · exact State.byte_putWord_out s _ _ _ hk

/-- An atomic changes no byte outside its word (R228). -/
theorem View.byte_bankAtomic_out (w : View) (d : BitVec 5) (o : Nat) (f : W32 → W32) (s : State) {k : Nat}
    (hk : k < w.bankKey s o ∨ w.bankKey s o + 4 ≤ k) : (w.bankAtomic d o f s).byte k = s.byte k := by
  unfold View.bankAtomic
  split
  · rfl
  · split
    · rename_i h
      exact congrArg (fun m => tget 0 m k) (View.bankFault_mem h)
    · dsimp only
      rw [State.byte, View.writeDest_mem]
      exact State.byte_putWord_out s _ _ _ hk

/-- A word that does not name `in` runs its body in the state as it stands, where its gate is true, and does nothing else (R63, R210). -/
theorem veWord_of_not_reads {s : State} {w : View} (hv : s.view = some w) {srcs : List (BitVec 5)} (h : (30 : BitVec 5) ∉ srcs) (g : BitVec 2)
    (body : Ops → State → State) :
    veWord g srcs body s = if gateOpen w.el.q g then body { w := w, get := w.src s 0 } s else s := by
  simp only [veWord, hv, veBody_of_not_reads h]

/-- Settles O47: a bank word is its access where its gate is true; only its word's four bytes are written. -/
theorem bankWords : Obligations.BankWords := by
  unfold Obligations.BankWords
  intro key access
  have haccess (st : State) (w : View) (o : Nat) (k : State) : access st w o k = (w.bankFault o st).getD k := (View.bankFault_getD w o st k).symm
  refine ⟨?_, ?_, ?_, ?_, ?_, ?_⟩
  · intro i g srcs d off s w hi hv hg
    rw [exec_bankLoadForm hi, veWord_open hv hg]
    exact congrArg Host.Outcome.next (veBody_congr s fun get st => (View.bankLoad_getD w d _ st).trans (haccess _ _ _ _).symm)
  · intro i g srcs off v s w hi hv hg
    rw [exec_bankStoreForm hi, veWord_open hv hg]
    refine congrArg Host.Outcome.next (veBody_congr s fun get st => ?_)
    rw [haccess]
    exact View.bankStore_getD w _ _ st
  · intro i g a b d f s w hi hv hg
    rw [exec_bankAtomicForm hi, veWord_open hv hg]
    refine congrArg Host.Outcome.next (veBody_congr s fun get st => ?_)
    dsimp only
    rw [haccess]
    exact View.bankAtomic_getD w d _ _ st
  · intro i g srcs d off s w t hi hv hsrcs ht k
    rw [exec_bankLoadForm hi] at ht
    obtain rfl := Host.Outcome.next.inj ht
    exact congrArg (fun m => tget 0 m k) (veWord_mem _ _ (fun _ _ => View.bankLoad_mem _ _ _ _) s)
  · intro i g srcs off v s w t hi hv hsrcs ht o a
    rw [exec_bankStoreForm hi, veWord_of_not_reads hv hsrcs] at ht
    obtain rfl := Host.Outcome.next.inj ht
    refine ⟨fun k hk => ?_, fun hg hvoid hin hbad n hn => ?_⟩
    · split
      · exact View.byte_bankStore_out w _ _ s hk
      · rfl
    · rw [if_pos hg, View.bankStore_getD, if_neg (by simp [hvoid]), View.bankFault_none hin hbad]
      exact State.byte_putWord_in s _ _ _ hn
  · intro i g a b d f s w t hi hv ha hb ht p k hk
    have hsrcs : (30 : BitVec 5) ∉ [a, b] := by
      simpa using And.intro (Ne.symm ha) (Ne.symm hb)
    rw [exec_bankAtomicForm hi, veWord_of_not_reads hv hsrcs] at ht
    obtain rfl := Host.Outcome.next.inj ht
    split
    · exact View.byte_bankAtomic_out w d _ _ s hk
    · rfl

end Sys2Proof.Machine
end

section
/-! Windows: what wopen and wseal record in the window, and in no other (R294, R295, R416). -/

namespace Sys2Proof.Machine

theorem State.window_updWindow_same (s : State) (n : Nat) (f : Window → Window) : (s.updWindow n f).window n = f (s.window n) := by
  rw [State.window, State.updWindow, tget_tput_same]

theorem State.window_updWindow_ne (s : State) {n m : Nat} (f : Window → Window) (h : m ≠ n) : (s.updWindow n f).window m = s.window m := by
  rw [State.window, State.updWindow, tget_tput_ne _ _ _ h, State.window]

@[simp] theorem State.window_done (s : State) (n : Nat) : s.done.window n = s.window n := by
  rw [State.window, State.done_windows, State.window]

@[simp] theorem State.window_updSeq (s : State) (t : Thread) (f : Seq → Seq) (n : Nat) : (s.updSeq t f).window n = s.window n := by
  rw [State.window, State.updSeq_windows, State.window]

@[simp] theorem State.me_updWindow (s : State) (n : Nat) (f : Window → Window) : (s.updWindow n f).me = s.me := rfl

@[simp] theorem State.me_showWindows (s : State) (v : Nat) : (s.showWindows v).me = s.me := rfl

theorem State.me_done (s : State) : s.done.me = { s.me with pc := s.pc + 4, instret := s.me.instret + 1 } := by
  rw [State.done, State.me_goto]

/-- The window with the VF among those that have opened it, and the thread with what it acquires of the window (R122, R294). -/
def State.windowOpened (s : State) (v n : Nat) : State :=
  (s.updWindow n fun w => { w with opened := w.opened ||| (1#128 <<< v) }).updSeq s.cur fun q =>
    { q with front := { q.front with win := tput q.front.win n s.free } }

theorem State.me_windowOpened (s : State) (v n : Nat) :
    (s.windowOpened v n).me = { s.me with front := { s.me.front with win := tput s.me.front.win n s.free } } :=
  State.me_updSeq (s.updWindow n fun w => { w with opened := w.opened ||| (1#128 <<< v) }) _

/-- A thread none of whose stores is to a window seals no longer (R122). -/
theorem Seq.sealing_eq_false {q : Seq} (h : ∀ b ∈ q.stores, isWin b.attrs = false) : q.sealing = false := by
  rw [Seq.sealing, List.any_eq_false]
  intro b hb
  rw [h b hb]
  decide

section
variable {s : State} {r n : Nat} {d a : BitVec 5} (hr : s.cur = .ring r)
include hr

theorem exec_wopen_opens (hp : s.pendAny [d, a] = false) (hm : s.mapped (s.vfNum r) (s.x a) = some n)
    (hn : ((s.window n).seq - (s.x d).truncate 32).toNat < 2 ^ 31) :
    exec (.wopen d a) s = .next (s.windowOpened (s.vfNum r) n).done := by
  have hlt : ¬ 2 ^ 31 ≤ ((s.window n).seq - (s.x d).truncate 32).toNat := by omega
  simp only [exec, execWopen, onRing_ring hr, hp, Bool.false_eq_true, if_false, hm, hlt, State.windowOpened]

theorem exec_wopen_waits (hp : s.pendAny [d, a] = false) (hm : s.mapped (s.vfNum r) (s.x a) = some n)
    (hn : 2 ^ 31 ≤ ((s.window n).seq - (s.x d).truncate 32).toNat) : exec (.wopen d a) s = .next s := by
  simp only [exec, execWopen, onRing_ring hr, hp, Bool.false_eq_true, if_false, hm, hn, if_true]

theorem exec_wopen_trap (hp : s.pendAny [d, a] = false) (hm : s.mapped (s.vfNum r) (s.x a) = none) :
    exec (.wopen d a) s = .next (s.trap 0x18 (s.x a)) := by
  simp only [exec, execWopen, onRing_ring hr, hp, Bool.false_eq_true, if_false, hm]

theorem exec_wseal_trap (hp : s.pendAny [a] = false) (hm : s.mapped (s.vfNum r) (s.x a) = none) :
    exec (.wseal a) s = .next (s.trap 0x18 (s.x a)) := by
  simp only [exec, execWseal, onRing_ring hr, hp, Bool.false_eq_true, if_false, hm]

theorem exec_wseal_seals (hp : s.pendAny [a] = false) (hm : s.mapped (s.vfNum r) (s.x a) = some n)
    (ho : (s.window n).opened.getLsbD (s.vfNum r) = true) (hw : (s.window n).wv = true) (hv : (s.window n).writer.toNat = s.vfNum r)
    (hs : ∀ b ∈ s.me.stores, isWin b.attrs = false) :
    exec (.wseal a) s = .next ((s.showWindows (s.vfNum r)).updWindow n fun w => { w with seq := w.seq + 1 }).done := by
  simp only [exec, execWseal, onRing_ring hr, hp, Bool.false_eq_true, if_false, hm, ho, hw, hv, Bool.not_true, ne_eq, not_true_eq_false,
    or_self, Seq.sealing_eq_false hs]

end

/-- Settles O34: each outcome of wopen and of wseal, and that its window alone changes. -/
theorem windows : Obligations.Windows := by
  unfold Obligations.Windows
  refine ⟨?_, fun s r d a n => exec_wopen_waits, ?_, ?_⟩
  · intro s r d a n hr hp hm hn
    refine ⟨_, exec_wopen_opens hr hp hm hn, ?_, fun m hm => ?_, ?_, ?_, fun k => ?_⟩
    · rw [State.window_done, State.windowOpened, State.window_updSeq, State.window_updWindow_same]
    · rw [State.window_done, State.windowOpened, State.window_updSeq, State.window_updWindow_ne _ _ hm]
    · rw [State.me_done, State.me_windowOpened]
    · rw [State.pc_done, State.pc, State.me_windowOpened, State.pc]
    · simp [State.byte, State.windowOpened]
  · intro s r d a hr hp hm
    have hpa : s.pendAny [a] = false := by
      simp only [State.pendAny, List.any_cons, Bool.or_eq_false_iff] at hp ⊢
      exact hp.2
    exact ⟨exec_wopen_trap hr hp hm, exec_wseal_trap hr hpa hm⟩
  · intro s r a n hr hp hm ho hw hv hs
    refine ⟨_, exec_wseal_seals hr hp hm ho hw hv hs, ?_, fun m hm => ?_, ?_, ?_, fun k => ?_⟩
    · rw [State.window_done, State.window_updWindow_same]
      rfl
    · rw [State.window_done, State.window_updWindow_ne _ _ hm]
      rfl
    · rw [State.me_done, State.me_updWindow, State.me_showWindows]
    · rw [State.pc_done]
      rfl
    · simp [State.byte]

end Sys2Proof.Machine
end

section
/-! Reads of registers (R261, R263, R320). -/

namespace Sys2Proof.Machine

/-- A counter of the running thread is read at once where nothing holds it (R263). -/
theorem State.counter_goes {s : State} {n : Nat} (hc : n ≤ 2 → s.counterWaits = false) : ¬ (counterCsr n = true ∧ s.counterWaits = true) := by
  rintro ⟨h, hwait⟩
  rw [hc (of_decide_eq_true h)] at hwait
  cases hwait

/-- A read that passes its checks and need not wait reads the register (R261, R263). -/
theorem exec_csrr_ring {s : State} {r : Nat} {d : BitVec 5} {n : BitVec 14} (hr : s.cur = .ring r) (ht : s.csrTrap n.toNat false = none)
    (hp : s.pendAny [d] = false) (hc : n.toNat ≤ 2 → s.counterWaits = false) :
    exec (.csrr d n) s = .next (s.setX d (s.ringRead r n.toNat)).done := by
  show execCsrr d n s = _
  simp only [execCsrr, ht, hp, hr, State.counter_goes hc, Bool.false_eq_true, false_or, if_false]

theorem exec_csrr_core {s : State} {c : Nat} {d : BitVec 5} {n : BitVec 14} (hr : s.cur = .core c) (ht : s.csrTrap n.toNat false = none)
    (hp : s.pendAny [d] = false) (h1 : n ≠ 0x2001) (h2 : n ≠ 0x2030) (h3 : n ≠ 0x2123) (hc : n.toNat ≤ 2 → s.counterWaits = false) :
    exec (.csrr d n) s = .next (s.setX d (s.coreRead c n.toNat)).done := by
  show execCsrr d n s = _
  simp only [execCsrr, ht, hp, hr, State.counter_goes hc, Bool.false_eq_true, false_or, if_false]
  split
  · exact absurd (BitVec.eq_of_toNat_eq ‹n.toNat = 0x2001›) h1
  · exact absurd (BitVec.eq_of_toNat_eq ‹n.toNat = 0x2030›) h2
  · exact absurd (BitVec.eq_of_toNat_eq ‹n.toNat = 0x2123›) h3
  · rfl

/-- The registers of a management core whose read is an event (R328, R374, R395). -/
theorem exec_csrr_event {s : State} {c : Nat} {d : BitVec 5} (hr : s.cur = .core c) (hp : s.pendAny [d] = false) :
    exec (.csrr d 0x2001) s = .next (outState s (execHevtRead d s)).done ∧
      exec (.csrr d 0x2030) s = .next (outState s (execPrqpopRead d s)).done ∧
      exec (.csrr d 0x2123) s = .next (outState s (execRdbgdRead d s)).done := by
  have ht {n : Nat} (hk : coreCsrKind n ≠ .none) (hn : ¬ 0x3000 ≤ n) : s.csrTrap n false = none := by
    simp [State.csrTrap, State.csrKind, hr, hk, hn]
  have hc {n : Nat} (hn : ¬ n ≤ 2) : n ≤ 2 → s.counterWaits = false := fun h => absurd h hn
  refine ⟨?_, ?_, ?_⟩
  · show execCsrr d 0x2001 s = _
    simp only [execCsrr, show (0x2001 : BitVec 14).toNat = 0x2001 from rfl, ht (n := 0x2001) (by decide) (by decide), hp, hr,
      State.counter_goes (hc (n := 0x2001) (by decide)), Bool.false_eq_true, false_or, if_false]
  · show execCsrr d 0x2030 s = _
    simp only [execCsrr, show (0x2030 : BitVec 14).toNat = 0x2030 from rfl, ht (n := 0x2030) (by decide) (by decide), hp, hr,
      State.counter_goes (hc (n := 0x2030) (by decide)), Bool.false_eq_true, false_or, if_false]
  · show execCsrr d 0x2123 s = _
    simp only [execCsrr, show (0x2123 : BitVec 14).toNat = 0x2123 from rfl, ht (n := 0x2123) (by decide) (by decide), hp, hr,
      State.counter_goes (hc (n := 0x2123) (by decide)), Bool.false_eq_true, false_or, if_false]

/-- A counter's read waits for the acquires and fences before it (R116, R263). -/
theorem exec_csrr_waits {s : State} {d : BitVec 5} {n : BitVec 14} (ht : s.csrTrap n.toNat false = none) (hn : n.toNat ≤ 2)
    (hw : s.counterWaits = true) : exec (.csrr d n) s = .next s := by
  have hc : counterCsr n.toNat = true := decide_eq_true hn
  show execCsrr d n s = _
  simp only [execCsrr, ht, hc, hw, and_self, or_true, if_true]

theorem State.counterWaits_iff (s : State) :
    s.counterWaits = true ↔ (∃ l ∈ s.me.loads, l.orders = true) ∨ ∃ f ∈ s.me.ranges, f.full = true ∧ f.done = none := by
  simp only [State.counterWaits, Bool.or_eq_true, List.any_eq_true, Bool.and_eq_true, Option.isNone_iff_eq_none]

/-- Settles O20: a read that passes its checks completes with what the register reads. -/
theorem csrReads : Obligations.CsrReads := by
  unfold Obligations.CsrReads
  refine ⟨?_, ?_, ?_, ?_, fun s d n => exec_csrr_waits, State.counterWaits_iff, ?_⟩
  · intro s r d n hr ht hp hc
    exact ⟨_, exec_csrr_ring hr ht hp hc, s.setX_done_frame d _⟩
  · intro s c d n hr ht hp h1 h2 h3 hc
    exact ⟨_, exec_csrr_core hr ht hp h1 h2 h3 hc, s.setX_done_frame d _⟩
  · intro s c d hr hp
    have hread := exec_hevtRead hr d
    refine ⟨_, _, _, (exec_csrr_event hr hp).1, hread, ?_, rfl, rfl⟩
    exact congrArg (fun o => (outState s o).done) hread
  · intro s c d hr hp
    obtain ⟨-, hpop, hdbg⟩ := exec_csrr_event hr hp
    refine ⟨fun e he => ?_, fun he => ?_, ?_⟩
    · have hread := exec_prqpopRead_some hr he d
      exact ⟨_, hread, rfl, hpop.trans (congrArg (fun o => Host.Outcome.next (outState s o).done) hread)⟩
    · exact hpop.trans (congrArg (fun o => Host.Outcome.next (outState s o).done) (exec_prqpopRead_none hr he d))
    · have hread := exec_rdbgdRead s d rfl
      refine ⟨_, hread, hdbg.trans (congrArg (fun o => Host.Outcome.next (outState s o).done) hread), fun v hh hv => ?_⟩
      rw [if_pos hh, hv]
      rfl
  · intro s r
    refine ⟨rfl, rfl, rfl, fun n hn => ?_⟩
    simp only [List.mem_cons, List.not_mem_nil, or_false] at hn
    rcases hn with rfl | rfl | rfl | rfl | rfl | rfl | rfl | rfl <;> rfl

end Sys2Proof.Machine
end

section
/-! Writes of registers (R261, R320, R346, R376). -/

namespace Sys2Proof.Machine

/-- A write of a ring's register that is no release and not LDONE writes it as REGISTER_WRITE does, and completes (R261). -/
theorem exec_csrw_ring {s : State} {r : Nat} {a : BitVec 5} {n : BitVec 14} (hr : s.cur = .ring r) (ht : s.csrTrap n.toNat true = none)
    (hp : s.pendAny [a] = false) (hl : n.toNat ≠ 0x030) (hrel : releaseCsr n.toNat = false) :
    exec (.csrw a n) s = .next (s.ringWrite r n.toNat (s.x a)).done := by
  show execCsrw a n s = _
  simp only [execCsrw, ht, hp, hr, hl, hrel, Bool.false_eq_true, false_and, or_self, if_false]

/-- What a thread has written is released by its ring whatever agents are at work: the scope is the widest (R110). -/
theorem State.releaseMine_ring {s : State} {r : Nat} (hr : s.cur = .ring r) : s.releaseMine = s.releaseAll r := by
  simp [State.releaseMine, hr, State.releaseBy, State.noPeer]

theorem exec_csrw_release {s : State} {r : Nat} {a : BitVec 5} {n : BitVec 14} (hr : s.cur = .ring r) (ht : s.csrTrap n.toNat true = none)
    (hp : s.pendAny [a] = false) (hrel : releaseCsr n.toNat = true) (hb : s.me.busy = false) :
    exec (.csrw a n) s = .next ((s.releaseAll r).ringWrite r n.toNat (s.x a)).done := by
  show execCsrw a n s = _
  simp only [execCsrw, ht, hp, hr, hrel, hb, Bool.false_eq_true, and_false, or_self, if_false, if_true, State.releaseMine_ring hr]

theorem exec_csrw_waits {s : State} {a : BitVec 5} {n : BitVec 14} (ht : s.csrTrap n.toNat true = none) (hrel : releaseCsr n.toNat = true)
    (hb : s.me.busy = true) : exec (.csrw a n) s = .next s := by
  show execCsrw a n s = _
  simp only [execCsrw, ht, hrel, hb, and_self, or_true, if_true]

theorem exec_csrw_core {s : State} {c : Nat} {a : BitVec 5} {n : BitVec 14} (hr : s.cur = .core c) (ht : s.csrTrap n.toNat true = none)
    (hp : s.pendAny [a] = false) (hboot : n.toNat ≠ 0x2066) (hb : releaseCsr n.toNat = true → s.me.busy = false) :
    exec (.csrw a n) s = .next (s.coreWrite c n.toNat (s.x a)).done := by
  have hgo : ¬ (releaseCsr n.toNat = true ∧ s.me.busy = true) := fun ⟨hrel, hbusy⟩ => by simp [hb hrel] at hbusy
  show execCsrw a n s = _
  simp only [execCsrw, ht, hp, hr, hboot, hgo, Bool.false_eq_true, false_and, or_self, if_false]

theorem exec_registerWrite_ring {s : State} {r : Nat} (hr : s.cur = .ring r) (n : Nat) (v : W64) :
    exec (.registerWrite n v) s = .next (s.ringWrite r n v) := by
  show execRegisterWrite n v s = _
  simp only [execRegisterWrite, hr]

theorem exec_registerWrite_core {s : State} {c : Nat} (hr : s.cur = .core c) (n : Nat) (v : W64) :
    exec (.registerWrite n v) s = .next (s.coreWrite c n v) := by
  show execRegisterWrite n v s = _
  simp only [execRegisterWrite, hr]

/-- A write of a ring's register that R320 does not list for a core traps there, so that HPRQRESP alone releases (R346, R376). -/
theorem State.csrTrap_core_release {s : State} {c n : Nat} (hr : s.cur = .core c) (ht : s.csrTrap n true = none) (hrel : releaseCsr n = true) :
    n = 0x2034 := by
  have hkind : coreCsrKind n ≠ .none := fun h => by
    simp [State.csrTrap, State.csrKind, hr, h] at ht
  simp only [releaseCsr, Bool.or_eq_true, beq_iff_eq] at hrel
  rcases hrel with (rfl | rfl) | rfl
  · exact absurd (by decide) hkind
  · exact absurd (by decide) hkind
  · rfl

/-- The registers of a ring that a write simply stores. -/
def plainRingCsrs : List Nat :=
  [0x028, 0x029, 0x02A, 0x02B, 0x02C, 0x1001, 0x1002, 0x1003, 0x1004, 0x1005, 0x1006, 0x1007, 0x1008, 0x1009, 0x100B]

theorem State.ringWrite_plain {n : Nat} (hn : n ∈ plainRingCsrs) (s : State) (r : Nat) (v : W64) :
    s.ringWrite r n v = s.setRcsr r n (v &&& rwMask n) := by
  simp only [plainRingCsrs, List.mem_cons, List.not_mem_nil, or_false] at hn
  rcases hn with rfl | rfl | rfl | rfl | rfl | rfl | rfl | rfl | rfl | rfl | rfl | rfl | rfl | rfl | rfl <;> rfl

/-- The registers of a management core that a write simply stores. -/
theorem State.coreWrite_plain {n : Nat} (hn : n ∈ [0x2002, 0x2003, 0x2007, 0x2008]) (s : State) (d : Nat) (v : W64) :
    s.coreWrite d n v = s.setDcsr d n (v &&& rwMask n) := by
  simp only [List.mem_cons, List.not_mem_nil, or_false] at hn
  rcases hn with rfl | rfl | rfl | rfl <;> rfl

/-- A register of plain storage reads as it was stored, and storing it leaves every other, the thread and memory (R7). -/
theorem State.setRcsr_frame (s : State) (r n : Nat) (v : W64) :
    (s.setRcsr r n v).rcsr r n = v ∧ (∀ k, k ≠ n → (s.setRcsr r n v).rcsr r k = s.rcsr r k) ∧ (s.setRcsr r n v).me = s.me ∧
      (s.setRcsr r n v).mem = s.mem :=
  ⟨State.rcsr_setRcsr_same _ _ _ _, fun _ hk => State.rcsr_setRcsr_ne _ _ (.inr hk), State.seqOf_setRcsr s _ r n v, rfl⟩

theorem State.setDcsr_frame (s : State) (d n : Nat) (v : W64) :
    (s.setDcsr d n v).dcsr d n = v ∧ (∀ k, k ≠ n → (s.setDcsr d n v).dcsr d k = s.dcsr d k) ∧ (s.setDcsr d n v).me = s.me ∧
      (s.setDcsr d n v).mem = s.mem :=
  ⟨State.dcsr_setDcsr_same _ _ _ _, fun _ hk => State.dcsr_setDcsr_ne _ _ (.inr hk), State.seqOf_updDie s d rfl _, rfl⟩

theorem State.releaseAll_cur (s : State) (r : Nat) : (s.releaseAll r).cur = s.cur := rfl

/-- Settles O21: a write that passes its checks is REGISTER_WRITE's, after the release that it may be. -/
theorem csrWrites : Obligations.CsrWrites := by
  unfold Obligations.CsrWrites
  refine ⟨?_, ?_, ?_, ?_, ?_, ?_⟩
  · intro s r a n hr ht hp h1 h2 h3
    have hne {k : BitVec 14} (h : n ≠ k) : n.toNat ≠ k.toNat := fun e => h (BitVec.eq_of_toNat_eq e)
    have h4 : n.toNat ≠ 0x2034 := fun e => by
      simp [State.csrTrap, hr, e] at ht
    have hrel : releaseCsr n.toNat = false := by
      simpa [releaseCsr, h4] using And.intro (hne h2) (hne h3)
    exact ⟨_, exec_registerWrite_ring hr _ _, exec_csrw_ring hr ht hp (hne h1) hrel⟩
  · intro s r a n hr ht hp hn
    have hrel : releaseCsr n.toNat = true := by
      rcases hn with rfl | rfl <;> rfl
    exact ⟨exec_csrw_waits ht hrel, fun hb =>
      ⟨_, exec_registerWrite_ring (r := r) ((s.releaseAll_cur r).trans hr) _ _, exec_csrw_release hr ht hp hrel hb⟩⟩
  · intro s c a n hr ht hp hn hb
    refine ⟨_, exec_registerWrite_core hr _ _, exec_csrw_core hr ht hp (fun h => hn (BitVec.eq_of_toNat_eq h)) fun hrel => hb ?_⟩
    exact BitVec.eq_of_toNat_eq (State.csrTrap_core_release hr ht hrel)
  · intro s r n m v hr hm
    have hplain : n ∈ plainRingCsrs ∧ m = rwMask n := by
      simp only [List.mem_cons, List.not_mem_nil, or_false, Prod.mk.injEq] at hm
      rcases hm with ⟨rfl, rfl⟩ | ⟨rfl, rfl⟩ | ⟨rfl, rfl⟩ | ⟨rfl, rfl⟩ | ⟨rfl, rfl⟩ | ⟨rfl, rfl⟩ | ⟨rfl, rfl⟩ | ⟨rfl, rfl⟩ |
        ⟨rfl, rfl⟩ | ⟨rfl, rfl⟩ | ⟨rfl, rfl⟩ | ⟨rfl, rfl⟩ | ⟨rfl, rfl⟩ | ⟨rfl, rfl⟩ | ⟨rfl, rfl⟩ <;>
        exact ⟨by decide, rfl⟩
    obtain ⟨hn, rfl⟩ := hplain
    refine ⟨_, (exec_registerWrite_ring hr _ _).trans ?_, s.setRcsr_frame r n _⟩
    rw [State.ringWrite_plain hn]
  · intro s r v hr
    exact ⟨_, exec_registerWrite_ring hr _ _, s.setRcsr_frame r 0x100A _⟩
  · intro s c n v hr hn
    have hmask : rwMask n = if n = 0x2002 then 0xFFFFFFFFFFFFFFFC else 0xFFFFFFFFFFFFFFFF := by
      simp only [List.mem_cons, List.not_mem_nil, or_false] at hn
      rcases hn with rfl | rfl | rfl | rfl <;> rfl
    refine ⟨_, (exec_registerWrite_core hr _ _).trans ?_, s.setDcsr_frame c n _⟩
    rw [State.coreWrite_plain hn, hmask]

end Sys2Proof.Machine
end

section
/-! The accesses that write: a buffered store and an atomic that perform (R111, R116, R254, R256). -/

namespace Sys2Proof.Machine

/-- What bytes a write leaves follows from the memory before it alone. -/
theorem State.putBytesAt_mem_congr {s t : State} (h : s.mem = t.mem) (ks : List Nat) (bs : List Byte) :
    (s.putBytesAt ks bs).mem = (t.putBytesAt ks bs).mem := by
  induction ks generalizing s t bs with
  | nil => simpa [State.putBytesAt] using h
  | cons k ks ih =>
    cases bs with
    | nil => simpa [State.putBytesAt] using h
    | cons b bs => exact ih (by simp [State.putByte, h]) bs

/-- A thread's write that takes place stores its bytes, and leaves the thread its registers and its outstanding accesses (R110, R116). -/
theorem State.writeFor_ok {s v : State} {th : Thread} {rel : Bool} {c : BitVec 2} {seq : Nat} {va : W64} {sync : Tab Dep}
    {ps : List (Nat × MemAttr)} {bs : List Byte} (h : s.writeFor th rel c seq va sync ps bs = .ok v) :
    (v.seqOf th).loads = (s.seqOf th).loads ∧ (v.seqOf th).stores = (s.seqOf th).stores ∧ (v.seqOf th).pc = (s.seqOf th).pc ∧
      (v.seqOf th).x = (s.seqOf th).x ∧ v.mem = (s.putBytesAt (ps.map (·.1)) bs).mem := by
  unfold State.writeFor at h
  extract_lets win s1 at h
  have hrel : KeepsAccesses th s s1 := KeepsAccesses.ite (KeepsAccesses.releaseBy s c.toNat) (KeepsAccesses.refl th s)
  split at h
  · cases h
  · rename_i s2 hw
    obtain rfl := Except.ok.inj h
    have hseq : s2.seqOf th = s1.seqOf th := (KeepsAgents.writeAt hw).seqOf th
    have hmem : s2.mem = (s.putBytesAt (ps.map (·.1)) bs).mem := by
      rw [State.writeAt_ok hw]
      exact State.putBytesAt_mem_congr hrel.mem _ _
    simp only [State.seqOf_updSeq_same, State.updSeq_mem, hseq]
    exact ⟨hrel.loads, hrel.stores, hrel.pc, hrel.x, hmem⟩

/-- Places that stand beside as many attributes are the places. -/
theorem map_fst_zip_of_length {α β : Type} {l : List α} {m : List β} (h : m.length = l.length) : (l.zip m).map (·.1) = l :=
  List.map_fst_zip (by omega)

/-- Bytes written at different places read back as written (R111). -/
theorem State.byte_putBytesAt_getD (s : State) {ks : List Nat} {bs : List Byte} (hd : ks.Nodup) (hl : bs.length = ks.length) {n : Nat}
    (hn : n < ks.length) : (s.putBytesAt ks bs).byte (ks.getD n 0) = bs.getD n 0 := by
  have hb : n < bs.length := by omega
  rw [List.getD_eq_getElem _ _ hn, List.getD_eq_getElem _ _ hb]
  exact State.byte_putBytesAt_in s ks bs hd hn hb

theorem exec_storePerform_performs {s v : State} {th k : Nat} {b : BufStore} (hb : (s.seqOf (threadOf th)).stores[k]? = some b)
    (hr : s.storeReady (threadOf th) k b = true) (hk : s.bankBusy (threadOf th) b.locs = false)
    (hw : (s.updSeq (threadOf th) fun q => { q with stores := q.stores.eraseIdx k }).writeFor (threadOf th) b.rel b.scope b.seq b.va []
      (b.locs.zip b.attrs) b.data = .ok v) :
    exec (.storePerform th k) s = .next ((v.tellAsyncs (threadOf th) b.seq b.locs).settleRanges (threadOf th)) := by
  show execStorePerform th k s = _
  simp only [execStorePerform, hb, hr, hk, hw, Bool.not_true, Bool.or_self, Bool.false_eq_true, if_false]

/-- Settles O17: the store leaves the buffer, and its bytes and no others are written; what others must observe changes no register. -/
theorem storePerforms : Obligations.StorePerforms := by
  unfold Obligations.StorePerforms
  intro s th k b v hb hold hover hwait hk hw
  have hready : s.storeReady (threadOf th) k b = true := by
    cases hwin : isWin b.attrs with
    | true => simp [State.storeReady, hold, hover, hwin]
    | false =>
      obtain ⟨hbar, hrel⟩ := hwait hwin
      cases hr : b.rel with
      | false => simp [State.storeReady, hold, hover, hbar, hr]
      | true => simp [State.storeReady, hold, hover, hbar, hrel hr]
  obtain ⟨-, hstores, hpc, hx, hmem⟩ := State.writeFor_ok hw
  have hkeep := (KeepsAccesses.tellAsyncs (th := threadOf th) v b.seq b.locs).trans (KeepsAccesses.settleRanges _)
  simp only [State.seqOf_updSeq_same] at hstores hpc hx
  refine ⟨_, exec_storePerform_performs hb hready hk hw, hkeep.x.trans hx, hkeep.pc.trans hpc, hkeep.stores.trans hstores, fun hd ha hl => ?_⟩
  have hbyte (a : Nat) : ((v.tellAsyncs (threadOf th) b.seq b.locs).settleRanges (threadOf th)).byte a = (s.putBytesAt b.locs b.data).byte a := by
    rw [State.byte, hkeep.mem, hmem, map_fst_zip_of_length ha]
    exact congrArg (fun m => tget 0 m a) (State.putBytesAt_mem_congr (State.updSeq_mem _ _ _) _ _)
  refine ⟨fun n hn => ?_, fun a ha => ?_⟩
  · rw [hbyte, State.byte_putBytesAt_getD s hd hl hn]
  · rw [hbyte, State.byte_putBytesAt_out _ _ _ ha]

end Sys2Proof.Machine
end

section
/-! An atomic that performs (R256). -/

namespace Sys2Proof.Machine

/-- What memory delivers depends on the rings' power and owners, the links, the keys, the errors and the lines' tags (R406 to R412, R426, R428). -/
theorem State.placesErr_congr {s t : State} (hpower : ∀ r, (t.ring r).power = (s.ring r).power) (hvf : ∀ r, (t.ring r).vf = (s.ring r).vf)
    (hup : t.hostUp = s.hostUp) (hbad : t.bad = s.bad) (hkeys : t.vfKeys = s.vfKeys)
    (hline : ∀ k d pa, t.lineErr k d pa = s.lineErr k d pa) (ps : List (Nat × MemAttr)) : t.placesErr ps = s.placesErr ps := by
  have hplace (p : Nat × MemAttr) : t.placeErr p = s.placeErr p := by
    simp only [State.placeErr, State.railGated, hpower, hbad, hup, hline, State.ownKey, hvf, hkeys]
    rfl
  rw [State.placesErr, State.placesErr, funext hplace]

/-- What a thread's access changes changes nothing of what memory delivers. -/
theorem OnlyAccess.placesErr {s t : State} {th : Thread} (h : OnlyAccess th s t) (ps : List (Nat × MemAttr)) : t.placesErr ps = s.placesErr ps := by
  obtain ⟨q, asyncs, past, linkSeq, rfl⟩ := h
  cases th with
  | ring r =>
    have hring {α : Type} (f : Ring → α) (hf : ∀ x, f { x with seq := q, asyncs := asyncs } = f x) (n : Nat) :
        f ((s.updRing r fun x => { x with seq := q, asyncs := asyncs }).ring n) = f (s.ring n) := by
      by_cases hn : n = r
      · rw [hn, State.ring_updRing_same, hf]
      · rw [State.ring_updRing_ne s _ hn]
    exact State.placesErr_congr (hring Ring.power fun _ => rfl) (hring Ring.vf fun _ => rfl) rfl rfl rfl (fun _ _ _ => rfl) ps
  | core d =>
    have hup : (s.updDie d fun x => { x with core := q }).hostUp = s.hostUp := by
      unfold State.hostUp
      by_cases hd : 0 = d
      · rw [← hd, State.die_updDie_same]
      · rw [State.die_updDie_ne s _ hd]
    refine State.placesErr_congr ?_ ?_ ?_ ?_ ?_ ?_ ps
    case refine_3 => exact hup
    all_goals
      intros
      rfl

theorem OnlyAccess.treeFull {s t : State} {th : Thread} (h : OnlyAccess th s t) (pa : Nat) : t.treeFull pa = s.treeFull pa := by
  obtain ⟨q, asyncs, past, linkSeq, rfl⟩ := h
  cases th <;> rfl

/-- What an atomic writes, if anything, once it has ended (R256). -/
def State.amoWrites (u : State) (t : Thread) (l : PendLoad) (sync : Tab Dep) : Option Nat → State
  | none => u
  | some v => match u.writeFor t l.rel l.scope l.seq l.va sync (l.locs.zip l.attrs) (leBytes l.nb v) with
    | .ok w => w.tellAsyncs t l.seq l.locs
    | .error e => u.threadFail t e

/-- An atomic that may perform reads, ends as a load does, and writes (R256). -/
theorem State.performAmo_eq {s : State} {t : Thread} {k : Nat} {l : PendLoad} {kind : BitVec 5} {z c : W64} {new : Option Nat}
    (hp : s.placesErr (l.locs.zip l.attrs) = none)
    (hn : amoNew kind l.nb (leNat ((s.amoSees t l).map (·.1))) (z.toNat % 2 ^ (8 * l.nb)) (c.toNat % 2 ^ (8 * l.nb)) = new)
    (hw : new.isSome = true → l.rel = true → s.relWaits t l.seq l.scope = false) :
    ∃ w d sync, OnlyAccess t s w ∧ KeepsAccesses t s w ∧
      s.performAmo t k l kind z c = (w.endLoad t k l.rd (l.value ((s.amoSees t l).map (·.1))) d).amoWrites t l sync new := by
  have hgo : ¬ ((new.isSome && l.rel && s.relWaits t l.seq l.scope) = true) := by
    intro h
    simp only [Bool.and_eq_true] at h
    simp [hw h.1.1 h.1.2] at h
  have hacq (u : State) (d : Dep) : KeepsAccesses t u (if l.orders then u.acquire t l.scope.toNat d else u) :=
    KeepsAccesses.ite (KeepsAccesses.acquire _ _ _) (KeepsAccesses.refl _ _)
  unfold State.performAmo
  simp only [hp, hn, if_neg hgo]
  refine ⟨?w, ?d, ?sync, ?only, ?keeps, ?eq⟩
  case eq => cases new <;> rfl
  case only => exact (hacq _ _).only s ((OnlyAccess.of_updSeq s t _ _).withLinkSeq _)
  case keeps =>
    refine KeepsAccesses.trans ?_ (hacq _ _)
    refine KeepsAccesses.trans ?_ (KeepsAccesses.transfers _ _)
    refine KeepsAccesses.trans ?_ (KeepsAccesses.updSeq _ fun _ => ⟨rfl, rfl, rfl, rfl⟩)
    exact (KeepsAccesses.force s _).trans (KeepsAccesses.withPast _ _)

/-- A write meets no error at places that memory delivers and whose counters are not full (R411). -/
theorem State.writeFor_succeeds {s u : State} {t : Thread} (h : OnlyAccess t s u) {ps : List (Nat × MemAttr)} (hp : s.placesErr ps = none)
    (hf : ∀ p ∈ ps, isHbm p.1 = true → s.treeFull p.1 = false) (rel : Bool) (c : BitVec 2) (seq : Nat) (va : W64) (sync : Tab Dep)
    (bs : List Byte) : ∃ w, u.writeFor t rel c seq va sync ps bs = .ok w := by
  unfold State.writeFor
  extract_lets win s1
  have hrel : OnlyAccess t s s1 :=
    (KeepsAccesses.ite (p := (rel && !win) = true) (KeepsAccesses.releaseBy u c.toNat) (KeepsAccesses.refl t u)).only s h
  have hfull : (ps.find? fun p => isHbm p.1 && s1.treeFull p.1) = none := by
    rw [List.find?_eq_none]
    intro p hmem
    cases hh : isHbm p.1 with
    | false => simp
    | true => simp [hrel.treeFull, hf p hmem hh]
  have hwrite (who : Agent) (lag : Bool) (sy : Tab Dep) : ∃ w, s1.writeAt who lag sy ps bs = .ok w := by
    simp [State.writeAt, hrel.placesErr, hp, hfull]
  obtain ⟨w, hw⟩ := hwrite (agentOf t) win (if win then [] else joinRel sync (u.releases t rel c.toNat seq va (ps.map (·.1))))
  rw [hw]
  exact ⟨_, rfl⟩

/-- The functions of R256. -/
theorem amoNew_eq (kind : BitVec 5) {n : Nat} (hn : 0 < n) (m z c : Nat) : amoNew kind n m z c =
    let sg (v : Nat) : Int := (BitVec.ofNat (8 * n) v).toInt
    if kind = 0 then some ((m + z) % 2 ^ (8 * n)) else if kind = 1 then some (m &&& z) else if kind = 2 then some (m ||| z)
      else if kind = 3 then some (m ^^^ z) else if kind = 4 then some (if sg z < sg m then z else m)
      else if kind = 5 then some (if sg m < sg z then z else m) else if kind = 6 then some (min m z)
      else if kind = 7 then some (max m z) else if kind = 8 then some z
      else if kind = 9 then (if m = c then some z else none) else none := by
  have hsg (v : Nat) : sextN v (8 * n) = (BitVec.ofNat (8 * n) v).toInt := sextN_eq_toInt v (by omega)
  unfold amoNew
  split
  case h_11 h0 h1 h2 h3 h4 h5 h6 h7 h8 h9 =>
    exact ((if_neg h0).trans <| (if_neg h1).trans <| (if_neg h2).trans <| (if_neg h3).trans <| (if_neg h4).trans <| (if_neg h5).trans <|
      (if_neg h6).trans <| (if_neg h7).trans <| (if_neg h8).trans (if_neg h9)).symm
  all_goals simp [hsg]

/-- An atomic's register takes SEXT of what it read (R256). -/
theorem PendLoad.value_amo {l : PendLoad} {kind : BitVec 5} {z c : W64} (hk : l.kind = .amo kind z c) (hn : 0 < l.nb) (bs : List Byte) :
    l.value bs = BitVec.ofInt 64 (BitVec.ofNat (8 * l.nb) (leNat bs)).toInt := by
  rw [PendLoad.value, hk, ← sextN_eq_toInt _ (Nat.mul_pos (by decide) hn)]
  rfl

theorem exec_loadWriteback_amo {s : State} {th k part : Nat} {l : PendLoad} {kind : BitVec 5} {z c : W64}
    (hl : (s.seqOf (threadOf th)).loads[k]? = some l) (hr : loadReady (s.seqOf (threadOf th)) l = true)
    (hb : s.bankBusy (threadOf th) l.locs = false) (hk : l.kind = .amo kind z c) :
    exec (.loadWriteback th k part) s = .next (s.performAmo (threadOf th) k l kind z c) := by
  show execLoadWriteback th k part s = _
  simp only [execLoadWriteback, hl, hr, hb, hk, Bool.not_true, Bool.or_self, Bool.false_eq_true, if_false]

/-- What an atomic writes at its place, and what it leaves of its thread (R256). -/
theorem State.amoWrites_frame {s u : State} {t : Thread} {l : PendLoad} (h : OnlyAccess t s u) (hp : s.placesErr (l.locs.zip l.attrs) = none)
    (hf : ∀ p ∈ l.locs, isHbm p = true → s.treeFull p = false) (ha : l.attrs.length = l.locs.length) (sync : Tab Dep) (new : Option Nat) :
    let w := u.amoWrites t l sync new
    (w.seqOf t).loads = (u.seqOf t).loads ∧ (w.seqOf t).stores = (u.seqOf t).stores ∧ (w.seqOf t).x = (u.seqOf t).x ∧
      w.mem = match new with
        | some v => (u.putBytesAt l.locs (leBytes l.nb v)).mem
        | none => u.mem := by
  cases new with
  | none => exact ⟨rfl, rfl, rfl, rfl⟩
  | some v =>
    have hfull : ∀ p ∈ l.locs.zip l.attrs, isHbm p.1 = true → s.treeFull p.1 = false := fun p hmem => hf p.1 (List.of_mem_zip hmem).1
    obtain ⟨w, hw⟩ := State.writeFor_succeeds h hp hfull l.rel l.scope l.seq l.va sync (leBytes l.nb v)
    obtain ⟨hloads, hstores, -, hx, hmem⟩ := State.writeFor_ok hw
    have htell := KeepsAccesses.tellAsyncs (th := t) w l.seq l.locs
    simp only [State.amoWrites, hw]
    rw [map_fst_zip_of_length ha] at hmem
    exact ⟨htell.loads.trans hloads, htell.stores.trans hstores, htell.x.trans hx, htell.mem.trans hmem⟩

/-- Settles O18: the atomic reads, ends as a load does, and writes the value of its function at its place. -/
theorem amoPerforms : Obligations.AmoPerforms := by
  unfold Obligations.AmoPerforms
  intro s th k part l kind z c hl hr hb hk hnb hlocs hattrs hd hp hf n m zn cn sg new hwait
  have hpos : 0 < l.nb := by omega
  have hnew : amoNew kind l.nb m zn cn = new := amoNew_eq kind hpos m zn cn
  clear_value new
  obtain ⟨w, d, sync, honly, hkeep, he⟩ := State.performAmo_eq (k := k) hp hnew hwait
  obtain ⟨hend, hloads, hstores, -, hx, hmem⟩ := State.endLoad_frame honly k l.rd (l.value ((s.amoSees (threadOf th) l).map (·.1))) d
  obtain ⟨hwloads, hwstores, hwx, hwmem⟩ := State.amoWrites_frame hend hp hf (hattrs.trans hlocs.symm) sync new
  have hexec := (exec_loadWriteback_amo (part := part) hl hr hb hk).trans (congrArg Host.Outcome.next he)
  have hsame : (w.endLoad (threadOf th) k l.rd (l.value ((s.amoSees (threadOf th) l).map (·.1))) d).mem = s.mem := hmem.trans hkeep.mem
  have hput (v : Nat) := State.putBytesAt_mem_congr hsame l.locs (leBytes l.nb v)
  refine ⟨_, hexec, ?_, ?_, fun hrd => ?_, fun i hi => ?_, fun a ha => ?_, fun i hi => ?_⟩
  · exact hwloads.trans (hloads.trans (congrArg (·.eraseIdx k) hkeep.loads))
  · exact hwstores.trans (hstores.trans hkeep.stores)
  · rw [hwx, hx, if_neg hrd, tget_tput_same]
    exact PendLoad.value_amo hk hpos _
  · rw [hwx, hx, hkeep.x]
    split
    next => rfl
    next hrd => exact tget_tput_ne _ _ _ (hi.resolve_left hrd)
  · rw [State.byte, hwmem]
    split
    · rw [hput]
      exact State.byte_putBytesAt_out s _ _ ha
    · rw [hsame, State.byte]
  · rw [State.byte, hwmem]
    split
    · rw [hput]
      exact State.byte_putBytesAt_getD s hd ((length_leBytes _ _).trans hlocs.symm) (by omega)
    · rw [hsame, State.byte]

end Sys2Proof.Machine
end

section
/-! What an instruction waits for, and what a fence does (R116, R118, R248, R260). -/

namespace Sys2Proof.Machine

theorem regOp_waits {d : BitVec 5} {srcs : List (BitVec 5)} {s : State} (h : s.pendAny (d :: srcs) = true) (v : State → W64) :
    regOp d srcs v s = .next s := by
  simp only [regOp, h, if_true]

/-- An access that is not to a window is held by an acquire before it, a store only by one whose scope has another agent at work (R116; log 112). -/
theorem State.acqHolds_eq_true {s : State} {store : Bool} {ps : List (Nat × MemAttr)} (hw : isWin (ps.map (·.2)) = false)
    (h : ∃ l ∈ s.me.loads, l.orders = true ∧ (store = true → s.noPeer s.cur l.scope.toNat = false)) : s.acqHolds store ps = true := by
  obtain ⟨l, hl, hord, hpeer⟩ := h
  have hany : (s.me.loads.any fun l => l.orders && !(store && s.noPeer s.cur l.scope.toNat)) = true := by
    refine List.any_eq_true.2 ⟨l, hl, ?_⟩
    cases store with
    | false => simp [hord]
    | true => simp [hord, hpeer rfl]
  simp only [State.acqHolds, hw, hany, Bool.not_false, Bool.and_self]

section
variable {s : State} {d b : BitVec 5} {z o c : BitVec 2} {v : BitVec 10} {ps : List (Nat × MemAttr)}

theorem loadOp_waits (g : Bool) (h : s.pendAny [d, b] = true) : loadOp g d b z o c v s = .next s := by
  simp only [loadOp, h, if_true]

theorem loadOp_held (g : Bool) (ha : s.access .load (s.x b + BitVec.ofInt 64 (v.toInt * 2 ^ z.toNat)) (2 ^ z.toNat) (alignOf o z) = .ok ps)
    (hq : s.acqHolds false ps = true) : loadOp g d b z o c v s = .next s := by
  cases hp : s.pendAny [d, b] with
  | true => exact loadOp_waits g hp
  | false =>
    rw [alignOf] at ha
    simp only [loadOp, hp, State.ea_eq, ha, hq, Bool.false_eq_true, if_false, if_true]

theorem storeOp_waits (h : s.pendAny [d, b] = true) : storeOp d b z o c v s = .next s := by
  simp only [storeOp, h, if_true]

theorem storeOp_held (ha : s.access .store (s.x b + BitVec.ofInt 64 (v.toInt * 2 ^ z.toNat)) (2 ^ z.toNat) (alignOf o z) = .ok ps)
    (hq : s.acqHolds true ps = true) : storeOp d b z o c v s = .next s := by
  cases hp : s.pendAny [d, b] with
  | true => exact storeOp_waits hp
  | false =>
    rw [alignOf] at ha
    simp only [storeOp, hp, State.ea_eq, ha, hq, Bool.false_eq_true, if_false, if_true]

theorem amoOp_waits {k a : BitVec 5} {z : BitVec 1} (h : s.pendAny [d, a, b] = true) : amoOp k d a b c o z s = .next s := by
  simp only [amoOp, h, if_true]

theorem amoOp_held {k a : BitVec 5} {z : BitVec 1} (ha : s.access .amo (s.x a) (4 * 2 ^ z.toNat) (some (4 * 2 ^ z.toNat)) = .ok ps)
    (hq : s.acqHolds false ps = true) : amoOp k d a b c o z s = .next s := by
  cases hp : s.pendAny [d, a, b] with
  | true => exact amoOp_waits hp
  | false => simp only [amoOp, hp, ha, hq, Bool.false_eq_true, if_false, if_true]

end

/-- The other agents and operations that a fence tells of what it orders leave the thread as it is (R118, R119). -/
theorem State.seqOf_fenceTells (s : State) (t : Thread) (f : RangeFence) (heard : Dep) :
    (((s.fenceAsyncs t f heard).showHost t f.scope).releaseBy t f.scope).seqOf t = s.seqOf t := by
  cases t with
  | core d => rfl
  | ring r =>
    have hrel (u : State) : (u.releaseBy (.ring r) f.scope).seqOf (.ring r) = u.seqOf (.ring r) := by
      unfold State.releaseBy
      dsimp only
      split <;> rfl
    rw [hrel]
    change (s.fenceAsyncs (.ring r) f heard).seqOf (.ring r) = _
    unfold State.fenceAsyncs
    dsimp only
    split
    · rfl
    · exact s.seqOf_updRing r rfl _

theorem State.nextSeq_settleFence (s : State) (t : Thread) (f : RangeFence) : ((s.settleFence t f).seqOf t).nextSeq = (s.seqOf t).nextSeq := by
  simp only [State.settleFence, State.seqOf_fenceTells, State.seqOf_updSeq_same]
  split <;> rfl

/-- A FENCE that takes effect stands in no access's way any more (R118). -/
theorem State.ranges_settleFence_full (s : State) (t : Thread) {f : RangeFence} (h : f.full = true) :
    ∀ r ∈ ((s.settleFence t f).seqOf t).ranges, r.seq ≠ f.seq := by
  intro r hr
  simp only [State.settleFence, State.seqOf_fenceTells, State.seqOf_updSeq_same, h, if_true] at hr
  exact (of_decide_eq_true (List.mem_filter.1 hr).2).1

/-- A FENCE.RG that takes effect is noted as such, and keeps what it gives (R118). -/
theorem State.ranges_settleFence_part (s : State) (t : Thread) {f : RangeFence} (h : f.full = false) :
    ∃ gave, ((s.settleFence t f).seqOf t).ranges =
      (s.seqOf t).ranges.map fun r => if r.seq = f.seq then { r with done := some s.free, gave := gave } else r := by
  simp only [State.settleFence, State.seqOf_fenceTells, State.seqOf_updSeq_same, h, Bool.false_eq_true, if_false]
  exact ⟨_, rfl⟩

theorem State.nextSeq_settleRanges (s : State) (t : Thread) : ((s.settleRanges t).seqOf t).nextSeq = (s.seqOf t).nextSeq := by
  unfold State.settleRanges
  exact List.foldlRecOn (motive := fun u : State => (u.seqOf t).nextSeq = (s.seqOf t).nextSeq) _ _ rfl
    fun u hu f _ => (u.nextSeq_settleFence t f).trans hu

theorem OnlyAccess.cur {s t : State} {th : Thread} (h : OnlyAccess th s t) : t.cur = s.cur := by
  obtain ⟨q, asyncs, past, linkSeq, rfl⟩ := h
  cases th <;> rfl

/-- The fence that takes the next place in the order of the running thread (R118). -/
def State.fenceAt (s : State) (base len : Nat) (c : BitVec 2) : RangeFence :=
  { seq := s.nextSeqNo, base := base, len := len, scope := c.toNat, done := none, gave := Dep.zero }

/-- The state in which a new fence stands among the others of its thread, none of which has taken effect yet (R118). -/
def State.fenceStands (s : State) (base len : Nat) (c : BitVec 2) : State :=
  s.updSeq s.cur fun q => { q with ranges := q.ranges ++ [s.fenceAt base len c], nextSeq := q.nextSeq + 1, cut := q.nextSeq + 1 }

theorem State.addFence_eq (s : State) (base len : Nat) (c : BitVec 2) : s.addFence base len c = (s.fenceStands base len c).settleRanges s.cur := rfl

theorem State.seqOf_fenceStands (s : State) (base len : Nat) (c : BitVec 2) : (s.fenceStands base len c).seqOf s.cur =
    { s.me with ranges := s.me.ranges ++ [s.fenceAt base len c], nextSeq := s.me.nextSeq + 1, cut := s.me.nextSeq + 1 } :=
  State.seqOf_updSeq_same _ _ _

/-- A fence completes at once: its thread's registers and accesses, and memory, are as they were (R118, R260). -/
theorem State.addFence_frame (s : State) (base len : Nat) (c : BitVec 2) :
    let t := (s.addFence base len c).done
    t.me.x = s.me.x ∧ t.pc = s.pc + 4 ∧ (∀ k, t.byte k = s.byte k) ∧ t.me.loads = s.me.loads ∧ t.me.stores = s.me.stores ∧
      t.me.nextSeq = s.me.nextSeq + 1 ∧ t.me.ranges = ((s.addFence base len c).seqOf s.cur).ranges := by
  have hkeep := KeepsAccesses.settleRanges (th := s.cur) (s.fenceStands base len c)
  have hcur : (s.addFence base len c).cur = s.cur := (hkeep.only s (OnlyAccess.of_updSeq s s.cur s.past _)).cur
  have hme : (s.addFence base len c).me = ((s.fenceStands base len c).settleRanges s.cur).seqOf s.cur := by
    rw [State.me, hcur, State.addFence_eq]
  have hseq := s.seqOf_fenceStands base len c
  simp only [State.me_done, State.pc, hme]
  refine ⟨?_, ?_, fun k => ?_, ?_, ?_, ?_, rfl⟩
  · rw [hkeep.x, hseq]
  · rw [hkeep.pc, hseq]
  · rw [State.byte, State.done_mem, State.addFence_eq, hkeep.mem, State.fenceStands, State.updSeq_mem, State.byte]
  · rw [hkeep.loads, hseq]
  · rw [hkeep.stores, hseq]
  · rw [State.nextSeq_settleRanges, hseq]

/-- Where all earlier fences of the thread have taken effect, the new one alone may do so as it is placed (R118). -/
theorem State.addFence_settles {s : State} {base len : Nat} {c : BitVec 2} (h : ∀ r ∈ s.me.ranges, r.done.isSome = true) :
    s.addFence base len c = if s.me.within (s.fenceAt base len c) then s.fenceStands base len c
      else (s.fenceStands base len c).settleFence s.cur (s.fenceAt base len c) := by
  have hseq := s.seqOf_fenceStands base len c
  have hwithin (f : RangeFence) : ((s.fenceStands base len c).seqOf s.cur).within f = s.me.within f := by
    rw [hseq, Seq.within, Seq.within]
  have hnone : (s.me.ranges.filter fun f => f.done.isNone && !s.me.within f) = [] := by
    rw [List.filter_eq_nil_iff]
    intro r hr
    cases hd : r.done with
    | none => simpa [hd] using h r hr
    | some n => simp
  have hlist : (((s.fenceStands base len c).seqOf s.cur).ranges.filter fun f =>
      f.done.isNone && !((s.fenceStands base len c).seqOf s.cur).within f) = [s.fenceAt base len c].filter fun f => !s.me.within f := by
    have hranges : ((s.fenceStands base len c).seqOf s.cur).ranges = s.me.ranges ++ [s.fenceAt base len c] := congrArg Seq.ranges hseq
    simp only [hwithin, hranges, List.filter_append, hnone, List.nil_append]
    rfl
  rw [State.addFence_eq, State.settleRanges]
  simp only [hlist]
  cases hw : s.me.within (s.fenceAt base len c) <;> simp [hw]

/-- An access with bytes lies in the range of every address (R118). -/
theorem inRange_all (va : W64) {n : Nat} (hn : 0 < n) : inRange 0 (2 ^ 64) va n = true := by
  refine List.any_eq_true.2 ⟨0, List.mem_range.2 hn, ?_⟩
  simp only [Nat.zero_le, decide_true, Bool.true_and, decide_eq_true_eq, Nat.zero_add]
  exact BitVec.isLt _

/-- An access that reaches a byte, and is not to a window, stands before a FENCE that follows it (R118). -/
theorem Seq.within_fenceAt {s : State} {c : BitVec 2}
    (h : (∃ l ∈ s.me.loads, l.seq < s.me.nextSeq ∧ isWin l.attrs = false ∧ 0 < l.nb) ∨
      ∃ b ∈ s.me.stores, b.seq < s.me.nextSeq ∧ isWin b.attrs = false ∧ b.locs ≠ []) :
    s.me.within (s.fenceAt 0 (2 ^ 64) c) = true := by
  refine Bool.or_eq_true_iff.2 (h.imp ?_ ?_)
  · rintro ⟨l, hl, hseq, hw, hn⟩
    exact List.any_eq_true.2 ⟨l, hl, by
      simpa [State.fenceAt, State.nextSeqNo, hseq, hw] using inRange_all l.va hn⟩
  · rintro ⟨b, hb, hseq, hw, hn⟩
    exact List.any_eq_true.2 ⟨b, hb, by
      simpa [State.fenceAt, State.nextSeqNo, hseq, hw] using inRange_all b.va (List.length_pos_iff.2 hn)⟩

/-- A thread without outstanding accesses has none before a fence (R118). -/
theorem Seq.within_of_not_busy {q : Seq} (h : q.busy = false) (f : RangeFence) : q.within f = false := by
  simp only [Seq.busy, Bool.or_eq_false_iff, List.any_eq_false] at h
  obtain ⟨hloads, hstores⟩ := h
  simp only [Seq.within, Bool.or_eq_false_iff, List.any_eq_false]
  refine ⟨fun l hl hin => hloads l hl ?_, fun b hb hin => hstores b hb ?_⟩
  · simp only [Bool.and_eq_true] at hin
    exact hin.1.2
  · simp only [Bool.and_eq_true] at hin
    exact hin.1.2

/-- With nothing outstanding before it a FENCE takes effect at once (R118). -/
theorem State.ranges_addFence_idle {s : State} (h : s.me.busy = false) (c : BitVec 2) :
    ∀ f ∈ ((s.addFence 0 (2 ^ 64) c).seqOf s.cur).ranges, f.seq ≠ s.me.nextSeq := by
  have hseq := s.seqOf_fenceStands 0 (2 ^ 64) c
  have hwithin (f : RangeFence) : ((s.fenceStands 0 (2 ^ 64) c).seqOf s.cur).within f = false := by
    rw [hseq]
    exact (Seq.within_of_not_busy h f :)
  have hlist : (((s.fenceStands 0 (2 ^ 64) c).seqOf s.cur).ranges.filter fun f =>
      f.done.isNone && !((s.fenceStands 0 (2 ^ 64) c).seqOf s.cur).within f) =
      (s.me.ranges.filter fun f => f.done.isNone) ++ [s.fenceAt 0 (2 ^ 64) c] := by
    have hranges : ((s.fenceStands 0 (2 ^ 64) c).seqOf s.cur).ranges = s.me.ranges ++ [s.fenceAt 0 (2 ^ 64) c] := congrArg Seq.ranges hseq
    simp only [hwithin, hranges, List.filter_append, Bool.not_false, Bool.and_true]
    rfl
  rw [State.addFence_eq, State.settleRanges]
  simp only [hlist, List.foldl_append, List.foldl_cons, List.foldl_nil]
  exact State.ranges_settleFence_full _ _ (f := s.fenceAt 0 (2 ^ 64) c) (decide_eq_true (Nat.le_refl _))

/-- A fence with an access before it in its range stands among the fences that wait (R118). -/
theorem State.ranges_addFence_within {s : State} {base len : Nat} {c : BitVec 2} (h : ∀ r ∈ s.me.ranges, r.done.isSome = true)
    (hw : s.me.within (s.fenceAt base len c) = true) :
    s.fenceAt base len c ∈ ((s.addFence base len c).seqOf s.cur).ranges := by
  rw [State.addFence_settles h, if_pos hw, State.seqOf_fenceStands]
  simp

/-- A FENCE.RG keeps its place among the fences, and is done at once unless an access before it is in its range (R118). -/
theorem State.ranges_addFence_part {s : State} {base len : Nat} {c : BitVec 2} (h : ∀ r ∈ s.me.ranges, r.done.isSome = true)
    (hl : len < 2 ^ 64) : ∃ f ∈ ((s.addFence base len c).seqOf s.cur).ranges, f.seq = s.me.nextSeq ∧ f.base = base ∧ f.len = len ∧
      f.scope = c.toNat ∧ (f.done = none ↔ s.me.within f = true) := by
  cases hw : s.me.within (s.fenceAt base len c) with
  | true => exact ⟨_, State.ranges_addFence_within h hw, rfl, rfl, rfl, rfl, iff_of_true rfl hw⟩
  | false =>
    have hpart : (s.fenceAt base len c).full = false := decide_eq_false (Nat.not_le.2 hl)
    obtain ⟨gave, hranges⟩ := (s.fenceStands base len c).ranges_settleFence_part s.cur hpart
    refine ⟨{ s.fenceAt base len c with done := some (s.fenceStands base len c).free, gave := gave }, ?_, rfl, rfl, rfl, rfl, ?_⟩
    · rw [State.addFence_settles h, if_neg (by simp [hw]), hranges, State.seqOf_fenceStands]
      refine List.mem_map.2 ⟨s.fenceAt base len c, by simp, if_pos rfl⟩
    · have hsame : s.me.within { s.fenceAt base len c with done := some (s.fenceStands base len c).free, gave := gave } = false := hw
      simp [hsame]

/-- Settles O11: the waits of the shared meanings, and the frame and the place of a fence. -/
theorem waitsForPending : Obligations.WaitsForPending := by
  unfold Obligations.WaitsForPending
  refine ⟨?_, ?_, ?_, ?_, ?_, ?_, ?_, ?_, ?_⟩
  · intro i s d regs v h hp
    obtain ⟨srcs, f, rfl, he, -⟩ := writesReg_of_scalarResult h
    rw [he]
    exact regOp_waits hp f
  · intro i s regs off b h hp
    obtain ⟨a, c, v, cond, rfl, -, -, he⟩ := exec_branchResult h
    rw [he]
    exact if_pos hp
  · intro i s g d b z o c v h
    rw [exec_loadForm h]
    refine ⟨loadOp_waits g, fun ps ha hw hl => loadOp_held g ha (State.acqHolds_eq_true hw ?_)⟩
    obtain ⟨l, hl, hord⟩ := hl
    exact ⟨l, hl, hord, fun h => absurd h Bool.false_ne_true⟩
  · intro s d b z o c v
    rw [exec_st]
    refine ⟨storeOp_waits, fun ps ha hw hl => storeOp_held ha (State.acqHolds_eq_true hw ?_)⟩
    obtain ⟨l, hl, hord, hpeer⟩ := hl
    exact ⟨l, hl, hord, fun _ => hpeer⟩
  · intro i s k d a b c o z h
    rw [exec_amoForm h]
    refine ⟨amoOp_waits, fun ps ha hw hl => amoOp_held ha (State.acqHolds_eq_true hw ?_)⟩
    obtain ⟨l, hl, hord⟩ := hl
    exact ⟨l, hl, hord, fun h => absurd h Bool.false_ne_true⟩
  · intro s c
    obtain ⟨hx, hpc, hbyte, hloads, hstores, hnext, hranges⟩ := s.addFence_frame 0 (2 ^ 64) c
    refine ⟨_, rfl, hx, hpc, hbyte, hloads, hstores, hnext, fun hb => ?_, fun hdone hold => ?_⟩
    · rw [hranges]
      exact State.ranges_addFence_idle hb c
    · rw [hranges]
      refine ⟨_, State.ranges_addFence_within hdone (Seq.within_fenceAt ?_), rfl, rfl, rfl, rfl, rfl⟩
      exact hold
  · intro s a b c hp
    exact if_pos hp
  · intro s a b c hp
    obtain ⟨hx, hpc, hbyte, hloads, hstores, -, hranges⟩ := s.addFence_frame (s.x a).toNat (s.x b).toNat c
    refine ⟨_, if_neg (ne_true_of_eq_false hp), hx, hpc, hbyte, hloads, hstores, fun hdone => ?_⟩
    rw [hranges]
    exact State.ranges_addFence_part hdone (BitVec.isLt _)
  · intro s t k f hf hdone
    refine ⟨fun l hseq hw hin => ?_, fun b hseq hw hin => ?_⟩
    · have hbar : (s.seqOf t).barred l.seq l.va l.nb = true := List.any_eq_true.2 ⟨f, hf, by simp [hseq, hdone, hin]⟩
      simp [loadReady, hw, hbar]
    · have hbar : (s.seqOf t).barred b.seq b.va b.locs.length = true := List.any_eq_true.2 ⟨f, hf, by simp [hseq, hdone, hin]⟩
      simp [State.storeReady, hw, hbar]

end Sys2Proof.Machine
end

section
/-! The asynchronous forms: an operation joins its ring's list and is counted into its slot (R268, R269, R277). -/

namespace Sys2Proof.Machine

/-- A ring whose list an operation joins, counted into a slot or into none (R268); the store buffer merges nothing across it (R117). -/
def Ring.issued (x : Ring) (set : Option Nat) (a : Async) : Ring :=
  { x with nextOp := x.nextOp + 1, asyncs := x.asyncs ++ [a], seq := { x.seq with cut := x.seq.nextSeq },
           deps := match set with
             | some i => tput x.deps i { tget DepSlot.reset x.deps i with out := (tget DepSlot.reset x.deps i).out ++ [x.nextOp] }
             | none => x.deps }

/-- The operation that a form issues, with its copies (R269, R367). -/
def State.asyncOp (s : State) (r : Nat) (op : AsyncOp) (i : Instr) (set : Option Nat) (mask : Nat) (rd : BitVec 5) : Async :=
  { id := (s.ring r).nextOp, op := op, word := BitVec.truncate 32 (wordOf i), set := set, await := s.awaits r mask, rd := rd,
    x := s.issueCtx r (s.ring r).level, st := .mask, seq := s.me.nextSeq, grp := none, ticket := 0, reset := [], held := false }

theorem State.issue_eq (s : State) (r : Nat) (op : AsyncOp) (i : Instr) (set : Option Nat) (mask : Nat) (rd : BitVec 5) :
    s.issue r op i set mask rd = s.updRing r fun x => x.issued set (s.asyncOp r op i set mask rd) := by
  cases set with
  | none =>
    simp only [State.issue, State.newOp, State.updRing_updRing, Ring.issued]
    exact State.updRing_congr s r rfl
  | some n =>
    simp only [State.issue, State.newOp, State.updRing_updRing, Ring.issued]
    exact State.updRing_congr s r rfl

/-- What an issue that completes leaves of the device: its ring, with the operation at the end of its list (R268). -/
def AsyncIssued (s t : State) (r : Nat) (op : AsyncOp) (set : Option Nat) (mask : Nat) : Prop :=
  OnlyRing r s t ∧ (∃ a, (t.ring r).asyncs = (s.ring r).asyncs ++ [a] ∧ a.op = op ∧ a.set = set ∧ a.st = .mask ∧ a.await = s.awaits r mask ∧
    a.id = (s.ring r).nextOp ∧ a.x = s.issueCtx r (s.ring r).level ∧
    (∀ i, set = some i → (t.dep r i).out = (s.dep r i).out ++ [a.id])) ∧
  (∀ i, set ≠ some i → t.dep r i = s.dep r i) ∧ t.pc = s.pc + 4 ∧ ∀ k, t.byte k = s.byte k

/-- An operation counts into its slot, and into no other (R268). -/
theorem Ring.issued_deps (x : Ring) (set : Option Nat) (a : Async) :
    (∀ i, set = some i → (tget DepSlot.reset (x.issued set a).deps i).out = (tget DepSlot.reset x.deps i).out ++ [x.nextOp]) ∧
      ∀ i, set ≠ some i → tget DepSlot.reset (x.issued set a).deps i = tget DepSlot.reset x.deps i := by
  cases set with
  | none => exact ⟨fun i h => (nomatch h), fun _ _ => rfl⟩
  | some n =>
    refine ⟨fun i h => ?_, fun i h => ?_⟩
    · obtain rfl := Option.some.inj h
      simp only [Ring.issued, tget_tput_same]
    · simp only [Ring.issued]
      rw [tget_tput_ne]
      exact fun e => h (congrArg some e.symm)

/-- An instruction that issues an operation and completes leaves nothing else but what its ring keeps beside the list and the slots. -/
theorem asyncIssued_of {s t : State} {r : Nat} {op : AsyncOp} {i : Instr} {set : Option Nat} {mask : Nat} {rd : BitVec 5} (h : OnlyRing r s t)
    (ha : (t.ring r).asyncs = (s.ring r).asyncs ++ [s.asyncOp r op i set mask rd])
    (hd : (t.ring r).deps = ((s.ring r).issued set (s.asyncOp r op i set mask rd)).deps) (hpc : t.pc = s.pc + 4)
    (hbyte : ∀ k, t.byte k = s.byte k) : AsyncIssued s t r op set mask := by
  obtain ⟨hin, hout⟩ := (s.ring r).issued_deps set (s.asyncOp r op i set mask rd)
  refine ⟨h, ⟨_, ha, rfl, rfl, rfl, rfl, rfl, rfl, fun n hn => ?_⟩, fun n hn => ?_, hpc, hbyte⟩
  · rw [State.dep, hd]
    exact hin n hn
  · rw [State.dep, hd]
    exact hout n hn

/-- An issue that writes no register (R283, R284, R291). -/
theorem State.issue_done_frame {s : State} {r : Nat} (hr : s.cur = .ring r) (op : AsyncOp) (i : Instr) (set : Option Nat) (mask : Nat)
    (rd : BitVec 5) : AsyncIssued s (s.issue r op i set mask rd).done r op set mask ∧ (s.issue r op i set mask rd).done.me.x = s.me.x := by
  have ht : (s.issue r op i set mask rd).done = s.updRing r fun x => (x.issued set (s.asyncOp r op i set mask rd)).completed := by
    rw [State.issue_eq, State.updRing_done hr]
  have hme : (s.issue r op i set mask rd).done.me = ((s.ring r).issued set (s.asyncOp r op i set mask rd)).completed.seq := by
    rw [ht, State.me_updRing hr]
  refine ⟨asyncIssued_of (i := i) (rd := rd) ?_ ?_ ?_ ?_ fun k => ?_, ?_⟩
  · rw [ht]
    exact onlyRing_updRing s r _
  · rw [ht, State.ring_updRing_same]
    rfl
  · rw [ht, State.ring_updRing_same]
    rfl
  · rw [State.pc, hme, State.pc, State.me_ring hr]
    rfl
  · rw [ht, State.byte_updRing]
  · rw [hme, State.me_ring hr]
    rfl

/-- The registers of a thread after a write (R195, R255). -/
def Seq.written (q : Seq) (i : BitVec 5) (v : W64) : Seq :=
  if i = 0 then q else { q with x := tput q.x i.toNat v, deps := tset Dep.zero q.deps i.toNat Dep.zero }

theorem Seq.written_pc (q : Seq) (i : BitVec 5) (v : W64) : (q.written i v).pc = q.pc := by
  unfold Seq.written
  split <;> rfl

theorem Seq.tget_written (q : Seq) (i : BitVec 5) (v : W64) (n : Nat) :
    tget 0 (q.written i v).x n = if i ≠ 0 ∧ n = i.toNat then v else tget 0 q.x n := by
  unfold Seq.written
  split
  case isTrue h => rw [if_neg fun c => c.1 h]
  case isFalse h => simp only [tget_tput, ne_eq, h, not_false_eq_true, true_and]

theorem State.setX_updRing {s : State} {r : Nat} (hr : s.cur = .ring r) (f : Ring → Ring) (i : BitVec 5) (v : W64) :
    (s.updRing r f).setX i v = s.updRing r fun x => { f x with seq := (f x).seq.written i v } := by
  unfold State.setX State.setXd
  split
  case isTrue h => exact State.updRing_congr s r (by rw [Seq.written, if_pos h])
  case isFalse h =>
    rw [State.updRing_cur, hr]
    simp only [State.updSeq, State.updRing_updRing]
    exact State.updRing_congr s r (by rw [Seq.written, if_neg h])

/-- A ring that records the phase of a new serial number, and forgets the one 16 before it (R278). -/
def Ring.recorded (x : Ring) (n : Nat) : Ring :=
  { x with serial := n, recs := tput (tdel x.recs (n - 16)) n PhaseRec.reset }

/-- The record of a phase is no part of what an operation takes with it (R269, R367). -/
theorem State.asyncOp_recorded {s : State} {r : Nat} (hr : s.cur = .ring r) (n : Nat) (op : AsyncOp) (i : Instr) (set : Option Nat) (mask : Nat)
    (rd : BitVec 5) : (s.updRing r (·.recorded n)).asyncOp r op i set mask rd = s.asyncOp r op i set mask rd := by
  simp only [State.asyncOp, State.awaits, State.issueCtx, State.ctxOf, State.secondOf, State.dep, State.me_updRing hr, State.me_ring hr,
    State.ring_updRing_same]
  rfl

/-- A ring whose pload of a serial number is issued and completes (R277). -/
def Ring.ploaded (x : Ring) (n : Nat) (set : Option Nat) (a : Async) (d : BitVec 5) : Ring :=
  let y := (x.recorded n).issued set a
  { y with seq := y.seq.written d (BitVec.ofNat 64 n) }.completed

theorem exec_pload_issue {s : State} {r : Nat} {d a : BitVec 5} {st : BitVec 4} (w : BitVec 8) (hr : s.cur = .ring r)
    (hp : s.pendAny [d, a] = false) (hh : s.issueHeld r (setOf st) = false) (hf : (s.ring r).recsFull = false) :
    exec (.pload d a st w) s = .next (s.updRing r fun x => x.ploaded ((s.ring r).serial + 1) (setOf st)
      (s.asyncOp r (.pload (s.x a) (s.rcsr r 0x019) ((s.ring r).serial + 1)) (.pload d a st w) (setOf st) w.toNat d) d) := by
  have h : exec (.pload d a st w) s = .next ((((s.updRing r (·.recorded ((s.ring r).serial + 1))).issue r
      (.pload (s.x a) (s.rcsr r 0x019) ((s.ring r).serial + 1)) (.pload d a st w) (setOf st) w.toNat d).setX d
        (BitVec.ofNat 64 ((s.ring r).serial + 1))).done) := by
    show execPload d a st w s = _
    simp only [execPload, onRing_ring hr, hp, hh, hf, Bool.or_self]
    rfl
  rw [h, State.issue_eq, State.asyncOp_recorded hr, State.updRing_updRing]
  rw [State.setX_updRing hr, State.updRing_done hr]
  rfl

theorem exec_cpy_issue {s : State} {r : Nat} {d a : BitVec 5} {st : BitVec 4} (w : BitVec 8) (hr : s.cur = .ring r)
    (hp : s.pendAny [d, a] = false) (hh : s.issueHeld r (setOf st) = false) :
    exec (.cpy d a st w) s = .next (s.issue r (.cpy (s.x a)) (.cpy d a st w) (setOf st) w.toNat d).done := by
  show execCpy d a st w s = _
  simp only [execCpy, onRing_ring hr, hp, hh, Bool.or_self]
  rfl

theorem exec_cpyB_ready {s : State} {r : Nat} {d a : BitVec 5} (st : BitVec 4) (w : BitVec 8) (hr : s.cur = .ring r)
    (hp : s.pendAny [d, a] = false) :
    exec (.cpyB d a st w) s = if fld (s.x a) 31 4 ≠ 0 then .next (s.trap 5 (s.x a)) else if s.issueHeld r (setOf st) then .next s
      else .next (s.issue r (.cpyB (s.x a)) (.cpyB d a st w) (setOf st) w.toNat d).done := by
  show execCpyB d a st w s = _
  simp only [execCpyB, onRing_ring hr, hp, State.operand]
  rfl

theorem exec_crnStep_ready {s : State} {r : Nat} {a : BitVec 5} (st : BitVec 4) (w : BitVec 8) (hr : s.cur = .ring r)
    (hp : s.pendAny [a] = false) :
    exec (.crnStep a st w) s = if fld (s.x a) 31 7 ≠ 0 ∨ (s.region? r (fld (s.x a) 5 0)).isNone then .next (s.trap 5 (s.x a))
      else if s.issueHeld r (setOf st) then .next s
      else .next (s.issue r (.crnStep (s.x a)) (.crnStep a st w) (setOf st) w.toNat 0).done := by
  show execCrnStep a st w s = _
  simp only [execCrnStep, onRing_ring hr, hp, State.operand]
  rfl

/-- What a pload's ring holds after it: the operation, and the record of its phase. -/
theorem asyncIssued_ploaded {s : State} {r : Nat} (hr : s.cur = .ring r) (n : Nat) (op : AsyncOp) (i : Instr) (set : Option Nat) (mask : Nat)
    (d : BitVec 5) :
    AsyncIssued s (s.updRing r fun x => x.ploaded n set (s.asyncOp r op i set mask d) d) r op set mask := by
  refine asyncIssued_of (i := i) (rd := d) (onlyRing_updRing s r _) ?_ ?_ ?_ fun k => State.byte_updRing ..
  · rw [State.ring_updRing_same]
    rfl
  · rw [State.ring_updRing_same]
    rfl
  · rw [State.pc, State.me_updRing hr, State.pc, State.me_ring hr]
    simp only [Ring.ploaded, Ring.completed, Seq.written_pc]
    rfl

theorem State.x_ploaded {s : State} {r : Nat} (hr : s.cur = .ring r) (n : Nat) (set : Option Nat) (a : Async) (d q : BitVec 5) :
    (s.updRing r fun x => x.ploaded n set a d).x q = if q = d ∧ d ≠ 0 then BitVec.ofNat 64 n else s.x q := by
  have hx : (s.updRing r fun x => x.ploaded n set a d).me.x = ((s.ring r).seq.written d (BitVec.ofNat 64 n)).x := by
    rw [State.me_updRing hr]
    simp only [Ring.ploaded, Ring.completed, Seq.written]
    split <;> rfl
  simp only [State.x, hx, State.me_ring hr]
  by_cases hq0 : q = 0
  · rw [if_pos hq0, if_pos hq0, if_neg fun h => h.2 (h.1.symm.trans hq0)]
  rw [if_neg hq0, if_neg hq0, Seq.tget_written]
  refine if_congr ⟨fun h => ⟨BitVec.eq_of_toNat_eq h.2, h.1⟩, fun h => ⟨h.2, congrArg _ h.1⟩⟩ rfl rfl

/-- Settles O28: each form issues where its operands are good, and the operation it adds is `State.asyncOp`. -/
theorem asyncIssue : Obligations.AsyncIssue := by
  unfold Obligations.AsyncIssue
  refine ⟨fun s r d a st w hr hp hh hf => ?_, fun s r d a st w hr hp hh => ?_, fun s r d a st w hr hp h0 hh => ?_,
    fun s r d a st w hr hp h0 => ?_, fun s r a st w hr hp h0 hg hh => ?_, fun s r a st w hr hp hb => ?_⟩
  · refine ⟨_, exec_pload_issue w hr hp hh hf, ?_, asyncIssued_ploaded hr .., ?_, fun q hq => ?_, ?_⟩
    · rw [State.ring_updRing_same]
      rfl
    · rw [State.x_ploaded hr]
      by_cases hd : d = 0
      · rw [if_neg fun h => h.2 hd, if_pos hd, hd]
        exact if_pos rfl
      · rw [if_pos ⟨rfl, hd⟩, if_neg hd]
    · rw [State.x_ploaded hr, if_neg fun h => hq h.1]
    · rw [State.rec?, State.ring_updRing_same]
      exact tfind_tput_same ..
  · exact ⟨_, exec_cpy_issue w hr hp hh, State.issue_done_frame hr ..⟩
  · refine ⟨_, ?_, State.issue_done_frame hr (.cpyB (s.x a)) (.cpyB d a st w) (setOf st) w.toNat d⟩
    rw [exec_cpyB_ready st w hr hp, if_neg (not_not.mpr h0), hh]
    rfl
  · rw [exec_cpyB_ready st w hr hp, if_pos h0]
  · refine ⟨_, ?_, State.issue_done_frame hr (.crnStep (s.x a)) (.crnStep a st w) (setOf st) w.toNat 0⟩
    have hgood : ¬ (fld (s.x a) 31 7 ≠ 0 ∨ (s.region? r (fld (s.x a) 5 0)).isNone = true) := by
      rintro (h | h)
      · exact h h0
      · rw [Option.isNone_iff_eq_none] at h
        rw [h] at hg
        exact nomatch hg
    rw [exec_crnStep_ready st w hr hp, if_neg hgood, hh]
    rfl
  · rw [exec_crnStep_ready st w hr hp, if_pos (hb.imp_right Option.isNone_iff_eq_none.mpr)]

end Sys2Proof.Machine
end

section
/-! Starts, and the supply: what a start keeps, and what it clears (R422, R423, R429). -/

namespace Sys2Proof.Machine

/-- What a start that fails no step leaves: no ring assigned or running, no key and no window, and of memory only that of HOST (R422). -/
def Started (s t : State) : Prop :=
  (∀ r, (t.ring r).vf = none ∧ (t.ring r).run = .idle ∧ (t.ring r).group = none ∧ (t.ring r).ringp = (s.ring r).ringp) ∧ t.vfKeys = [] ∧
    t.winKeys = [] ∧ t.migKey = none ∧ t.windows = [] ∧ t.powered = true ∧ t.time = 0 ∧ t.bootStep = 0 ∧
    (∀ k, (k < 2 ^ 54 ∨ 2 ^ 55 ≤ k) → t.byte k = 0) ∧ (∀ k, 2 ^ 54 ≤ k → k < 2 ^ 55 → t.byte k = s.byte k)

/-- A ring after a start is a reset ring with its own fuses (R422). -/
theorem State.ring_start (s : State) (want failStep r : Nat) :
    (s.start want failStep).ring r = { Ring.reset with ringp := (s.ring r).ringp } := by
  show tget Ring.reset (tmap (fun _ x => { Ring.reset with ringp := x.ringp }) s.rings) r = _
  rw [State.ring, tget, tget, tfind_tmap]
  cases tfind s.rings r <;> rfl

theorem State.byte_start (s : State) (want failStep k : Nat) :
    (s.start want failStep).byte k = if 2 ^ 54 ≤ k ∧ k < 2 ^ 55 then s.byte k else 0 := by
  show tget 0 (s.mem.filter fun c => decide (2 ^ 54 ≤ c.1) && decide (c.1 < 2 ^ 55)) k = _
  rw [State.byte, tget, tget, tfind_filter (fun n => decide (2 ^ 54 ≤ n) && decide (n < 2 ^ 55))]
  by_cases hk : 2 ^ 54 ≤ k ∧ k < 2 ^ 55
  · rw [if_pos hk, if_pos (by simpa using hk)]
  · rw [if_neg hk, if_neg (by simpa using hk)]

/-- The step at which a start fails: step 2, the test of HBM, is no step of a warm start (R423). -/
theorem State.bootStep_start (s : State) (want failStep : Nat) :
    (s.start want failStep).bootStep =
      if failStep = 0 ∨ 6 < failStep ∨ (startKind s.nv.failed want = 1 ∧ failStep = 2) then 0 else failStep := rfl

theorem State.bootStep_start_zero (s : State) (want : Nat) : (s.start want 0).bootStep = 0 :=
  (s.bootStep_start want 0).trans (if_pos (Or.inl rfl))

theorem started_start (s : State) (want : Nat) : Started s (s.start want 0) := by
  refine ⟨fun r => ?_, rfl, rfl, rfl, rfl, rfl, rfl, s.bootStep_start_zero want, fun k hk => ?_, fun k h1 h2 => ?_⟩
  · rw [State.ring_start]
    exact ⟨rfl, rfl, rfl, rfl⟩
  · rw [State.byte_start, if_neg (by omega)]
  · rw [State.byte_start, if_pos ⟨h1, h2⟩]

/-- A cold or a safe start that fails at a step counts the failure (R423). -/
theorem State.start_fails {s : State} {n : Nat} (h0 : 0 < n) (h6 : n ≤ 6) :
    (s.start 0 n).bootStep = n ∧ (s.start 0 n).nv.failed = s.nv.failed + 1 := by
  have hkind : startKind s.nv.failed 0 ≠ 1 := by
    unfold startKind
    split <;> decide
  have hstep : ¬ (n = 0 ∨ 6 < n ∨ (startKind s.nv.failed 0 = 1 ∧ n = 2)) := by
    rintro (h | h | ⟨h, -⟩)
    · omega
    · omega
    · exact hkind h
  refine ⟨if_neg hstep, ?_⟩
  show (if (if n = 0 ∨ 6 < n ∨ (startKind s.nv.failed 0 = 1 ∧ n = 2) then 0 else n) ≠ 0 then s.nv.failed + 1 else _) = _
  rw [if_neg hstep, if_pos h0.ne']

/-- A start that is asked for from BOOTCTL clears the count of the failed ones, and so is cold (R423). -/
theorem State.start_cold (s : State) :
    let t := ({ s with nv := { s.nv with failed := 0 } } : State).start 0 0
    Started s t ∧ t.life = s.life ∧ t.bootKind = 0 ∧ t.nv.failed = 0 :=
  ⟨started_start { s with nv := { s.nv with failed := 0 } } 0, rfl, rfl, rfl⟩

/-- Settles O59: each start is `State.start` without a failed step, and the rest is what the events write. -/
theorem starts : Obligations.Starts := by
  unfold Obligations.Starts
  refine ⟨fun s => ⟨_, rfl, s.start_cold⟩, fun s => ⟨_, rfl, started_start s 1, rfl, rfl⟩,
    fun s => ⟨_, rfl, started_start { s with life := s.nv.life } 0, rfl, rfl⟩, fun s n => ⟨rfl, rfl⟩,
    ⟨_, rfl, State.reset.start_cold.1⟩, fun s n h0 h6 => ⟨_, rfl, State.start_fails (s := { s with life := s.nv.life }) h0 h6⟩,
    fun s i => rfl, fun s => rfl, fun s => ⟨_, rfl, rfl, rfl, rfl⟩, fun s => ⟨_, rfl, rfl, rfl, rfl⟩, fun s ir => rfl⟩

end Sys2Proof.Machine
end

section
/-! The clock, the links and the host (R419, R420, R424). -/

namespace Sys2Proof.Machine

/-- The bits of a word around bit n (R8). -/
theorem toNat_split_bit (w : W64) (n : Nat) :
    w.toNat = 2 ^ n * (2 * (w.toNat / 2 ^ n / 2) + w.toNat / 2 ^ n % 2) + w.toNat % 2 ^ n := by
  rw [Nat.div_add_mod, Nat.div_add_mod]

/-- Above bit n, a number tells nothing of bit n. -/
theorem testBit_split_above {n i : Nat} (h : n < i) (a v l : Nat) (hv : v < 2) (hl : l < 2 ^ n) :
    (2 ^ n * (2 * a + v) + l).testBit i = a.testBit (i - n - 1) := by
  obtain ⟨j, rfl⟩ : ∃ j, i = n + 1 + j := ⟨i - n - 1, by omega⟩
  rw [Nat.testBit_two_pow_mul_add _ hl, if_neg (by omega), show n + 1 + j - n = j + 1 by omega, Nat.testBit_succ,
    show (2 * a + v) / 2 = a by omega, Nat.add_sub_cancel]

/-- A write of one bit leaves the others (R8). -/
theorem bit_setFld_ne {n i : Nat} (hi : i < 64) (h : i ≠ n) (w : W64) (v : Nat) : bit (setFld w n n v) i = bit w i := by
  have hl : w.toNat % 2 ^ n < 2 ^ n := Nat.mod_lt _ (Nat.two_pow_pos n)
  have hnew : w.toNat - w.toNat / 2 ^ n % 2 * 2 ^ n + v % 2 * 2 ^ n = 2 ^ n * (2 * (w.toNat / 2 ^ n / 2) + v % 2) + w.toNat % 2 ^ n := by
    have hw := toNat_split_bit w n
    rw [Nat.mul_add] at hw ⊢
    rw [Nat.mul_comm (v % 2), Nat.mul_comm (w.toNat / 2 ^ n % 2)]
    omega
  rw [bit_eq_testBit, bit_eq_testBit, setFld, BitVec.toNat_ofNat, Nat.testBit_mod_two_pow, decide_eq_true hi, Bool.true_and, bitsOf,
    Nat.add_sub_cancel_left, Nat.pow_one, hnew]
  conv_rhs => rw [toNat_split_bit w n]
  rcases Nat.lt_or_gt_of_ne h with hlt | hgt
  · rw [Nat.testBit_two_pow_mul_add _ hl, Nat.testBit_two_pow_mul_add _ hl, if_pos hlt, if_pos hlt]
  · rw [testBit_split_above hgt _ _ _ (Nat.mod_lt _ Nat.two_pos) hl, testBit_split_above hgt _ _ _ (Nat.mod_lt _ Nat.two_pos) hl]

/-- A write of the high half of a word leaves the low half (R8). -/
theorem fld_setFld_high (w : W64) {v : Nat} (hv : v < 2 ^ 32) :
    fld (setFld w 63 32 v) 63 32 = v ∧ fld (setFld w 63 32 v) 31 0 = fld w 31 0 := by
  have hw := w.isLt
  simp only [setFld, fld, bitsOf, BitVec.toNat_ofNat, Nat.reduceAdd, Nat.reduceSub, Nat.reducePow, Nat.div_one] at hv hw ⊢
  omega

/-- A count that saturates at 32 bits (R381). -/
theorem sat32_eq (n : Nat) : sat32 n = min n (2 ^ 32 - 1) := by
  unfold sat32
  split <;> omega

theorem sat32_lt (n : Nat) : sat32 n < 2 ^ 32 := by
  rw [sat32_eq]
  omega

/-- A die whose clock takes a setting at a time (R424). -/
def Die.clocked (x : Die) (m : Nat) (time : W64) : Die := { x with m := m, stretched := time }

theorem State.die_foldl_clocked (set : List Nat) (s : State) (m : Nat) (time : W64) (e : Nat) :
    (set.foldl (fun st d => st.updDie d fun x => x.clocked m time) s).die e = if e ∈ set then (s.die e).clocked m time else s.die e := by
  induction set generalizing s with
  | nil => exact (if_neg (List.not_mem_nil)).symm
  | cons d l ih =>
    rw [List.foldl_cons, ih]
    by_cases he : e = d
    · subst he
      rw [if_pos List.mem_cons_self, State.die_updDie_same]
      exact ite_self _
    · rw [State.die_updDie_ne _ _ he]
      exact if_congr ⟨List.mem_cons_of_mem d, fun h => (List.mem_cons.mp h).resolve_left he⟩ rfl rfl

/-- The dies of a set take a setting, and no others (R424). -/
theorem State.die_setM (s : State) (set : List Nat) (m e : Nat) :
    (s.setM set m).die e = if e ∈ set then (s.die e).clocked m s.time else s.die e :=
  State.die_foldl_clocked set s m s.time e

theorem State.die_setM_in {s : State} {set : List Nat} {e : Nat} (m : Nat) (h : e ∈ set) :
    ((s.setM set m).die e).m = m ∧ ((s.setM set m).die e).stretched = s.time := by
  rw [State.die_setM, if_pos h]
  exact ⟨rfl, rfl⟩

theorem State.target_setM (s : State) (set : List Nat) (m e : Nat) : ((s.setM set m).die e).target = (s.die e).target := by
  rw [State.die_setM]
  split <;> rfl

theorem State.setM_life (s : State) (set : List Nat) (m : Nat) : (s.setM set m).life = s.life := by
  unfold State.setM
  generalize s.time = time
  induction set generalizing s with
  | nil => rfl
  | cons d l ih => exact ih _

theorem State.m_setDcsr (s : State) (d n : Nat) (v : W64) (e : Nat) : ((s.setDcsr d n v).die e).m = (s.die e).m := by
  by_cases h : e = d
  · rw [h, State.setDcsr, State.die_updDie_same]
  · rw [State.setDcsr, State.die_updDie_ne _ _ h]

/-- A setting moves no target (R424). -/
theorem State.m_updDie_target (s : State) (d m e : Nat) : ((s.updDie d fun x => { x with target := m }).die e).m = (s.die e).m := by
  by_cases h : e = d
  · rw [h, State.die_updDie_same]
  · rw [State.die_updDie_ne _ _ h]

theorem exec_droopTrip_frame (s : State) (d : Nat) :
    ∃ t, exec (.droopTrip d) s = .next t ∧ (∀ e ∈ s.clockSet d, (t.die e).m = 8) ∧
      (∀ e, e ∉ s.clockSet d → (t.die e).m = (s.die e).m) ∧ tget 0 t.life (64 + d) = tget 0 s.life (64 + d) + 1 ∧
      fld (t.dcsr d 0x2064) 63 32 = min (fld (s.dcsr d 0x2064) 63 32 + 1) (2 ^ 32 - 1) ∧ t.mem = s.mem := by
  refine ⟨_, rfl, fun e he => ?_, fun e he => ?_, ?_, ?_, ?_⟩
  · exact (State.m_setDcsr ..).trans (State.die_setM_in 8 he).1
  · refine (State.m_setDcsr ..).trans ?_
    rw [State.die_setM, if_neg he]
  · refine (tget_tput_same ..).trans ?_
    rw [State.setDcsr_life, State.setM_life]
  · refine (congrArg (fld · 63 32) (State.dcsr_setDcsr_same ..)).trans ?_
    rw [(fld_setFld_high _ (sat32_lt _)).1, sat32_eq]
  · exact State.setM_mem ..

/-- A target that is set lies on every die's clock that runs faster (R424). -/
theorem exec_clockStretch_target (s : State) (d : Nat) {m : Nat} (h8 : 8 ≤ m) (h16 : m ≤ 16) :
    ∃ t, exec (.clockStretch d m) s = .next t ∧ (t.die d).target = m ∧ t.mem = s.mem ∧
      (m < ((s.clockSet d).map fun e => (s.die e).m).foldl min 16 → ∀ e ∈ s.clockSet d, (t.die e).m = m) := by
  have h : exec (.clockStretch d m) s =
      if ((s.clockSet d).map fun e => (s.die e).m).foldl min 16 ≤ m then .next (s.updDie d fun x => { x with target := m })
      else .next ((s.updDie d fun x => { x with target := m }).setM (s.clockSet d) m) := by
    show execClockStretch d m s = _
    simp only [execClockStretch, if_neg (by omega : ¬ (m < 8 ∨ 16 < m)), State.m_updDie_target]
  rw [h]
  split
  case isTrue hle =>
    refine ⟨_, rfl, ?_, rfl, fun hlt => absurd hle (Nat.not_le.mpr hlt)⟩
    rw [State.die_updDie_same]
  case isFalse =>
    refine ⟨_, rfl, ?_, State.setM_mem .., fun _ e he => (State.die_setM_in m he).1⟩
    rw [State.target_setM, State.die_updDie_same]

/-- An event of another kind than a park event, where the queue has room for it (R328). -/
theorem State.post_room {s : State} {d : Nat} (kind code mid low : Nat) (h : (s.die d).hevt.length < 224) :
    s.post d kind code mid low = s.updDie d fun x => { x with hevt := x.hevt ++ [eventWord kind code mid low] } := by
  have hothers := List.length_filter_le (fun e => decide (fld e 47 40 ≠ 0)) (s.die d).hevt
  exact if_pos (Or.inr ⟨by omega, by omega⟩)

/-- An event changes its die's queue of events and its flag for those lost, and nothing else (R328). -/
theorem State.post_updDie (s : State) (d kind code mid low : Nat) :
    ∃ (h : Die → List W64) (c : Die → Tab W64), s.post d kind code mid low = s.updDie d fun x => { x with hevt := h x, csr := c x } := by
  unfold State.post
  extract_lets q others
  split
  · exact ⟨fun x => x.hevt ++ [eventWord kind code mid low], fun x => x.csr, rfl⟩
  · exact ⟨fun x => x.hevt, fun x => tput x.csr 0x2006 (setFld (s.dcsr d 0x2006) 10 10 1), rfl⟩

/-- A link's register changes, and its die takes an event (R419, R441). -/
theorem State.setLink_post_frame (s : State) (d n : Nat) (w : W64) (code mid low : Nat) :
    let t := (s.setLink d n w).post d 7 code mid low
    OnlyDie d s t ∧ t.link d n = w ∧ (∀ i, i ≠ n → t.link d i = s.link d i) ∧
      ((s.die d).hevt.length < 224 → (t.die d).hevt = (s.die d).hevt ++ [eventWord 7 code mid low]) := by
  intro t
  obtain ⟨h, c, hpost⟩ := (s.setLink d n w).post_updDie d 7 code mid low
  have ht := hpost.trans (State.updDie_updDie s d (fun x => { x with links := tput x.links n w }) fun x => { x with hevt := h x, csr := c x })
  change t = _ at ht
  have hlink (i : Nat) : t.link d i = tget 0 (tput (s.die d).links n w) i := by
    rw [State.link, ht, State.die_updDie_same]
  refine ⟨?_, ?_, fun i hi => ?_, fun hroom => ?_⟩
  · rw [ht]
    exact onlyDie_updDie s d _
  · rw [hlink, tget_tput_same]
  · rw [hlink, tget_tput_ne _ _ _ hi]
    rfl
  · have hdie : (s.setLink d n w).die d = { s.die d with links := tput (s.die d).links n w } := State.die_updDie_same ..
    have hroom' : ((s.setLink d n w).die d).hevt.length < 224 := by
      rw [hdie]
      exact hroom
    show (((s.setLink d n w).post d 7 code mid low).die d).hevt = _
    rw [State.post_room 7 code mid low hroom', State.die_updDie_same, hdie]

/-- The host's link goes up or down (R419, R420). -/
theorem exec_linkStateChange_host {s : State} {up : Bool} (h : bit (s.link 0 0) 0 ≠ up) :
    ∃ v, exec (.linkStateChange 0 0 up) s =
      .next ((s.setLink 0 0 (setFld (setFld (s.link 0 0) 0 0 (if up then 1 else 0)) 7 4 v)).post 0 7 0 0 0) := by
  refine ⟨if up then 4 else 0, ?_⟩
  show execLinkStateChange 0 0 up s = _
  simp [execLinkStateChange, h]

/-- A port or an east boundary goes up or down: its bit takes the new state where it is not the old one (R419). -/
theorem exec_linkStateChange_port (s : State) {d n : Nat} (up : Bool) (h : ((n = 1 ∨ n = 2) ∧ d < 4) ∨ (n = 3 ∧ d < 3)) :
    let k := if n = 3 then 2 else 1
    let b := if n = 3 then 0 else n - 1
    exec (.linkStateChange d n up) s = if bit (s.link d k) b = up then .next s
      else .next ((s.setLink d k (setFld (s.link d k) b b (if up then 1 else 0))).post d 7 0 0 d) := by
  show execLinkStateChange d n up s = _
  rcases h with ⟨rfl | rfl, hd⟩ | ⟨rfl, hd⟩ <;> simp [execLinkStateChange, hd]

/-- The lowest field of a link's register that is no part of its up bit (R419). -/
theorem bit_setFld_seven_four (w : W64) (v : Nat) : bit (setFld w 7 4 v) 0 = bit w 0 := by
  have hw := w.isLt
  simp only [bit, setFld, bitsOf, BitVec.toNat_ofNat, Nat.reduceAdd, Nat.reduceSub, Nat.reducePow, Nat.div_one, Nat.pow_zero]
  congr 1
  omega

theorem flag_bit (up : Bool) : ((if up then 1 else 0) % 2 == 1) = up := by cases up <;> rfl

/-- The bytes of a run of places that are all one agent's (R360). -/
theorem map_fst_places {α : Type} (pa n : Nat) (a : α) : (((List.range n).map fun i => (pa + i, a)).map (·.1)) = (List.range n).map (pa + ·) := by
  rw [List.map_map]
  rfl

theorem nodup_places (pa n : Nat) : ((List.range n).map (pa + ·)).Nodup :=
  List.nodup_range.map fun _ _ h => Nat.add_left_cancel h

/-- A host write to a device page whose line verifies (R405, R420). -/
theorem exec_hostAccess_device {s t : State} {pa v : Nat} {bs : List Byte} (hup : s.hostUp = true) (hh : isHbm pa = true)
    (htree : pa % 2 ^ 31 < treeBase) (hv : (s.ring (ringOfChan (chanOf pa))).vf = some v)
    (hw : s.writeAt .host false [(3, { near := s.free, wrote := [(Agent.code .host, s.free)] })]
      ((List.range bs.length).map fun i => (pa + i, s.vfAttr v)) bs = .ok t) :
    exec (.hostAccess pa (some bs)) s = .next t := by
  have hhost : isHostPa pa = false := by
    simp only [isHbm, decide_eq_true_eq] at hh
    simp only [isHostPa, Bool.and_eq_false_iff, decide_eq_false_iff_not]
    exact Or.inl (by omega)
  show execHostAccess pa (some bs) s = _
  simp [execHostAccess, hhost, hup, hh, hv, hw]
  exact fun h => absurd htree (Nat.not_lt.mpr h)

/-- Bytes written at a run of places read back there, and no others change (R111). -/
theorem State.byte_run {s t : State} {pa n : Nat} {bs : List Byte} (hn : n ≤ bs.length)
    (h : t.mem = (s.putBytesAt ((List.range n).map (pa + ·)) bs).mem) :
    (∀ k, (k < pa ∨ pa + n ≤ k) → t.byte k = s.byte k) ∧ ∀ i, i < n → t.byte (pa + i) = bs.getD i 0 := by
  have hbyte (k : Nat) : t.byte k = (s.putBytesAt ((List.range n).map (pa + ·)) bs).byte k := congrArg (tget 0 · k) h
  refine ⟨fun k hk => ?_, fun i hi => ?_⟩
  · rw [hbyte, State.byte_putBytesAt_out]
    simp only [List.mem_map, List.mem_range, not_exists, not_and]
    omega
  · have hlen : i < ((List.range n).map (pa + ·)).length := by simpa using hi
    have hget := s.byte_putBytesAt_in _ bs (nodup_places pa n) hlen (by omega)
    rw [List.getElem_map, List.getElem_range] at hget
    rw [hbyte, hget, List.getD_eq_getElem]

/-- The places of a run that lie below a bound are its first ones. -/
theorem filter_range_lt (n m : Nat) : (List.range n).filter (fun i => decide (i < m)) = List.range (min n m) := by
  rw [← List.Ico.zero_bot, List.Ico.filter_lt, List.Ico.zero_bot]

/-- The places of the host's own memory that a run from one of them names (R360). -/
theorem map_fst_host_places {pa : Nat} (h : isHostPa pa = true) (n : Nat) :
    ((((List.range n).map fun i => (pa + i, MemAttr.host none none)).filter fun p => isHostPa p.1).map (·.1)) =
      (List.range (min n (2 ^ 55 - pa))).map (pa + ·) := by
  simp only [isHostPa, Bool.and_eq_true, decide_eq_true_eq] at h
  have hin : ((fun p : Nat × MemAttr => isHostPa p.1) ∘ fun i => (pa + i, MemAttr.host none none)) = fun i => decide (i < 2 ^ 55 - pa) := by
    funext i
    simp only [Function.comp, isHostPa, ← Bool.decide_and]
    exact decide_eq_decide.mpr (by omega)
  rw [List.filter_map, hin, filter_range_lt, List.map_map]
  rfl

/-- A host write to its own memory (R360, R420). -/
theorem exec_hostAccess_own {s : State} {pa : Nat} (h : isHostPa pa = true) (bs : List Byte) :
    ∃ t, exec (.hostAccess pa (some bs)) s = .next t ∧
      t.mem = (s.putBytesAt ((List.range (min bs.length (2 ^ 55 - pa))).map (pa + ·)) bs).mem := by
  refine ⟨s.putSeen .host false [(3, { near := s.free, wrote := [(Agent.code .host, s.free)] })]
    (((List.range bs.length).map fun i => (pa + i, MemAttr.host none none)).filter fun p => isHostPa p.1) bs, ?_, ?_⟩
  · show execHostAccess pa (some bs) s = _
    simp only [execHostAccess, h, if_true]
  · rw [State.putSeen_mem, map_fst_host_places h]

/-- Settles O60: the clock's settings are `State.setM`, the links' changes one link and one event, and the host's writes a run of bytes. -/
theorem clockAndLinks : Obligations.ClockAndLinks := by
  unfold Obligations.ClockAndLinks
  refine ⟨exec_droopTrip_frame, fun s d => ⟨fun hm hold => ?_, fun hm => ?_⟩, fun s d m h8 h16 => ?_, fun s d m hm => ?_, fun s up h => ?_,
    fun s d n up h => ⟨fun hb => ?_, fun hb => ?_⟩, fun s d hd => ?_, fun s pa bs v t hup hh htree hv hw => ?_, fun s pa bs h => ?_,
    fun s pa h => ?_, fun s pa wr h hup => ?_⟩
  · refine ⟨_, if_pos ⟨hm, List.all_eq_true.mpr fun e he => decide_eq_true (hold e he)⟩, fun e he => State.die_setM_in _ he, State.setM_mem ..⟩
  · exact if_neg fun h => Nat.not_lt.mpr hm h.1
  · exact exec_clockStretch_target s d h8 h16
  · exact if_pos hm
  · obtain ⟨v, ht⟩ := exec_linkStateChange_host h
    obtain ⟨-, hlink, -, hpost⟩ := s.setLink_post_frame 0 0 (setFld (setFld (s.link 0 0) 0 0 (if up then 1 else 0)) 7 4 v) 0 0 0
    refine ⟨_, ht, ?_, hpost⟩
    refine (congrArg (bit · 0) hlink).trans ?_
    rw [bit_setFld_seven_four, bit_setFld_same (by decide), flag_bit]
  · exact (exec_linkStateChange_port s up h).trans (if_pos hb)
  · obtain ⟨honly, hlink, hother, hpost⟩ := s.setLink_post_frame d (if n = 3 then 2 else 1)
      (setFld (s.link d (if n = 3 then 2 else 1)) (if n = 3 then 0 else n - 1) (if n = 3 then 0 else n - 1) (if up then 1 else 0)) 0 0 d
    have hbit : (if n = 3 then 0 else n - 1) < 64 := by split <;> omega
    refine ⟨_, (exec_linkStateChange_port s up h).trans (if_neg hb), honly, ?_, fun i hi hne => ?_, hother, hpost⟩
    · rw [hlink, bit_setFld_same hbit, flag_bit]
    · rw [hlink, bit_setFld_ne hi hne]
  · refine ⟨_, if_pos hd, onlyDie_updDie s d _, ?_⟩
    have hlink : (s.setLink d 2 (setFld (s.link d 2) 63 32 (sat32 (fld (s.link d 2) 63 32 + 1)))).link d 2 =
        setFld (s.link d 2) 63 32 (sat32 (fld (s.link d 2) 63 32 + 1)) := by
      rw [State.link, State.setLink, State.die_updDie_same, tget_tput_same]
    obtain ⟨hhigh, hlow⟩ := fld_setFld_high (s.link d 2) (sat32_lt (fld (s.link d 2) 63 32 + 1))
    rw [hlink, hhigh, hlow, sat32_eq]
    exact ⟨rfl, rfl⟩
  · have hmem := State.writeAt_ok hw
    rw [map_fst_places] at hmem
    exact ⟨exec_hostAccess_device hup hh htree hv hw, State.byte_run le_rfl hmem⟩
  · obtain ⟨t, ht, hmem⟩ := exec_hostAccess_own h bs
    obtain ⟨hout, hin⟩ := State.byte_run (Nat.min_le_left ..) hmem
    refine ⟨t, ht, fun k hk => hout k (by omega), fun i hi hhost => hin i ?_⟩
    simp only [isHostPa, Bool.and_eq_true, decide_eq_true_eq] at hhost
    omega
  · show execHostAccess pa none s = _
    simp only [execHostAccess, h, if_true]
  · show execHostAccess pa wr s = _
    simp [execHostAccess, h, hup]

end Sys2Proof.Machine
end

section
/-! What a part of every ring keeps while other parts of the rings change. -/

namespace Sys2Proof.Machine

/-- No ring's part f changes. -/
def RingsKeep {α : Type} (f : Ring → α) (s t : State) : Prop := ∀ r, f (t.ring r) = f (s.ring r)

namespace RingsKeep
variable {α β : Type} {f : Ring → α} {s t u : State}

theorem refl (f : Ring → α) (s : State) : RingsKeep f s s := fun _ => rfl

theorem trans (h1 : RingsKeep f s t) (h2 : RingsKeep f t u) : RingsKeep f s u := fun r => (h2 r).trans (h1 r)

theorem updRing {r : Nat} {g : Ring → Ring} (h : f (g (s.ring r)) = f (s.ring r)) : RingsKeep f s (s.updRing r g) := fun n => by
  by_cases hn : n = r
  · rw [hn, State.ring_updRing_same, h]
  · rw [State.ring_updRing_ne _ _ hn]

theorem foldl {g : State → β → State} (h : ∀ s x, RingsKeep f s (g s x)) (s : State) (l : List β) : RingsKeep f s (l.foldl g s) := by
  induction l generalizing s with
  | nil => exact refl f s
  | cons x l ih => exact (h s x).trans (ih _)

end RingsKeep

theorem State.setSlot_ringsKeep {α : Type} {f : Ring → α} (h : ∀ (x : Ring) v, f { x with slots := v } = f x) (s : State) (g : Group) (gs : Nat)
    (x : Slot) : RingsKeep f s (s.setSlot g gs x) := RingsKeep.updRing (h ..)

/-- A counted operation that ends changes its ring's slots only (R268). -/
theorem State.endOp_ringsKeep {α : Type} {f : Ring → α} (h : ∀ (x : Ring) v, f { x with deps := v } = f x) (s : State) (r id : Nat)
    (set : Option Nat) (err : Option (BitVec 8)) : RingsKeep f s (s.endOp r id set err) := by
  cases set with
  | none => exact RingsKeep.refl f s
  | some i => exact RingsKeep.updRing (h ..)

/-- The channels of a phase that retires lie in no ring (R140). -/
theorem State.closeChans_rings (s : State) (g : Group) : (s.closeChans g).rings = s.rings := by
  unfold State.closeChans
  induction g.ports generalizing s with
  | nil => rfl
  | cons e l ih =>
    rw [List.foldl_cons, ih]
    split <;> rfl

/-- The rings that a phase leaves keep all but their AGs, their slots and the phase itself (R28). -/
theorem State.freeGroup_ringsKeep {α : Type} {f : Ring → α} (ha : ∀ (x : Ring) v, f { x with ags := v } = f x)
    (hs : ∀ (x : Ring) v, f { x with slots := v } = f x) (hg : ∀ (x : Ring) v, f { x with group := v } = f x) (s : State) (gk : Nat)
    (g : Group) : RingsKeep f s (s.freeGroup gk g) := by
  have h1 := RingsKeep.foldl (f := f) (g := fun (st : State) (a : Nat × Nat) => st.updRing a.1 fun x => { x with ags := tdel x.ags a.2 })
    (fun st a => RingsKeep.updRing (ha ..)) s (s.agsOf gk g)
  have h2 (s1 : State) := RingsKeep.foldl (f := f) (fun st gs => State.setSlot_ringsKeep hs st g gs Slot.reset) s1 (List.range (s.plen g))
  have h3 (s2 : State) := RingsKeep.foldl (f := f) (g := fun (st : State) (r : Nat) => st.updRing r fun x => { x with group := none })
    (fun st r => RingsKeep.updRing (hg ..)) s2 (runOf g.first g.k)
  exact h1.trans ((h2 _).trans (h3 _))

theorem runOf_nodup (first k : Nat) : (runOf first k).Nodup :=
  List.nodup_range.map fun _ _ h => Nat.add_left_cancel h

theorem State.freeGroup_group {s : State} {gk : Nat} {g : Group} {r : Nat} (h : r ∈ runOf g.first g.k) :
    ((s.freeGroup gk g).ring r).group = none := by
  unfold State.freeGroup
  extract_lets s1 s2 s3
  exact congrArg Ring.group (State.ring_updRings_self (runOf_nodup ..) h (fun _ x => { x with group := none }) s2)

theorem State.endOp_groups (s : State) (r id : Nat) (set : Option Nat) (err : Option (BitVec 8)) : (s.endOp r id set err).groups = s.groups := by
  cases set <;> rfl

theorem State.group?_freeGroup (s : State) (gk : Nat) (g : Group) : (s.freeGroup gk g).group? gk = none := tfind_tdel_same ..

/-- The record of a ring's phase after a change of it (R278). -/
theorem State.rec?_updRec (s : State) (r n : Nat) (f : PhaseRec → PhaseRec) :
    (s.updRec r n f).rec? r n = some (f (tget PhaseRec.reset (s.ring r).recs n)) := by
  rw [State.rec?, State.updRec, State.ring_updRing_same]
  exact tfind_tput_same ..

theorem RingsKeep.rec? {s t : State} (h : RingsKeep Ring.recs s t) (r n : Nat) : t.rec? r n = s.rec? r n := by
  rw [State.rec?, State.rec?, h r]

theorem RingsKeep.of_rings {α : Type} {f : Ring → α} {s t : State} (h : t.rings = s.rings) : RingsKeep f s t := fun r => by
  rw [State.ring, State.ring, h]

end Sys2Proof.Machine
end

section
/-! A phase starts, faults and retires (R147, R177, R276 to R278, R379). -/

namespace Sys2Proof.Machine

/-- The record that a phase retires with (R278). -/
def State.retireRec (s : State) (g : Group) : PhaseRec :=
  let q0 := s.liveRec g.issuer g.serial ((s.rec? g.issuer g.serial).getD PhaseRec.reset)
  let zip := g.discards ≠ 0 || q0.void || g.lacking
  let err : Option (BitVec 8) := match g.mark with
    | some c => some c
    | none => if zip && g.img.zipt then some errZip else none
  { q0 with zip := zip, tret := s.time, state := if err.isSome then 6 else 5, code := err.getD 0 }

theorem State.retireRec_marked {s : State} {g : Group} {c : BitVec 8} (h : g.mark = some c) :
    (s.retireRec g).state = 6 ∧ (s.retireRec g).code = c ∧ (s.retireRec g).tret = s.time := by
  simp only [State.retireRec, h]
  trivial

theorem State.retireRec_clean {s : State} {g : Group} (h : g.mark = none) (hz : g.img.zipt = false) :
    (s.retireRec g).state = 5 ∧ (s.retireRec g).code = 0 ∧ (s.retireRec g).tret = s.time := by
  simp only [State.retireRec, h, hz, Bool.and_false]
  trivial

/-- A phase that retires leaves its rings and its record (R28, R278). -/
theorem State.retire_frame (s : State) (gk : Nat) (g : Group) :
    (s.retire gk g).group? gk = none ∧ (∀ r ∈ runOf g.first g.k, ((s.retire gk g).ring r).group = none) ∧
      (s.retire gk g).rec? g.issuer g.serial = some (s.retireRec g) := by
  unfold State.retire
  extract_lets q0 zip err q s1 s2
  have hs2 : RingsKeep Ring.recs s1 s2 := by
    refine RingsKeep.foldl ?_ s1 g.cairns
    exact fun st c => RingsKeep.of_rings rfl
  have hclose : RingsKeep Ring.recs s2 (s2.closeChans g) := RingsKeep.of_rings (State.closeChans_rings s2 g)
  have hfree := State.freeGroup_ringsKeep (f := Ring.recs) (fun _ _ => rfl) (fun _ _ => rfl) (fun _ _ => rfl) (s2.closeChans g) gk g
  have hend {α : Type} {f : Ring → α} (h : ∀ (x : Ring) v, f { x with deps := v } = f x) :=
    State.endOp_ringsKeep h ((s2.closeChans g).freeGroup gk g) g.issuer g.opId g.set err
  refine ⟨?_, fun r hr => ?_, ?_⟩
  · rw [State.group?, State.endOp_groups]
    exact State.group?_freeGroup ..
  · rw [hend (f := Ring.group) (fun _ _ => rfl) r]
    exact State.freeGroup_group hr
  · rw [(hs2.trans (hclose.trans (hfree.trans (hend (f := Ring.recs) fun _ _ => rfl)))).rec?]
    exact State.rec?_updRec ..

/-- The work that an operation starts with once what its mask awaits has completed without an error (R269). -/
def State.beginOp (s : State) (r : Nat) (a : Async) : State :=
  let a1 := a.begin (s.ring r).joined
  let u := s.force a1.x.front.wrote
  match a.op with
  | .pload _ _ serial => (u.setAsync r a1).updRec r serial fun q => { q with state := 1 }
  | .cpy va => (u.setAsync r a1).startCpy r a1 va
  | .cpyB sel =>
    match tfind (s.ring r).billets (fld sel 3 0) with
    | none => s.refuseAsync r a errBillet
    | some b => u.readyCopy r a1 (b.fire (BitVec.ofNat 32 (fld sel 63 32)).toInt)
  | .crnStep sel => u.startCrn r a1 sel

section
variable {s : State} {r k : Nat} {a : Async}

/-- The event of an operation whose mask is satisfied, with or without an error (R269, R270). -/
theorem exec_asyncMaskSatisfied_mask (hk : (s.ring r).asyncs[k]? = some a) (hh : a.held = false) (hoff : s.unitOff r = false)
    (hcap : (s.strip (s.ring r).sbase).capture = false) (hst : a.st = .mask) (hsat : s.satisfied r a.await = true)
    (hiss : s.issuedOver r a = true) :
    (s.waitErr r a.await = none → exec (.asyncMaskSatisfied r k) s = .next (s.beginOp r a)) ∧
      (∀ desc gsel serial e, a.op = .pload desc gsel serial → s.waitErr r a.await = some e →
        exec (.asyncMaskSatisfied r k) s = .next (s.refusePload r a serial errDep)) := by
  refine ⟨fun herr => ?_, fun desc gsel serial e hop herr => ?_⟩
  · show execAsyncMaskSatisfied r k s = _
    simp only [execAsyncMaskSatisfied, hk, hh, hoff, hcap, hst, hsat, hiss, herr, State.beginOp, sextN_eq_toInt _ (by decide : 0 < 32), if_true,
      Bool.not_true, Bool.or_self, Bool.false_eq_true, or_self, and_false, if_false]
    cases a.op with
    | pload => rfl
    | cpy => rfl
    | crnStep => rfl
    | cpyB sel =>
      dsimp only
      cases tfind (s.ring r).billets (fld sel 3 0) <;> rfl
  · show execAsyncMaskSatisfied r k s = _
    simp only [execAsyncMaskSatisfied, hk, hh, hoff, hcap, hst, hsat, hiss, hop, herr, if_true, Bool.not_true, Bool.or_self, Bool.false_eq_true,
      or_self, and_false, if_false]

/-- A choice of group gets a number above all that wait (R277). -/
theorem foldl_max_lt {l : List Nat} {n : Nat} (h : n ∈ l) : n < l.foldl max 0 + 1 := by
  have hle : ∀ (l : List Nat) (m : Nat), m ≤ l.foldl max m ∧ ∀ x ∈ l, x ≤ l.foldl max m := by
    intro l
    induction l with
    | nil => exact fun m => ⟨le_rfl, fun x hx => absurd hx List.not_mem_nil⟩
    | cons y l ih =>
      intro m
      obtain ⟨hm, hl⟩ := ih (max m y)
      refine ⟨(Nat.le_max_left m y).trans hm, fun x hx => ?_⟩
      rcases List.mem_cons.mp hx with rfl | hx
      · exact (Nat.le_max_right m x).trans hm
      · exact hl x hx
  exact Nat.lt_succ_of_le ((hle l 0).2 n h)

/-- GROUPSEL names rings that are offered and lie in the strip's part of the ring: the pload takes them (R276, R277). -/
theorem exec_ploadAccept_place {desc gsel : W64} {serial : Nat} (hk : (s.ring r).asyncs[k]? = some a) (hop : a.op = .pload desc gsel serial)
    (hst : a.st = .group) (hh : a.held = false) (hoff : s.unitOff r = false) (hcap : (s.strip (s.ring r).sbase).capture = false)
    (hg : a.grp = none) (hn : fld gsel 14 8 ≠ 0) (hauto : bit gsel 16 = false) (hlen : fld gsel 6 0 + fld gsel 14 8 ≤ (s.ring r).slen)
    (hoffer : (runOf ((s.ring r).sbase + fld gsel 6 0) (fld gsel 14 8)).all s.offered = true) :
    exec (.ploadAccept r k) s = .next (s.setAsync r
      { a with grp := some ((s.ring r).sbase + fld gsel 6 0, fld gsel 14 8), ticket := (s.tickets.map (·.1)).foldl max 0 + 1 }) := by
  show execPloadAccept r k s = _
  simp only [execPloadAccept, hk, hop, hst, hh, hoff, hcap, hg, State.placePload, if_neg hn, hauto, hoffer, Bool.false_eq_true, or_self, if_false,
    Nat.not_lt.mpr hlen, Bool.true_eq_false]

/-- A pload whose group is free loads, and is accepted (R277, R278). -/
theorem exec_ploadAccept_accept {desc gsel : W64} {serial first n : Nat} {d : List Byte} {l : Loaded} (hk : (s.ring r).asyncs[k]? = some a)
    (hop : a.op = .pload desc gsel serial) (hst : a.st = .group) (hh : a.held = false) (hoff : s.unitOff r = false)
    (hcap : (s.strip (s.ring r).sbase).capture = false) (hg : a.grp = some (first, n)) (hoffer : (runOf first n).all s.offered = true)
    (hfree : ((runOf first n).any (fun q => (s.ring q).group.isSome || (s.ring q).halted) ||
      s.tickets.any fun t => decide (t.1 < a.ticket) && runsMeet first n t.2.1 t.2.2) = false) :
    let u := s.updRec r serial fun q => { q with state := 2 }
    u.readPdesc a.x desc = .ok d →
    u.loadPhase a.x (some desc) d first ((runOf first n).map fun q => (s.ring q).ringp) (fun _ => none) false = .ok l →
    let g := Group.start first n r serial a l (u.bindCairns (s.vfNum r) l)
    let v := ((u.engLinked a.x (u.loadSpans a.x desc d l.ents l.ags)).dropAsync r a.id).acceptPhase g l
    exec (.ploadAccept r k) s = .next ((v.startRecords g).updRec r serial fun q => { q with state := if l.count = 0 then 4 else 3 }) := by
  intro u hread hload g v
  have hdrain : (if g.draining = true then 4 else 3) = if l.count = 0 then 4 else 3 := if_congr beq_iff_eq rfl rfl
  show execPloadAccept r k s = _
  simp only [execPloadAccept, hk, hop, hst, hh, hoff, hcap, hg, hoffer, hfree, Bool.false_eq_true, or_self, if_false, Bool.true_eq_false]
  rw [hread]
  simp only
  rw [hload]
  simp only
  rw [← hdrain]

end

/-- The items of a faulted phase go (R379). -/
theorem State.dropItems_frame {s : State} {gk : Nat} {g : Group} (h : s.group? gk = some g) :
    ∃ g', (s.dropItems gk).group? gk = some g' ∧ g'.mark = g.mark ∧ g'.draining = true ∧ g'.wq = [] ∧ g'.blocks = [] ∧ g'.wrap = [] ∧
      g'.cross = [] := by
  unfold State.dropItems
  rw [h]
  simp only [State.discardItems, State.group_setGroup_same, Option.some.injEq, exists_eq_left', and_self]

theorem State.discardItems_ringsKeep (s : State) (gk : Nat) : RingsKeep Ring.recs s (s.discardItems gk) := by
  unfold State.discardItems
  split
  · exact fun _ => rfl
  · next g _ => exact RingsKeep.foldl (fun st gs => State.setSlot_ringsKeep (fun _ _ => rfl) st g gs _) s (List.range (s.plen g))

theorem State.dropItems_ringsKeep (s : State) (gk : Nat) : RingsKeep Ring.recs s (s.dropItems gk) := by
  unfold State.dropItems
  split
  · exact fun _ => rfl
  · next g _ => exact (s.setGroup gk { g with draining := true }).discardItems_ringsKeep gk

/-- The record of a phase that has taken a fault (R379). -/
def PhaseRec.faulted (q : PhaseRec) (kind : Nat) (at_ : FaultAt) (fval : W64) : PhaseRec :=
  { q with state := 4, kind := kind, ctx := at_.ctx, pos := at_.pos, vs := at_.vs, gslot := at_.gslot, fval := fval }

/-- The first fault of a phase is recorded, and its items go unless a cycle is under way (R379). -/
theorem State.phaseFault_first {s : State} {gk : Nat} {g : Group} (h : s.group? gk = some g) (hm : g.mark = none) (kind : Nat) (at_ : FaultAt)
    (fval : W64) :
    ∃ g', (s.phaseFault gk kind at_ fval).group? gk = some g' ∧ g'.mark = some (faultCode kind) ∧
      (g.midCycle = false → g'.draining = true ∧ g'.wq = [] ∧ g'.blocks = [] ∧ g'.wrap = [] ∧ g'.cross = []) ∧
      ∃ q, (s.phaseFault gk kind at_ fval).rec? g.issuer g.serial = some q ∧ q.state = 4 ∧ q.kind = kind ∧ q.vs = at_.vs := by
  let u := (s.updRec g.issuer g.serial fun q => q.faulted kind at_ fval).setGroup gk { g with mark := some (faultCode kind) }
  have hu : u.group? gk = some { g with mark := some (faultCode kind) } := State.group_setGroup_same ..
  have hrec : u.rec? g.issuer g.serial = some ((tget PhaseRec.reset (s.ring g.issuer).recs g.serial).faulted kind at_ fval) :=
    s.rec?_updRec g.issuer g.serial fun q => q.faulted kind at_ fval
  have hfault : s.phaseFault gk kind at_ fval = if g.midCycle then u else u.dropItems gk := by
    simp only [State.phaseFault, h, hm, Option.isSome_none, Bool.false_and, Bool.false_eq_true, if_false]
    rfl
  rw [hfault]
  split
  case isTrue hmid => exact ⟨_, hu, rfl, fun hno => absurd hmid (Bool.eq_false_iff.mp hno), _, hrec, rfl, rfl, rfl⟩
  case isFalse =>
    obtain ⟨g', hg', hmark, hdrop⟩ := State.dropItems_frame hu
    exact ⟨g', hg', hmark, fun _ => hdrop, _, ((State.dropItems_ringsKeep u gk).rec? ..).trans hrec, rfl, rfl, rfl⟩

/-- Where a merge lies that waits for its head record (R147, R382). -/
def State.mergeAt (s : State) (g : Group) (k : Nat) : FaultAt :=
  { gslot := if s.plen g = 0 then 0 else k / 4 % s.plen g, vs := k / 4, pos := 0, ctx := 0 }

/-- The head record of a merge's output, the value of its fault (R147). -/
def Group.mergeHead (g : Group) (k : Nat) : BitVec 16 :=
  match tfind g.ports k with
  | some ip => ip.head
  | none => 0

/-- The merge that a cause names, if it is one (R147). -/
def Cause.merge? : Cause → Option Nat
  | .merge k => some k
  | .deliver => none
  | .accept => none
  | .agFault => none
  | .bank => none

theorem exec_mergeDeadlock_fault {s : State} {gk k : Nat} {g : Group} (h : s.group? gk = some g) (hdead : 1024 ≤ g.deadCycles)
    (hcause : (s.cycleCauses gk).findSome? Cause.merge? = some k) :
    exec (.mergeDeadlock gk) s = .next (s.phaseFault gk 4 (s.mergeAt g k) ((g.mergeHead k).setWidth 64)) := by
  have hexec : exec (.mergeDeadlock gk) s = .next (match s.group? gk with
      | none => s
      | some gr => if gr.deadCycles < 1024 then s else match (s.cycleCauses gk).findSome? Cause.merge? with
        | none => s
        | some k => s.phaseFault gk 4 (s.mergeAt gr k) ((gr.mergeHead k).setWidth 64)) := rfl
  simp only [hexec, h, if_neg (Nat.not_lt.mpr hdead), hcause]

/-- A draining phase discards what reaches it, and retires once it has drained (R28). -/
theorem exec_phaseRetirement_draining {s : State} {gk : Nat} {g g1 : Group} (h : s.group? gk = some g) (hd : g.draining = true)
    (h1 : (s.drainStep gk).group? gk = some g1) :
    exec (.phaseRetirement gk) s =
      if (s.drainStep gk).isDrained gk g1 then .next ((s.drainStep gk).retire gk g1) else .next (s.drainStep gk) := by
  show execPhaseRetirement gk s = _
  simp only [execPhaseRetirement, h, hd, h1, Bool.not_true, Bool.false_eq_true, if_false]

/-- Settles O52: a phase starts with `State.beginOp`, is placed and accepted, faults by `State.phaseFault`, and retires with `State.retireRec`. -/
theorem phaseEvents : Obligations.PhaseEvents := by
  unfold Obligations.PhaseEvents
  refine ⟨fun s r k a hk hh hoff hcap hst hsat hiss => ?_, fun s r k a desc gsel serial hk hop hst hh hoff hcap hg hn hauto hlen hoffer => ?_,
    fun s r k a desc gsel serial first n d l hk hop hst hh hoff hcap hg hoffer hfree => ?_, fun s gk g k h hdead hcause hm => ?_,
    fun s gk g h hd => ⟨fun g1 h1 hdr => ?_, fun g1 h1 hdr => ?_⟩, fun s gk g => ?_⟩
  · obtain ⟨hgo, hfail⟩ := exec_asyncMaskSatisfied_mask hk hh hoff hcap hst hsat hiss
    refine ⟨fun desc gsel serial hop herr => ?_, hfail, fun va hop herr => ?_, fun sel b hop herr hb => ?_, fun sel hop herr => ?_⟩
    · rw [hgo herr, State.beginOp, hop]
    · rw [hgo herr, State.beginOp, hop]
    · simp only [hgo herr, State.beginOp, hop, hb]
    · rw [hgo herr, State.beginOp, hop]
  · refine ⟨_, exec_ploadAccept_place hk hop hst hh hoff hcap hg hn hauto hlen hoffer, fun x hx => ?_⟩
    exact foldl_max_lt (List.mem_map_of_mem hx)
  · exact exec_ploadAccept_accept hk hop hst hh hoff hcap hg hoffer hfree
  · obtain ⟨g', hg', hmark, hdrop, q, hq, hstate, hkind, hvs⟩ :=
      State.phaseFault_first h hm 4 (s.mergeAt g k) ((Group.mergeHead g k).setWidth 64)
    exact ⟨_, g', exec_mergeDeadlock_fault h hdead hcause, hg', hmark, hdrop, q, hq, hstate, hkind, hvs⟩
  · rw [exec_phaseRetirement_draining h hd h1, if_pos hdr]
  · rw [exec_phaseRetirement_draining h hd h1, if_neg (Bool.eq_false_iff.mp hdr)]
  · obtain ⟨hgone, hrings, hrec⟩ := s.retire_frame gk g
    exact ⟨hgone, hrings, fun c hc => ⟨_, hrec, State.retireRec_marked hc⟩, fun hm hz => ⟨_, hrec, State.retireRec_clean hm hz⟩⟩

end Sys2Proof.Machine
end

section
/-! The address generators: what a request issues, and what each part of it does (R105, R113, R152). -/

namespace Sys2Proof.Machine

/-- The request that an AG issues next: of the elements that share a line, or of a slot of a zero-compressed group (R152). -/
def State.agIssue (s : State) (gk r n : Nat) (a : Ag) (d : AgDesc) : Option State :=
  if d.zc then
    let va := match a.elem d a.issued with
      | .at_ v => v
      | .pad => 0
    if d.store then
      if a.given d < 128 then none
      else
        let bs := zcPack d.esz ((List.range 128).map fun i => slice a.part (i * d.esz) d.esz)
        match s.agPlaces a d va bs.length with
        | .error e => some (s.agFail gk r n a d e)
        | .ok ps =>
          let u : AgUnit := { locs := ps.map fun p => [p.1], data := bs.map fun b => [b], attr := attrOf [ps], got := [], done := false,
                              slot := some (va, bs.length / 64) }
          some (s.setAg r n ({ a with issued := a.issued + 128, part := a.part.drop (128 * d.esz), again := false,
                                      units := a.units ++ [u] } : Ag).stepPast)
    else
      match s.agPlaces a d va 64 with
      | .error e => some (s.agFail gk r n a d e)
      | .ok ps =>
        let u : AgUnit := { locs := ps.map fun p => [p.1], data := [], attr := attrOf [ps], got := [], done := false, slot := some (va, 1) }
        some (s.setAg r n { a with issued := a.issued + 128, units := a.units ++ [u], again := false })
  else
    let run := a.lineRun d none 64 a.issued
    let els := if d.store then a.toSkip d (run.take (a.given d)) else run
    if els.isEmpty then none
    else
      match s.agElems a d els with
      | .error e => some (s.agFail gk r n a d e)
      | .ok pls =>
        let data := if d.store then (List.range els.length).map fun i => slice a.part (i * d.esz) d.esz else []
        let u : AgUnit := { locs := pls.map fun l => l.map (·.1), data := data, attr := attrOf pls, got := [], done := false, slot := none }
        some (s.setAg r n ({ a with issued := a.issued + els.length, units := a.units ++ [u], again := false,
                                    part := if d.store then a.part.drop (els.length * d.esz) else a.part } : Ag).stepPast)

section
variable {s : State} {r n gk key role : Nat} {d : AgDesc} {g : Group}

/-- An AG that has nothing to deliver and nothing to wait for issues its next request (R152). -/
theorem State.agTry_issue (hb : (s.ag r n).bound = some (gk, key, role)) (hd : (s.ag r n).desc = some d) (hg : s.group? gk = some g)
    (hended : (s.ag r n).ended = false) (hfault : (s.ag r n).fault = none) (hlen : (s.ag r n).units.length < 128) (hfz : g.frozen = false)
    (hheld : s.groupHeld g = false) (hmark : g.mark = none) (hidx : d.mode = 2 → (s.ag r n).curIdx ≠ none)
    (hstep : (s.ag r n).stepIndex d = none) (hwalk : (s.ag r n).issued < d.walk)
    (hload : d.store = false → role = 0 → (s.ag r n).part.length < 4 ∧ (∀ u, (s.ag r n).units.head? = some u → u.done = false) ∧
      (s.ag r n).coming d / 4 < s.agSpace g key) (hpair : role ≠ 0 → (s.ag r n).part.length < 512) :
    s.agTry r n = s.agIssue gk r n (s.ag r n) d := by
  have hindex : s.agIndex r n (s.ag r n) d = some s := by
    unfold State.agIndex
    by_cases hm : d.mode = 2
    · rw [if_neg (not_not.mpr hm), if_pos ⟨Option.isSome_iff_ne_none.mpr (hidx hm), hwalk⟩]
    · rw [if_pos hm]
  unfold State.agTry
  simp only [hb, hd, hg]
  rw [if_neg ?held, if_neg ?ready, if_neg ?busy]
  case held => simp [hended, hheld]
  case busy => simp [hfault, hfz, hlen]
  case ready =>
    rintro ⟨hst, hrole, hready, -⟩
    obtain ⟨hpart, hhead, -⟩ := hload (by simpa using hst) hrole
    cases hu : (s.ag r n).units with
    | nil => simp [hu, Nat.not_le.mpr hpart] at hready
    | cons u l => simp [hu, Nat.not_le.mpr hpart, hhead u (by rw [hu]; rfl)] at hready
  rw [hindex]
  simp only
  rw [if_neg ?ended, if_neg ?walked, if_neg ?skipped, if_neg ?space, if_neg ?pair]
  case ended => exact Bool.eq_false_iff.mp hended
  case walked => simp [hmark, hwalk]
  case skipped => simp [hstep]
  case pair => exact fun h => Nat.not_le.mpr (hpair h.1) h.2
  case space =>
    rintro ⟨hst, hrole, hle⟩
    exact Nat.not_le.mpr (hload (by simpa using hst) hrole).2.2 hle
  rfl

/-- The elements that share a line, with their places (R152). -/
theorem State.agIssue_line {a : Ag} {pls : List (List (Nat × MemAttr))} (hz : d.zc = false) :
    let els := if d.store then a.toSkip d ((a.lineRun d none 64 a.issued).take (a.given d)) else a.lineRun d none 64 a.issued
    els ≠ [] → s.agElems a d els = .ok pls → s.agIssue gk r n a d = some (s.setAg r n (({ a with
      issued := a.issued + els.length, again := false, part := if d.store then a.part.drop (els.length * d.esz) else a.part,
      units := a.units ++ [{ locs := pls.map fun l => l.map (·.1), attr := attrOf pls, got := [], done := false, slot := none,
                             data := if d.store then (List.range els.length).map fun i => slice a.part (i * d.esz) d.esz else [] }] } : Ag).stepPast))
    := by
  intro els hne hok
  have hempty : els.isEmpty = false := List.isEmpty_eq_false_iff.mpr hne
  unfold State.agIssue
  rw [if_neg (Bool.eq_false_iff.mp hz)]
  extract_lets run els'
  change (if els.isEmpty = true then none else _) = _
  rw [if_neg (Bool.eq_false_iff.mp hempty)]
  change (match s.agElems a d els with | .error e => _ | .ok pls => _) = _
  rw [hok]

/-- The first line of a slot of a zero-compressed group, for a loader (R155). -/
theorem State.agIssue_slot_load {a : Ag} {va : W64} {ps : List (Nat × MemAttr)} (hz : d.zc = true) (hst : d.store = false)
    (hva : a.elem d a.issued = .at_ va) (hok : s.agPlaces a d va 64 = .ok ps) :
    s.agIssue gk r n a d = some (s.setAg r n { a with
      issued := a.issued + 128, again := false,
      units := a.units ++ [{ locs := ps.map fun p => [p.1], data := [], attr := attrOf [ps], got := [], done := false, slot := some (va, 1) }] })
    := by
  simp only [State.agIssue, hz, hst, hva, hok, if_true, Bool.false_eq_true, if_false]

/-- A whole slot of a zero-compressed group, for a storer (R155). -/
theorem State.agIssue_slot_store {a : Ag} {va : W64} {ps : List (Nat × MemAttr)} (hz : d.zc = true) (hst : d.store = true)
    (hgiven : 128 ≤ a.given d) (hva : a.elem d a.issued = .at_ va) :
    let bs := zcPack d.esz ((List.range 128).map fun i => slice a.part (i * d.esz) d.esz)
    s.agPlaces a d va bs.length = .ok ps → s.agIssue gk r n a d = some (s.setAg r n (({ a with
      issued := a.issued + 128, again := false, part := a.part.drop (128 * d.esz),
      units := a.units ++ [{ locs := ps.map fun p => [p.1], data := bs.map fun b => [b], attr := attrOf [ps], got := [], done := false,
                             slot := some (va, bs.length / 64) }] } : Ag).stepPast)) := by
  intro bs hok
  simp only [State.agIssue, hz, hst, hva, if_true, if_neg (Nat.not_lt.mpr hgiven)]
  rw [hok]

end

/-- A request some of whose bytes have come (R105). -/
def AgUnit.read (u : AgUnit) (ps : List (Nat × MemAttr)) (l : List (Byte × Option Past)) : AgUnit :=
  { u with got := (ps.zip l).foldl (fun t x => tput t x.1.1 x.2.1) u.got }

/-- An AG whose request has read a part of its bytes, with what it has observed by that (R105, R113). -/
def State.agGot (s : State) (r n i : Nat) (u : AgUnit) (ps : List (Nat × MemAttr)) (l : List (Byte × Option Past)) : State :=
  (s.transfers ps).setAg r n { s.ag r n with
    units := (s.ag r n).units.set i (u.read ps l), x := { (s.ag r n).x with front := s.learn (.engines r) (s.ag r n).x.front ps l } }

theorem State.ag_setAg_same (s : State) (r n : Nat) (a : Ag) : (s.setAg r n a).ag r n = a := by
  rw [State.ag, State.setAg, State.ring_updRing_same]
  exact tget_tput_same ..

section
variable {s : State} {r n k gk key role : Nat} {d : AgDesc} {u : AgUnit}

theorem exec_agLineCompletion_done (hb : (s.ag r n).bound = some (gk, key, role)) (hd : (s.ag r n).desc = some d)
    (hu : (s.ag r n).units[k % 128]? = some u) (hdone : u.done = true) :
    exec (.agLineCompletion r n k) s = .next (s.agDrain r n (2 * (s.ag r n).units.length + 2)) := by
  show execAgLineCompletion r n k s = _
  simp only [execAgLineCompletion, hb, hd, hu, hdone, if_true]

/-- A loader's request of which every part has come (R152). -/
theorem exec_agLineCompletion_loaded (hb : (s.ag r n).bound = some (gk, key, role)) (hd : (s.ag r n).desc = some d)
    (hu : (s.ag r n).units[k % 128]? = some u) (hdone : u.done = false) (hst : d.store = false) (hrest : u.rest = [])
    (hbehind : (s.ag r n).behind (k % 128) (u.pick (k / 128)) = false) :
    exec (.agLineCompletion r n k) s = .next (s.agLoaded gk r n (k % 128) (s.ag r n) d u) := by
  show execAgLineCompletion r n k s = _
  simp only [execAgLineCompletion, hb, hd, hu, hdone, hst, hrest, hbehind, Bool.false_eq_true, if_false, List.isEmpty_nil, if_true]

/-- A part of a loader's request reads its bytes; with the last part the request has loaded (R105, R152). -/
theorem exec_agLineCompletion_read {l : List (Byte × Option Past)} (hb : (s.ag r n).bound = some (gk, key, role)) (hd : (s.ag r n).desc = some d)
    (hu : (s.ag r n).units[k % 128]? = some u) (hdone : u.done = false) (hst : d.store = false) (hrest : u.rest ≠ [])
    (hbehind : (s.ag r n).behind (k % 128) (u.pick (k / 128)) = false)
    (hread : s.readAt { me := .engines r, front := (s.ag r n).x.front } (u.pick (k / 128)) = .ok l) :
    let ps := u.pick (k / 128)
    let w := s.agGot r n (k % 128) u ps l
    exec (.agLineCompletion r n k) s = .next (if (u.read ps l).rest = [] then w.agLoaded gk r n (k % 128) (w.ag r n) d (u.read ps l) else w) := by
  intro ps w
  have hpart : s.agReadPart gk r n (k % 128) (s.ag r n) u ps = w := by
    simp only [State.agReadPart, ps, hread]
    rfl
  have hunit : (w.ag r n).units[k % 128]? = some (u.read ps l) := by
    obtain ⟨hlt, -⟩ := List.getElem?_eq_some_iff.mp hu
    have hag := State.ag_setAg_same (s.transfers ps) r n { s.ag r n with
      units := (s.ag r n).units.set (k % 128) (u.read ps l),
      x := { (s.ag r n).x with front := s.learn (.engines r) (s.ag r n).x.front ps l } }
    rw [show w.ag r n = _ from hag]
    exact List.getElem?_set_self hlt
  have hnotdone : (u.read ps l).done = false := hdone
  have hempty : u.rest.isEmpty = false := List.isEmpty_eq_false_iff.mpr hrest
  show execAgLineCompletion r n k s = _
  simp only [execAgLineCompletion, hb, hd, hu, hdone, hst, hempty, hbehind, Bool.false_eq_true, if_false, hpart, hunit, hnotdone, Bool.not_false,
    and_true, List.isEmpty_iff, ps]

/-- A loader's request has its data, and what has come is delivered (R152). -/
theorem State.agLoaded_line (s : State) (gk r n i : Nat) {a : Ag} {u : AgUnit} (hslot : u.slot = none) :
    s.agLoaded gk r n i a d u = (s.setAg r n { a with units := a.units.set i { u with
      data := u.locs.map fun l => if l.isEmpty then d.padBytes else l.map fun p => tget 0 u.got p, done := true } }).agDrain r n
        (2 * a.units.length + 2) := by
  simp only [State.agLoaded, hslot]

/-- A slot of a zero-compressed group that holds no line beyond those read is unpacked (R155). -/
theorem State.agLoaded_slot (s : State) (gk r n i : Nat) {a : Ag} {u : AgUnit} {va : W64} {lines : Nat} (hslot : u.slot = some (va, lines))
    (hlines : zcLines d.esz (zcCount (u.locs.flatten.map fun p => tget 0 u.got p)) ≤ lines) :
    s.agLoaded gk r n i a d u = (s.setAg r n { a with units := a.units.set i { u with
      data := zcUnpack d.esz (u.locs.flatten.map fun p => tget 0 u.got p), done := true } }).agDrain r n (2 * a.units.length + 2) := by
  simp only [State.agLoaded, hslot, if_pos hlines]

theorem State.setPort_rings (s : State) (gk key : Nat) (p : Port) : (s.setPort gk key p).rings = s.rings := by
  unfold State.setPort
  split <;> rfl

/-- A storer that ends keeps its requests, and writes no memory (R149, R150). -/
theorem State.agFinish_store (hb : (s.ag r n).bound = some (gk, key, role)) (hd : (s.ag r n).desc = some d) (hst : d.store = true) :
    ((s.agFinish r n).ag r n).units = (s.ag r n).units ∧ (s.agFinish r n).mem = s.mem := by
  have hset (b : Ag) (p : Port) : ((s.setAg r n b).setPort gk key p).ag r n = b := by
    rw [State.ag, State.ring, State.setPort_rings]
    exact s.ag_setAg_same r n b
  simp only [State.agFinish, hb, hd, hst, if_true]
  split
  · exact ⟨rfl, rfl⟩
  · split
    · exact ⟨rfl, rfl⟩
    · split
      · exact ⟨(congrArg Ag.units (hset ..)).trans rfl, State.setPort_mem ..⟩
      · exact ⟨(congrArg Ag.units (State.ag_setAg_same ..)).trans rfl, rfl⟩

/-- The byte that a part of a storer's request leaves at each of its places: that of the last element that goes there (R113, R133). -/
def AgUnit.lastBytes (u : AgUnit) (ps : List (Nat × MemAttr)) : List Byte :=
  ps.map fun p => (((u.places.zip u.bytes).reverse.find? fun x => x.1.1 == p.1).map (·.2)).getD 0

/-- A request of which a part has been written (R105). -/
def AgUnit.written (u : AgUnit) (ps : List (Nat × MemAttr)) : AgUnit := { u with got := ps.foldl (fun t p => tput t p.1 0) u.got }

/-- A part of a storer's request that is written: the request goes with its last part, and no other byte of memory changes (R105, R113). -/
theorem State.agWritePart_written {t : State} {i : Nat} {ps : List (Nat × MemAttr)} (hb : (s.ag r n).bound = some (gk, key, role))
    (hd : (s.ag r n).desc = some d) (hst : d.store = true) (hw : s.writeAt (.engines r) true [] ps (u.lastBytes ps) = .ok t) :
    let t' := s.agWritePart gk r n i d u ps
    (t'.ag r n).units = (if (u.written ps).rest.isEmpty then (s.ag r n).units.eraseIdx i else (s.ag r n).units.set i (u.written ps)) ∧
      t'.mem = t.mem := by
  have hag : t.ag r n = s.ag r n := by rw [State.ag, (KeepsAgents.writeAt hw).ring, State.ag]
  obtain ⟨m, hpart⟩ : ∃ m, s.agWritePart gk r n i d u ps = if !(u.written ps).rest.isEmpty then
        t.setAg r n { s.ag r n with units := (s.ag r n).units.set i (u.written ps) }
      else
        let b : Ag := { s.ag r n with units := (s.ag r n).units.eraseIdx i, delivered := m }
        if d.mode ≠ 2 ∧ d.walk ≤ b.issued ∧ b.units.isEmpty then (t.setAg r n b).agFinish r n else t.setAg r n b := by
    have hw' := hw
    rw [AgUnit.lastBytes] at hw'
    simp only [State.agWritePart, hw', hag, State.ag_setAg_same]
    exact ⟨_, rfl⟩
  intro t'
  rw [show t' = _ from hpart]
  cases hrest : (u.written ps).rest.isEmpty with
  | false => exact ⟨congrArg Ag.units (State.ag_setAg_same ..), rfl⟩
  | true =>
    simp only [Bool.not_true, Bool.false_eq_true, if_false, if_true]
    split
    · obtain ⟨hunits, hmem⟩ := State.agFinish_store (s := t.setAg r n { s.ag r n with
        units := (s.ag r n).units.eraseIdx i, delivered := m })
        (r := r) (n := n) (by rw [State.ag_setAg_same]; exact hb) (by rw [State.ag_setAg_same]; exact hd) hst
      exact ⟨hunits.trans (congrArg Ag.units (State.ag_setAg_same ..)), hmem⟩
    · exact ⟨congrArg Ag.units (State.ag_setAg_same ..), rfl⟩

theorem exec_agLineCompletion_write (hb : (s.ag r n).bound = some (gk, key, role)) (hd : (s.ag r n).desc = some d)
    (hu : (s.ag r n).units[k % 128]? = some u) (hdone : u.done = false) (hst : d.store = true)
    (hbehind : (s.ag r n).behind (k % 128) (u.pick (k / 128)) = false) :
    exec (.agLineCompletion r n k) s = .next (s.agWritePart gk r n (k % 128) d u (u.pick (k / 128))) := by
  show execAgLineCompletion r n k s = _
  simp only [execAgLineCompletion, hb, hd, hu, hdone, hst, hbehind, Bool.false_eq_true, if_false, if_true]

end

/-- The held requests of a die without those of a VF (R373). -/
def Die.heldOthers (x : Die) (vf : Nat) : List PrqReq := x.held.filter fun h => h.vf ≠ vf

/-- A die whose held request i, q, has been placed: those of its VF stay in front (R373; log 119). -/
def Die.heldPlaced (x : Die) (i : Nat) (q : PrqReq) : List PrqReq := (x.held.eraseIdx i).filter (fun h => h.vf == q.vf) ++ x.heldOthers q.vf

def Die.dropHeld (x : Die) (vf : Nat) : Die := { x with held := x.heldOthers vf }

section
variable {s : State} {d i : Nat} {q : PrqReq}

theorem exec_prqHeldPlacement_some (hi : (s.die d).placeable = some i) (hq : (s.die d).held[i]? = some q) :
    exec (.prqHeldPlacement d) s = .next (((s.setDie d ((s.die d).dropHeld q.vf)).placeReq d q).updDie d fun y =>
      { y with held := ((s.die d).held.eraseIdx i).filter (fun h => h.vf == q.vf) ++ y.held }) := by
  show execPrqHeldPlacement d s = _
  simp only [execPrqHeldPlacement, hi, hq]
  rfl

/-- A request whose page has an entry merges with it (R373). -/
theorem State.placeReq_merge {x : Die} {e : Nat} {p : PrqReq} (hx : s.die d = x) (h : (x.prq.find? fun e => e.2.sameAs q) = some (e, p)) :
    s.placeReq d q = s.updDie d fun x =>
      { x with prq := tput x.prq e { p with wr := p.wr || q.wr, rd := p.rd || q.rd, waiters := p.waiters ++ q.waiters } } := by
  subst hx
  simp only [State.placeReq, h]
  rfl

/-- A request whose page has no entry takes a free one, where none of its VF is held (R373, R374). -/
theorem State.placeReq_new {x : Die} {e : Nat} (hx : s.die d = x) (h : (x.prq.find? fun e => e.2.sameAs q) = none)
    (hfree : freeEntry x.prq q.vf = some e) (hheld : (x.held.any fun h => h.vf == q.vf) = false) :
    s.placeReq d q = s.newEntry d e q := by
  subst hx
  simp only [State.placeReq, h, hfree, hheld]

theorem State.newEntry_updDie (s : State) (d e : Nat) (q : PrqReq) :
    ∃ (h : Die → List W64) (c : Die → Tab W64), s.newEntry d e q = s.updDie d fun x =>
      { x with prq := tput x.prq e { q with st := .new, stamp := nextStamp (s.die d).prq }, hevt := h x, csr := c x } := by
  let new (x : Die) : Die := { x with prq := tput x.prq e { q with st := .new, stamp := nextStamp (s.die d).prq } }
  obtain ⟨h, c, hpost⟩ := (s.updDie d new).post_updDie d 2 q.vf e q.ring
  exact ⟨fun x => h (new x), fun x => c (new x), hpost.trans (State.updDie_updDie ..)⟩

/-- A die of its own state takes a new one, and nothing else changes. -/
theorem State.updDie_setDie (s : State) (d : Nat) (x : Die) (f : Die → Die) : (s.setDie d x).updDie d f = s.updDie d fun _ => f x :=
  State.updDie_updDie s d (fun _ => x) f

theorem exec_prqHeldPlacement_merge {e : Nat} {p : PrqReq} (hi : (s.die d).placeable = some i) (hq : (s.die d).held[i]? = some q)
    (h : ((s.die d).prq.find? fun e => e.2.sameAs q) = some (e, p)) :
    ∃ t, exec (.prqHeldPlacement d) s = .next t ∧ OnlyDie d s t ∧ (t.die d).held = (s.die d).heldPlaced i q ∧
      (t.die d).prq = tput (s.die d).prq e { p with wr := p.wr || q.wr, rd := p.rd || q.rd, waiters := p.waiters ++ q.waiters } := by
  refine ⟨_, exec_prqHeldPlacement_some hi hq, ?_⟩
  rw [State.placeReq_merge (x := (s.die d).dropHeld q.vf) (State.die_setDie_same ..) h, State.updDie_setDie, State.updDie_updDie]
  refine ⟨onlyDie_updDie s d _, ?_, ?_⟩
  · rw [State.die_updDie_same]
    rfl
  · rw [State.die_updDie_same]
    rfl

theorem exec_prqHeldPlacement_new {e : Nat} (hi : (s.die d).placeable = some i) (hq : (s.die d).held[i]? = some q)
    (h : ((s.die d).prq.find? fun e => e.2.sameAs q) = none) (hfree : freeEntry (s.die d).prq q.vf = some e) :
    ∃ t, exec (.prqHeldPlacement d) s = .next t ∧ OnlyDie d s t ∧ (t.die d).held = (s.die d).heldPlaced i q ∧
      (t.die d).prq = tput (s.die d).prq e { q with st := .new, stamp := nextStamp (s.die d).prq } := by
  have hnone : (((s.die d).heldOthers q.vf).any fun h => h.vf == q.vf) = false := by
    simp [Die.heldOthers]
  refine ⟨_, exec_prqHeldPlacement_some hi hq, ?_⟩
  obtain ⟨ev, c, hnew⟩ := (s.setDie d ((s.die d).dropHeld q.vf)).newEntry_updDie d e q
  rw [State.placeReq_new (x := (s.die d).dropHeld q.vf) (State.die_setDie_same ..) h hfree hnone, hnew, State.updDie_setDie, State.updDie_updDie]
  refine ⟨onlyDie_updDie s d _, ?_, ?_⟩
  · rw [State.die_updDie_same]
    rfl
  · rw [State.die_updDie_same, State.die_setDie_same]
    rfl

end

/-- The comparator's registers follow from the group's slots and the clock of writes alone (R113, R115). -/
theorem State.cairnCtx_congr {s t : State} (hr : t.rings = s.rings) (hfree : t.free = s.free) (g : Group) (c : Cairn) :
    t.cairnCtx g c = s.cairnCtx g c := by
  have hring (r : Nat) : t.ring r = s.ring r := by rw [State.ring, hr, State.ring]
  have hplen : t.plen g = s.plen g := by simp [State.plen, State.slotCounts, hring]
  have hplace := State.slotPlace_congr (s := s) (t := t) fun r => by rw [hring]
  simp only [State.cairnCtx, State.ringOfV, hfree, hplen, hplace]

theorem State.engLinked_free (s : State) (c : XCtx) (l : List (W64 × Nat)) : (s.engLinked c l).free = s.free := by
  unfold State.engLinked
  refine List.foldlRecOn (motive := fun st : State => st.free = s.free) l _ rfl fun st hst x _ => Eq.trans ?_ hst
  cases s.spanPlaces c .load x.1 x.2 <;> rfl

/-- The work that a group's cairns have next: the cairn, its region, and the tile to decide, if one is staged (R176). -/
def State.nextTile (s : State) (g : Group) : Option (Nat × Cairn × Region × Option Nat) :=
  g.cairns.zipIdx.findSome? fun x => (s.cairnRegion g x.1).bind fun rg => (x.1.work rg).map fun w => (x.2, x.1, rg, w)

section
variable {s u v x : State} {gk : Nat} {g : Group} {c : Cairn} {rg : Region} {i k : Nat} {t : CairnTile} {old age mw : List Byte}

/-- The oldest undecided tile is decided by its signature, and its record, its age and its map bit are written (R173, R176). -/
theorem exec_tileDecision_decides (hg : s.group? gk = some g) (hm : g.mark = none) (hnext : s.nextTile g = some (i, c, rg, some k))
    (ht : c.tiles[k]? = some t) (hcarried : (c.carried.find? fun d => d.1 == t.tile) = none) :
    let mapVa := rg.mapAt c.step + BitVec.ofNat 64 (8 * (t.tile / 64))
    let new := rg.signature (rg.elements t.words)
    let w := s.cairnCtx g c
    let b := s.engLinked w [(rg.sigAt t.tile, 64), (rg.ageAt t.tile, 1), (mapVa, 8)]
    let skip := rg.skips (leNat age) new (sigOf old)
    s.engRead w (rg.sigAt t.tile) 64 = .ok old → s.engRead w (rg.ageAt t.tile) 1 = .ok age → s.engRead w mapVa 8 = .ok mw →
    (if skip then Except.ok b else b.engPut false w (rg.sigAt t.tile) (sigBytes new)) = .ok u →
    u.engPut false w (rg.ageAt t.tile) [if skip then BitVec.ofNat 8 (leNat age + 1) else 0] = .ok v →
    v.engPut false w mapVa (mapWord mw (t.tile % 64) (rg.mapBits t.tile skip)) = .ok x →
    exec (.tileDecision gk) s = .next (x.decideTile gk i k skip) := by
  intro mapVa new w b skip hold hage hmap hsig hput hlast
  have hctx : b.cairnCtx g c = w := State.cairnCtx_congr (KeepsAgents.engLinked ..).rings (State.engLinked_free ..) g c
  change b.cairnCtx g c = _ at hctx
  unfold State.nextTile at hnext
  show execTileDecision gk s = _
  simp only [execTileDecision, hg, hm, hnext, ht, hcarried, Option.bind_some, Option.isSome_none, Bool.false_eq_true, if_false]
  simp only [show s.engRead (s.cairnCtx g c) (rg.sigAt t.tile) 64 = _ from hold, show s.engRead (s.cairnCtx g c) (rg.ageAt t.tile) 1 = _ from hage,
    show s.engRead (s.cairnCtx g c) (rg.mapAt c.step + BitVec.ofNat 64 (8 * (t.tile / 64))) 8 = _ from hmap]
  change (match (if skip then Except.ok b else b.engPut false (b.cairnCtx g c) (rg.sigAt t.tile) (sigBytes new)) with
    | .error _ => _
    | .ok s1 => match s1.engPut false (b.cairnCtx g c) (rg.ageAt t.tile) [if skip then BitVec.ofNat 8 (leNat age + 1) else 0] with
      | .error _ => _
      | .ok s2 => match s2.engPut false (b.cairnCtx g c) mapVa (mapWord mw (t.tile % 64) (rg.mapBits t.tile skip)) with
        | .error _ => _
        | .ok s3 => _) = _
  simp only [hctx, hsig, hput, hlast]
  rfl

end

/-- Settles O53: a request by `State.agIssue`, its parts by `State.agGot` and `State.agWritePart`, a held page request by the die's queue, and a tile
by its signature. -/
theorem generatorEvents : Obligations.GeneratorEvents := by
  unfold Obligations.GeneratorEvents
  refine ⟨?_, ?_, ?_, ?_, ?_, ?_, ?_, ?_⟩
  case refine_1 =>
    intro s r n gk key role d g hb hd hg hended hfault hlen hfz hheld hmark hidx hstep hwalk hload hpair a els
    have hexec {u : State} (h : s.agIssue gk r n (s.ag r n) d = some u) : exec (.agLineRequest r n) s = .next u := by
      show execAgLineRequest r n s = _
      rw [execAgLineRequest, State.agTry_issue hb hd hg hended hfault hlen hfz hheld hmark hidx hstep hwalk hload hpair, h]
      rfl
    exact ⟨fun hz hne pls hok => hexec (State.agIssue_line hz hne hok),
      fun hz hst va ps hva hok => hexec (State.agIssue_slot_load hz hst hva hok),
      fun hz hst hgiven va ps hva hok => hexec (State.agIssue_slot_store hz hst hgiven hva hok)⟩
  case refine_2 =>
    intro s r n k gk key role d u l hb hd hu hdone hst hrest hbehind hread a ps u1 u2 x w
    have hexec := exec_agLineCompletion_read hb hd hu hdone hst hrest hbehind hread
    refine ⟨fun hmore => hexec.trans (congrArg _ (if_neg hmore)), fun hlast hslot => hexec.trans (congrArg _ ((if_pos hlast).trans ?_))⟩
    exact State.agLoaded_line _ gk r n (k % 128) hslot
  case refine_3 =>
    intro s r n k gk key role d u va lines hb hd hu hdone hst hrest hbehind hslot hlines u2
    rw [exec_agLineCompletion_loaded hb hd hu hdone hst hrest hbehind, State.agLoaded_slot s gk r n (k % 128) hslot hlines]
  case refine_4 =>
    intro s r n k gk key role d u t hb hd hu hdone hst hbehind ps hw u1
    obtain ⟨hunits, hmem⟩ := State.agWritePart_written (i := k % 128) hb hd hst hw
    refine ⟨_, exec_agLineCompletion_write hb hd hu hdone hst hbehind, hunits, fun p hp => ?_⟩
    exact (congrArg (tget 0 · p) hmem).trans (State.byte_writeAt_out hw hp)
  case refine_5 =>
    intro s r n k gk key role d u hb hd hu hdone
    exact exec_agLineCompletion_done hb hd hu hdone
  case refine_6 =>
    intro s d i q hi hq held
    exact ⟨fun e p h => exec_prqHeldPlacement_merge hi hq h, fun e h hfree => exec_prqHeldPlacement_new hi hq h hfree⟩
  case refine_7 =>
    intro s gk g c rg i k t old age mw skip u v x hg hm hnext ht hcarried mapVa new w b hold hage hmap hskip hsig hput hlast
    subst hskip
    exact exec_tileDecision_decides hg hm hnext ht hcarried hold hage hmap hsig hput hlast
  case refine_8 =>
    intro s gk g hg hm
    show execTileDecision gk s = _
    simp only [execTileDecision, hg, Option.isSome_iff_ne_none.mpr hm, if_true]

end Sys2Proof.Machine
end

section
/-! The copy units: copies are accepted and completed, billets fire, tokens wake, and peers' accesses arrive (R119, R162 to R169, R285). -/

namespace Sys2Proof.Machine

/-- The queue-pair entry that a copy reads at its acceptance, if it has to read one (R421; log 122). -/
def State.copyEntry (s : State) (r : Nat) (j : CopyJob) : Except EngErr (Option (List Byte)) :=
  if j.desc.remote ∧ j.err.isNone then s.qpEntry j.x (s.vfNum r) j.desc.qp else .ok (some [])

/-- A copy as it joins those in progress (R163, R164). -/
def CopyJob.accepted (j : CopyJob) (promise : W64) : CopyJob := { j with promise := promise, rd := none, dead := [], err := none }

/-- A ring whose copy unit takes a copy (R163, R164). -/
def Ring.tookCopy (x : Ring) (j : CopyJob) (backlog : Tab Nat) : Ring := { x with backlog := backlog, copies := x.copies ++ [j] }

section
variable {s : State} {r : Nat} {j : CopyJob}

theorem exec_copyAccept_ready {rest : List CopyJob} (hheld : s.copyHeld r = false) (hready : (s.ring r).copyReady = j :: rest) (hj : j.held = false) :
    exec (.copyAccept r) s = .next ((s.updRing r fun x => { x with copyReady := rest }).acceptCopy r j) := by
  have hstill : s.copyStill r = false := (Bool.or_eq_false_iff.mp hheld).1
  show execCopyAccept r s = _
  simp only [execCopyAccept, hready, hj, hheld, hstill, ite_self, Bool.or_self, Bool.false_eq_true, if_false]

theorem State.acceptCopy_none (h : s.copyEntry r j = .ok none) : s.acceptCopy r j = s.refuseCopy r j.id j.src j.set j.rd errDesc := by
  unfold State.copyEntry at h
  simp only [State.acceptCopy, h]

/-- A copy whose queue-pair entry is good is refused, or joins the copies in progress (R163, R168). -/
theorem State.acceptCopy_some {l : List Byte} (h : s.copyEntry r j = .ok (some l)) :
    let w := if l.isEmpty then s else s.engLinked j.x [s.qpSpan (s.vfNum r) j.desc.qp]
    (∀ e, w.acceptErr r j = some e → s.acceptCopy r j = w.refuseCopy r j.id j.src j.set j.rd e) ∧
      (w.acceptErr r j = none → j.desc.mc = false → s.acceptCopy r j = (w.putReg r j.rd (w.promise r j.x j.desc).1).updRing r fun x =>
        x.tookCopy (j.accepted (w.promise r j.x j.desc).1) (w.promise r j.x j.desc).2) := by
  intro w
  unfold State.copyEntry at h
  have haccept : s.acceptCopy r j = match w.acceptErr r j with
      | some e => w.refuseCopy r j.id j.src j.set j.rd e
      | none =>
        let b := ((w.putReg r j.rd (w.promise r j.x j.desc).1).updRing r fun x => { x with backlog := (w.promise r j.x j.desc).2 }).branches r j
        b.1.updRing r fun x => { x with copies := x.copies ++ [{ j with
          promise := (w.promise r j.x j.desc).1, rd := none, dead := b.2.1, err := if b.2.2 then some errBranch else none }] } := by
    simp only [State.acceptCopy, h]
    rfl
  refine ⟨fun e he => ?_, fun he hmc => ?_⟩
  · rw [haccept, he]
  · simp only [haccept, he, State.branches, hmc, Bool.not_false, if_true, Bool.false_eq_true, if_false, State.updRing_updRing]
    rfl

/-- The register that a copy's promise goes to (R283). -/
theorem State.ring_putReg (s : State) (r : Nat) (rd : Option (BitVec 5)) (v : W64) :
    ∃ q, (s.putReg r rd v).ring r = { s.ring r with seq := q } ∧ ∀ d, rd = some d → d ≠ 0 → tget 0 q.x d.toNat = v := by
  cases rd with
  | none => exact ⟨(s.ring r).seq, rfl, fun d h => nomatch h⟩
  | some i =>
    simp only [State.putReg]
    split
    case isTrue h0 => exact ⟨(s.ring r).seq, rfl, fun d h hd => absurd ((Option.some.inj h).symm.trans h0) hd⟩
    case isFalse =>
      refine ⟨_, State.ring_updRing_same .., fun d h _ => ?_⟩
      obtain rfl := Option.some.inj h
      exact tget_tput_same ..

/-- A copy that is accepted joins those in progress with its promise (R163, R164). -/
theorem State.acceptCopy_frame {l : List Byte} (h : s.copyEntry r j = .ok (some l)) (hmc : j.desc.mc = false) :
    let w := if l.isEmpty then s else s.engLinked j.x [s.qpSpan (s.vfNum r) j.desc.qp]
    let t := s.acceptCopy r j
    w.acceptErr r j = none → (t.ring r).copies = (s.ring r).copies ++ [j.accepted (w.promise r j.x j.desc).1] ∧
      (t.ring r).copyReady = (s.ring r).copyReady ∧
      (∀ d, j.rd = some d → d ≠ 0 → tget 0 (t.ring r).seq.x d.toNat = (w.promise r j.x j.desc).1) ∧ t.mem = s.mem := by
  intro w t he
  have hw : KeepsAgents s w ∧ w.mem = s.mem := by
    dsimp only [w]
    split
    · exact ⟨KeepsAgents.refl s, rfl⟩
    · exact ⟨KeepsAgents.engLinked .., State.engLinked_mem ..⟩
  obtain ⟨hkeep, hmem⟩ := hw
  obtain ⟨q, hq, hreg⟩ := w.ring_putReg r j.rd (w.promise r j.x j.desc).1
  rw [hkeep.ring] at hq
  have ht : t = _ := (State.acceptCopy_some h).2 he hmc
  have hring : t.ring r = ({ s.ring r with seq := q } : Ring).tookCopy (j.accepted (w.promise r j.x j.desc).1) (w.promise r j.x j.desc).2 := by
    rw [ht, State.ring_updRing_same, ← hq]
  refine ⟨?_, ?_, fun d hd h0 => ?_, ?_⟩
  · rw [hring]
    rfl
  · rw [hring]
    rfl
  · rw [hring]
    exact hreg d hd h0
  · rw [ht]
    exact (State.putReg_mem ..).trans hmem

end

/-- A billet that is armed on a queue with a token (R285). -/
def Ring.billetReady (x : Ring) (e : Nat × Billet) : Bool :=
  match e.2.queue with
  | some q => !(tget [] x.tqs q).isEmpty
  | none => false

/-- What a billet's firing does with the token that it takes (R163, R285). -/
def State.fireBillet (s : State) (r n q : Nat) (b : Billet) (tok : W32) (rest : List W32) : Out :=
  let u := s.updRing r fun y => { y with tqs := tset [] y.tqs q rest }
  let d := b.fire tok.toInt
  if d.ok (s.qpCount (s.vfNum r)) then
    .next (((u.newOp r b.slot).2.force (b.x.acquired (s.ring r).joined).front.wrote).acceptCopy r
      (CopyJob.start (u.newOp r b.slot).1 (.firing n q) d b.slot none (b.x.acquired (s.ring r).joined) none))
  else .next ((u.newOp r b.slot).2.endCopy r (u.newOp r b.slot).1 (.firing n q) b.slot (some errDesc))

/-- A billet fires with no issue of its RSQ pending, or inside a capture for a draining phase (R163; log 118). -/
def State.mayFire (s : State) (r : Nat) : Prop :=
  (s.copyHeld r = false ∧ (s.ring r).copyReady = []) ∨
    ((s.strip (s.ring r).sbase).capture = true ∧ s.tokensDue r = true ∧ s.copyStill r = false)

theorem exec_billetFire_ready {s : State} {r n q : Nat} {b : Billet} {tok : W32} {rest : List W32} (hfire : s.mayFire r)
    (hfind : (s.ring r).billets.find? (s.ring r).billetReady = some (n, b)) (hq : b.queue = some q)
    (htok : tget [] (s.ring r).tqs q = tok :: rest) :
    exec (.billetFire r) s = if (b.slot.map fun i => decide (127 ≤ (s.dep r i).out.length)).getD false then .next s
      else s.fireBillet r n q b tok rest := by
  have hfree : (if (s.strip (s.ring r).sbase).capture && s.tokensDue r then s.copyStill r
      else s.copyHeld r || !(s.ring r).copyReady.isEmpty) = false := by
    rcases hfire with ⟨hheld, hready⟩ | ⟨hcap, hdue, hstill⟩
    · have hcap : (s.strip (s.ring r).sbase).capture = false := (Bool.or_eq_false_iff.mp hheld).2
      simp only [hcap, hheld, hready, Bool.false_and, Bool.false_eq_true, if_false, List.isEmpty_nil, Bool.not_true, Bool.or_self]
    · simp only [hcap, hdue, hstill, Bool.and_self, if_true]
  have hexec : exec (.billetFire r) s = if (if (s.strip (s.ring r).sbase).capture && s.tokensDue r then s.copyStill r
        else s.copyHeld r || !(s.ring r).copyReady.isEmpty) then .next s
      else match (s.ring r).billets.find? (s.ring r).billetReady with
        | none => .next s
        | some (n, b) => match b.queue.map fun q => (q, tget [] (s.ring r).tqs q) with
          | some (q, tok :: rest) => if (b.slot.map fun i => decide (127 ≤ (s.dep r i).out.length)).getD false then .next s
            else s.fireBillet r n q b tok rest
          | _ => .next s := rfl
  simp only [hexec, hfree, hfind, hq, htok, Option.map_some, Bool.false_eq_true, if_false]

/-- A counted operation leaves its slot, with its error if it has one (R268). -/
theorem State.dep_endOp (s : State) (r id i : Nat) (err : Option (BitVec 8)) :
    let x := (s.endOp r id (some i) err).dep r i
    x.out = (s.dep r i).out.erase id ∧ (err = none → x.err = (s.dep r i).err) ∧ (err ≠ none → x.err = true) := by
  intro x
  have hx : x = tget DepSlot.reset ((s.endOp r id (some i) err).ring r).deps i := rfl
  rw [State.endOp, State.ring_updRing_same] at hx
  simp only [tget_tput_same] at hx
  rw [hx]
  cases err with
  | none => exact ⟨rfl, fun _ => rfl, fun h => absurd rfl h⟩
  | some c =>
    refine ⟨?_, fun h => (nomatch h), fun _ => ?_⟩
    · dsimp only
      split <;> rfl
    · dsimp only
      split
      next herr => exact herr
      next => rfl

/-- A copy that ends changes its ring's slots, its flags of failed firings and its error register only (R268, R274, R275). -/
theorem State.endCopy_ringsKeep {α : Type} {f : Ring → α} (hd : ∀ (x : Ring) v, f { x with deps := v } = f x)
    (hf : ∀ (x : Ring) v, f { x with ferr := v } = f x) (hc : ∀ (x : Ring) v, f { x with csr := v } = f x) (s : State) (r id : Nat) (src : CopySrc)
    (set : Option Nat) (err : Option (BitVec 8)) : RingsKeep f s (s.endCopy r id src set err) := by
  have hset (st : State) (n : Nat) (v : W64) : RingsKeep f st (st.setRcsr r n v) := RingsKeep.updRing (hc ..)
  have hasync (st : State) (op : Nat) (c : BitVec 8) : RingsKeep f st (st.asyncErr r op c) := by
    unfold State.asyncErr
    extract_lets v n
    split
    · exact hset st _ _
    · exact hset st _ _
  refine (State.endOp_ringsKeep hd s r id set err).trans ?_
  unfold State.endCopy
  dsimp only
  split
  · split
    · exact hasync _ _ _
    · exact RingsKeep.updRing (hf ..)
  · exact RingsKeep.refl f _

theorem State.endCopy_some (s : State) (r id i : Nat) (src : CopySrc) (err : Option (BitVec 8)) :
    s.endCopy r id src (some i) err = s.endOp r id (some i) err := rfl

/-- A ring one of whose copies completes: a release of what it has written, with its token enqueued (R119, R162, R166). -/
def Ring.finished (x : Ring) (k : Nat) (j : CopyJob) (d : Dep) : Ring :=
  { x with joined := (x.joined.sup j.x.front).acquire 0 d, copies := x.copies.eraseIdx k,
           tqs := if j.desc.tqen = true ∧ j.err.isNone = true then tput x.tqs j.desc.tq (tget [] x.tqs j.desc.tq ++ [j.desc.tok]) else x.tqs }

section
variable {s : State} {r k : Nat} {j : CopyJob}

theorem exec_copyComplete_ended (hk : (s.ring r).copies[k]? = some j) (hend : j.ended = true) (hoff : s.unitOff r = false)
    (hroom : j.desc.tqen = true → j.err = none → (tget [] (s.ring r).tqs j.desc.tq).length < 64) :
    exec (.copyComplete r k) s = .next ((s.updRing r fun x => x.finished k j { near := 0, wrote := [(Agent.code (.engines r), s.free)] }).endCopy
      r j.id j.src j.set j.err) := by
  have hwait : ¬ (j.desc.tqen = true ∧ j.err.isNone = true ∧ 64 ≤ (tget [] (s.ring r).tqs j.desc.tq).length) := fun h =>
    Nat.not_le.mpr (hroom h.1 (Option.isNone_iff_eq_none.mp h.2.1)) h.2.2
  show execCopyComplete r k s = _
  simp only [execCopyComplete, hk, hend, hoff, Bool.not_true, Bool.false_eq_true, or_self, if_false, if_neg hwait, State.opDone,
    State.updRing_updRing]
  by_cases hc : j.desc.tqen = true ∧ j.err.isNone = true
  · rw [if_pos hc]
    refine congrArg (fun u : State => Host.Outcome.next (u.endCopy r j.id j.src j.set j.err)) (State.updRing_congr s r ?_)
    simp only [Ring.finished, if_pos hc]
  · rw [if_neg hc]
    refine congrArg (fun u : State => Host.Outcome.next (u.endCopy r j.id j.src j.set j.err)) (State.updRing_congr s r ?_)
    simp only [Ring.finished, if_neg hc]

/-- A copy that completes leaves those in progress and its slot, and its token is enqueued (R119, R162, R268). -/
theorem State.finished_endCopy_frame (s : State) (r k : Nat) (j : CopyJob) (d : Dep) :
    let t := (s.updRing r fun x => x.finished k j d).endCopy r j.id j.src j.set j.err
    (t.ring r).copies = (s.ring r).copies.eraseIdx k ∧ (t.ring r).joined = ((s.ring r).joined.sup j.x.front).acquire 0 d ∧
      (j.desc.tqen = true → j.err = none → tget [] (t.ring r).tqs j.desc.tq = tget [] (s.ring r).tqs j.desc.tq ++ [j.desc.tok]) ∧
      (∀ i, j.set = some i → (t.dep r i).out = (s.dep r i).out.erase j.id ∧
        (j.err = none → (t.dep r i).err = (s.dep r i).err) ∧ (j.err ≠ none → (t.dep r i).err = true)) ∧ ∀ a, t.byte a = s.byte a := by
  intro t
  let u := s.updRing r fun x => x.finished k j d
  have hu : u.ring r = (s.ring r).finished k j d := State.ring_updRing_same ..
  have hkeep {α : Type} {f : Ring → α} (hd : ∀ (x : Ring) v, f { x with deps := v } = f x) (hf : ∀ (x : Ring) v, f { x with ferr := v } = f x)
      (hc : ∀ (x : Ring) v, f { x with csr := v } = f x) : f (t.ring r) = f ((s.ring r).finished k j d) := by
    rw [State.endCopy_ringsKeep hd hf hc u r j.id j.src j.set j.err r, hu]
  have hcopies := hkeep (f := Ring.copies) (fun _ _ => rfl) (fun _ _ => rfl) fun _ _ => rfl
  have hjoined := hkeep (f := Ring.joined) (fun _ _ => rfl) (fun _ _ => rfl) fun _ _ => rfl
  have htqs := hkeep (f := Ring.tqs) (fun _ _ => rfl) (fun _ _ => rfl) fun _ _ => rfl
  refine ⟨hcopies, hjoined, fun ht he => ?_, fun i hi => ?_, fun a => ?_⟩
  · rw [htqs, Ring.finished, if_pos ⟨ht, by rw [he]; rfl⟩, tget_tput_same]
  · have hdep : u.dep r i = s.dep r i := by rw [State.dep, hu, State.dep]; rfl
    have ht : t = u.endOp r j.id (some i) j.err := by
      show u.endCopy r j.id j.src j.set j.err = _
      rw [hi, State.endCopy_some]
    rw [ht, ← hdep]
    exact u.dep_endOp r j.id i j.err
  · exact congrArg (tget 0 · a) (State.endCopy_mem u r j.id j.src j.set j.err)

/-- A remote copy whose peer does not answer fails, and its queue pair with it (R168). -/
theorem exec_remoteRetryExhausted_remote (hk : (s.ring r).copies[k]? = some j) (hrem : j.desc.remote = true) :
    ∃ t, exec (.remoteRetryExhausted r k) s = .next t ∧ j.desc.qp ∈ (t.vfOf (s.vfNum r)).qpErr ∧
      t = (s.setCopy r k { j.fails errRemote with held := false }).updVf (s.vfNum r) (fun _ => t.vfOf (s.vfNum r)) := by
  let f (v : Vf) : Vf := { v with qpErr := if v.qpErr.contains j.desc.qp then v.qpErr else j.desc.qp :: v.qpErr }
  let u := s.setCopy r k { j.fails errRemote with held := false }
  have hvf : (u.updVf (s.vfNum r) f).vfOf (s.vfNum r) = f (u.vfOf (s.vfNum r)) := State.vfOf_updVf_same ..
  refine ⟨u.updVf (s.vfNum r) f, ?_, ?_, ?_⟩
  · show execRemoteRetryExhausted r k s = _
    simp only [execRemoteRetryExhausted, hk, hrem, Bool.not_true, Bool.false_eq_true, if_false]
    rfl
  · rw [hvf]
    by_cases hq : (u.vfOf (s.vfNum r)).qpErr.contains j.desc.qp = true
    · simpa only [f, if_pos hq] using List.contains_iff_mem.mp hq
    · simp only [f, if_neg hq]
      exact List.mem_cons_self
  · rw [hvf]
    rfl

/-- A peer's access whose queue pair answers, and that its entry lets succeed (R167, R168). -/
theorem State.arrival_ok {vf qp : Nat} {l : List Byte} {u : State} (hr : s.arrivalRing vf qp = some r)
    (hl : s.qpEntry (s.issueCtx r .s) vf qp = .ok (some l)) {access : State → Nat → List Byte → Except EngErr State}
    (h : access (s.engLinked (s.issueCtx r .s) [s.qpSpan vf qp]) r l = .ok u) : s.arrival vf qp access = u := by
  simp only [State.arrival, hr, hl, h]

theorem State.arrival_none {vf qp : Nat} (hr : s.arrivalRing vf qp = none) (access : State → Nat → List Byte → Except EngErr State) :
    s.arrival vf qp access = s := by
  simp only [State.arrival, hr]

/-- A token at a ring whose clock is gated waits in the edge FIFO, and wakes the ring (R426, R427). -/
theorem exec_tokenWake_gated {q : Nat} {tok : W32} (hp : (s.ring r).power = 3) (hn : (s.ring r).powerNext = none)
    (hroom : (s.ring r).edge.length < 16) :
    exec (.tokenWake r q tok) s = .next (s.updRing r fun x => { x with edge := x.edge ++ [(q % 16, tok)], powerNext := some 2 }) := by
  show execTokenWake r q tok s = _
  simp only [execTokenWake, State.sendToken, hp, hn, hroom, Nat.reduceLeDiff, true_or, if_true, if_false, Option.isNone_none, and_self,
    State.updRing]

end

/-- Settles O54: a copy joins by `Ring.tookCopy` and leaves by `Ring.finished`, a billet fires by `State.fireBillet`, and a peer's access goes by
`State.arrival`. -/
theorem copyEvents : Obligations.CopyEvents := by
  unfold Obligations.CopyEvents
  refine ⟨?_, ?_, ?_, ?_, ?_, ?_, ?_, ?_, ?_⟩
  case refine_1 =>
    intro s r j rest hheld hready hj u entry
    have hexec : exec (.copyAccept r) s = .next (u.acceptCopy r j) := exec_copyAccept_ready hheld hready hj
    have hring : u.ring r = { s.ring r with copyReady := rest } := State.ring_updRing_same ..
    refine ⟨fun h => ?_, fun l h => ⟨fun e he => ?_, fun he hmc => ⟨_, hexec, ?_⟩⟩⟩
    · rw [hexec, State.acceptCopy_none h]
    · rw [hexec, (State.acceptCopy_some h).1 e he]
    · obtain ⟨hcopies, hrest, hreg, hmem⟩ := State.acceptCopy_frame h hmc he
      rw [hring] at hcopies hrest
      exact ⟨hcopies, hrest, hreg, fun k => congrArg (tget 0 · k) hmem⟩
  case refine_2 =>
    intro s r n b q tok rest hfire hfind hq htok u d
    have hexec := exec_billetFire_ready hfire hfind hq htok
    refine ⟨fun hroom => ?_, fun i hi hfull => ?_⟩
    · have hfree : (b.slot.map fun i => decide (127 ≤ (s.dep r i).out.length)).getD false = false := by
        cases hslot : b.slot with
        | none => rfl
        | some i => exact decide_eq_false (Nat.not_le.mpr (hroom i hslot))
      rw [hexec, hfree, State.fireBillet, apply_ite Host.Outcome.next]
      rfl
    · rw [hexec, hi, Option.map_some, Option.getD_some, if_pos (decide_eq_true hfull)]
  case refine_3 =>
    intro s r k j hk hend hoff hroom
    exact ⟨_, exec_copyComplete_ended hk hend hoff hroom, State.finished_endCopy_frame ..⟩
  case refine_4 =>
    intro s r k j hk hrem
    exact exec_remoteRetryExhausted_remote hk hrem
  case refine_5 =>
    intro s vf qp addr data imm r l hr hl w
    refine ⟨fun hno => congrArg _ (State.arrival_ok hr hl (if_pos hno)), fun u hyes hu =>
      congrArg _ (State.arrival_ok hr hl ((if_neg hyes).trans ?_))⟩
    rw [hu]
  case refine_6 =>
    intro s vf qp addr data n r l u hr hl w hu
    exact congrArg _ (State.arrival_ok hr hl hu)
  case refine_7 =>
    intro s vf qp addr n r l bs hr hl w hbs
    refine congrArg _ (State.arrival_ok hr hl (?_ : (match w.engRead (w.issueCtx r .s) addr n with | .error _ => _ | .ok _ => _) = _))
    rw [hbs]
  case refine_8 =>
    intro s vf qp addr data imm wr n hr
    exact ⟨congrArg _ (State.arrival_none hr _), congrArg _ (State.arrival_none hr _)⟩
  case refine_9 =>
    intro s r q tok hp hn hroom
    refine ⟨_, exec_tokenWake_gated hp hn hroom, onlyRing_updRing s r _, ?_⟩
    rw [State.ring_updRing_same]
    exact ⟨rfl, rfl, rfl⟩

end Sys2Proof.Machine
end

section
/-! Places of a group: a slot with its 32 elements, and steps that go over every place of a group (R19, R20, R35). -/

namespace Sys2Proof.Machine

/-- A group slot lies in a ring of the group (R35). -/
theorem splitSlot_lt {l : List Nat} {n : Nat} (h : n < l.sum) : (splitSlot l n).1 < l.length := by
  induction l generalizing n with
  | nil => exact absurd h (Nat.not_lt_zero n)
  | cons c l ih =>
    rw [splitSlot]
    split
    case isTrue => exact Nat.succ_pos _
    case isFalse hn =>
      rw [List.sum_cons] at h
      exact Nat.succ_lt_succ (ih (by omega))

/-- Each group slot has a place of its own (R35). -/
theorem splitSlot_inj {l : List Nat} {n m : Nat} (hn : n < l.sum) (hm : m < l.sum) (h : splitSlot l n = splitSlot l m) : n = m := by
  induction l generalizing n m with
  | nil => exact absurd hn (Nat.not_lt_zero n)
  | cons c l ih =>
    rw [List.sum_cons] at hn hm
    simp only [splitSlot] at h
    by_cases h1 : n < c
    · by_cases h2 : m < c
      · simpa [h1, h2] using h
      · simp [h1, h2] at h
    · by_cases h2 : m < c
      · simp [h1, h2] at h
      · simp only [h1, h2, if_false, Prod.mk.injEq, Nat.add_right_cancel_iff] at h
        have := ih (n := n - c) (m := m - c) (by omega) (by omega) (Prod.ext h.1 h.2)
        omega

variable {s t u : State} {g : Group}

theorem State.slotPlace_mem {gs : Nat} (h : gs < s.plen g) : (s.slotPlace g gs).1 ∈ runOf g.first g.k := by
  have hlt := splitSlot_lt h
  rw [State.slotCounts, List.length_map, List.length_range] at hlt
  exact List.mem_map_of_mem (List.mem_range.mpr hlt)

theorem State.slotPlace_inj {n m : Nat} (hn : n < s.plen g) (hm : m < s.plen g) (h : s.slotPlace g n = s.slotPlace g m) : n = m := by
  obtain ⟨hring, hslot⟩ := Prod.ext_iff.mp h
  exact splitSlot_inj hn hm (Prod.ext (Nat.add_left_cancel hring) hslot)

theorem State.plen_congr (h : ∀ r, (t.ring r).ringp = (s.ring r).ringp) (g : Group) : t.plen g = s.plen g := by
  simp [State.plen, State.slotCounts, h]

/-- A slot and its elements are the same in two states. -/
def SameAt (g : Group) (n : Nat) (s t : State) : Prop := t.slot g n = s.slot g n ∧ ∀ p, p < 32 → t.elem g n p = s.elem g n p

/-- Of a group's rings a step changes one slot and its elements, and of the other rings nothing. -/
structure OnlyPlace (g : Group) (gs : Nat) (s t : State) : Prop where
  ringp : ∀ r, (t.ring r).ringp = (s.ring r).ringp
  ring : ∀ r, r ∉ runOf g.first g.k → t.ring r = s.ring r
  other : ∀ n, n < s.plen g → n ≠ gs → SameAt g n s t

namespace OnlyPlace
variable {gs : Nat}

theorem plen (h : OnlyPlace g gs s t) : t.plen g = s.plen g := State.plen_congr h.ringp g

theorem of_rings (h : t.rings = s.rings) : OnlyPlace g gs s t := by
  have hr (r : Nat) : t.ring r = s.ring r := by rw [State.ring, h, State.ring]
  have hplace (n : Nat) : t.slotPlace g n = s.slotPlace g n := State.slotPlace_congr (fun r => by rw [hr]) g n
  refine ⟨fun r => by rw [hr], fun r _ => hr r, fun n _ _ => ⟨?_, fun p _ => ?_⟩⟩
  · rw [State.slot_eq, State.slot_eq, hplace, hr]
  · rw [State.elem_eq, State.elem_eq, hplace, hr]

theorem refl (g : Group) (gs : Nat) (s : State) : OnlyPlace g gs s s := of_rings rfl

theorem trans (h : OnlyPlace g gs s t) (k : OnlyPlace g gs t u) : OnlyPlace g gs s u := by
  refine ⟨fun r => (k.ringp r).trans (h.ringp r), fun r hr => (k.ring r hr).trans (h.ring r hr), fun n hn hne => ?_⟩
  obtain ⟨hs, he⟩ := h.other n hn hne
  obtain ⟨ks, ke⟩ := k.other n (h.plen.symm ▸ hn) hne
  exact ⟨ks.trans hs, fun p hp => (ke p hp).trans (he p hp)⟩

theorem setSlot (h : gs < s.plen g) (x : Slot) : OnlyPlace g gs s (s.setSlot g gs x) := by
  refine ⟨fun r => State.ringp_updRing s _ _ rfl r, fun r hr => ?_, fun n hn hne => ⟨?_, fun p _ => (KeepsElems.setSlot s g gs x).elem g n p⟩⟩
  · exact State.ring_updRing_ne s _ fun e => hr (e ▸ State.slotPlace_mem h)
  · rw [State.slot_eq, State.slotPlace_setSlot, State.setSlot_eq, State.slot_eq]
    by_cases hr : (s.slotPlace g n).1 = (s.slotPlace g gs).1
    · have hl : (s.slotPlace g n).2 ≠ (s.slotPlace g gs).2 := fun e => hne (State.slotPlace_inj hn h (Prod.ext hr e))
      rw [hr, State.ring_updRing_same]
      exact tget_tput_ne _ _ _ hl
    · rw [State.ring_updRing_ne s _ hr]

theorem setElem {p : Nat} (h : gs < s.plen g) (hp : p < 32) (x : Elem) : OnlyPlace g gs s (s.setElem g gs p x) := by
  refine ⟨fun r => State.ringp_updRing s _ _ rfl r, fun r hr => ?_, fun n hn hne => ⟨(OnlyElems.setElem s g gs p x).slot g n, fun q hq => ?_⟩⟩
  · exact State.ring_updRing_ne s _ fun e => hr (e ▸ State.slotPlace_mem h)
  · rw [State.elem_setElem s g x hp hq, if_neg fun e => hne (State.slotPlace_inj hn h e.1)]

end OnlyPlace

/-- Every element of a slot changes by its position and its own value. -/
def State.mapElems (s : State) (g : Group) (gs : Nat) (f : Nat → Elem → Elem) : State :=
  (List.range 32).foldl (fun st p => st.setElem g gs p (f p (st.elem g gs p))) s

theorem State.mapElems_onlyElems (s : State) (g : Group) (gs : Nat) (f : Nat → Elem → Elem) : OnlyElems s (s.mapElems g gs f) :=
  OnlyElems.foldl (fun st p => OnlyElems.setElem st g gs p _) _ s

/-- The positions below m have changed, the others not yet. -/
theorem State.elem_foldl_setElem (s : State) (g : Group) (gs : Nat) (f : Nat → Elem → Elem) {m q : Nat} (hm : m ≤ 32) (hq : q < 32) :
    ((List.range m).foldl (fun st p => st.setElem g gs p (f p (st.elem g gs p))) s).elem g gs q =
      if q < m then f q (s.elem g gs q) else s.elem g gs q := by
  induction m with
  | zero => rfl
  | succ m ih =>
    rw [List.range_succ, List.foldl_append, List.foldl_cons, List.foldl_nil, State.elem_setElem _ _ _ (by omega) hq]
    by_cases h : q = m
    · subst h
      rw [if_pos ⟨rfl, rfl⟩, ih (by omega), if_neg (Nat.lt_irrefl _), if_pos (Nat.lt_succ_self _)]
    · rw [if_neg fun e => h e.2, ih (by omega)]
      exact if_congr (by omega) rfl rfl

theorem State.elem_mapElems (s : State) (g : Group) (gs : Nat) (f : Nat → Elem → Elem) {q : Nat} (hq : q < 32) :
    (s.mapElems g gs f).elem g gs q = f q (s.elem g gs q) := by
  rw [State.mapElems, State.elem_foldl_setElem s g gs f (Nat.le_refl 32) hq, if_pos hq]

theorem OnlyPlace.mapElems {gs : Nat} (h : gs < s.plen g) (f : Nat → Elem → Elem) : OnlyPlace g gs s (s.mapElems g gs f) := by
  refine List.foldlRecOn (motive := fun st => OnlyPlace g gs s st) _ _ (OnlyPlace.refl g gs s) fun st hst p hp => hst.trans ?_
  exact OnlyPlace.setElem (hst.plen.symm ▸ h) (List.mem_range.mp hp) _

/-- A step for each place of a group, in order: each place comes to its step as it was at the beginning, and what the step makes of it
stays. -/
theorem foldl_places {σ : Type} {P : Nat} {proj : σ → State} {step : σ → Nat → σ} {Inv : Nat → σ → Prop} {Pre Post : Nat → State → Prop}
    (hpre : ∀ n u v, SameAt g n u v → Pre n u → Pre n v) (hpost : ∀ n u v, SameAt g n u v → Post n u → Post n v)
    (hstep : ∀ m a, m < P → (proj a).plen g = P → (∀ r, ((proj a).ring r).ringp = (s.ring r).ringp) → Inv m a → Pre m (proj a) →
      Inv (m + 1) (step a m) ∧ OnlyPlace g m (proj a) (proj (step a m)) ∧ Post m (proj (step a m)))
    (a : σ) (h0 : Inv 0 a) (hlen : (proj a).plen g = P) (hringp : ∀ r, ((proj a).ring r).ringp = (s.ring r).ringp)
    (hall : ∀ n, n < P → Pre n (proj a)) :
    let b := (List.range P).foldl step a
    Inv P b ∧ (proj b).plen g = P ∧ (∀ r, ((proj b).ring r).ringp = (s.ring r).ringp) ∧
      (∀ r, r ∉ runOf g.first g.k → (proj b).ring r = (proj a).ring r) ∧ ∀ n, n < P → Post n (proj b) := by
  suffices h : ∀ m, m ≤ P → let b := (List.range m).foldl step a
      Inv m b ∧ (proj b).plen g = P ∧ (∀ r, ((proj b).ring r).ringp = (s.ring r).ringp) ∧
        (∀ r, r ∉ runOf g.first g.k → (proj b).ring r = (proj a).ring r) ∧ (∀ n, n < P → m ≤ n → Pre n (proj b)) ∧
        ∀ n, n < m → Post n (proj b) by
    obtain ⟨hinv, hl, hrp, hring, -, hdone⟩ := h P (Nat.le_refl P)
    exact ⟨hinv, hl, hrp, hring, hdone⟩
  intro m
  induction m with
  | zero => exact fun _ => ⟨h0, hlen, hringp, fun _ _ => rfl, fun n hn _ => hall n hn, fun n hn => absurd hn (Nat.not_lt_zero n)⟩
  | succ m ih =>
    intro hm b
    obtain ⟨hinv, hl, hrp, hring, htodo, hdone⟩ := ih (by omega)
    have hb : b = step ((List.range m).foldl step a) m := by
      show (List.range (m + 1)).foldl step a = _
      rw [List.range_succ, List.foldl_append, List.foldl_cons, List.foldl_nil]
    obtain ⟨hinv', honly, hthis⟩ := hstep m _ hm hl hrp hinv (htodo m hm (Nat.le_refl m))
    rw [hb]
    refine ⟨hinv', honly.plen.trans hl, fun r => (honly.ringp r).trans (hrp r), fun r hr => (honly.ring r hr).trans (hring r hr), fun n hn hmn => ?_,
      fun n hn => ?_⟩
    · exact hpre n _ _ (honly.other n (hl.symm ▸ hn) (by omega)) (htodo n hn (by omega))
    · by_cases h : n = m
      · exact h ▸ hthis
      · exact hpost n _ _ (honly.other n (by omega) h) (hdone n (by omega))

end Sys2Proof.Machine
end

section
/-! Items enter the fabric and their slots (R37, R43, R65, R71). -/

namespace Sys2Proof.Machine

/-- An element as an item time begins in its slot: its pass register takes the boundary, and a sweep's first item reseeds it (R65, R71). -/
def Group.enterElem (g : Group) (v : Nat) (item : Option Item) (p : Nat) (e : Elem) : Elem :=
  let reseed := match item with
    | some it => g.img.n != 0 && it.n % g.img.n == 0
    | none => false
  let sweep := match item with
    | some it => if g.img.n = 0 then 0 else it.n / g.img.n
    | none => 0
  let bnd := match item with
    | some it => it.bnd
    | none => []
  { e with pass := bnd.getD p 0, lfsr := if reseed && !isMe p then lfsrSeed g.img.seed v p sweep else e.lfsr }

/-- The item as it stands in a slot: where its stripe steers, its own number is its tag (R242, R243). -/
def Group.tagged (g : Group) (v : Nat) (it : Item) : Item := if g.steers v then { it with tag := some (BitVec.ofNat 16 it.n) } else it

section
variable {s : State} {gk gs v : Nat} {g : Group}

theorem State.enterItem_empty (hg : s.group? gk = some g) (hv : (s.slot g gs).v = none) (item : Option Item) :
    s.enterItem gk gs item = s.setSlot g gs { s.slot g gs with item := item } := by
  simp only [State.enterItem, hg, hv]

/-- A slot in which an item time has begun, with an item or with none, and no port was gated. -/
def State.entered (s : State) (g : Group) (gs v : Nat) (item : Option Item) : State :=
  (s.mapElems g gs (g.enterElem v item)).setSlot g gs { s.slot g gs with item := item.map (g.tagged v) }

/-- An item time that begins in a slot without gated ports (R65, R71, R143). -/
theorem State.enterItem_ungated (hg : s.group? gk = some g) (hv : (s.slot g gs).v = some v) (h0 : g.gated v 0 = false) (h1 : g.gated v 1 = false)
    (item : Option Item) : s.enterItem gk gs item = s.entered g gs v item := by
  have hports : [0, 1].filter (fun p => g.gated v p) = [] := by simp [h0, h1]
  unfold State.enterItem State.entered State.mapElems Group.enterElem
  cases item with
  | none => simp only [hg, hv, hports, List.foldl_nil, Bool.false_and, Bool.false_eq_true, if_false, Option.map_none]
  | some it => simp only [hg, hv, hports, List.foldl_nil, Option.map_some, Group.tagged]

theorem State.group?_setSlot (s : State) (g : Group) (gs : Nat) (x : Slot) (gk : Nat) : (s.setSlot g gs x).group? gk = s.group? gk := rfl

theorem State.elem_setSlot (s : State) (g : Group) (gs : Nat) (x : Slot) (n p : Nat) : (s.setSlot g gs x).elem g n p = s.elem g n p :=
  (KeepsElems.setSlot s g gs x).elem g n p

theorem State.group?_entered (s : State) (g : Group) (gs v : Nat) (item : Option Item) (gk : Nat) :
    (s.entered g gs v item).group? gk = s.group? gk := by
  rw [State.entered, State.group?_setSlot, (s.mapElems_onlyElems g gs (g.enterElem v item)).group]

theorem OnlyElems.mem {s t : State} (h : OnlyElems s t) : t.mem = s.mem := by rw [h.rest]

theorem State.mem_entered (s : State) (g : Group) (gs v : Nat) (item : Option Item) : (s.entered g gs v item).mem = s.mem := by
  rw [State.entered, State.setSlot_mem, (s.mapElems_onlyElems g gs (g.enterElem v item)).mem]

theorem State.slot_entered (s : State) (g : Group) (gs v : Nat) (item : Option Item) :
    (s.entered g gs v item).slot g gs = { s.slot g gs with item := item.map (g.tagged v) } := by
  rw [State.entered, State.slot_setSlot_same]

theorem State.elem_entered (s : State) (g : Group) (gs v : Nat) (item : Option Item) {p : Nat} (hp : p < 32) :
    (s.entered g gs v item).elem g gs p = g.enterElem v item p (s.elem g gs p) := by
  rw [State.entered, State.elem_setSlot, State.elem_mapElems _ _ _ _ hp]

theorem OnlyPlace.entered (h : gs < s.plen g) (v : Nat) (item : Option Item) : OnlyPlace g gs s (s.entered g gs v item) :=
  (OnlyPlace.mapElems h _).trans (OnlyPlace.setSlot ((OnlyPlace.mapElems h _).plen.symm ▸ h) _)

end

/-- Whether an item may enter the first group slot now (R37, R43). -/
def State.mayEnter (s : State) (g : Group) : Prop :=
  (s.slot g 0).item = none ∧ (g.started = false ∨ (g.img.ii ≠ 0 ∧ g.t % g.img.ii = 0)) ∧ g.draining = false ∧ g.hold = 0 ∧ s.agHeld g = false

section
variable {s : State} {gk : Nat} {g : Group}

theorem State.mayEnter_open (h : s.mayEnter g) :
    ((s.slot g 0).item.isNone && (!g.started || (g.img.ii != 0 && g.t % g.img.ii == 0)) && !g.draining && g.hold == 0 && !s.agHeld g) = true := by
  obtain ⟨hempty, htime, hdrain, hhold, hag⟩ := h
  have htime' : (!g.started || (g.img.ii != 0 && g.t % g.img.ii == 0)) = true := by
    rcases htime with hst | ⟨hii, ht⟩
    · simp [hst]
    · simp [hii, ht]
  rw [htime', hempty, hdrain, hhold, hag]
  rfl

/-- A group without Cairn work gets no credit (R139, R176). -/
theorem State.creditTile_none (hg : s.group? gk = some g) (hcairns : g.cairns = []) : s.creditTile gk = s := by
  simp only [State.creditTile, hg, hcairns, List.length_nil, List.range_zero, List.foldl_nil]

/-- The next item of a pass after the first comes from the wrap buffer (R44). -/
theorem State.itemAdmission_wrap {it : Item} {rest : List Item} (hg : s.group? gk = some g) (h : s.mayEnter g) (hcairns : g.cairns = [])
    (hpass : g.pass ≠ 0) (hwrap : g.wrap = it :: rest) (hit : it.pass = g.pass) (hitems : g.passItems ≠ 0) :
    s.itemAdmission gk = (s.setGroup gk { g with wrap := rest, passItems := g.passItems + 1 }).takeIn gk it := by
  unfold State.itemAdmission
  simp only [State.creditTile_none hg hcairns, ite_self, hg, State.mayEnter_open h, hwrap, hpass, hit, hitems, Bool.not_true, Bool.false_eq_true,
    if_false, ne_eq, not_true_eq_false, false_and]

/-- The next item of pass 0 comes from the input ports, and is counted (R36, R43). -/
theorem State.itemAdmission_first (hg : s.group? gk = some g) (h : s.mayEnter g) (hcairns : g.cairns = []) (hpass : g.pass = 0)
    (hclosed : g.closed = false) (hfinal : g.final = false) (hpre : g.preempt = false) (hready : s.passReady gk 0 = true) :
    s.itemAdmission gk =
      ((s.setGroup gk { g with admitted := g.admitted + 1, sweepItems := g.sweepItems + 1, passItems := g.passItems + 1,
                               closed := decide (g.sweepItems + 1 = g.img.n) || decide (g.count ≤ g.counted + 1) }).updRec
        g.issuer g.serial fun q => { q with items := g.admitted + 1 + g.credited }).takeIn gk
          { n := g.admitted, pass := 0, tag := none, void := false, marks := [], bnd := [] } := by
  unfold State.itemAdmission
  simp only [State.creditTile_none hg hcairns, ite_self, hg, State.mayEnter_open h, hclosed, hfinal, hpre, hready, Bool.not_true, Bool.false_eq_true,
    if_false, Bool.false_and, Bool.and_false, Bool.or_self, hcairns, List.all_nil, List.map_nil, hpass, if_true]
  rfl

/-- An item that enters the first group slot, where no port is gated, stands there, and no marker's update is due (R37, R65, R71). -/
theorem State.takeIn_ungated {it : Item} {v : Nat} (hg : s.group? gk = some g) (hv : (s.slot g 0).v = some v) (h0 : g.gated v 0 = false)
    (h1 : g.gated v 1 = false) (hsteer : g.steers v = false) (hupds : g.upds = []) :
    let t := s.takeIn gk it
    t.group? gk = some { g with started := true, t := if g.started then g.t else 0 } ∧ (t.slot g 0).item = some it ∧
      ∀ p, p < 32 → (t.elem g 0 p).pass = it.bnd.getD p 0 ∧ (t.elem g 0 p).k = (s.elem g 0 p).k := by
  intro t
  let g' : Group := { g with started := true, t := if g.started then g.t else 0 }
  let u := s.setGroup gk g'
  have hg' : u.group? gk = some g' := State.group_setGroup_same ..
  have hw : (u.entered g' 0 v (some it)).group? gk = some g' := (u.group?_entered ..).trans hg'
  have ht : t = u.entered g' 0 v (some it) := by
    have henter : u.enterItem gk 0 (some it) = u.entered g' 0 v (some it) := State.enterItem_ungated (g := g') hg' hv h0 h1 (some it)
    have hnone : g'.upds.isEmpty = true := by
      show g.upds.isEmpty = true
      rw [hupds]
      rfl
    show s.takeIn gk it = _
    simp only [State.takeIn, hg]
    change (u.enterItem gk 0 (some it)).applyMarks gk = _
    rw [henter]
    simp only [State.applyMarks, hw, hnone, if_true]
  rw [ht]
  refine ⟨hw, ?_, fun p hp => ?_⟩
  · refine (congrArg Slot.item (u.slot_entered g' 0 v (some it))).trans ?_
    exact congrArg some (if_neg (Bool.eq_false_iff.mp hsteer))
  · have helem : (u.entered g' 0 v (some it)).elem g 0 p = g'.enterElem v (some it) p (s.elem g 0 p) := u.elem_entered g' 0 v (some it) hp
    rw [helem]
    exact ⟨rfl, rfl⟩

end

/-- Where an item goes from a slot (R19, R44, R45). -/
theorem State.destOf_eq (s : State) (g : Group) (gs v : Nat) : s.destOf g gs v =
    if v + 1 = g.img.v then .gone
    else if gs + 1 = s.plen g then (if dieOf g.first = dieOf (s.slotPlace g gs).1 then .wrap else .cross (s.plen g))
    else if dieOf (s.slotPlace g gs).1 = dieOf (s.slotPlace g (gs + 1)).1 then .slot (gs + 1) else .cross (gs + 1) := by
  simp only [State.destOf, ne_eq, ite_not]

end Sys2Proof.Machine
end

section
/-! The end of an item time: items leave their slots, and the elements' bases and AFCs advance (R38, R61, R64). -/

namespace Sys2Proof.Machine

/-- A slot and its elements, as values. -/
def SlotIs (st : State) (g : Group) (n : Nat) (sl : Slot) (el : Nat → Elem) : Prop := st.slot g n = sl ∧ ∀ p, p < 32 → st.elem g n p = el p

theorem SlotIs.congr {g : Group} {n : Nat} {sl : Slot} {el : Nat → Elem} {u v : State} (h : SameAt g n u v) (hu : SlotIs u g n sl el) :
    SlotIs v g n sl el := ⟨h.1.trans hu.1, fun p hp => (h.2 p hp).trans (hu.2 p hp)⟩

theorem sameAt_of_rings {s t : State} (h : t.rings = s.rings) (g : Group) (n : Nat) : SameAt g n s t := by
  have hr (r : Nat) : t.ring r = s.ring r := by rw [State.ring, h, State.ring]
  have hplace : t.slotPlace g n = s.slotPlace g n := State.slotPlace_congr (fun r => by rw [hr]) g n
  refine ⟨?_, fun p _ => ?_⟩
  · rw [State.slot_eq, State.slot_eq, hplace, hr]
  · rw [State.elem_eq, State.elem_eq, hplace, hr]

/-- A group without open records: no record of an item is closed at its end (R243). -/
def Quiet (gk : Nat) (g : Group) (st : State) : Prop :=
  ∃ ps, st.group? gk = some { g with ports := ps } ∧ ∀ key po, tfind ps key = some po → po.opens = []

/-- The records of an item that ends close, and enter the ports that they feed (R146, R243). -/
def State.closeRecs (gk v n : Nat) (st : State) (p : Nat) : State :=
  match st.group? gk with
  | some g1 =>
    match tfind g1.ports (portKey v p) with
    | some po =>
      (st.setPort gk (portKey v p) { po with opens := po.opens.map fun r => if r.item = n then { r with closed := true } else r }).settleRec gk
        (portKey v p) po.opens.length
    | none => st
  | none => st

theorem State.closeRecs_quiet {st : State} {gk : Nat} {g : Group} (v n p : Nat) (h : Quiet gk g st) :
    let t := st.closeRecs gk v n p
    Quiet gk g t ∧ t.rings = st.rings ∧ t.mem = st.mem := by
  obtain ⟨ps, hg, hopen⟩ := h
  intro t
  cases hpo : tfind ps (portKey v p) with
  | none =>
    have ht : t = st := by simp only [t, State.closeRecs, hg, hpo]
    rw [ht]
    exact ⟨⟨ps, hg, hopen⟩, rfl, rfl⟩
  | some po =>
    have hnil := hopen _ _ hpo
    have ht : t = st.setGroup gk { g with ports := tput ps (portKey v p) { po with opens := [] } } := by
      simp only [t, State.closeRecs, hg, hpo, hnil, List.map_nil, List.length_nil, State.settleRec, State.setPort]
    rw [ht]
    refine ⟨⟨_, State.group_setGroup_same .., fun key q hq => ?_⟩, rfl, rfl⟩
    by_cases hkey : key = portKey v p
    · rw [hkey, tfind_tput_same] at hq
      exact (Option.some.inj hq) ▸ rfl
    · rw [tfind_tput_ne _ _ hkey] at hq
      exact hopen key q hq

/-- An element at the end of an item time (R61, R64). -/
def Slot.rotate (sl : Slot) (e : Elem) : Elem :=
  let e1 := if sl.item.isSome then e.afcStep (if sl.bank then 1 else 0) else e
  { e1 with base := e1.base + 1 }

theorem State.endItemTime_still {st : State} {gk gs : Nat} {g : Group} (hg : st.group? gk = some g)
    (h : ¬ ((st.slot g gs).st = .run ∧ (st.slot g gs).v ≠ none)) : st.endItemTime gk gs = (st, none) := by
  simp only [State.endItemTime, hg]
  split
  · rfl
  · next v hv => exact if_pos fun hrun => h ⟨hrun, by rw [hv]; exact Option.some_ne_none v⟩

/-- The elements of a slot at the end of an item time. -/
def State.rotateSlot (st : State) (g : Group) (gs : Nat) : State := st.mapElems g gs fun _ => (st.slot g gs).rotate

theorem State.endItemTime_ungated {st : State} {gk gs v : Nat} {g : Group} (hg : st.group? gk = some g) (hv : (st.slot g gs).v = some v)
    (hrun : (st.slot g gs).st = .run) (h0 : g.gated v 0 = false) (h1 : g.gated v 1 = false) :
    st.endItemTime gk gs = ((match (st.slot g gs).item with
      | none => st.rotateSlot g gs
      | some it => [2, 3].foldl (State.closeRecs gk v it.n) (st.rotateSlot g gs)), st.leaving g gs) := by
  have hports : [0, 1].filter (fun p => g.gated v p) = [] := by simp [h0, h1]
  unfold State.endItemTime State.rotateSlot State.mapElems Slot.rotate State.leaving
  simp only [hg, hv, hrun, hports, List.foldl_nil, ne_eq, not_true_eq_false, if_false, if_true]
  cases (st.slot g gs).item <;> rfl

/-- The end of an item time in a running slot without gated ports and open records. -/
theorem State.endItemTime_running {st : State} {gk gs : Nat} {g : Group} (hq : Quiet gk g st) (hgate : ∀ v p, g.gated v p = false)
    (hrun : (st.slot g gs).st = .run) (hv : (st.slot g gs).v ≠ none) :
    ∃ u, st.endItemTime gk gs = (u, st.leaving g gs) ∧ Quiet gk g u ∧ u.rings = (st.rotateSlot g gs).rings ∧ u.mem = st.mem := by
  obtain ⟨ps, hg, hopen⟩ := hq
  obtain ⟨v, hv⟩ := Option.ne_none_iff_exists'.mp hv
  have honly : OnlyElems st (st.rotateSlot g gs) := st.mapElems_onlyElems g gs _
  have hquiet : Quiet gk g (st.rotateSlot g gs) := ⟨ps, (honly.group gk).trans hg, hopen⟩
  have hend := State.endItemTime_ungated (g := { g with ports := ps }) hg hv hrun (hgate v 0) (hgate v 1)
  have hrot : st.rotateSlot { g with ports := ps } gs = st.rotateSlot g gs := rfl
  have hleave : st.leaving { g with ports := ps } gs = st.leaving g gs := rfl
  rw [hrot, hleave] at hend
  cases hi : (st.slot g gs).item with
  | none =>
    rw [show (st.slot { g with ports := ps } gs).item = none from hi] at hend
    exact ⟨_, hend, hquiet, rfl, honly.mem⟩
  | some it =>
    rw [show (st.slot { g with ports := ps } gs).item = some it from hi] at hend
    obtain ⟨hq2, hr2, hm2⟩ := State.closeRecs_quiet v it.n 2 hquiet
    obtain ⟨hq3, hr3, hm3⟩ := State.closeRecs_quiet v it.n 3 hq2
    exact ⟨_, hend, hq3, hr3.trans hr2, hm3.trans (hm2.trans honly.mem)⟩

end Sys2Proof.Machine
end

section
/-! The first half of an item-time boundary: the slots end their item times, and the items move (R38, R44, R45). -/

namespace Sys2Proof.Machine

variable {s : State} {gk : Nat} {g : Group}

/-- Only a slot that runs a stripe holds an item. -/
def State.itemsRun (s : State) (g : Group) : Prop :=
  ∀ gs, gs < s.plen g → (s.slot g gs).item ≠ none → (s.slot g gs).st = .run ∧ (s.slot g gs).v ≠ none

/-- The elements of a slot after the end of its item time. -/
def State.rotated (s : State) (g : Group) (gs p : Nat) : Elem :=
  if (s.slot g gs).st = .run ∧ (s.slot g gs).v ≠ none then (s.slot g gs).rotate (s.elem g gs p) else s.elem g gs p

/-- The item that leaves a slot, with the slot and its stripe. -/
def State.leavesFrom (s : State) (g : Group) (gs : Nat) : Option (Nat × Nat × Item) :=
  (s.leaving g gs).map fun it => (gs, ((s.slot g gs).v).getD 0, it)

theorem State.leaving_congr {t : State} {gs : Nat} (h : SameAt g gs s t) : t.leaving g gs = s.leaving g gs := by
  have hbnd : ((List.range 32).map fun p => (t.elem g gs p).y) = (List.range 32).map fun p => (s.elem g gs p).y :=
    List.map_congr_left fun p hp => by rw [h.2 p (List.mem_range.mp hp)]
  rw [State.leaving, State.leaving, h.1, hbnd]

/-- An item leaves exactly a slot that holds one. -/
theorem State.leaving_isSome {gs : Nat} (h : s.itemsRun g) (hgs : gs < s.plen g) :
    (s.leaving g gs).isSome = (s.slot g gs).item.isSome := by
  unfold State.leaving
  split
  · rw [Option.isSome_map]
  · next hrun =>
    cases hi : (s.slot g gs).item with
    | none => rfl
    | some it => exact absurd (h gs hgs (by rw [hi]; exact Option.some_ne_none it)).1 hrun

theorem filterMap_range_succ {α : Type} (f : Nat → Option α) (m : Nat) :
    (List.range (m + 1)).filterMap f = (List.range m).filterMap f ++ (f m).toList := by
  rw [List.range_succ, List.filterMap_append]
  cases hf : f m <;> simp [hf]

/-- Every slot has ended its item time: what leaves is noted, and the bases and AFCs have advanced (R38, R61, R64). -/
theorem State.endSlots_frame (hq : Quiet gk g s) (hgate : ∀ v p, g.gated v p = false) (hrun : s.itemsRun g) :
    let e := s.endSlots gk g
    (Quiet gk g e.1 ∧ e.1.mem = s.mem ∧ e.2 = (List.range (s.plen g)).filterMap (s.leavesFrom g)) ∧ e.1.plen g = s.plen g ∧
      (∀ r, (e.1.ring r).ringp = (s.ring r).ringp) ∧ (∀ r, r ∉ runOf g.first g.k → e.1.ring r = s.ring r) ∧
      ∀ n, n < s.plen g → SlotIs e.1 g n (s.slot g n) (s.rotated g n) := by
  refine foldl_places (s := s) (g := g) (P := s.plen g) (proj := Prod.fst) (step := State.endSlot gk g)
    (Inv := fun m a => Quiet gk g a.1 ∧ a.1.mem = s.mem ∧ a.2 = (List.range m).filterMap (s.leavesFrom g))
    (Pre := fun n st => SlotIs st g n (s.slot g n) (s.elem g n)) (Post := fun n st => SlotIs st g n (s.slot g n) (s.rotated g n))
    (fun n u v h hu => SlotIs.congr h hu) (fun n u v h hu => SlotIs.congr h hu) ?_ (s, []) ⟨hq, rfl, rfl⟩ rfl (fun _ => rfl)
    fun n _ => ⟨rfl, fun _ _ => rfl⟩
  rintro m ⟨st, l⟩ hm hlen - ⟨hquiet, hmem, rfl⟩ ⟨hslot, helem⟩
  dsimp only at hlen hslot helem hquiet hmem
  have hleave : st.leaving g m = s.leaving g m := State.leaving_congr ⟨hslot, helem⟩
  by_cases h : (s.slot g m).st = .run ∧ (s.slot g m).v ≠ none
  · obtain ⟨u, hend, hqu, hrings, hmu⟩ := State.endItemTime_running (gs := m) hquiet hgate (hslot ▸ h.1) (hslot ▸ h.2)
    have hstep : State.endSlot gk g (st, (List.range m).filterMap (s.leavesFrom g)) m =
        (u, (List.range (m + 1)).filterMap (s.leavesFrom g)) := by
      rw [filterMap_range_succ, State.leavesFrom, State.endSlot]
      simp only [hend, hslot, hleave]
      cases s.leaving g m <;> simp
    have honly : OnlyPlace g m st u := (OnlyPlace.mapElems (hlen.symm ▸ hm) _).trans (OnlyPlace.of_rings hrings)
    have hsame := sameAt_of_rings hrings g m
    rw [hstep]
    refine ⟨⟨hqu, hmu.trans hmem, rfl⟩, honly, hsame.1.trans (((st.mapElems_onlyElems g m _).slot g m).trans hslot), fun p hp => ?_⟩
    rw [hsame.2 p hp, State.rotateSlot, State.elem_mapElems _ _ _ _ hp, hslot, helem p hp, State.rotated, if_pos h]
  · have hno : s.leaving g m = none := by
      have hsome := State.leaving_isSome hrun hm
      cases hi : (s.slot g m).item with
      | none => rwa [hi, Option.isSome_none, Option.isSome_eq_false_iff, Option.isNone_iff_eq_none] at hsome
      | some it => exact absurd (hrun m hm (by rw [hi]; exact Option.some_ne_none it)) h
    obtain ⟨ps, hg, -⟩ := id hquiet
    have hend : st.endItemTime gk m = (st, none) := State.endItemTime_still (g := { g with ports := ps }) hg fun hr => h (by rw [← hslot]; exact hr)
    have hstep : State.endSlot gk g (st, (List.range m).filterMap (s.leavesFrom g)) m =
        (st, (List.range (m + 1)).filterMap (s.leavesFrom g)) := by
      rw [filterMap_range_succ, State.leavesFrom, State.endSlot]
      simp only [hend, hno, Option.map_none, Option.toList_none, List.append_nil]
    rw [hstep]
    refine ⟨⟨hquiet, hmem, rfl⟩, OnlyPlace.refl g m st, hslot, fun p hp => ?_⟩
    rw [helem p hp, State.rotated, if_neg h]

/-- Where the item of a slot goes (R19, R44, R45). -/
def State.destAt (s : State) (g : Group) (gs : Nat) : Dest := s.destOf g gs ((s.slot g gs).v.getD 0)

/-- The item of a slot that goes to the wrap buffer (R44). -/
def State.wrapsFrom (s : State) (g : Group) (gs : Nat) : Option Item :=
  if s.destAt g gs = .wrap then (s.leaving g gs).map fun it => { it with pass := it.pass + 1 } else none

/-- The item of a slot that starts a die crossing (R19). -/
def State.crossesFrom (s : State) (g : Group) (gs : Nat) : Option (Nat × Nat × Item) :=
  match s.destAt g gs with
  | .cross n => (s.leaving g gs).map fun it => (24, n, if n = s.plen g then { it with pass := it.pass + 1 } else it)
  | .gone => none
  | .wrap => none
  | .slot _ => none

/-- The item of a slot that goes to the next one, with that slot. -/
def State.stepsFrom (s : State) (g : Group) (gs : Nat) : Option (Nat × Item) :=
  match s.destAt g gs with
  | .slot n => (s.leaving g gs).map fun it => (n, it)
  | .gone => none
  | .wrap => none
  | .cross _ => none

/-- The slots below m whose items leave the phase. -/
def State.exitsBelow (s : State) (g : Group) (m : Nat) : Nat :=
  ((List.range m).filter fun gs => (s.leaving g gs).isSome && decide (s.destAt g gs = .gone)).length

theorem State.exitsBelow_succ (s : State) (g : Group) (m : Nat) :
    s.exitsBelow g (m + 1) = s.exitsBelow g m + if (s.leaving g m).isSome && decide (s.destAt g m = .gone) then 1 else 0 := by
  rw [State.exitsBelow, List.range_succ, List.filter_append, List.length_append, State.exitsBelow]
  congr 1
  cases h : (s.leaving g m).isSome && decide (s.destAt g m = .gone) <;> simp [h]

/-- A slot whose item, if it held one, has left it. -/
def State.vacated (s : State) (g : Group) (gs : Nat) : Slot :=
  { s.slot g gs with left := (s.slot g gs).left + (if (s.leaving g gs).isSome then 1 else 0), item := none }

theorem State.vacated_of_none {gs : Nat} (hl : s.leaving g gs = none) (hi : (s.slot g gs).item = none) : s.vacated g gs = s.slot g gs := by
  rw [State.vacated, hl]
  cases hs : s.slot g gs
  rw [hs] at hi
  cases hi
  rfl

/-- The group once the items of the slots below m have moved: those that are gone are counted, and the others queue (R44, R45). -/
def State.movedGroup (s : State) (g : Group) (ps : Tab Port) (m : Nat) : Group :=
  { g with ports := ps, exited := g.exited + s.exitsBelow g m, wrap := g.wrap ++ (List.range m).filterMap (s.wrapsFrom g),
           cross := g.cross ++ (List.range m).filterMap (s.crossesFrom g) }

/-- The items of the slots below m have moved. -/
structure MovedBelow (s : State) (gk : Nat) (g : Group) (ps : Tab Port) (m : Nat) (a : State × Group × List (Nat × Item)) : Prop where
  group : a.1.group? gk = some { g with ports := ps }
  flow : a.2.1 = s.movedGroup g ps m
  ins : a.2.2 = (List.range m).filterMap (s.stepsFrom g)
  mem : (∀ gs, gs < m → ¬ (s.leaving g gs ≠ none ∧ s.destAt g gs = .wrap)) → a.1.mem = s.mem

theorem State.destOf_congr {t : State} (h : ∀ r, (t.ring r).ringp = (s.ring r).ringp) (g : Group) (gs v : Nat) :
    t.destOf g gs v = s.destOf g gs v := by
  rw [State.destOf_eq, State.destOf_eq, State.plen_congr h, State.slotPlace_congr h, State.slotPlace_congr h]

/-- The copy of an item in the wrap carve changes memory alone (R104). -/
theorem State.storeWrap_frame (s : State) (g : Group) (it : Item) (gk : Nat) :
    (s.storeWrap g it).rings = s.rings ∧ (s.storeWrap g it).group? gk = s.group? gk := by
  have hbytes (st : State) (k : Nat) (l : List Byte) : (st.putBytes k l).groups = st.groups := by
    induction l generalizing st k with
    | nil => rfl
    | cons b l ih => exact ih _ _
  unfold State.storeWrap
  extract_lets cap
  split
  · exact ⟨rfl, rfl⟩
  · exact ⟨State.putBytes_rings .., congrArg (tfind · gk) (hbytes ..)⟩

/-- The item of one slot moves, if it held one. -/
def State.moveFrom (s : State) (g : Group) (a : State × Group × List (Nat × Item)) (gs : Nat) : State × Group × List (Nat × Item) :=
  match s.leavesFrom g gs with
  | some x => State.moveItem (s.plen g) a x
  | none => a

/-- An item that moves leaves its slot empty, whatever its destination. -/
theorem State.moveFrom_step {ps : Tab Port} {m : Nat} {a : State × Group × List (Nat × Item)} (hrun : s.itemsRun g) (hm : m < s.plen g)
    (hlen : a.1.plen g = s.plen g) (hringp : ∀ r, (a.1.ring r).ringp = (s.ring r).ringp) (hinv : MovedBelow s gk g ps m a)
    (hpre : SlotIs a.1 g m (s.slot g m) (s.rotated g m)) :
    MovedBelow s gk g ps (m + 1) (s.moveFrom g a m) ∧ OnlyPlace g m a.1 (s.moveFrom g a m).1 ∧
      SlotIs (s.moveFrom g a m).1 g m (s.vacated g m) (s.rotated g m) := by
  obtain ⟨st, h, ins⟩ := a
  obtain ⟨hgroup, hflow, hins, hmem⟩ := hinv
  obtain ⟨hslot, helem⟩ := hpre
  dsimp only at hgroup hflow hins hmem hslot helem hlen hringp
  subst hflow hins
  have hwraps := filterMap_range_succ (s.wrapsFrom g) m
  have hcross := filterMap_range_succ (s.crossesFrom g) m
  have hsteps := filterMap_range_succ (s.stepsFrom g) m
  have hexits := s.exitsBelow_succ g m
  cases hl : s.leaving g m with
  | none =>
    have hmove : s.moveFrom g (st, s.movedGroup g ps m, (List.range m).filterMap (s.stepsFrom g)) m =
        (st, s.movedGroup g ps m, (List.range m).filterMap (s.stepsFrom g)) := by
      rw [State.moveFrom, State.leavesFrom, hl]
      rfl
    have hw : s.wrapsFrom g m = none := by rw [State.wrapsFrom, hl]; exact ite_self _
    have hc : s.crossesFrom g m = none := by rw [State.crossesFrom, hl]; cases s.destAt g m <;> rfl
    have hi : s.stepsFrom g m = none := by rw [State.stepsFrom, hl]; cases s.destAt g m <;> rfl
    have hvac : s.vacated g m = s.slot g m := by
      have hsome := State.leaving_isSome hrun hm
      rw [hl, Option.isSome_none, eq_comm, Option.isSome_eq_false_iff, Option.isNone_iff_eq_none] at hsome
      exact State.vacated_of_none hl hsome
    rw [hmove]
    refine ⟨⟨hgroup, ?_, ?_, fun hno => hmem fun gs hgs => hno gs (by omega)⟩, OnlyPlace.refl g m st, hvac ▸ hslot, helem⟩
    · rw [State.movedGroup, State.movedGroup, hwraps, hcross, hexits, hw, hc, hl]
      simp
    · rw [hsteps, hi]
      simp
  | some it =>
    have hvac : { s.slot g m with left := (s.slot g m).left + 1, item := none } = s.vacated g m := by rw [State.vacated, hl]; rfl
    have honly : OnlyPlace g m st (st.setSlot g m (s.vacated g m)) := OnlyPlace.setSlot (hlen.symm ▸ hm) _
    have hthis : SlotIs (st.setSlot g m (s.vacated g m)) g m (s.vacated g m) (s.rotated g m) :=
      ⟨State.slot_setSlot_same .., fun p hp => (State.elem_setSlot ..).trans (helem p hp)⟩
    have hgroup' : (st.setSlot g m (s.vacated g m)).group? gk = some { g with ports := ps } := hgroup
    have hmove : s.moveFrom g (st, s.movedGroup g ps m, (List.range m).filterMap (s.stepsFrom g)) m =
        match s.destAt g m with
        | .gone => (st.setSlot g m (s.vacated g m), { s.movedGroup g ps m with exited := (s.movedGroup g ps m).exited + 1 },
            (List.range m).filterMap (s.stepsFrom g))
        | .wrap => ((st.setSlot g m (s.vacated g m)).storeWrap (s.movedGroup g ps m) it,
            { s.movedGroup g ps m with wrap := (s.movedGroup g ps m).wrap ++ [{ it with pass := it.pass + 1 }] },
            (List.range m).filterMap (s.stepsFrom g))
        | .slot n => (st.setSlot g m (s.vacated g m), s.movedGroup g ps m, (List.range m).filterMap (s.stepsFrom g) ++ [(n, it)])
        | .cross n => (st.setSlot g m (s.vacated g m), { s.movedGroup g ps m with
            cross := (s.movedGroup g ps m).cross ++ [(24, n, if n = s.plen g then { it with pass := it.pass + 1 } else it)] },
            (List.range m).filterMap (s.stepsFrom g)) := by
      have hset (x : Slot) : st.setSlot (s.movedGroup g ps m) m x = st.setSlot g m x := rfl
      have hslot' : st.slot (s.movedGroup g ps m) m = s.slot g m := hslot
      have hdest : (st.setSlot g m (s.vacated g m)).destOf (s.movedGroup g ps m) m ((s.slot g m).v.getD 0) = s.destAt g m :=
        (State.destOf_congr (fun r => (honly.ringp r).trans (hringp r)) g m _ : (st.setSlot g m (s.vacated g m)).destOf g m _ = _)
      simp only [State.moveFrom, State.leavesFrom, hl, Option.map_some, State.moveItem, hslot', hset, hvac, hdest] <;> rfl
    rw [hmove]
    have hw : s.wrapsFrom g m = if s.destAt g m = .wrap then some { it with pass := it.pass + 1 } else none := by
      rw [State.wrapsFrom, hl]
      rfl
    have hc : s.crossesFrom g m = match s.destAt g m with
        | .cross n => some (24, n, if n = s.plen g then { it with pass := it.pass + 1 } else it)
        | .gone => none
        | .wrap => none
        | .slot _ => none := by
      rw [State.crossesFrom, hl]
      rfl
    have hi : s.stepsFrom g m = match s.destAt g m with
        | .slot n => some (n, it)
        | .gone => none
        | .wrap => none
        | .cross _ => none := by
      rw [State.stepsFrom, hl]
      rfl
    have hflow : s.movedGroup g ps (m + 1) = { s.movedGroup g ps m with
        exited := (s.movedGroup g ps m).exited + if s.destAt g m = .gone then 1 else 0,
        wrap := (s.movedGroup g ps m).wrap ++ (s.wrapsFrom g m).toList, cross := (s.movedGroup g ps m).cross ++ (s.crossesFrom g m).toList } := by
      simp only [State.movedGroup, hwraps, hcross, hexits, hl, Option.isSome_some, Bool.true_and, decide_eq_true_eq, List.append_assoc, Nat.add_assoc]
    have hquiet (h : ∀ gs, gs < m + 1 → ¬ (s.leaving g gs ≠ none ∧ s.destAt g gs = .wrap)) : st.mem = s.mem := hmem fun gs hgs => h gs (by omega)
    cases hd : s.destAt g m with
    | gone =>
      rw [hd] at hw hc hi hflow
      refine ⟨⟨hgroup', ?_, ?_, hquiet⟩, honly, hthis⟩
      · rw [hflow, hw, hc]
        simp
      · rw [hsteps, hi]
        simp
    | wrap =>
      rw [hd] at hw hc hi hflow
      obtain ⟨hrings, hsame⟩ := (st.setSlot g m (s.vacated g m)).storeWrap_frame (s.movedGroup g ps m) it gk
      refine ⟨⟨hsame.trans hgroup', ?_, ?_, fun hno => absurd ⟨?_, hd⟩ (hno m (Nat.lt_succ_self m))⟩, honly.trans (OnlyPlace.of_rings hrings),
        SlotIs.congr (sameAt_of_rings hrings g m) hthis⟩
      · rw [hflow, hw, hc]
        simp
      · rw [hsteps, hi]
        simp
      · rw [hl]
        exact Option.some_ne_none it
    | slot n =>
      rw [hd] at hw hc hi hflow
      refine ⟨⟨hgroup', ?_, ?_, hquiet⟩, honly, hthis⟩
      · rw [hflow, hw, hc]
        simp
      · rw [hsteps, hi]
        simp
    | cross n =>
      rw [hd] at hw hc hi hflow
      refine ⟨⟨hgroup', ?_, ?_, hquiet⟩, honly, hthis⟩
      · rw [hflow, hw, hc]
        simp
      · rw [hsteps, hi]
        simp

end Sys2Proof.Machine
end

section
/-! The second half of an item-time boundary: crossings that are over, and the slots that items reach (R19, R41, R56). -/

namespace Sys2Proof.Machine

variable {s : State} {gk : Nat} {g : Group}

/-- The items of every slot have moved. -/
theorem State.moves_frame {e : State} {ps : Tab Port} (hrun : s.itemsRun g) (hg : e.group? gk = some { g with ports := ps }) (hmem : e.mem = s.mem)
    (hlen : e.plen g = s.plen g) (hringp : ∀ r, (e.ring r).ringp = (s.ring r).ringp)
    (hall : ∀ n, n < s.plen g → SlotIs e g n (s.slot g n) (s.rotated g n)) :
    let b := ((List.range (s.plen g)).filterMap (s.leavesFrom g)).foldl (State.moveItem (s.plen g)) (e, { g with ports := ps }, [])
    MovedBelow s gk g ps (s.plen g) b ∧ b.1.plen g = s.plen g ∧ (∀ r, (b.1.ring r).ringp = (s.ring r).ringp) ∧
      (∀ r, r ∉ runOf g.first g.k → b.1.ring r = e.ring r) ∧ ∀ n, n < s.plen g → SlotIs b.1 g n (s.vacated g n) (s.rotated g n) := by
  have hfold : ((List.range (s.plen g)).filterMap (s.leavesFrom g)).foldl (State.moveItem (s.plen g)) (e, { g with ports := ps }, []) =
      (List.range (s.plen g)).foldl (s.moveFrom g) (e, { g with ports := ps }, []) := by
    rw [List.foldl_filterMap]
    congr 1
    funext a gs
    unfold State.moveFrom
    cases s.leavesFrom g gs <;> rfl
  intro b
  rw [show b = _ from hfold]
  refine foldl_places (s := s) (g := g) (P := s.plen g) (proj := Prod.fst) (step := s.moveFrom g) (Inv := MovedBelow s gk g ps)
    (Pre := fun n st => SlotIs st g n (s.slot g n) (s.rotated g n)) (Post := fun n st => SlotIs st g n (s.vacated g n) (s.rotated g n))
    (fun n u v h hu => SlotIs.congr h hu) (fun n u v h hu => SlotIs.congr h hu)
    (fun m a hm hl hr hinv hpre => State.moveFrom_step hrun hm hl hr hinv hpre) _ ⟨hg, ?_, rfl, fun _ => hmem⟩ hlen hringp hall
  simp [State.movedGroup, State.exitsBelow]

/-- Crossings that are not over stay. -/
theorem foldl_arriveItem_late (p : Nat) (l : List (Nat × Nat × Item)) (h : ∀ x ∈ l, x.1 ≠ 0) (ins : List (Nat × Item))
    (cross : List (Nat × Nat × Item)) : l.foldl (arriveItem p) (ins, cross) = (ins, cross ++ l) := by
  induction l generalizing cross with
  | nil => rw [List.foldl_nil, List.append_nil]
  | cons x l ih =>
    have hx : arriveItem p (ins, cross) x = (ins, cross ++ [x]) := if_neg fun hc => h x List.mem_cons_self hc.1
    rw [List.foldl_cons, hx, ih (fun y hy => h y (List.mem_cons_of_mem x hy)), List.append_assoc]
    rfl

/-- Items whose crossing is over enter, each a slot that nothing else reaches (R56; log 113). -/
theorem foldl_arriveItem_over (p : Nat) (a : List (Nat × Nat × Item)) (ins : List (Nat × Item)) (ha : ∀ x ∈ a, x.1 = 0 ∧ x.2.1 < p)
    (hins : ∀ x ∈ a, ∀ y ∈ ins, y.1 ≠ x.2.1) (hd : (a.map fun x => x.2.1).Nodup) :
    a.foldl (arriveItem p) (ins, []) = (ins ++ a.map (·.2), []) := by
  induction a generalizing ins with
  | nil => rw [List.foldl_nil, List.map_nil, List.append_nil]
  | cons x a ih =>
    rw [List.map_cons, List.nodup_cons] at hd
    obtain ⟨h0, hp⟩ := ha x List.mem_cons_self
    have hfree : (!(ins.any fun y => y.1 == x.2.1)) = true := by
      rw [Bool.not_eq_true', List.any_eq_false]
      exact fun y hy => by simpa using hins x List.mem_cons_self y hy
    have hx : arriveItem p (ins, []) x = (ins ++ [x.2], []) := if_pos ⟨h0, hp, hfree, rfl⟩
    rw [List.foldl_cons, hx, ih _ (fun y hy => ha y (List.mem_cons_of_mem x hy)) ?_ hd.2, List.append_assoc]
    · rfl
    · intro y hy z hz
      rcases List.mem_append.mp hz with hz | hz
      · exact hins y (List.mem_cons_of_mem x hy) z hz
      · rw [List.mem_singleton.mp hz]
        exact fun he => hd.1 (he ▸ List.mem_map_of_mem hy)

/-- What an item carries with it, its tag aside. -/
def Item.carried (i : Item) : Nat × Nat × Bool × List Nat × List W32 := (i.n, i.pass, i.void, i.marks, i.bnd)

/-- A slot that an item, or none, has reached: its item time has begun, or the item waits for the switch (R41, R65). -/
structure Reached (s : State) (g : Group) (n : Nat) (o : Option Item) (st : State) : Prop where
  slot : st.slot g n = { s.vacated g n with item := (st.slot g n).item }
  item : (st.slot g n).item.map Item.carried = o.map Item.carried
  elem : ∀ p, p < 32 → st.elem g n p = { s.rotated g n p with pass := (st.elem g n p).pass, lfsr := (st.elem g n p).lfsr }
  pass : ∀ it, o = some it → s.switching g n it = false → (s.slot g n).v ≠ none → ∀ p, p < 32 → (st.elem g n p).pass = it.bnd.getD p 0

theorem Reached.congr {n : Nat} {o : Option Item} {u v : State} (h : SameAt g n u v) (hu : Reached s g n o u) : Reached s g n o v := by
  obtain ⟨hslot, helem⟩ := h
  refine ⟨?_, ?_, fun p hp => ?_, fun it ho hsw hv p hp => ?_⟩
  · rw [hslot]
    exact hu.slot
  · rw [hslot]
    exact hu.item
  · rw [helem p hp]
    exact hu.elem p hp
  · rw [helem p hp]
    exact hu.pass it ho hsw hv p hp

theorem Group.carried_tagged (g : Group) (v : Nat) (o : Option Item) : (o.map (g.tagged v)).map Item.carried = o.map Item.carried := by
  cases o with
  | none => rfl
  | some it =>
    refine congrArg some ?_
    unfold Group.tagged
    split <;> rfl

/-- An item, or none, reaches a slot. -/
theorem State.reachSlot_frame {st : State} {ps : Tab Port} {c : List (Nat × Nat × Item)} {n : Nat} (o : Option Item)
    (hgate : ∀ v p, g.gated v p = false) (hn : n < s.plen g) (hlen : st.plen g = s.plen g)
    (hg : st.group? gk = some { s.movedGroup g ps (s.plen g) with cross := c }) (hpre : SlotIs st g n (s.vacated g n) (s.rotated g n)) :
    let t := st.reachSlot gk (s.movedGroup g ps (s.plen g)) n o
    Reached s g n o t ∧ OnlyPlace g n st t ∧ t.group? gk = st.group? gk ∧ t.mem = st.mem := by
  obtain ⟨hslot, helem⟩ := hpre
  have hplace (x : Slot) : OnlyPlace g n st (st.setSlot g n x) := OnlyPlace.setSlot (hlen.symm ▸ hn) x
  have hsw (it : Item) : st.switching (s.movedGroup g ps (s.plen g)) n it = s.switching g n it := by
    unfold State.switching
    rw [show st.slot (s.movedGroup g ps (s.plen g)) n = s.vacated g n from hslot, show st.plen (s.movedGroup g ps (s.plen g)) = s.plen g from hlen]
    rfl
  have hset : st.setSlot (s.movedGroup g ps (s.plen g)) n { st.slot (s.movedGroup g ps (s.plen g)) n with item := o } =
      st.setSlot g n { s.vacated g n with item := o } := by
    rw [show st.slot (s.movedGroup g ps (s.plen g)) n = s.vacated g n from hslot]
    rfl
  have hput (hp : ∀ it, o = some it → s.switching g n it = false → (s.slot g n).v = none) :
      Reached s g n o (st.setSlot g n { s.vacated g n with item := o }) := by
    refine ⟨?_, ?_, fun p hp' => ?_, fun it ho hno hv => absurd (hp it ho hno) hv⟩
    · rw [State.slot_setSlot_same]
    · rw [State.slot_setSlot_same]
    · rw [State.elem_setSlot, helem p hp']
  intro t
  by_cases hwait : (o.map (st.switching (s.movedGroup g ps (s.plen g)) n)).getD false = true
  · have ht : t = st.setSlot g n { s.vacated g n with item := o } := (if_pos hwait).trans hset
    rw [ht]
    refine ⟨hput fun it ho hno => ?_, hplace _, rfl, rfl⟩
    rw [ho, Option.map_some, Option.getD_some, hsw, hno] at hwait
    exact nomatch hwait
  have ht : t = st.enterItem gk n o := if_neg hwait
  have hv' : (st.slot g n).v = (s.slot g n).v := by rw [hslot]; rfl
  rw [ht]
  cases hv : (s.slot g n).v with
  | none =>
    rw [State.enterItem_empty (g := { s.movedGroup g ps (s.plen g) with cross := c }) hg (hv'.trans hv)]
    have hput' : st.setSlot { s.movedGroup g ps (s.plen g) with cross := c } n
        { st.slot { s.movedGroup g ps (s.plen g) with cross := c } n with item := o } = st.setSlot g n { s.vacated g n with item := o } := hset
    rw [hput']
    exact ⟨hput fun _ _ _ => hv, hplace _, rfl, rfl⟩
  | some v =>
    have hent : st.enterItem gk n o = st.entered g n v o :=
      State.enterItem_ungated (g := { s.movedGroup g ps (s.plen g) with cross := c }) hg (hv'.trans hv) (hgate v 0) (hgate v 1) o
    rw [hent]
    have hsl := st.slot_entered g n v o
    rw [hslot] at hsl
    refine ⟨⟨?_, ?_, fun p hp => ?_, fun it ho _ _ p hp => ?_⟩, OnlyPlace.entered (hlen.symm ▸ hn) v o, st.group?_entered .., st.mem_entered ..⟩
    · rw [hsl]
    · rw [hsl]
      exact g.carried_tagged v o
    · rw [State.elem_entered _ _ _ _ _ hp, helem p hp]
      rfl
    · rw [State.elem_entered _ _ _ _ _ hp, ho]
      rfl

/-- The item that reaches each slot, from the slot before it or from a crossing. -/
def reaching (l : List (Nat × Item)) (n : Nat) : Option Item := (l.find? fun y => y.1 == n).map (·.2)

theorem reaching_of_unique {l : List (Nat × Item)} {y : Nat × Item} (hy : y ∈ l) (huniq : ∀ z ∈ l, z.1 = y.1 → z = y) :
    reaching l y.1 = some y.2 := by
  unfold reaching
  cases hf : l.find? fun z => z.1 == y.1 with
  | none => exact absurd (beq_self_eq_true y.1) (List.find?_eq_none.mp hf y hy)
  | some z =>
    have hz := huniq z (List.mem_of_find?_eq_some hf) (by simpa using List.find?_some hf)
    rw [Option.map_some, hz]

theorem reaching_none {l : List (Nat × Item)} {n : Nat} (h : ∀ z ∈ l, z.1 ≠ n) : reaching l n = none := by
  unfold reaching
  rw [List.find?_eq_none.mpr fun z hz => by simpa using h z hz]
  rfl

/-- Every slot takes the item that reaches it. -/
theorem State.reachSlots_frame {st : State} {ps : Tab Port} {c : List (Nat × Nat × Item)} (ins : List (Nat × Item))
    (hgate : ∀ v p, g.gated v p = false) (hlen : st.plen g = s.plen g) (hringp : ∀ r, (st.ring r).ringp = (s.ring r).ringp)
    (hg : st.group? gk = some { s.movedGroup g ps (s.plen g) with cross := c })
    (hall : ∀ n, n < s.plen g → SlotIs st g n (s.vacated g n) (s.rotated g n)) :
    let t := st.reachSlots gk (s.plen g) (s.movedGroup g ps (s.plen g)) ins
    t.group? gk = some { s.movedGroup g ps (s.plen g) with cross := c } ∧ t.mem = st.mem ∧
      (∀ r, r ∉ runOf g.first g.k → t.ring r = st.ring r) ∧ ∀ n, n < s.plen g → Reached s g n (reaching ins n) t := by
  obtain ⟨⟨hgroup, hmem⟩, -, -, hring, hdone⟩ := foldl_places (s := s) (g := g) (P := s.plen g) (proj := id)
    (step := fun u n => u.reachSlot gk (s.movedGroup g ps (s.plen g)) n (reaching ins n))
    (Inv := fun _ u => u.group? gk = some { s.movedGroup g ps (s.plen g) with cross := c } ∧ u.mem = st.mem)
    (Pre := fun n u => SlotIs u g n (s.vacated g n) (s.rotated g n)) (Post := fun n u => Reached s g n (reaching ins n) u)
    (fun n u v h hu => SlotIs.congr h hu) (fun n u v h hu => Reached.congr h hu)
    (fun m u hm hl _ hinv hpre => by
      obtain ⟨hgu, hmu⟩ := hinv
      obtain ⟨hreach, honly, hsame, hmem⟩ := State.reachSlot_frame (reaching ins m) hgate hm hl hgu hpre
      exact ⟨⟨hsame.trans hgu, hmem.trans hmu⟩, honly, hreach⟩) st ⟨hg, rfl⟩ hlen hringp hall
  exact ⟨hgroup, hmem, hring, hdone⟩

/-- An item that stays on its die goes to the next slot (R19, R38). -/
theorem State.destAt_slot {gs n : Nat} (hgs : gs < s.plen g) (h : s.destAt g gs = .slot n) : n = gs + 1 ∧ n < s.plen g := by
  rw [State.destAt, State.destOf_eq] at h
  split at h
  · cases h
  · split at h
    · split at h <;> cases h
    · next hlast =>
      split at h
      · cases h
        exact ⟨rfl, by omega⟩
      · cases h

/-- An item moves to the next slot exactly as its slot's destination says. -/
theorem State.mem_stepsFrom {P n : Nat} {it : Item} :
    (n, it) ∈ (List.range P).filterMap (s.stepsFrom g) ↔ ∃ gs, gs < P ∧ s.leaving g gs = some it ∧ s.destAt g gs = .slot n := by
  rw [List.mem_filterMap]
  refine exists_congr fun gs => ?_
  rw [List.mem_range]
  refine and_congr_right fun _ => ?_
  rw [State.stepsFrom]
  cases hd : s.destAt g gs <;> simp [and_comm]

/-- Two items never step to one slot. -/
theorem State.stepsFrom_unique {n : Nat} {it it' : Item} (h : (n, it) ∈ (List.range (s.plen g)).filterMap (s.stepsFrom g))
    (h' : (n, it') ∈ (List.range (s.plen g)).filterMap (s.stepsFrom g)) : it = it' := by
  obtain ⟨gs, hgs, hl, hd⟩ := State.mem_stepsFrom.mp h
  obtain ⟨gs', hgs', hl', hd'⟩ := State.mem_stepsFrom.mp h'
  have hsame : gs = gs' := by
    have := (State.destAt_slot hgs hd).1
    have := (State.destAt_slot hgs' hd').1
    omega
  rw [hsame, hl'] at hl
  exact (Option.some.inj hl).symm

theorem State.itemBoundary_of {g1 g2 : Group} {s2 : State} {ins ins' : List (Nat × Item)} {cross' : List (Nat × Nat × Item)}
    (h0 : s.group? gk = some g) (h1 : (s.endSlots gk g).1.group? gk = some g1) (hm : ¬ (g1.mark.isSome ∧ g.mark.isNone))
    (hmoves : (s.endSlots gk g).2.foldl (State.moveItem (s.plen g)) ((s.endSlots gk g).1, g1, []) = (s2, g2, ins))
    (harrive : g2.cross.foldl (arriveItem (s.plen g)) (ins, []) = (ins', cross')) :
    s.itemBoundary gk = (s2.setGroup gk { g2 with cross := cross' }).reachSlots gk (s.plen g) g2 ins' := by
  rw [State.itemBoundary_eq h0 h1 hm]
  simp only [hmoves, harrive]

/-- An item-time boundary of a group without gated ports and open records: every slot takes the item that reaches it from the slot before
or from a crossing that is over, and the items that leave the slots of this die queue in the group (R19, R38, R44, R45, R56). -/
theorem State.itemBoundary_frame {a l : List (Nat × Nat × Item)} (hg : s.group? gk = some g) (hrun : s.itemsRun g)
    (hgate : ∀ v p, g.gated v p = false) (hopen : ∀ key po, tfind g.ports key = some po → po.opens = []) (hcross : g.cross = a ++ l)
    (ha : ∀ x ∈ a, x.1 = 0 ∧ x.2.1 < s.plen g ∧ ∀ gs, gs < s.plen g → ¬ (s.leaving g gs ≠ none ∧ s.destAt g gs = .slot x.2.1))
    (hd : (a.map fun x => x.2.1).Nodup) (hl : ∀ x ∈ l, x.1 ≠ 0) :
    let t := s.itemBoundary gk
    (∃ ps, t.group? gk = some { s.movedGroup g ps (s.plen g) with cross := l ++ (List.range (s.plen g)).filterMap (s.crossesFrom g) }) ∧
      (∀ r, r ∉ runOf g.first g.k → t.ring r = s.ring r) ∧
      ((∀ gs, gs < s.plen g → ¬ (s.leaving g gs ≠ none ∧ s.destAt g gs = .wrap)) → t.mem = s.mem) ∧
      ∀ n, n < s.plen g → Reached s g n (reaching ((List.range (s.plen g)).filterMap (s.stepsFrom g) ++ a.map (·.2)) n) t := by
  obtain ⟨⟨⟨ps, hgE, -⟩, hmemE, hlE⟩, hlenE, hringpE, hringE, hallE⟩ := State.endSlots_frame ⟨g.ports, hg, hopen⟩ hgate hrun
  have hmark : ¬ (g.mark.isSome ∧ g.mark.isNone) := by cases g.mark <;> simp
  have hmoves := State.moves_frame hrun hgE hmemE hlenE hringpE hallE
  rw [← hlE] at hmoves
  obtain ⟨⟨s2, g2, ins⟩, hb⟩ : ∃ b, (s.endSlots gk g).2.foldl (State.moveItem (s.plen g)) ((s.endSlots gk g).1, { g with ports := ps }, []) = b :=
    ⟨_, rfl⟩
  rw [hb] at hmoves
  obtain ⟨⟨hgB, hflow, hins, hmemB⟩, hlenB, hringpB, hringB, hallB⟩ := hmoves
  dsimp only at hgB hflow hins hmemB hlenB hringpB hringB hallB
  subst hflow hins
  have harrive : (s.movedGroup g ps (s.plen g)).cross.foldl (arriveItem (s.plen g)) ((List.range (s.plen g)).filterMap (s.stepsFrom g), []) =
      ((List.range (s.plen g)).filterMap (s.stepsFrom g) ++ a.map (·.2), l ++ (List.range (s.plen g)).filterMap (s.crossesFrom g)) := by
    have hlate : ∀ x ∈ l ++ (List.range (s.plen g)).filterMap (s.crossesFrom g), x.1 ≠ 0 := by
      intro x hx
      rcases List.mem_append.mp hx with hx | hx
      · exact hl x hx
      · obtain ⟨gs, -, hgs⟩ := List.mem_filterMap.mp hx
        rw [State.crossesFrom] at hgs
        split at hgs
        · obtain ⟨it, -, rfl⟩ := Option.map_eq_some_iff.mp hgs
          exact Nat.succ_ne_zero 23
        · cases hgs
        · cases hgs
        · cases hgs
    have hfree : ∀ x ∈ a, ∀ y ∈ (List.range (s.plen g)).filterMap (s.stepsFrom g), y.1 ≠ x.2.1 := by
      rintro x hx ⟨n, it⟩ hy rfl
      obtain ⟨gs, hgs, hleave, hdest⟩ := State.mem_stepsFrom.mp hy
      exact (ha x hx).2.2 gs hgs ⟨by rw [hleave]; exact Option.some_ne_none it, hdest⟩
    rw [State.movedGroup, hcross, List.append_assoc, List.foldl_append,
      foldl_arriveItem_over (s.plen g) a _ (fun x hx => ⟨(ha x hx).1, (ha x hx).2.1⟩) hfree hd, foldl_arriveItem_late _ _ hlate, List.nil_append]
  obtain ⟨hgT, hmemT, hringT, hallT⟩ := State.reachSlots_frame (s := s) (gk := gk) (g := g) (ps := ps)
    (c := l ++ (List.range (s.plen g)).filterMap (s.crossesFrom g))
    (st := s2.setGroup gk { s.movedGroup g ps (s.plen g) with cross := l ++ (List.range (s.plen g)).filterMap (s.crossesFrom g) })
    ((List.range (s.plen g)).filterMap (s.stepsFrom g) ++ a.map (·.2)) hgate hlenB hringpB (State.group_setGroup_same ..) hallB
  intro t
  rw [show t = _ from State.itemBoundary_of hg hgE hmark hb harrive]
  exact ⟨⟨ps, hgT⟩, fun r hr => (hringT r hr).trans ((hringB r hr).trans (hringE r hr)), fun hno => hmemT.trans (hmemB hno), hallT⟩

/-- The item that steps to a slot reaches it. -/
theorem State.reaching_step {a : List (Nat × Nat × Item)} {gs n : Nat} {it : Item} (hgs : gs < s.plen g) (hl : s.leaving g gs = some it)
    (hd : s.destAt g gs = .slot n) (ha : ∀ x ∈ a, ∀ gs, gs < s.plen g → ¬ (s.leaving g gs ≠ none ∧ s.destAt g gs = .slot x.2.1)) :
    reaching ((List.range (s.plen g)).filterMap (s.stepsFrom g) ++ a.map (·.2)) n = some it := by
  have hmem : (n, it) ∈ (List.range (s.plen g)).filterMap (s.stepsFrom g) := State.mem_stepsFrom.mpr ⟨gs, hgs, hl, hd⟩
  refine reaching_of_unique (y := (n, it)) (List.mem_append_left _ hmem) ?_
  rintro ⟨m, it'⟩ hz rfl
  rcases List.mem_append.mp hz with hz | hz
  · rw [State.stepsFrom_unique hz hmem]
  · obtain ⟨x, hx, hxe⟩ := List.mem_map.mp hz
    refine absurd ⟨by rw [hl]; exact Option.some_ne_none it, ?_⟩ (ha x hx gs hgs)
    rw [hd, hxe]

/-- The item whose crossing is over reaches its slot. -/
theorem State.reaching_over {a : List (Nat × Nat × Item)} {x : Nat × Nat × Item} (hx : x ∈ a) (hd : (a.map fun x => x.2.1).Nodup)
    (ha : ∀ x ∈ a, ∀ gs, gs < s.plen g → ¬ (s.leaving g gs ≠ none ∧ s.destAt g gs = .slot x.2.1)) :
    reaching ((List.range (s.plen g)).filterMap (s.stepsFrom g) ++ a.map (·.2)) x.2.1 = some x.2.2 := by
  refine reaching_of_unique (y := x.2) (List.mem_append_right _ (List.mem_map_of_mem hx)) ?_
  rintro ⟨m, it⟩ hz hm
  rcases List.mem_append.mp hz with hz | hz
  · obtain ⟨gs, hgs, hl, hdest⟩ := State.mem_stepsFrom.mp hz
    refine absurd ⟨by rw [hl]; exact Option.some_ne_none it, ?_⟩ (ha x hx gs hgs)
    rw [hdest, show m = x.2.1 from hm]
  · obtain ⟨y, hy, hye⟩ := List.mem_map.mp hz
    have hsame : y = x := List.inj_on_of_nodup_map hd hy hx (by rw [hye]; exact hm)
    rw [← hye, hsame]

/-- A slot that nothing steps to and no crossing ends at is reached by no item. -/
theorem State.reaching_empty {a : List (Nat × Nat × Item)} {n : Nat}
    (hno : ∀ gs, gs < s.plen g → ¬ (s.leaving g gs ≠ none ∧ s.destAt g gs = .slot n)) (ha : ∀ x ∈ a, x.2.1 ≠ n) :
    reaching ((List.range (s.plen g)).filterMap (s.stepsFrom g) ++ a.map (·.2)) n = none := by
  refine reaching_none ?_
  rintro ⟨m, it⟩ hz rfl
  rcases List.mem_append.mp hz with hz | hz
  · obtain ⟨gs, hgs, hl, hdest⟩ := State.mem_stepsFrom.mp hz
    exact hno gs hgs ⟨by rw [hl]; exact Option.some_ne_none it, hdest⟩
  · obtain ⟨x, hx, hxe⟩ := List.mem_map.mp hz
    exact ha x hx (by rw [hxe])

/-- The elements of a running slot after the boundary (R61, R64). -/
theorem Reached.elem_running {n p : Nat} {o : Option Item} {t : State} (h : Reached s g n o t) (hitems : s.itemsRun g) (hn : n < s.plen g)
    (hp : p < 32) (hrun : (s.slot g n).st = .run) (hv : (s.slot g n).v ≠ none) :
    let e := s.elem g n p
    let e1 := if (s.leaving g n).isSome then e.afcStep (if (s.slot g n).bank then 1 else 0) else e
    t.elem g n p = { e1 with base := e1.base + 1, pass := (t.elem g n p).pass, lfsr := (t.elem g n p).lfsr } := by
  have he := h.elem p hp
  rw [State.rotated, if_pos ⟨hrun, hv⟩, Slot.rotate, ← State.leaving_isSome hitems hn] at he
  exact he

/-- Settles O50: admission is `State.takeIn`, a boundary `State.itemBoundary_frame`, and `reaching` names the item that each slot takes. -/
theorem itemMoves : Obligations.ItemMoves := by
  unfold Obligations.ItemMoves
  refine ⟨?_, ?_, ?_, State.destOf_eq, ?_⟩
  case refine_1 =>
    intro s gk g hg hempty htime hdrain hhold hag hcairns hpass hclosed hfinal hpre hready
    exact congrArg _ (State.itemAdmission_first hg ⟨hempty, htime, hdrain, hhold, hag⟩ hcairns hpass hclosed hfinal hpre hready)
  case refine_2 =>
    intro s gk g it rest hg hempty htime hdrain hhold hag hcairns hpass hwrap hit hitems
    exact congrArg _ (State.itemAdmission_wrap hg ⟨hempty, htime, hdrain, hhold, hag⟩ hcairns hpass hwrap hit hitems)
  case refine_3 =>
    intro s gk g it v hg hv h0 h1 hsteer hupds
    exact State.takeIn_ungated hg hv h0 h1 hsteer hupds
  case refine_4 =>
    intro s gk g a l hg hrun hgate hopen dest goes lies hcross ha hd hl
    have hfree : ∀ x ∈ a, ∀ gs, gs < s.plen g → ¬ (s.leaving g gs ≠ none ∧ s.destAt g gs = .slot x.2.1) := fun x hx => (ha x hx).2.2
    obtain ⟨⟨ps, hgroup⟩, hring, hmem, hall⟩ := State.itemBoundary_frame hg hrun hgate hopen hcross ha hd hl
    refine ⟨_, _, rfl, hgroup, rfl, rfl, ?_, fun gs n it hgs hleave hdest => ?_, fun x hx => ?_, fun n hn hno hx => ?_,
      fun gs hgs => (hall gs hgs).slot, fun gs p hgs hp hst hv => (hall gs hgs).elem_running hrun hgs hp hst hv, hring,
      fun hno k => congrArg (tget 0 · k) (hmem hno)⟩
    · refine congrArg (l ++ ·) (List.filterMap_congr fun gs _ => ?_)
      show s.crossesFrom g gs = match s.destAt g gs with
        | .cross n => _
        | .gone => none
        | .wrap => none
        | .slot _ => none
      cases hd : s.destAt g gs <;> simp only [State.crossesFrom, hd]
    · have hreach := hall n (State.destAt_slot hgs hdest).2
      rw [State.reaching_step hgs hleave hdest hfree] at hreach
      exact ⟨hreach.item, fun hsw hv => hreach.pass it rfl hsw hv⟩
    · have hreach := hall x.2.1 (ha x hx).2.1
      rw [State.reaching_over hx hd hfree] at hreach
      exact ⟨hreach.item, fun hsw hv => hreach.pass x.2.2 rfl hsw hv⟩
    · have hreach := hall n hn
      rw [State.reaching_empty hno hx] at hreach
      exact Option.map_eq_none_iff.mp hreach.item

end Sys2Proof.Machine
end
